-- ==== Sys2Proof/Word.lean ====
section
/-! DEFINITION. The word types of the Kraex V7 and the fixed numbers of its package (R2, R7, R9, R11). -/
namespace Sys2Proof

/-- A byte of memory (R2). -/
abbrev Byte := BitVec 8
/-- A vector register's width (R95). -/
abbrev Word := BitVec 32
/-- A group register's, an address's and an instruction word's width (R48, R95). -/
abbrev DWord := BitVec 64
/-- A set of lanes of one group, bit l for lane l (R92). -/
abbrev LaneMask := BitVec 32

end Sys2Proof
end

