-- ==== Sys2Proof/Syntax.lean ====
section
/-! DEFINITION. The syntax of the machine's steps: the fields of an instruction word as the formats of spec/03 lay them
out, the operands of the events that an agent or the outside causes, and Instr with one constructor for each row of
spec/opcode_table.json. -/
namespace Sys2Proof

/-- The arithmetic TYPE codes of R63, in code order. -/
inductive Ty where
  | i8 | i16 | i32 | i64 | n8 | n16 | n32 | n64
  | b32 | b64 | f32 | bf16 | f16 | e4m3 | e5m2 | e2m1
  deriving DecidableEq, Repr

/-- The memory TYPE codes of R64, in code order. -/
inductive MTy where
  | n8 | i8 | n16 | i16 | b32 | b64 | b128 | f32 | bf16 | f16 | i32 | i64 | n32 | n64
  deriving DecidableEq, Repr

/-- The rounding modes of R65, in code order. -/
inductive Rm where
  | rne | rz | rdn | rup | rna
  deriving DecidableEq, Repr

/-- The scopes of R66, in code order. -/
inductive Scope where
  | grp | core | quad | dev | sys
  deriving DecidableEq, Repr

/-- The ordering codes of R66, in code order. -/
inductive Ord where
  | relaxed | acq | rel | acqrel
  deriving DecidableEq, Repr

/-- The cache hints of R66, in code order. On RED the third is written `.det` (R219). -/
inductive Hint where
  | none | rep | nt
  deriving DecidableEq, Repr

/-- The base kinds of R56, in code order. -/
inductive Bk where
  | g | gv | vv | v
  deriving DecidableEq, Repr

/-- The result counters of R45. -/
inductive Ctr where
  | ldc | stc | xc | mc
  deriving DecidableEq, Repr

/-- Bits [63:61] and [51:48] of every instruction word (R48): the version (`compat` is 0b01, R49), the switch marker and
the guard. The other two version values are refused by the decoder. -/
structure Ctl where
  compat : Bool
  sw : Bool
  gn : Bool
  gp : BitVec 3
  deriving DecidableEq, Repr

/-- Three-register format (R53). TTBL holds its truth table in bits [7:0], that is in `bg`, `ag` and `opx` (R125). -/
structure RRR where
  ctl : Ctl
  d : BitVec 8
  a : BitVec 8
  b : BitVec 8
  c : BitVec 8
  ty : Ty
  rm : Rm
  sat : Bool
  bg : Bool
  ag : Bool
  opx : BitVec 6
  deriving DecidableEq, Repr

/-- Register-immediate format (R54). -/
structure RI where
  ctl : Ctl
  d : BitVec 8
  a : BitVec 8
  ty : Ty
  rm : Rm
  sat : Bool
  opx : BitVec 4
  imm : BitVec 20
  deriving DecidableEq, Repr

/-- Wide-immediate format (R55). -/
structure WI where
  ctl : Ctl
  d : BitVec 8
  ty : Ty
  imm : BitVec 32
  deriving DecidableEq, Repr

/-- Memory format (R56). -/
structure MF where
  ctl : Ctl
  data : BitVec 8
  base : BitVec 8
  aux : BitVec 8
  bk : Bk
  scope : Scope
  ord : Ord
  ty : MTy
  lax : Bool
  hint : Hint
  disp : BitVec 10
  deriving DecidableEq, Repr

/-- Branch format (R57). -/
structure BF where
  ctl : Ctl
  reg : BitVec 8
  mv : Bool
  msk : BitVec 3
  off : BitVec 32
  deriving DecidableEq, Repr

/-- Engine-command format (R58). -/
structure EF where
  ctl : Ctl
  a : BitVec 8
  b : BitVec 8
  c : BitVec 8
  x : BitVec 8
  imm8 : BitVec 8
  flags : BitVec 8
  deriving DecidableEq, Repr

/-- Where a line may rest (R172, R175). -/
inductive Site where
  | l1 (core : Nat)
  | l2 (quad slice : Nat)
  | near (slice : Nat)
  | home
  deriving DecidableEq, Repr

/-- The page kinds of R159; a quadrant-local page names its owning quadrant (R160). -/
inductive PageKind where
  | shared
  | local (quad : Nat)
  | ms
  deriving DecidableEq, Repr

/-- Who issued an access to memory (R239, R246): a lane of a core, or an engine of its own. -/
inductive Agent where
  | lanes (core : Nat)
  | sysCore (quad : Nat)
  | copy (core : Nat)
  | matrix (core sub : Nat)
  | collective (die : Nat)
  | memSide
  | host (vf : Nat)
  | storage
  deriving DecidableEq, Repr

/-- A lane named logically, as a tentative cell names its issuer (R191, R258). -/
structure LaneName where
  lid : Nat
  block : Nat
  group : Nat
  lane : Nat
  deriving DecidableEq, Repr

/-- A register of one lane and the value that a returning result writes to it. -/
inductive RegWrite where
  | v (lane reg : Nat) (val : Word)
  | p (lane pred : Nat) (val : Bool)
  deriving DecidableEq, Repr

/-- A result on its way to a group (R100): the counter it decrements, the lanes whose access stays open until then (R375),
the registers it writes, and the sequence tags that home returned for the lines it wrote (R165, R245). `id` names the
instruction that issued it. -/
structure Ret where
  id : Nat
  gid : Nat
  ctr : Option Ctr
  lanes : LaneMask
  writes : List RegWrite
  tags : List (Nat × BitVec 16)
  deriving DecidableEq, Repr

/-- A cause found after the access left the core (R375). -/
structure Late where
  gid : Nat
  lane : Nat
  access : Nat
  cause : Nat
  info : DWord
  deriving DecidableEq, Repr

/-- A block of a launch. -/
structure BlockRef where
  lid : Nat
  block : Nat
  deriving DecidableEq, Repr

/-- An arrival held for the next clock (R105): its lane, its join register, and what BAR or ARRIVE writes and waits for. -/
structure HeldArrival where
  blk : BlockRef
  join : Nat
  gid : Nat
  lane : Nat
  token : Option Nat
  waits : Bool
  scope : Scope
  deriving DecidableEq, Repr

/-- One wait of lanes of a group: `id` is unique to the wait. -/
structure WaitRef where
  gid : Nat
  id : Nat
  deriving DecidableEq, Repr

/-- One byte of a store to a line: its place in the line, its value and the lane that wrote it. -/
structure StoreByte where
  off : Nat
  val : Byte
  lane : Nat
  deriving DecidableEq, Repr

/-- One write on its way to the ordering point of its line: the bytes of every lane of one instruction that writes the line
(R14, R245). `line` counts 128-byte lines; `seq` orders one agent's writes (R246); `who` names the group of the lanes that
the bytes name; `split` says that its 8-byte halves may perform apart, and `done` names the half that has performed (R234). `met`
says that it met a pending fill of its line in the L1 (R235). -/
structure WritePkt where
  agent : Agent
  seq : Nat
  who : Option LaneName
  line : Nat
  kind : PageKind
  nt : Bool
  bytes : List StoreByte
  ret : Option Ret
  split : Bool
  done : Option Bool
  met : Bool
  deriving DecidableEq, Repr

/-- How a park notice acts at home: an STN's (R173), whose `.b128` halves may perform apart (R234), one whose named half has
performed, or the end of a move by REPARK or LOCATE (R178). -/
inductive NoteKind where
  | whole | split | second (first : Bool) | moved
  deriving DecidableEq, Repr

/-- An STN on its way to its park site and its notice to home (R173): the reader set, the launch and the bytes stored. -/
structure ParkNote where
  core : Nat
  seq : Nat
  who : Option LaneName
  line : Nat
  kind : PageKind
  readers : BitVec 384
  lid : Nat
  bytes : List StoreByte
  ret : Option Ret
  note : NoteKind
  /-- It met a pending fill of its line in the writer's L1 (R235). -/
  met : Bool
  deriving DecidableEq, Repr

/-- A line written back to home when its pin lifts (R176). -/
structure LineBack where
  line : Nat
  data : BitVec 1024
  deriving DecidableEq, Repr

/-- One lane's word of a reduction: its physical and virtual address and its operand. -/
structure RedWord where
  addr : Nat
  ea : DWord
  val : DWord
  lane : Nat
  deriving DecidableEq, Repr

/-- A reduction that left a curd buffer, or the lanes of one RED that go straight to one line (R168, R220, R256). -/
structure FlushedRed where
  core : Nat
  seq : Nat
  who : Option LaneName
  line : Nat
  kind : PageKind
  op : Nat
  ty : MTy
  det : Bool
  words : List RedWord
  ret : Option Ret
  deriving DecidableEq, Repr

/-- A stage update that waits for its release conditions (R358). -/
structure StageUpdate where
  lid : Nat
  span : Nat
  slot : Nat
  iter : Nat
  count : Nat
  gid : Nat
  id : Nat
  /-- The loop that it belongs to. -/
  uid : Nat
  deriving DecidableEq, Repr

/-- How an access uses a page, with R378's ACCESS codes in order. -/
inductive Access where
  | read | write | atomic | fetch | engineRead | engineWrite
  deriving DecidableEq, Repr

/-- A stopped walk (R374): the parked lanes of a group, or an engine's held operation. -/
structure PageStop where
  gid : Nat
  lanes : LaneMask
  va : DWord
  access : Access
  level : Nat
  malformed : Bool
  agent : Nat
  /-- The park identifier. -/
  park : Nat
  deriving DecidableEq, Repr

/-- A node of a run on a graph slot of a die (R390); `run` is the run's number, the model's own. -/
structure NodeRef where
  die : Nat
  slot : Nat
  node : Nat
  run : Nat
  deriving DecidableEq, Repr

/-- A chunk with the header of R391. -/
structure Chunk where
  chan : Nat
  count : Nat
  ty : Nat
  op : Nat
  k : Nat
  ghash : Word
  epoch : BitVec 16
  payload : List Byte
  deriving DecidableEq, Repr

/-- A peer's one-sided request (R401). -/
structure RemoteReq where
  port : Nat
  put : Bool
  addr : DWord
  len : Nat
  data : List Byte
  tag : Nat
  deriving DecidableEq, Repr

/-- The peer's answer to an RPUT or RGET of this part (R401). -/
structure RemoteDone where
  xfer : Nat
  status : Nat
  data : List Byte
  deriving DecidableEq, Repr

/-- What a training found (R405, R420): the lanes that pass, the peer and the margin. -/
structure Training where
  port : Nat
  lanesOk : BitVec 9
  peerPort : Nat
  peerPart : Word
  margin : Nat
  deriving DecidableEq, Repr

/-- A flit as it comes off a port's decoders (R412): its 256 bytes, and the codewords that end in it and could not be corrected, over all
lanes. -/
structure FlitIn where
  bytes : List Byte
  uncorr : Nat
  deriving DecidableEq, Repr

/-- What a port no longer hears (R414): any signal, or only valid flits. -/
structure Silence where
  port : Nat
  noSignal : Bool
  deriving DecidableEq, Repr

/-- A Neighbour Solicitation (R418): its target, its sender and the sender's link address. -/
structure Solicit where
  target : BitVec 128
  sender : BitVec 128
  senderMac : BitVec 48
  deriving DecidableEq, Repr

/-- A frame at the circuit control port (R417, R418), with what its receiver checks. -/
structure ControlFrame where
  dst : BitVec 48
  fcsGood : Bool
  vlan : Option Nat
  length : Nat
  ipv6Udp : Bool
  /-- The UDP port it is addressed to. -/
  udpPort : Nat
  /-- For a Neighbour Advertisement in place of a datagram: its target, and the link address of the target. -/
  advert : Option (BitVec 128 × BitVec 48)
  extensionOrFragment : Bool
  dstAddr : BitVec 128
  checksumGood : Bool
  payload : List Byte
  deriving DecidableEq, Repr

/-- A write to a control register: the issuing partition, the register's number, its instance and the value (R426). -/
structure CsrWrite where
  part : Nat
  num : Nat
  inst : Nat
  val : DWord
  deriving DecidableEq, Repr

/-- A storage command's completion entry (R437). -/
structure NvmeDone where
  pair : Nat
  entry : List Byte
  deriving DecidableEq, Repr

/-- A DMA request of the NVMe controller (R437). -/
structure StorageReq where
  pair : Nat
  /-- The command it serves, by its command identifier. -/
  cid : Nat
  write : Bool
  va : DWord
  len : Nat
  data : List Byte
  tag : Nat
  /-- A killed fault has ended it (R373): the controller gets an error. -/
  fail : Bool
  deriving DecidableEq, Repr

/-- A request of the host to a function (R434, R435): 0 is the physical function, `num` orders the function's requests, `bar0` says
that it is for BAR0 and not BAR2, `off` is its place in the BAR, and `ide` says that it travels in the function's IDE stream (R436). -/
structure HostReq where
  vf : Nat
  num : Nat
  bar0 : Bool
  off : Nat
  ide : Bool
  deriving DecidableEq, Repr

/-- An SPDM request (R440): its session, 0 outside one, and its body after version and code. In a session it arrives sealed by AES-256-GCM:
the body stands for its ciphertext, and `tag` is the tag it came with. -/
structure SpdmMsg where
  session : Nat
  body : List Byte
  tag : List Byte
  deriving DecidableEq, Repr

/-- The vendor-defined requests of R436 (IDE_KM: a function, one of its two key sets, one of the six parts of a stream), R438 and R446,
a change of configuration or firmware with its two signatures. -/
inductive VendorReq where
  | deliverKey (session vf : Nat) (ticket model : Word) (key : BitVec 256)
  | ideKeyProg (session fn set part : Nat) (key : BitVec 256)
  | ideSetGo (session fn set part : Nat)
  | ideSetStop (session fn set part : Nat)
  | setConfig (off : Nat) (data rsaSig slhSig : List Byte)
  | setFirmware (slotB : Bool) (image rsaSig slhSig : List Byte)
  deriving DecidableEq, Repr

/-- A vendor-defined request; in a session it arrives sealed, with the tag it came with (R440). -/
structure VendorMsg where
  req : VendorReq
  tag : List Byte
  deriving DecidableEq, Repr

/-- An error of a core's SRAM (R443), by what it strikes: a register that a lane reads, the scratchpad or curd-buffer word of a
lane's access, an array that an engine's operation reads, a line of the L1, a flushed curd-buffer word of a line, a TLB entry, a table of a
launch. -/
inductive SramError where
  | corrected
  | register (gid lane : Nat)
  | access (gid lane id : Nat) (ea : DWord)
  | operation (id : Nat)
  | l1Line (line : Nat)
  | flushed (line : Nat)
  | tlb (va : Nat)
  | table (lid : Nat)
  deriving DecidableEq, Repr

/-- What brings a core's spare in (R444): a failed self-test or an error of an SRAM array. -/
inductive CoreFault where
  | selfTest
  | sram (e : SramError)
  deriving DecidableEq, Repr
structure CoreEvent where
  core : Nat
  fault : CoreFault
  deriving DecidableEq, Repr

/-- A unit of memory that shows an error (R443, R444): an HBM row, with the line of the channel that the error lies in, or a frame of an
L2 slice or a cellar slice. -/
inductive RamUnit where
  | row (slice bank row line : Nat)
  | frame (site : Site) (line : Nat)
  deriving DecidableEq, Repr

/-- A unit's error (R268, R443): corrected, or what it takes: a clean copy, data (dirty or parked, in a frame), a park record or cell. -/
inductive RamFault where
  | corrected
  | clean
  | data
  | record
  deriving DecidableEq, Repr

/-- What the power manager reads over a window (R447, R449): the average power, the hottest junction, the droop's bin and the ring's
retries. -/
structure PowerSample where
  watts : Nat
  celsius : Nat
  droop : Nat
  ringRetries : Nat
  deriving DecidableEq, Repr

/-- A line with an uncorrectable error, found at a write-back or in a park record or a tentative cell (R268, R269). -/
structure BadLine where
  line : Nat
  recordOrCell : Bool
  deriving DecidableEq, Repr

/-- Every step of the machine: one constructor for each row of spec/opcode_table.json. -/
inductive Instr where
  /-- R120: Adds two register operands per lane, wrapping or saturating for integers and rounding once for floats. -/
  | add (f : RRR)
  /-- R120: Register-immediate form of ADD, with a sign-extended 20-bit immediate as the second operand. -/
  | addImm (f : RI)
  /-- R120: Subtracts two register operands per lane. -/
  | sub (f : RRR)
  /-- R120: Register-immediate form of SUB. -/
  | subImm (f : RI)
  /-- R120: Multiplies two register operands per lane. -/
  | mul (f : RRR)
  /-- R120: Register-immediate form of MUL. -/
  | mulImm (f : RI)
  /-- R121: Writes the upper half of the exact double-width integer product. -/
  | mulhi (f : RRR)
  /-- R122: Computes a*b+c, exactly then wrapped or saturated for integers and as a fused multiply-add for floats. -/
  | mad (f : RRR)
  /-- R122: Computes a floating-point fused multiply-add with one rounding. -/
  | fma (f : RRR)
  /-- R120: Writes the minimum of two register operands, by signedness or by the special-value rules. -/
  | min (f : RRR)
  /-- R120: Register-immediate form of MIN. -/
  | minImm (f : RI)
  /-- R120: Writes the maximum of two register operands. -/
  | max (f : RRR)
  /-- R120: Register-immediate form of MAX. -/
  | maxImm (f : RI)
  /-- R123: Writes the magnitude of the operand, wrapping or saturating for integers. -/
  | abs (f : RRR)
  /-- R123: Writes the negation of the operand. -/
  | neg (f : RRR)
  /-- R124: Bitwise AND of two register operands. -/
  | and (f : RRR)
  /-- R124: Register-immediate form of AND. -/
  | andImm (f : RI)
  /-- R124: Bitwise OR of two register operands. -/
  | or (f : RRR)
  /-- R124: Register-immediate form of OR. -/
  | orImm (f : RI)
  /-- R124: Bitwise XOR of two register operands. -/
  | xor (f : RRR)
  /-- R124: Register-immediate form of XOR. -/
  | xorImm (f : RI)
  /-- R124: Bitwise complement of the operand. -/
  | not (f : RRR)
  /-- R125: Applies an 8-bit truth table bitwise to three source registers. -/
  | ttbl (f : RRR)
  /-- R126: Shifts left by a register count. -/
  | shl (f : RRR)
  /-- R126: Shifts left by an immediate count from 0 to 63. -/
  | shlImm (f : RI)
  /-- R126: Shifts right by a register count, arithmetically for signed types. -/
  | shr (f : RRR)
  /-- R126: Shifts right by an immediate count. -/
  | shrImm (f : RI)
  /-- R126: Rotates left by a register count modulo the width. -/
  | rot (f : RRR)
  /-- R126: Rotates left by an immediate count. -/
  | rotImm (f : RI)
  /-- R127: Writes the number of set bits of the operand. -/
  | popc (f : RRR)
  /-- R127: Writes the number of leading zeros of the operand. -/
  | clz (f : RRR)
  /-- R127: Reverses the bit order of the operand. -/
  | brev (f : RRR)
  /-- R128: Extracts a bit field given by a register spec, sign- or zero-extended. -/
  | bfe (f : RRR)
  /-- R128: Extracts a bit field given by an immediate spec. -/
  | bfeImm (f : RI)
  /-- R128: Inserts the low bits of one register into a field of another. -/
  | bfi (f : RRR)
  /-- R129: Compares two register operands and writes the result to a predicate. -/
  | setp (f : RRR)
  /-- R129: Compares a register with an immediate and writes a predicate. -/
  | setpImm (f : RI)
  /-- R130: Selects one of two operands by a predicate. -/
  | sel (f : RRR)
  /-- R131: Applies a truth table to two predicates. -/
  | plop (f : RRR)
  /-- R133: Converts a value between any two types of the type table. -/
  | cvt (f : RRR)
  /-- R134: Widens four INT4 or FP6 elements to FP8 bytes. -/
  | cvtx (f : RRR)
  /-- R135: Rounds an FP32 value into one narrow element position of the destination register. -/
  | pack (f : RRR)
  /-- R135: Widens one narrow element of a register to FP32. -/
  | unpack (f : RRR)
  /-- R136: Copies a vector or group register to a vector register or pair. -/
  | mov (f : RRR)
  /-- R137: Loads a 32-bit immediate into a vector register or pair. -/
  | movi (f : WI)
  /-- R138: Reads a special register into a vector register. -/
  | movs (f : RI)
  /-- R136: Writes a group register once for the group, from the lowest lane that takes part. -/
  | movg (f : RRR)
  /-- R140: Exchanges register values between lanes of a segment by at, rot, step or flip mode. -/
  | lxch (f : RRR)
  /-- R141: Aggregates a predicate across the lanes that take part. -/
  | pagg (f : RRR)
  /-- R141: Writes the lane mask, or its population count, of a predicate. -/
  | pmask (f : RRR)
  /-- R142: Reduces a register across the lanes that take part in ascending lane order. -/
  | xred (f : RRR)
  /-- R143: Exchanges register values within a quad and sets the helper mask. -/
  | qx (f : RRR)
  /-- R144: Computes the correctly rounded reciprocal. -/
  | rcp (f : RRR)
  /-- R144: Computes the correctly rounded reciprocal square root. -/
  | rsq (f : RRR)
  /-- R144: Computes the correctly rounded square root. -/
  | sqrt (f : RRR)
  /-- R144: Computes the correctly rounded base-2 exponential. -/
  | exp2 (f : RRR)
  /-- R144: Computes the correctly rounded base-2 logarithm. -/
  | log2 (f : RRR)
  /-- R144: Computes the correctly rounded sine of radians. -/
  | sin (f : RRR)
  /-- R144: Computes the correctly rounded cosine of radians. -/
  | cos (f : RRR)
  /-- R144: Computes the correctly rounded hyperbolic tangent. -/
  | tanh (f : RRR)
  /-- R144: Computes the correctly rounded quotient. -/
  | div (f : RRR)
  /-- R147: Branches the lanes that take part to a relative clause header, optionally leaving a convergence mask. -/
  | bra (f : BF)
  /-- R147: Branches each lane to the 64-bit target in its register pair. -/
  | brx (f : BF)
  /-- R148: Pushes a call frame and goes to a relative target, or traps on call overflow. -/
  | call (f : BF)
  /-- R148: Pushes a call frame and goes to each lane's register target. -/
  | callx (f : BF)
  /-- R148: Pops the top frame and resumes at its address, or returns from a trap handler. -/
  | ret (f : BF)
  /-- R149: Ends the lanes that take part once their open accesses have closed. -/
  | exit (f : BF)
  /-- R150: Parks the lanes that take part for n clocks. -/
  | yield (f : EF)
  /-- R151: Raises the lane-handled software-trap cause with a code. -/
  | trap (f : EF)
  /-- R151: Raises the lane-handled breakpoint cause with a code. -/
  | bkpt (f : EF)
  /-- R153: Records the issuing lanes and a reconvergence address in a convergence mask. -/
  | mset (f : EF)
  /-- R153: Parks the lanes of a mask at the reconvergence address until every lane of the mask has arrived or exited. -/
  | reconv (f : EF)
  /-- R156: Arrives at a barrier join register and waits, or waits on a token without arriving. -/
  | bar (f : EF)
  /-- R156: Arrives at a barrier join register and returns its token without waiting. -/
  | arrive (f : EF)
  /-- R157: Sets a join register's expected count and mode, or traps when it is busy. -/
  | jset (f : EF)
  /-- R157: Reads a join register's token or counts. -/
  | jread (f : EF)
  /-- R202: Loads from global memory per lane, served at the level the scope and any park record admit. -/
  | ld (f : MF)
  /-- R202: Stores to global memory per lane along the store path. -/
  | st (f : MF)
  /-- R204: Loads from the block's scratchpad. -/
  | lds (f : MF)
  /-- R204: Stores to the block's scratchpad. -/
  | sts (f : MF)
  /-- R204: Loads from the scratchpad of a selected block of the span. -/
  | ldss (f : MF)
  /-- R204: Stores to the scratchpad of a selected block of the span. -/
  | stss (f : MF)
  /-- R206: Stores and parks the line at the level nearest its named readers. -/
  | stn (f : MF)
  /-- R208: Replaces or widens the reader set of a parked line and moves it. -/
  | repark (f : MF)
  /-- R209: Adds the issuing core to a parked line's reader set. -/
  | locate (f : MF)
  /-- R210: Reads home's park record for a line without changing it. -/
  | parkq (f : MF)
  /-- R211: Loads bytes of the launch's reader-set table. -/
  | rstld (f : MF)
  /-- R213: Waits for a scratchpad granule to be full, reads it and optionally empties it. -/
  | ldfe (f : MF)
  /-- R213: Writes scratchpad bytes and sets the granule full. -/
  | stfe (f : MF)
  /-- R213: Sets a run of full-empty bits full or empty. -/
  | feset (f : MF)
  /-- R215: Makes a tentative store that takes a tentative cell at home. -/
  | tst (f : MF)
  /-- R215: Restores a tentative cell's former value if unobserved, else commits it. -/
  | retract (f : MF)
  /-- R215: Commits the issuing lane's tentative cell. -/
  | commit (f : MF)
  /-- R218: Performs a value-returning atomic operation on global memory. -/
  | atom (f : MF)
  /-- R218: Performs an atomic compare-and-swap on global memory. -/
  | atomc (f : MF)
  /-- R218: Performs a value-returning atomic on scratchpad. -/
  | atoms (f : MF)
  /-- R220: Issues a non-returning reduction that rests in the curd buffer or goes to home. -/
  | red (f : MF)
  /-- R222: Orders the lane's accesses as a release, acquire or both, optionally including bank vector commands. -/
  | fence (f : MF)
  /-- R225: Arms up to four condition watchers and parks until any or all hold or the time-out passes. -/
  | waitc (f : EF)
  /-- R227: Flushes, writes back and recalls the lines of a range in the partition's caches. -/
  | clean (f : EF)
  /-- R227: Cleans a range and then drops every cached copy of it. -/
  | inval (f : EF)
  /-- R228: Prefetches a line toward a cache level, changing timing only. -/
  | pref (f : MF)
  /-- R262: Checks and sends an element-wise bank vector command to the bank vector units. -/
  | mvec (f : EF)
  /-- R265: Parks until a bank vector command tag completes, then acquires and writes its status. -/
  | mvwait (f : EF)
  /-- R287: Signs a matrix join register for a matrix multiply-accumulate, opening a phase with its checks when none is open. -/
  | mma (f : EF)
  /-- R296: Zeroes an accumulator slot and sets its kind, binding the handle if needed. -/
  | accz (f : EF)
  /-- R296: Writes eight rows of an accumulator slot from a register image. -/
  | accld (f : EF)
  /-- R299: Converts a slab of an accumulator and writes it to registers of every lane. -/
  | accmv (f : EF)
  /-- R301: Converts an accumulator tile and stores it through a tensor identifier. -/
  | accst (f : EF)
  /-- R285: Unbinds an accumulator handle, freeing its slot after its operations complete. -/
  | accrel (f : EF)
  /-- R303: Reserves a tile-queue slot and pushes a converted accumulator tile into it. -/
  | mmq (f : EF)
  /-- R290: Holds the lane until its scratchpad writes and acquires are visible to operand fetch. -/
  | opfence (f : EF)
  /-- R292: Parks the lane until matrix operations on a handle have read operands or completed. -/
  | mwait (f : EF)
  /-- R278: Loads a 64-byte tensor identifier entry for the whole launch. -/
  | tidld (f : EF)
  /-- R278: Invalidates a tensor identifier entry for the whole launch. -/
  | tidinv (f : EF)
  /-- R312: Queues a copy of a tensor box between global memory and scratchpad. -/
  | cpy (f : EF)
  /-- R313: Queues a per-lane gather of granules from global memory into scratchpad. -/
  | cpyg (f : EF)
  /-- R313: Queues a per-lane scatter of granules from scratchpad to global memory. -/
  | cpys (f : EF)
  /-- R316: Parks until a completion counter falls to a threshold, then acquires and writes its status. -/
  | cpywait (f : EF)
  /-- R315: Queues an AES-256-GCM decrypting copy of a record into scratchpad. -/
  | cpydec (f : EF)
  /-- R319: Binds a stream register to a scratchpad ring. -/
  | strmb (f : EF)
  /-- R319: Unbinds one or all stream registers. -/
  | strmu (f : EF)
  /-- R321: Reads a bound ring's element count or free space. -/
  | strmq (f : EF)
  /-- R328: Releases and submits a launch record to a distributor, returning its identifier or rejection code. -/
  | launch (f : EF)
  /-- R328: Parks until a named launch ends and returns its status. -/
  | lwait (f : EF)
  /-- R345: Pushes a task record onto a task queue and reports whether it fitted. -/
  | tspawn (f : EF)
  /-- R345: Decrements a successor line at home, possibly enqueueing its task. -/
  | tsignal (f : EF)
  /-- R345: Ends the lane's current task. -/
  | tdone (f : EF)
  /-- R354: Opens or joins a staged loop in a loop slot and returns a status. -/
  | stloop (f : EF)
  /-- R358: Advances or jumps the held iteration's stage counter as a release. -/
  | stage (f : EF)
  /-- R360: Parks until the predecessor iteration's counter exceeds a value. -/
  | waitl (f : EF)
  /-- R356: Ends the held iteration and takes the next, or leaves the loop. -/
  | stend (f : EF)
  /-- R387: Reads and validates a collective graph into a graph slot. -/
  | colload (f : EF)
  /-- R389: Checks domain and generation and starts a run of a loaded graph with new bases. -/
  | colrun (f : EF)
  /-- R399: Parks until a collective run ends, then acquires and writes its status. -/
  | colwait (f : EF)
  /-- R399: Reads a slot's status word or a domain's generation. -/
  | colq (f : EF)
  /-- R401: Starts a one-sided remote write over an optical port. -/
  | rput (f : EF)
  /-- R401: Starts a one-sided remote read over an optical port. -/
  | rget (f : EF)
  /-- R416: Opens a reconfiguration window on a domain, drains, requests cross-connects, and advances the generation. -/
  | recirc (f : EF)
  /-- R427: Reads a control register instance into a register pair. -/
  | csrr (f : EF)
  /-- R427: Releases at .sys and writes a control register instance field by field. -/
  | csrw (f : EF)
  /-- R428: Leaves event mode and continues at SYS_EPC. -/
  | eret (f : EF)
  /-- R428: Parks the system core until an enabled event is pending. -/
  | halt (f : EF)
  /-- R429: Saves and holds every placed block of a launch, or releases a held launch. -/
  | preempt (f : EF)
  /-- R439: Takes a delivered key into a key slot by ticket, or empties the slot. -/
  | keyld (f : EF)
  /-- R373: Drops TLB entries of a range, space or partition in every agent of the partition. -/
  | tlbinv (f : EF)
  /-- R373: Completes when earlier TLBINVs and accesses through dropped entries have performed. -/
  | tlbsync (f : EF)
  /-- R373: Walks and locks the translations of a region on every core of the block. -/
  | tlblock (f : EF)
  /-- R373: Removes one or all locked regions of the block. -/
  | tlbunlk (f : EF)
  /-- R373: Walks up to 64 pages of a range into unlocked TLB entries without faulting. -/
  | tlbpre (f : EF)
  /-- R373: Makes a parked sub-group ready for replay, or ends its launch. -/
  | resume (f : EF)
  /-- R100: A variable-latency result or acknowledgement returns, is written and decrements its result counter. -/
  | resultReturn (r : Ret)
  /-- R375: A locate, data-error or gate cause reported for an open access withdraws later instructions and traps the lane. -/
  | lateCause (l : Late)
  /-- R105: An arrival held because it would complete a second phase in one clock is applied at the start of the next clock. -/
  | heldArrival (a : HeldArrival)
  /-- R109: The barrier time-out expires, trapping the waiting lanes and writing a diagnostic record. -/
  | barrierTimeOut (w : WaitRef)
  /-- R150: A yield's park count runs out and its lanes resume. -/
  | yieldExpiry (w : WaitRef)
  /-- R165: A write arrives at its home slice, is applied and stamped with the next sequence tag. -/
  | homeWriteAccept (w : WritePkt)
  /-- R173: A park notice arrives at home, which records the park or declines it. -/
  | parkNotice (n : ParkNote)
  /-- R176: A returning parked line's write-back lands at home and home deletes the record. -/
  | parkWriteBackLand (b : LineBack)
  /-- R220: A reduction arriving at home is applied by the home atomic unit. -/
  | flushedReductionApply (r : FlushedRed)
  /-- R225: An armed watcher reports a change and the waiting conditions are evaluated again. -/
  | watcherReport (w : WaitRef)
  /-- R225: A watcher without a monitor reads its word every 256 reference ticks. -/
  | monitorPoll (w : WaitRef)
  /-- R225: A WAITC time-out expires and the lanes resume with the time-out status bit. -/
  | waitcTimeOut (w : WaitRef)
  /-- R263: A bank vector unit performs one granule step of an accepted MVEC on its channel. -/
  | granuleStep (cmd step : Nat)
  /-- R272: The matrix engine starts the next ready operation when its occupancy frees. -/
  | matrixOpStart (op : Nat)
  /-- R294: A matrix operation finishes writing its results and MC falls. -/
  | matrixOpComplete (op : Nat)
  /-- R292: A lane waiting on an open signing phase times out and traps. -/
  | matrixSignTimeOut (w : WaitRef)
  /-- R307: A queued copy command completes and its completion counter falls. -/
  | copyCommandComplete (cmd : Nat)
  /-- R320: Lanes parked for a stream pop proceed when enough elements are in the ring. -/
  | streamPopResume (w : WaitRef)
  /-- R320: Lanes parked for a stream push proceed when the ring has room. -/
  | streamPushResume (w : WaitRef)
  /-- R333: A block ends and its resources return to the core. -/
  | blockRetire (b : BlockRef)
  /-- R338: A victim block is saved to the save pool once its counters drain. -/
  | blockSave (b : BlockRef)
  /-- R365: A saved block is restored, stage state rebuilt and waits re-evaluated. -/
  | blockRestore (b : BlockRef)
  /-- R329: A launch ends, flushing, lifting pins, committing cells, writing STATUS and releasing waiters. -/
  | launchEnd (lid : Nat)
  /-- R341: A task-serving group pops a task record and starts the task. -/
  | taskPop (gid : Nat)
  /-- R341: A task completes, settles its state and optionally auto-signals its successor. -/
  | taskComplete (gid : Nat)
  /-- R349: A waiting iteration request is served when the window advances. -/
  | iterationHandout (w : WaitRef)
  /-- R358: A stage update becomes visible once its release conditions are met, releasing waiters. -/
  | stageUpdateVisible (u : StageUpdate)
  /-- R360: A WAITL wait times out and traps with a diagnostic record. -/
  | stageWaitTimeOut (w : WaitRef)
  /-- R374: A translation walk stops, parking the sub-group and writing a page-fault record. -/
  | pageFault (f : PageStop)
  /-- R390: A ready collective graph node starts, with its generation and receive checks. -/
  | nodeStart (n : NodeRef)
  /-- R390: A graph node completes and decrements its successors, possibly ending the run. -/
  | nodeComplete (n : NodeRef)
  /-- R392: An arriving chunk is matched to a receive node, held in staging or discarded. -/
  | chunkArrival (port : Nat) (c : Chunk)
  /-- R401: A peer receives an RPUT or RGET request, checks the remote pages and writes or reads. -/
  | remoteRequest (r : RemoteReq)
  /-- R401: An RPUT or RGET completes and its status is written. -/
  | remoteTransferComplete (d : RemoteDone)
  /-- R413: A flit arrives and is accepted or answered with a NAK. -/
  | flitReceive (port : Nat) (f : FlitIn)
  /-- R414: A link leaves UP, aborting its operations in flight. -/
  | linkDown (port : Nat)
  /-- R414: No valid flit for 100 ticks makes the port notice its peer left UP. -/
  | peerSilence (x : Silence)
  /-- R414: Training completes, spares lanes and brings the link UP. -/
  | linkTrained (t : Training)
  /-- R416: The drain time-out ends operations still in flight with abort status. -/
  | drainTimeOut (dom win : Nat)
  /-- R416: RTO expires, closing the window with status 2. -/
  | reconfigurationTimeOut (dom win : Nat)
  /-- R416: The circuit request frame is resent every 100,000 ticks until a reply. -/
  | requestResend (dom win : Nat)
  /-- R419: A reply from the switch controller is accepted, restarts the interval, or is ignored. -/
  | controllerReply (payload : List Byte)
  /-- R418: The control port answers a Neighbour Solicitation for its address. -/
  | neighbourSolicitation (n : Solicit)
  /-- R417: A frame arrives on the circuit control port and is dropped or passed up. -/
  | controlFrameReceive (f : ControlFrame)
  /-- R326: A write to SYS_MBOX TAIL makes the distributor take ring entries. -/
  | mailboxDoorbell (r : HostReq) (tail : Word)
  /-- R407: A write to OPT_PORTCFG changes EN, aborting or starting training. -/
  | optPortcfgWrite (w : CsrWrite)
  /-- R406: A write to OPT_DOMCTL enables a domain or is refused from another partition. -/
  | optDomctlWrite (w : CsrWrite)
  /-- R432: A write of 1 to LND_GATE LOCK locks the quadrant's bridge gate. -/
  | lndGateLock (w : CsrWrite)
  /-- R426: A write of 1 to SYS_HOSTIRQ sends the partition's MSI-X vector. -/
  | sysHostirq (w : CsrWrite)
  /-- R437: A storage tail doorbell write makes the port read and check new submission entries. -/
  | sysNvdb (w : CsrWrite)
  /-- R3: A write to a control register with no row of its own, by field access codes. -/
  | registerWrite (w : CsrWrite)
  /-- R425: A system core enters event mode at a clause boundary when an enabled event is pending. -/
  | eventModeEntry (quad : Nat)
  /-- R435: A host write through BAR2 performs at home in posted order. -/
  | hostWrite (r : HostReq) (data : List Byte)
  /-- R435: A host read through BAR2 is served at home after earlier host writes. -/
  | hostRead (r : HostReq) (n tag : Nat)
  /-- R434: FLR of a VF ends its host traffic and returns its TDI to CONFIG_UNLOCKED. -/
  | functionLevelReset (vf : Nat)
  /-- R436: A TDISP LOCK_INTERFACE locks the TDI if gates and key are in place. -/
  | lockInterface (vf : Nat)
  /-- R437: A storage command completes and its completion entry is written as a release. -/
  | nvmeCompletion (c : NvmeDone)
  /-- R440: The SPDM responder answers GET_VERSION. -/
  | getVersion (m : SpdmMsg)
  /-- R440: The SPDM responder answers GET_CAPABILITIES. -/
  | getCapabilities (m : SpdmMsg)
  /-- R440: The SPDM responder answers NEGOTIATE_ALGORITHMS. -/
  | negotiateAlgorithms (m : SpdmMsg)
  /-- R440: The SPDM responder answers GET_DIGESTS. -/
  | getDigests (m : SpdmMsg)
  /-- R440: The SPDM responder answers GET_CERTIFICATE. -/
  | getCertificate (m : SpdmMsg)
  /-- R440: The SPDM responder answers CHALLENGE with a dual signature. -/
  | challenge (m : SpdmMsg)
  /-- R440: The SPDM responder returns measurement blocks with the SLH-DSA signature. -/
  | getMeasurements (m : SpdmMsg)
  /-- R440: The SPDM responder performs KEY_EXCHANGE to open a session. -/
  | keyExchange (m : SpdmMsg)
  /-- R440: The SPDM responder completes session setup on FINISH. -/
  | finish (m : SpdmMsg)
  /-- R440: The SPDM responder answers HEARTBEAT. -/
  | heartbeat (m : SpdmMsg)
  /-- R440: The SPDM responder updates session keys. -/
  | keyUpdate (m : SpdmMsg)
  /-- R440: The SPDM responder ends a session. -/
  | endSession (m : SpdmMsg)
  /-- R438: A vendor-defined SPDM request delivers a weight key or a signed configuration or firmware change. -/
  | vendorDefinedRequest (m : VendorMsg)
  /-- R448: The package reset verifies firmware, tests, trains, configures and resets each partition. -/
  | packageReset
  /-- R448: A partition reset ends launches, clears state, draws a new XTS key and recomputes geometry. -/
  | partitionReset (part : Nat)
  /-- R447: Each hour of power-on time the lifetime counters are written to the older snapshot. -/
  | snapshot
  /-- R449: Each 1 ms window the power manager steps the clock to hold average power. -/
  | powerWindow (p : PowerSample)
  /-- R449: The hottest junction crosses a threshold and the thermal state changes. -/
  | thermalStateChange (part celsius : Nat)
  /-- R444: A failing core is replaced by the spare or mapped out with a replace request. -/
  | coreSpare (e : CoreEvent)
  /-- R444: A failing HBM row is replaced by a spare row. -/
  | rowSpare (u : RamUnit) (f : RamFault)
  /-- R268: An uncorrectable error on a cellar write-back ends the partition's launches. -/
  | writeBackError (e : BadLine)
  /-- R309: A line read by a queued copy command arrives and the engine writes its bytes, turning each written scratchpad granule full as its last byte lands. -/
  | copyLineArrival (cmd piece : Nat)
  /-- R292: A started matrix operation finishes reading its register operands, closing the operand window of R289 and releasing lanes parked in MWAIT .op. -/
  | operandFetchEnd (op : Nat)
  /-- R436: A TDISP START_INTERFACE_REQUEST moves a locked TDI into RUN, after which BAR2 accepts requests. -/
  | startInterfaceRequest (vf : Nat)
  /-- R441: In quiet mode, each 100-tick slot boundary passes the host link and the storage port to the next enabled VF in turn. -/
  | quietModeSlot
  /-- R437: A DMA request from the NVMe controller to a PRP address is translated by the storage TLB and read or written in partition memory as a .sys agent. -/
  | storageDma (d : StorageReq)
  deriving DecidableEq, Repr

end Sys2Proof
end

