-- ==== Sys2Proof/WellFormed.lean ====
section
/-! DEFINITION. Which field values an instruction word may hold: R52 and R59 with each entry's own table. A word that fails
its check raises the illegal-encoding fault; the decoder refuses it. -/
namespace Sys2Proof

/-- INT of R117. -/
def Ty.isInt : Ty → Bool
  | .i8 | .i16 | .i32 | .i64 | .n8 | .n16 | .n32 | .n64 => true
  | .b32 | .b64 | .f32 | .bf16 | .f16 | .e4m3 | .e5m2 | .e2m1 => false

/-- BIT of R117. -/
def Ty.isBit (t : Ty) : Bool := t == .b32 || t == .b64

/-- FLT of R117. -/
def Ty.isFlt (t : Ty) : Bool := t == .f32 || t == .bf16 || t == .f16

/-- NARROWF of R117. -/
def Ty.isNarrowF (t : Ty) : Bool := t == .bf16 || t == .f16 || t == .e4m3 || t == .e5m2 || t == .e2m1

/-- The floating-point formats among the types of R63. -/
def Ty.isFloat (t : Ty) : Bool := t == .f32 || t.isNarrowF

/-- A type whose operand is an even pair of v registers (R115). -/
def Ty.is64 (t : Ty) : Bool := t == .i64 || t == .n64 || t == .b64

/-- WIDE of R117. -/
def Ty.isWide (t : Ty) : Bool := t == .i32 || t == .n32 || t == .b32 || t.is64

/-- Signed integer types (R74). -/
def Ty.signed (t : Ty) : Bool := t == .i8 || t == .i16 || t == .i32 || t == .i64

/-- The width w of a type in bits (R115). -/
def Ty.width : Ty → Nat
  | .i8 | .n8 | .e4m3 | .e5m2 => 8
  | .i16 | .n16 | .bf16 | .f16 => 16
  | .i32 | .n32 | .b32 | .f32 => 32
  | .i64 | .n64 | .b64 => 64
  | .e2m1 => 4

/-- Type codes in the order of R63. -/
def Ty.ofCode : Nat → Ty
  | 0 => .i8 | 1 => .i16 | 2 => .i32 | 3 => .i64 | 4 => .n8 | 5 => .n16 | 6 => .n32 | 7 => .n64
  | 8 => .b32 | 9 => .b64 | 10 => .f32 | 11 => .bf16 | 12 => .f16 | 13 => .e4m3 | 14 => .e5m2 | _ => .e2m1

/-- The width of a memory access in bytes (R64). -/
def MTy.bytes : MTy → Nat
  | .n8 | .i8 => 1
  | .n16 | .i16 | .bf16 | .f16 => 2
  | .b32 | .f32 | .i32 | .n32 => 4
  | .b64 | .i64 | .n64 => 8
  | .b128 => 16

/-- The v operand of a 64-bit type is an even register (R52). -/
def vOk (is64 : Bool) (r : BitVec 8) : Bool := !is64 || r.toNat % 2 == 0

/-- A g register field holds 0 to 63 (R52). -/
def gOk (r : BitVec 8) : Bool := decide (r.toNat < 64)

/-- A v or g source of R115: `isG` is AG or BG. -/
def srcOk (isG is64 : Bool) (r : BitVec 8) : Bool := if isG then gOk r else vOk is64 r

/-- A predicate destination (R52). -/
def pdOk (r : BitVec 8) : Bool := decide (r.toNat < 8)
/-- A predicate source, negated from 8 (R52). -/
def psOk (r : BitVec 8) : Bool := decide (r.toNat < 16)

/-- The memory data register by TYPE (R52, R197). -/
def dataOk (t : MTy) (r : BitVec 8) : Bool :=
  match t with
  | .b128 => r.toNat % 4 == 0
  | .b64 | .i64 | .n64 => r.toNat % 2 == 0
  | .n8 | .i8 | .n16 | .i16 | .b32 | .f32 | .bf16 | .f16 | .i32 | .n32 => true

/-- The base register by BK (R56, R195). -/
def baseOk (f : MF) : Bool :=
  match f.bk with
  | .g | .gv => gOk f.base
  | .vv => vOk true f.base
  | .v => true

def Scope.upToQuad (s : Scope) : Bool := s == .grp || s == .core || s == .quad

/-- A SCOPE code in an SC field of three bits: 0 to 4 (R66). -/
def scOk (b : BitVec 3) : Bool := decide (b.toNat ≤ 4)

/-- Field SC of an E-format word at FLAGS[3:1]. -/
def EF.sc (f : EF) : BitVec 3 := f.flags.extractLsb' 1 3

namespace WF

/-- No rounding and no `.sat`. -/
def plain (f : RRR) : Bool := f.rm == .rne && !f.sat

/-- ADD, SUB, MUL (R119). -/
def arith (f : RRR) : Bool :=
  (f.ty.isFlt || (f.ty.isInt && f.rm == .rne)) && f.c == 0 && f.opx == 0
    && vOk f.ty.is64 f.d && srcOk f.ag f.ty.is64 f.a && srcOk f.bg f.ty.is64 f.b

/-- MIN, MAX (R119). -/
def minmax (f : RRR) : Bool := arith f && plain f

/-- MULHI (R121). -/
def mulhi (f : RRR) : Bool := arith f && plain f && f.ty.isInt

/-- MAD (R122). -/
def mad (f : RRR) : Bool :=
  (f.ty.isFlt || (f.ty.isInt && f.rm == .rne)) && f.opx == 0 && vOk f.ty.is64 f.c
    && vOk f.ty.is64 f.d && srcOk f.ag f.ty.is64 f.a && srcOk f.bg f.ty.is64 f.b

/-- FMA (R122). -/
def fma (f : RRR) : Bool := mad f && f.ty.isFlt

/-- One source A, with B and BG zero. -/
def unary (f : RRR) : Bool := f.b == 0 && !f.bg && f.c == 0 && f.opx == 0

/-- ABS, NEG (R123). -/
def absneg (f : RRR) : Bool :=
  unary f && f.rm == .rne && (f.ty.isInt || (f.ty.isFlt && !f.sat)) && vOk f.ty.is64 f.d && srcOk f.ag f.ty.is64 f.a

/-- AND, OR, XOR (R124). -/
def logic (f : RRR) : Bool :=
  f.ty.isBit && plain f && f.c == 0 && f.opx == 0 && vOk f.ty.is64 f.d && srcOk f.ag f.ty.is64 f.a && srcOk f.bg f.ty.is64 f.b

/-- NOT (R124), MOV (R136), BREV (R127). -/
def bitUnary (f : RRR) : Bool := f.ty.isBit && plain f && unary f && vOk f.ty.is64 f.d && srcOk f.ag f.ty.is64 f.a

/-- TTBL (R125): A, B and C are v registers; bits [7:0] hold the table. -/
def ttbl (f : RRR) : Bool :=
  f.ty.isBit && plain f && vOk f.ty.is64 f.d && vOk f.ty.is64 f.a && vOk f.ty.is64 f.b && vOk f.ty.is64 f.c

/-- SHL, SHR, ROT (R126): B is a 32-bit count for every type. DEDUCED from "B's 32-bit lane value" (log entry 11). -/
def shift (f : RRR) : Bool :=
  f.ty.isWide && plain f && f.c == 0 && f.opx == 0 && vOk f.ty.is64 f.d && srcOk f.ag f.ty.is64 f.a && srcOk f.bg false f.b

/-- POPC, CLZ (R127): D is one v register. -/
def count (f : RRR) : Bool := f.ty.isBit && plain f && unary f && srcOk f.ag f.ty.is64 f.a

/-- BFE (R128): B is a 32-bit field spec for every type (log entry 11). -/
def bfe (f : RRR) : Bool := shift f

/-- BFI (R128). -/
def bfi (f : RRR) : Bool :=
  f.ty.isBit && plain f && f.opx == 0 && vOk f.ty.is64 f.d && srcOk f.ag f.ty.is64 f.a && srcOk f.bg false f.b && vOk f.ty.is64 f.c

/-- SETP (R129). -/
def setp (f : RRR) : Bool :=
  pdOk f.d && plain f && f.c == 0 && (f.ty.isInt && decide (f.opx.toNat < 6) || f.ty.isFlt && decide (f.opx.toNat < 8))
    && srcOk f.ag f.ty.is64 f.a && srcOk f.bg f.ty.is64 f.b

/-- SEL (R130). -/
def sel (f : RRR) : Bool :=
  f.ty.isBit && plain f && f.opx == 0 && psOk f.c && vOk f.ty.is64 f.d && srcOk f.ag f.ty.is64 f.a && srcOk f.bg f.ty.is64 f.b

/-- TYPE, RM, SAT, BG, AG and C zero (R131, R141). -/
def predOnly (f : RRR) : Bool := f.ty == .i8 && plain f && !f.bg && !f.ag && f.c == 0

/-- PLOP (R131). -/
def plop (f : RRR) : Bool := predOnly f && pdOk f.d && psOk f.a && psOk f.b && decide (f.opx.toNat < 16)

/-- CVT (R132): TYPE is the destination type, OPX[3:0] the source type. -/
def cvt (f : RRR) : Bool :=
  f.b == 0 && f.c == 0 && !f.bg && decide (f.opx.toNat < 16)
    && vOk f.ty.is64 f.d && srcOk f.ag (Ty.ofCode f.opx.toNat).is64 f.a

/-- CVTX (R134). -/
def cvtx (f : RRR) : Bool :=
  (f.ty == .e4m3 || f.ty == .e5m2) && decide (f.opx.toNat < 3) && f.b == 0 && f.c == 0 && !f.sat && !f.bg && srcOk f.ag false f.a

/-- The element positions of PACK and UNPACK (R135). -/
def elems (t : Ty) : Nat := if t == .e2m1 then 8 else if t == .e4m3 || t == .e5m2 then 4 else 2

/-- PACK (R135). -/
def pack (f : RRR) : Bool :=
  f.ty.isNarrowF && decide (f.opx.toNat < elems f.ty) && f.b == 0 && f.c == 0 && !f.bg && srcOk f.ag false f.a

/-- UNPACK (R135). -/
def unpack (f : RRR) : Bool := pack f && plain f

/-- MOVG (R136). -/
def movg (f : RRR) : Bool :=
  gOk f.d && (f.ty == .b32 || f.ty == .i32 || f.ty == .b64) && plain f && unary f && srcOk f.ag f.ty.is64 f.a

/-- LXCH (R140). OPX[5] is IM, OPX[4:2] the segment exponent, OPX[1:0] the mode. -/
def lxch (f : RRR) : Bool :=
  f.ty.isBit && plain f && vOk f.ty.is64 f.d && srcOk f.ag f.ty.is64 f.a
    && (if f.opx.getLsbD 5 then f.b == 0 && !f.bg else f.c == 0 && srcOk f.bg false f.b)
    && decide (1 ≤ (f.opx.extractLsb' 2 3).toNat ∧ (f.opx.extractLsb' 2 3).toNat ≤ 5)

/-- PAGG (R141). -/
def pagg (f : RRR) : Bool := predOnly f && f.b == 0 && pdOk f.d && psOk f.a && decide (f.opx.toNat < 4)

/-- PMASK (R141). -/
def pmask (f : RRR) : Bool := predOnly f && f.b == 0 && psOk f.a && decide (f.opx.toNat < 2)

/-- XRED (R142). -/
def xred (f : RRR) : Bool :=
  f.b == 0 && f.c == 0 && !f.bg && !f.sat && srcOk f.ag false f.a
    && (if f.opx.toNat < 3 then (f.ty == .i32 || f.ty == .n32 || f.ty == .f32) else decide (f.opx.toNat < 6) && f.ty == .b32)
    && (f.rm == .rne || (f.opx == 0 && f.ty == .f32))

/-- QX (R143). -/
def qx (f : RRR) : Bool :=
  f.ty.isBit && plain f && f.b == 0 && f.c == 0 && !f.bg && vOk f.ty.is64 f.d && srcOk f.ag f.ty.is64 f.a
    && decide (1 ≤ f.opx.toNat ∧ f.opx.toNat < 8)

/-- RCP to TANH (R144). -/
def special (f : RRR) : Bool := f.ty.isFlt && unary f && srcOk f.ag false f.a

/-- DIV (R144). -/
def div (f : RRR) : Bool := f.ty.isFlt && f.c == 0 && f.opx == 0 && srcOk f.ag false f.a && srcOk f.bg false f.b

/-- RI forms of ADD, SUB and MUL (R116, R119). -/
def riArith (f : RI) : Bool := f.ty.isInt && f.rm == .rne && f.opx == 0 && vOk f.ty.is64 f.d && vOk f.ty.is64 f.a
/-- RI forms of MIN and MAX (R119). -/
def riMinmax (f : RI) : Bool := riArith f && !f.sat
/-- RI forms of AND, OR and XOR (R124). -/
def riLogic (f : RI) : Bool :=
  (f.ty.isInt || f.ty.isBit) && f.rm == .rne && !f.sat && f.opx == 0 && vOk f.ty.is64 f.d && vOk f.ty.is64 f.a
/-- RI forms of the shifts (R126). -/
def riShift (f : RI) : Bool :=
  f.ty.isWide && f.rm == .rne && !f.sat && f.opx == 0 && vOk f.ty.is64 f.d && vOk f.ty.is64 f.a && decide (f.imm.toNat < 64)
/-- RI form of BFE (R128). -/
def riBfe (f : RI) : Bool :=
  f.ty.isWide && f.rm == .rne && !f.sat && f.opx == 0 && vOk f.ty.is64 f.d && vOk f.ty.is64 f.a && decide (f.imm.toNat < 65536)
/-- RI form of SETP (R129). -/
def riSetp (f : RI) : Bool :=
  pdOk f.d && f.ty.isInt && f.rm == .rne && !f.sat && decide (f.opx.toNat < 6) && vOk f.ty.is64 f.a
/-- MOVS (R138). -/
def movs (f : RI) : Bool := f.a == 0 && f.ty == .b32 && f.rm == .rne && !f.sat && f.opx == 0 && decide (f.imm.toNat < 32)
/-- MOVI (R137). -/
def movi (f : WI) : Bool := vOk f.ty.is64 f.d

/-- MSK is 0 when MV is 0 (R57). -/
def maskOk (f : BF) : Bool := f.mv || f.msk == 0
def noMask (f : BF) : Bool := !f.mv && f.msk == 0
def bra (f : BF) : Bool := f.reg == 0 && maskOk f
def brx (f : BF) : Bool := vOk true f.reg && f.off == 0 && maskOk f
def call (f : BF) : Bool := f.reg == 0 && noMask f
def callx (f : BF) : Bool := vOk true f.reg && f.off == 0 && noMask f
/-- RET, EXIT (R148, R149). -/
def bzero (f : BF) : Bool := f.reg == 0 && f.off == 0 && noMask f

/-- The fields of an E-format word that an entry may mark 0. -/
def zA (f : EF) : Bool := f.a == 0
def zB (f : EF) : Bool := f.b == 0
def zC (f : EF) : Bool := f.c == 0
def zX (f : EF) : Bool := f.x == 0
def zI (f : EF) : Bool := f.imm8 == 0
def zF (f : EF) : Bool := f.flags == 0
/-- FLAGS holds only its low n bits. -/
def flagsBelow (f : EF) (n : Nat) : Bool := decide (f.flags.toNat < 2 ^ n)
def ezero (f : EF) : Bool := zA f && zB f && zC f && zX f && zI f && zF f

/-- YIELD, TRAP, BKPT (R150, R151). -/
def immOnly (f : EF) : Bool := zA f && zB f && zC f && zX f && zF f
def mset (f : EF) : Bool := decide (f.a.toNat < 8) && zF f
def reconv (f : EF) : Bool := decide (f.a.toNat < 8) && zB f && zC f && zX f && zI f && zF f
/-- BAR (R155, R156): FLAGS[0] W, [3:1] SC, [4] TK, [5] ST. -/
def bar (f : EF) : Bool :=
  zC f && zI f && decide (f.x.toNat < 16) && flagsBelow f 6 && scOk f.sc
    && !(f.flags.getLsbD 0 && f.flags.getLsbD 4) && (!f.flags.getLsbD 5 || f.flags.getLsbD 0)
    && (f.flags.getLsbD 0 || f.flags.getLsbD 4 || zA f) && (if f.flags.getLsbD 5 then pdOk f.b else zB f)
def arrive (f : EF) : Bool := zB f && zC f && zI f && zF f && decide (f.x.toNat < 16)
/-- JSET, JREAD (R157). -/
def jreg (f : EF) : Bool := zB f && zC f && zI f && flagsBelow f 1 && decide (f.x.toNat < 16)

/-- No scope, ordering, `.lax` or hint (codes 0). -/
def noMods (f : MF) : Bool := f.scope == .grp && f.ord == .relaxed && !f.lax && f.hint == .none
def bkGlobal (f : MF) : Bool := f.bk != .v && baseOk f
def bkGlobal2 (f : MF) : Bool := (f.bk == .g || f.bk == .vv) && baseOk f
def bkScratch (f : MF) : Bool := f.bk != .vv && baseOk f
def bkScratch2 (f : MF) : Bool := (f.bk == .g || f.bk == .v) && baseOk f
def ordLd (f : MF) : Bool := f.ord == .relaxed || f.ord == .acq
def ordSt (f : MF) : Bool := f.ord == .relaxed || f.ord == .rel

def ld (f : MF) : Bool := bkGlobal f && ordLd f && dataOk f.ty f.data
def st (f : MF) : Bool := bkGlobal f && ordSt f && dataOk f.ty f.data && !f.lax && f.hint != .rep
def lds (f : MF) : Bool := bkScratch f && f.scope.upToQuad && ordLd f && dataOk f.ty f.data && !f.lax && f.hint == .none
def sts (f : MF) : Bool := bkScratch f && f.scope.upToQuad && ordSt f && dataOk f.ty f.data && !f.lax && f.hint == .none
def ldss (f : MF) : Bool := bkScratch2 f && f.scope.upToQuad && ordLd f && dataOk f.ty f.data && f.hint == .none
def stss (f : MF) : Bool := bkScratch2 f && f.scope.upToQuad && ordSt f && dataOk f.ty f.data && !f.lax && f.hint == .none
def stn (f : MF) : Bool := bkGlobal2 f && ordSt f && dataOk f.ty f.data && !f.lax && f.hint == .none
def repark (f : MF) : Bool := decide (f.data.toNat < 2) && bkGlobal2 f && noMods f && f.ty == .n8
def locate (f : MF) : Bool := f.data == 0 && bkGlobal f && noMods f && f.ty == .n8
def parkq (f : MF) : Bool := bkGlobal f && noMods f && f.ty == .b32
def rstld (f : MF) : Bool :=
  bkScratch f && noMods f && (f.ty == .b32 || f.ty == .b64 || f.ty == .b128) && dataOk f.ty f.data
def ldfe (f : MF) : Bool := bkScratch2 f && noMods f && decide (f.aux.toNat < 2) && dataOk f.ty f.data
def stfe (f : MF) : Bool := bkScratch f && noMods f && dataOk f.ty f.data
def feset (f : MF) : Bool := bkScratch2 f && noMods f && decide (f.aux.toNat < 2) && f.ty == .b32

/-- The set W of R214: 4-byte and 8-byte types. -/
def cellTy (t : MTy) : Bool := t.bytes == 4 || t.bytes == 8
def tst (f : MF) : Bool :=
  bkGlobal2 f && ordSt f && cellTy f.ty && dataOk f.ty f.data && !f.lax && f.hint == .none && pdOk f.aux
def retract (f : MF) : Bool := f.data == 0 && bkGlobal2 f && noMods f && cellTy f.ty && pdOk f.aux
def commit (f : MF) : Bool := f.data == 0 && bkGlobal f && noMods f && cellTy f.ty

/-- The operation code of ATOM, ATOMS and RED in AUX[31:28], that is AUX's high nibble (R67). -/
def memOp (f : MF) : Nat := f.aux.toNat / 16

/-- The types of R217 for operation `op`. -/
def atomTy (op : Nat) (t : MTy) : Bool :=
  if op ≤ 2 then t == .i32 || t == .n32 || t == .i64 || t == .n64 || t == .f32
  else if op ≤ 6 then t == .b32 || t == .b64
  else decide (op ≤ 8) && (t == .n32 || t == .n64)

def atom (f : MF) : Bool :=
  bkGlobal2 f && f.aux.toNat % 16 == 0 && atomTy (memOp f) f.ty && dataOk f.ty f.data && !f.lax && f.hint == .none
def atomc (f : MF) : Bool :=
  bkGlobal2 f && (f.ty == .b32 || f.ty == .b64) && dataOk f.ty f.data && dataOk f.ty f.aux && !f.lax && f.hint == .none
def atoms (f : MF) : Bool :=
  bkScratch2 f && f.scope.upToQuad && f.aux.toNat % 16 == 0 && atomTy (memOp f) f.ty && dataOk f.ty f.data && !f.lax
    && f.hint == .none

/-- The types of R219 for operation `op`. -/
def redTy (op : Nat) (t : MTy) : Bool :=
  if op ≤ 2 then t == .i32 || t == .n32 || t == .i64 || t == .n64 || t == .f32 || t == .bf16 || t == .f16
  else decide (op ≤ 5) && (t == .b32 || t == .b64)

def red (f : MF) : Bool :=
  bkGlobal2 f && f.aux.toNat % 16 == 0 && redTy (memOp f) f.ty && ordSt f && dataOk f.ty f.data && !f.lax && f.hint != .rep
def fence (f : MF) : Bool :=
  f.data == 0 && f.base == 0 && f.aux == 0 && f.bk == .g && f.ty == .n8 && !f.lax && f.hint == .none && f.ord != .relaxed
    && decide (f.disp.toNat < 2)
def pref (f : MF) : Bool := decide (f.data.toNat < 3) && bkGlobal f && noMods f && f.ty == .n8

/-- WAITC (R223, R225). -/
def waitc (f : EF) : Bool :=
  f.a.toNat % 2 == 0 && decide (1 ≤ f.x.toNat ∧ f.x.toNat ≤ 4 ∧ f.a.toNat + 2 * f.x.toNat - 1 ≤ 63) && gOk f.c && zI f
    && flagsBelow f 4 && scOk f.sc
/-- CLEAN, INVAL (R226). -/
def range (f : EF) : Bool := gOk f.a && gOk f.b && zC f && zX f && zI f && zF f

/-- MVEC's fields (R261): IMM8 holds TYPE, TAG and two zero bits; FLAGS holds OP, SAT and RM. -/
def mvTy (f : EF) : Ty := Ty.ofCode (f.imm8.toNat / 16)
def mvTag (f : EF) : Nat := f.imm8.toNat / 4 % 4
def mvOp (f : EF) : Nat := f.flags.toNat / 16
def mvSat (f : EF) : Bool := f.flags.getLsbD 3
def mvRm (f : EF) : Nat := f.flags.toNat % 8
def mvec (f : EF) : Bool :=
  let t := mvTy f
  let op := mvOp f
  let arithTy := t == .i32 || t == .n32 || t.isFlt
  gOk f.a && gOk f.b && gOk f.c && gOk f.x && f.imm8.toNat % 4 == 0
    && (if op ≤ 2 then arithTy && (mvRm f == 0 || t.isFlt && decide (mvRm f ≤ 4))
        else if op ≤ 4 then arithTy && !mvSat f && mvRm f == 0
        else if op ≤ 7 then t == .b32 && !mvSat f && mvRm f == 0
        else if op == 8 then t == .b32 && !mvSat f && mvRm f == 0 && zC f
        else op == 9 && (t == .b32 || t == .bf16 || t == .f16) && !mvSat f && mvRm f == 0 && zB f)
def mvwait (f : EF) : Bool :=
  zB f && zC f && zI f && flagsBelow f 4 && scOk f.sc && (if f.flags.getLsbD 0 then zX f else decide (f.x.toNat < 4))

/-- The accumulator handle stands in C[3:0], with C[7:4] zero. -/
def accOk (f : EF) : Bool := decide (f.c.toNat < 16)
/-- A 16-register image lies at or below v255 (R295, R299). -/
def imageOk (f : EF) : Bool := decide (f.a.toNat + 15 ≤ 255)

/-- MMA's flags (R293): [2:0] ETYPE, [3] TA, [4] TB, [5] BSRC, [6] KS. -/
def mmaEtype (f : EF) : Nat := f.flags.toNat % 8
def mmaKs (f : EF) : Bool := f.flags.getLsbD 6
def mmaBsrc (f : EF) : Bool := f.flags.getLsbD 5
def mma (f : EF) : Bool :=
  accOk f && decide (f.x.toNat < 16) && flagsBelow f 7 && !(mmaKs f && mmaEtype f == 6)
    && decide (f.a.toNat + 15 + (if mmaEtype f == 7 then 1 else 0) + (if mmaKs f then 1 else 0) ≤ 255)
    && (if mmaBsrc f then gOk f.b else zI f)
def accz (f : EF) : Bool := zA f && zB f && accOk f && zX f && zI f && flagsBelow f 1
def accld (f : EF) : Bool := imageOk f && zB f && accOk f && zX f && decide (f.imm8.toNat < 8) && flagsBelow f 1

/-- The output fields SAT, RM and TYPE of ACCMV and MMQ (R297, R298): FLAGS[7], [6:4], [3:0]. -/
def outOk (f : EF) : Bool :=
  let t := Ty.ofCode (f.flags.toNat % 16)
  let rm := f.flags.toNat / 16 % 8
  let os := f.x.getLsbD 0
  let sat := f.flags.getLsbD 7
  decide (f.x.toNat < 2) && (os || zB f)
    && (if t == .i32 then rm == 0 && !os && !sat
        else if t == .i8 then rm == 0 && !os
        else (t == .f32 || t == .bf16 || t == .f16 || t == .e4m3 || t == .e5m2) && decide (rm ≤ 4))
def accmv (f : EF) : Bool :=
  imageOk f && accOk f && outOk f && decide (f.imm8.toNat < 8 * (Ty.ofCode (f.flags.toNat % 16)).width / 32)
def accst (f : EF) : Bool :=
  gOk f.a && accOk f && decide (f.x.toNat < 4) && (f.x.getLsbD 0 || zB f) && f.flags.toNat % 16 == 0
    && decide (f.flags.toNat / 16 % 8 ≤ 4)
def accrel (f : EF) : Bool := zA f && zB f && accOk f && zX f && zI f && zF f
def mmq (f : EF) : Bool := zA f && accOk f && outOk f
/-- MWAIT (R291): FLAGS[0] KIND, [1] ALL, [4:2] SC. -/
def mwait (f : EF) : Bool :=
  zA f && zB f && accOk f && zX f && zI f && flagsBelow f 5 && scOk (f.flags.extractLsb' 2 3)
    && (!f.flags.getLsbD 1 || zC f) && (f.flags.getLsbD 0 || f.flags.extractLsb' 2 3 == 0)
def tidld (f : EF) : Bool := gOk f.a && zB f && zC f && zX f && zF f
def tidinv (f : EF) : Bool := zA f && zB f && zC f && zX f && zF f

def cpy (f : EF) : Bool := gOk f.a && gOk f.b && zC f && decide (f.x.toNat < 16) && flagsBelow f 1
def cpyg (f : EF) : Bool :=
  vOk true f.a && zC f && zF f && decide (f.x.toNat < 16) && decide (1 ≤ f.imm8.toNat ∧ f.imm8.toNat ≤ 8)
/-- CPYWAIT (R316): FLAGS[0] is 0, [3:1] SC, [4] CLR. -/
def cpywait (f : EF) : Bool :=
  zB f && zC f && decide (f.x.toNat < 16) && flagsBelow f 5 && scOk f.sc && !f.flags.getLsbD 0
def cpydec (f : EF) : Bool := gOk f.a && gOk f.b && gOk f.c && decide (f.x.toNat < 64) && decide (f.imm8.toNat < 16) && zF f
def strmReg (r : BitVec 8) : Bool := decide (248 ≤ r.toNat)
def strmb (f : EF) : Bool := strmReg f.a && gOk f.b && zC f && zX f && zI f && flagsBelow f 2
def strmu (f : EF) : Bool :=
  (if f.flags.getLsbD 0 then zA f else strmReg f.a) && zB f && zC f && zX f && zI f && flagsBelow f 1
def strmq (f : EF) : Bool := strmReg f.b && zC f && zX f && zI f && zF f

/-- C names a g register when FLAGS[0] (Q) is set and is 0 otherwise (R327, R344). -/
def quadOk (f : EF) : Bool := if f.flags.getLsbD 0 then gOk f.c else zC f
def launch (f : EF) : Bool := gOk f.b && quadOk f && zX f && zI f && flagsBelow f 1
def lwait (f : EF) : Bool := zC f && zX f && zI f && flagsBelow f 4 && scOk f.sc && !f.flags.getLsbD 0
def tspawn (f : EF) : Bool := gOk f.a && pdOk f.b && quadOk f && zX f && zI f && flagsBelow f 1
def tsignal (f : EF) : Bool := gOk f.a && zB f && zC f && zX f && decide (f.imm8.toNat < 16) && zF f
def stloop (f : EF) : Bool :=
  gOk f.b && zC f && decide (f.x.toNat < 8) && decide (1 ≤ f.imm8.toNat ∧ f.imm8.toNat ≤ 63) && zF f
/-- STAGE (R357): FLAGS[1:0] MODE, [2] IMMF. -/
def stage (f : EF) : Bool :=
  let mode := f.flags.toNat % 4
  let immf := f.flags.getLsbD 2
  zB f && zC f && zX f && flagsBelow f 3 && decide (mode < 3) && !(immf && mode == 0)
    && (!(immf || mode == 0) || zA f) && (immf || zI f)
def waitl (f : EF) : Bool :=
  zB f && zC f && zX f && flagsBelow f 1 && (if f.flags.getLsbD 0 then zA f else zI f)
def stend (f : EF) : Bool := zB f && zC f && zX f && zI f && flagsBelow f 1

def colload (f : EF) : Bool := gOk f.b && gOk f.c && decide (f.x.toNat < 2) && zI f && zF f
def colrun (f : EF) : Bool := decide (f.b.toNat ≤ 56) && gOk f.c && decide (f.x.toNat < 2) && zI f && zF f
def colwait (f : EF) : Bool :=
  zB f && zC f && zI f && flagsBelow f 4 && scOk f.sc && (if f.flags.getLsbD 0 then zX f else decide (f.x.toNat < 2))
def colq (f : EF) : Bool :=
  zC f && zI f && flagsBelow f 1 && (if f.flags.getLsbD 0 then gOk f.b && zX f else zB f && decide (f.x.toNat < 2))
/-- RPUT, RGET (R400). -/
def remote (f : EF) : Bool := gOk f.b && gOk f.c && gOk f.x && decide (f.imm8.toNat < 4) && zF f
def recirc (f : EF) : Bool := vOk true f.a && gOk f.b && gOk f.c && zX f && zI f && flagsBelow f 1

/-- The control-register numbers of R426 and R445. -/
def csrNum (n : Nat) : Bool :=
  decide (1 ≤ n ∧ n ≤ 0x12) || n == 0x18 || n == 0x19 || decide (0x20 ≤ n ∧ n ≤ 0x24) || n == 0x28 || n == 0x30 || n == 0x31
def csr (f : EF) : Bool :=
  vOk true f.a && zB f && flagsBelow f 1 && csrNum f.imm8.toNat && (if f.flags.getLsbD 0 then gOk f.c && zX f else zC f)
def preempt (f : EF) : Bool := gOk f.b && zC f && zX f && zI f && flagsBelow f 1
def keyld (f : EF) : Bool :=
  (if f.flags.getLsbD 0 then zB f else gOk f.b) && zC f && decide (f.x.toNat < 64) && zI f && flagsBelow f 1
/-- TLBINV (R372): FLAGS[1:0] MODE. -/
def tlbinv (f : EF) : Bool :=
  let mode := f.flags.toNat % 4
  flagsBelow f 2 && zX f && zI f && (if mode < 2 then gOk f.a && gOk f.b else zA f && zB f)
    && (if mode == 1 || mode == 2 then gOk f.c else zC f)
def tlblock (f : EF) : Bool := gOk f.b && gOk f.c && zX f && zI f && zF f
def tlbunlk (f : EF) : Bool := (if f.flags.getLsbD 0 then zA f else gOk f.a) && zB f && zC f && zX f && zI f && flagsBelow f 1
def tlbpre (f : EF) : Bool := range f
def resume (f : EF) : Bool := gOk f.b && zC f && zX f && zI f && flagsBelow f 1

end WF

/-- Field checks of every instruction word; an event of the machine is no word and needs none. -/
def Instr.wf : Instr → Bool
  | .add f => WF.arith f
  | .addImm f => WF.riArith f
  | .sub f => WF.arith f
  | .subImm f => WF.riArith f
  | .mul f => WF.arith f
  | .mulImm f => WF.riArith f
  | .mulhi f => WF.mulhi f
  | .mad f => WF.mad f
  | .fma f => WF.fma f
  | .min f => WF.minmax f
  | .minImm f => WF.riMinmax f
  | .max f => WF.minmax f
  | .maxImm f => WF.riMinmax f
  | .abs f => WF.absneg f
  | .neg f => WF.absneg f
  | .and f => WF.logic f
  | .andImm f => WF.riLogic f
  | .or f => WF.logic f
  | .orImm f => WF.riLogic f
  | .xor f => WF.logic f
  | .xorImm f => WF.riLogic f
  | .not f => WF.bitUnary f
  | .ttbl f => WF.ttbl f
  | .shl f => WF.shift f
  | .shlImm f => WF.riShift f
  | .shr f => WF.shift f
  | .shrImm f => WF.riShift f
  | .rot f => WF.shift f
  | .rotImm f => WF.riShift f
  | .popc f => WF.count f
  | .clz f => WF.count f
  | .brev f => WF.bitUnary f
  | .bfe f => WF.bfe f
  | .bfeImm f => WF.riBfe f
  | .bfi f => WF.bfi f
  | .setp f => WF.setp f
  | .setpImm f => WF.riSetp f
  | .sel f => WF.sel f
  | .plop f => WF.plop f
  | .cvt f => WF.cvt f
  | .cvtx f => WF.cvtx f
  | .pack f => WF.pack f
  | .unpack f => WF.unpack f
  | .mov f => WF.bitUnary f
  | .movi f => WF.movi f
  | .movs f => WF.movs f
  | .movg f => WF.movg f
  | .lxch f => WF.lxch f
  | .pagg f => WF.pagg f
  | .pmask f => WF.pmask f
  | .xred f => WF.xred f
  | .qx f => WF.qx f
  | .rcp f => WF.special f
  | .rsq f => WF.special f
  | .sqrt f => WF.special f
  | .exp2 f => WF.special f
  | .log2 f => WF.special f
  | .sin f => WF.special f
  | .cos f => WF.special f
  | .tanh f => WF.special f
  | .div f => WF.div f
  | .bra f => WF.bra f
  | .brx f => WF.brx f
  | .call f => WF.call f
  | .callx f => WF.callx f
  | .ret f => WF.bzero f
  | .exit f => WF.bzero f
  | .yield f => WF.immOnly f
  | .trap f => WF.immOnly f
  | .bkpt f => WF.immOnly f
  | .mset f => WF.mset f
  | .reconv f => WF.reconv f
  | .bar f => WF.bar f
  | .arrive f => WF.arrive f
  | .jset f => WF.jreg f
  | .jread f => WF.jreg f
  | .ld f => WF.ld f
  | .st f => WF.st f
  | .lds f => WF.lds f
  | .sts f => WF.sts f
  | .ldss f => WF.ldss f
  | .stss f => WF.stss f
  | .stn f => WF.stn f
  | .repark f => WF.repark f
  | .locate f => WF.locate f
  | .parkq f => WF.parkq f
  | .rstld f => WF.rstld f
  | .ldfe f => WF.ldfe f
  | .stfe f => WF.stfe f
  | .feset f => WF.feset f
  | .tst f => WF.tst f
  | .retract f => WF.retract f
  | .commit f => WF.commit f
  | .atom f => WF.atom f
  | .atomc f => WF.atomc f
  | .atoms f => WF.atoms f
  | .red f => WF.red f
  | .fence f => WF.fence f
  | .waitc f => WF.waitc f
  | .clean f => WF.range f
  | .inval f => WF.range f
  | .pref f => WF.pref f
  | .mvec f => WF.mvec f
  | .mvwait f => WF.mvwait f
  | .mma f => WF.mma f
  | .accz f => WF.accz f
  | .accld f => WF.accld f
  | .accmv f => WF.accmv f
  | .accst f => WF.accst f
  | .accrel f => WF.accrel f
  | .mmq f => WF.mmq f
  | .opfence f => WF.ezero f
  | .mwait f => WF.mwait f
  | .tidld f => WF.tidld f
  | .tidinv f => WF.tidinv f
  | .cpy f => WF.cpy f
  | .cpyg f => WF.cpyg f
  | .cpys f => WF.cpyg f
  | .cpywait f => WF.cpywait f
  | .cpydec f => WF.cpydec f
  | .strmb f => WF.strmb f
  | .strmu f => WF.strmu f
  | .strmq f => WF.strmq f
  | .launch f => WF.launch f
  | .lwait f => WF.lwait f
  | .tspawn f => WF.tspawn f
  | .tsignal f => WF.tsignal f
  | .tdone f => WF.ezero f
  | .stloop f => WF.stloop f
  | .stage f => WF.stage f
  | .waitl f => WF.waitl f
  | .stend f => WF.stend f
  | .colload f => WF.colload f
  | .colrun f => WF.colrun f
  | .colwait f => WF.colwait f
  | .colq f => WF.colq f
  | .rput f => WF.remote f
  | .rget f => WF.remote f
  | .recirc f => WF.recirc f
  | .csrr f => WF.csr f
  | .csrw f => WF.csr f
  | .eret f => WF.ezero f
  | .halt f => WF.ezero f
  | .preempt f => WF.preempt f
  | .keyld f => WF.keyld f
  | .tlbinv f => WF.tlbinv f
  | .tlbsync f => WF.ezero f
  | .tlblock f => WF.tlblock f
  | .tlbunlk f => WF.tlbunlk f
  | .tlbpre f => WF.tlbpre f
  | .resume f => WF.resume f
  | .resultReturn _ => true
  | .lateCause _ => true
  | .heldArrival _ => true
  | .barrierTimeOut _ => true
  | .yieldExpiry _ => true
  | .homeWriteAccept _ => true
  | .parkNotice _ => true
  | .parkWriteBackLand _ => true
  | .flushedReductionApply _ => true
  | .watcherReport _ => true
  | .monitorPoll _ => true
  | .waitcTimeOut _ => true
  | .granuleStep _ _ => true
  | .matrixOpStart _ => true
  | .matrixOpComplete _ => true
  | .matrixSignTimeOut _ => true
  | .copyCommandComplete _ => true
  | .streamPopResume _ => true
  | .streamPushResume _ => true
  | .blockRetire _ => true
  | .blockSave _ => true
  | .blockRestore _ => true
  | .launchEnd _ => true
  | .taskPop _ => true
  | .taskComplete _ => true
  | .iterationHandout _ => true
  | .stageUpdateVisible _ => true
  | .stageWaitTimeOut _ => true
  | .pageFault _ => true
  | .nodeStart _ => true
  | .nodeComplete _ => true
  | .chunkArrival _ _ => true
  | .remoteRequest _ => true
  | .remoteTransferComplete _ => true
  | .flitReceive _ _ => true
  | .linkDown _ => true
  | .peerSilence _ => true
  | .linkTrained _ => true
  | .drainTimeOut _ _ => true
  | .reconfigurationTimeOut _ _ => true
  | .requestResend _ _ => true
  | .controllerReply _ => true
  | .neighbourSolicitation _ => true
  | .controlFrameReceive _ => true
  | .mailboxDoorbell _ _ => true
  | .optPortcfgWrite _ => true
  | .optDomctlWrite _ => true
  | .lndGateLock _ => true
  | .sysHostirq _ => true
  | .sysNvdb _ => true
  | .registerWrite _ => true
  | .eventModeEntry _ => true
  | .hostWrite _ _ => true
  | .hostRead _ _ _ => true
  | .functionLevelReset _ => true
  | .lockInterface _ => true
  | .nvmeCompletion _ => true
  | .getVersion _ => true
  | .getCapabilities _ => true
  | .negotiateAlgorithms _ => true
  | .getDigests _ => true
  | .getCertificate _ => true
  | .challenge _ => true
  | .getMeasurements _ => true
  | .keyExchange _ => true
  | .finish _ => true
  | .heartbeat _ => true
  | .keyUpdate _ => true
  | .endSession _ => true
  | .vendorDefinedRequest _ => true
  | .packageReset => true
  | .partitionReset _ => true
  | .snapshot => true
  | .powerWindow _ => true
  | .thermalStateChange _ _ => true
  | .coreSpare _ => true
  | .rowSpare _ _ => true
  | .writeBackError _ => true
  | .copyLineArrival _ _ => true
  | .operandFetchEnd _ => true
  | .startInterfaceRequest _ => true
  | .quietModeSlot => true
  | .storageDma _ => true

/-- The rows of the opcode table that are instruction words; the others are events (spec/95). -/
def Instr.isWord : Instr → Bool
  | .add _ => true
  | .addImm _ => true
  | .sub _ => true
  | .subImm _ => true
  | .mul _ => true
  | .mulImm _ => true
  | .mulhi _ => true
  | .mad _ => true
  | .fma _ => true
  | .min _ => true
  | .minImm _ => true
  | .max _ => true
  | .maxImm _ => true
  | .abs _ => true
  | .neg _ => true
  | .and _ => true
  | .andImm _ => true
  | .or _ => true
  | .orImm _ => true
  | .xor _ => true
  | .xorImm _ => true
  | .not _ => true
  | .ttbl _ => true
  | .shl _ => true
  | .shlImm _ => true
  | .shr _ => true
  | .shrImm _ => true
  | .rot _ => true
  | .rotImm _ => true
  | .popc _ => true
  | .clz _ => true
  | .brev _ => true
  | .bfe _ => true
  | .bfeImm _ => true
  | .bfi _ => true
  | .setp _ => true
  | .setpImm _ => true
  | .sel _ => true
  | .plop _ => true
  | .cvt _ => true
  | .cvtx _ => true
  | .pack _ => true
  | .unpack _ => true
  | .mov _ => true
  | .movi _ => true
  | .movs _ => true
  | .movg _ => true
  | .lxch _ => true
  | .pagg _ => true
  | .pmask _ => true
  | .xred _ => true
  | .qx _ => true
  | .rcp _ => true
  | .rsq _ => true
  | .sqrt _ => true
  | .exp2 _ => true
  | .log2 _ => true
  | .sin _ => true
  | .cos _ => true
  | .tanh _ => true
  | .div _ => true
  | .bra _ => true
  | .brx _ => true
  | .call _ => true
  | .callx _ => true
  | .ret _ => true
  | .exit _ => true
  | .yield _ => true
  | .trap _ => true
  | .bkpt _ => true
  | .mset _ => true
  | .reconv _ => true
  | .bar _ => true
  | .arrive _ => true
  | .jset _ => true
  | .jread _ => true
  | .ld _ => true
  | .st _ => true
  | .lds _ => true
  | .sts _ => true
  | .ldss _ => true
  | .stss _ => true
  | .stn _ => true
  | .repark _ => true
  | .locate _ => true
  | .parkq _ => true
  | .rstld _ => true
  | .ldfe _ => true
  | .stfe _ => true
  | .feset _ => true
  | .tst _ => true
  | .retract _ => true
  | .commit _ => true
  | .atom _ => true
  | .atomc _ => true
  | .atoms _ => true
  | .red _ => true
  | .fence _ => true
  | .waitc _ => true
  | .clean _ => true
  | .inval _ => true
  | .pref _ => true
  | .mvec _ => true
  | .mvwait _ => true
  | .mma _ => true
  | .accz _ => true
  | .accld _ => true
  | .accmv _ => true
  | .accst _ => true
  | .accrel _ => true
  | .mmq _ => true
  | .opfence _ => true
  | .mwait _ => true
  | .tidld _ => true
  | .tidinv _ => true
  | .cpy _ => true
  | .cpyg _ => true
  | .cpys _ => true
  | .cpywait _ => true
  | .cpydec _ => true
  | .strmb _ => true
  | .strmu _ => true
  | .strmq _ => true
  | .launch _ => true
  | .lwait _ => true
  | .tspawn _ => true
  | .tsignal _ => true
  | .tdone _ => true
  | .stloop _ => true
  | .stage _ => true
  | .waitl _ => true
  | .stend _ => true
  | .colload _ => true
  | .colrun _ => true
  | .colwait _ => true
  | .colq _ => true
  | .rput _ => true
  | .rget _ => true
  | .recirc _ => true
  | .csrr _ => true
  | .csrw _ => true
  | .eret _ => true
  | .halt _ => true
  | .preempt _ => true
  | .keyld _ => true
  | .tlbinv _ => true
  | .tlbsync _ => true
  | .tlblock _ => true
  | .tlbunlk _ => true
  | .tlbpre _ => true
  | .resume _ => true
  | .resultReturn _ => false
  | .lateCause _ => false
  | .heldArrival _ => false
  | .barrierTimeOut _ => false
  | .yieldExpiry _ => false
  | .homeWriteAccept _ => false
  | .parkNotice _ => false
  | .parkWriteBackLand _ => false
  | .flushedReductionApply _ => false
  | .watcherReport _ => false
  | .monitorPoll _ => false
  | .waitcTimeOut _ => false
  | .granuleStep _ _ => false
  | .matrixOpStart _ => false
  | .matrixOpComplete _ => false
  | .matrixSignTimeOut _ => false
  | .copyCommandComplete _ => false
  | .streamPopResume _ => false
  | .streamPushResume _ => false
  | .blockRetire _ => false
  | .blockSave _ => false
  | .blockRestore _ => false
  | .launchEnd _ => false
  | .taskPop _ => false
  | .taskComplete _ => false
  | .iterationHandout _ => false
  | .stageUpdateVisible _ => false
  | .stageWaitTimeOut _ => false
  | .pageFault _ => false
  | .nodeStart _ => false
  | .nodeComplete _ => false
  | .chunkArrival _ _ => false
  | .remoteRequest _ => false
  | .remoteTransferComplete _ => false
  | .flitReceive _ _ => false
  | .linkDown _ => false
  | .peerSilence _ => false
  | .linkTrained _ => false
  | .drainTimeOut _ _ => false
  | .reconfigurationTimeOut _ _ => false
  | .requestResend _ _ => false
  | .controllerReply _ => false
  | .neighbourSolicitation _ => false
  | .controlFrameReceive _ => false
  | .mailboxDoorbell _ _ => false
  | .optPortcfgWrite _ => false
  | .optDomctlWrite _ => false
  | .lndGateLock _ => false
  | .sysHostirq _ => false
  | .sysNvdb _ => false
  | .registerWrite _ => false
  | .eventModeEntry _ => false
  | .hostWrite _ _ => false
  | .hostRead _ _ _ => false
  | .functionLevelReset _ => false
  | .lockInterface _ => false
  | .nvmeCompletion _ => false
  | .getVersion _ => false
  | .getCapabilities _ => false
  | .negotiateAlgorithms _ => false
  | .getDigests _ => false
  | .getCertificate _ => false
  | .challenge _ => false
  | .getMeasurements _ => false
  | .keyExchange _ => false
  | .finish _ => false
  | .heartbeat _ => false
  | .keyUpdate _ => false
  | .endSession _ => false
  | .vendorDefinedRequest _ => false
  | .packageReset => false
  | .partitionReset _ => false
  | .snapshot => false
  | .powerWindow _ => false
  | .thermalStateChange _ _ => false
  | .coreSpare _ => false
  | .rowSpare _ _ => false
  | .writeBackError _ => false
  | .copyLineArrival _ _ => false
  | .operandFetchEnd _ => false
  | .startInterfaceRequest _ => false
  | .quietModeSlot => false
  | .storageDma _ => false
end Sys2Proof
end

