-- ==== Sys2Proof/Decode.lean ====
section
/-! DEFINITION. The decoder of instruction words and clause headers and the encoder (spec/03, R43 to R68). -/
namespace Sys2Proof

/-- Why a word is refused, in the order of R62. The clause rules of R46 stand between the second and the third and are
checked where the instruction issues. -/
inductive DecodeError where
  | illegalVersion
  | unassignedOpcode
  | reservedField
  deriving DecidableEq, Repr

/-- Bits [hi:lo] of a word as a number (R2). -/
def bits (w : DWord) (hi lo : Nat) : Nat := w.toNat / 2 ^ lo % 2 ^ (hi + 1 - lo)

/-- R63. -/
def Ty.code : Ty → BitVec 4
  | .i8 => 0x0 | .i16 => 0x1 | .i32 => 0x2 | .i64 => 0x3 | .n8 => 0x4 | .n16 => 0x5 | .n32 => 0x6 | .n64 => 0x7
  | .b32 => 0x8 | .b64 => 0x9 | .f32 => 0xA | .bf16 => 0xB | .f16 => 0xC | .e4m3 => 0xD | .e5m2 => 0xE | .e2m1 => 0xF

/-- R64. -/
def MTy.code : MTy → BitVec 4
  | .n8 => 0x0 | .i8 => 0x1 | .n16 => 0x2 | .i16 => 0x3 | .b32 => 0x4 | .b64 => 0x5 | .b128 => 0x6 | .f32 => 0x7
  | .bf16 => 0x8 | .f16 => 0x9 | .i32 => 0xA | .i64 => 0xB | .n32 => 0xC | .n64 => 0xD

/-- R64: codes 14 and 15 are unassigned. -/
def MTy.ofCode : Nat → Option MTy
  | 0 => some .n8 | 1 => some .i8 | 2 => some .n16 | 3 => some .i16 | 4 => some .b32 | 5 => some .b64 | 6 => some .b128
  | 7 => some .f32 | 8 => some .bf16 | 9 => some .f16 | 10 => some .i32 | 11 => some .i64 | 12 => some .n32 | 13 => some .n64
  | _ => none

/-- R65. -/
def Rm.code : Rm → BitVec 3
  | .rne => 0 | .rz => 1 | .rdn => 2 | .rup => 3 | .rna => 4
/-- R65: codes 5 to 7 are unassigned. -/
def Rm.ofCode : Nat → Option Rm
  | 0 => some .rne | 1 => some .rz | 2 => some .rdn | 3 => some .rup | 4 => some .rna | _ => none

/-- R66. -/
def Scope.code : Scope → BitVec 3
  | .grp => 0 | .core => 1 | .quad => 2 | .dev => 3 | .sys => 4
/-- R66: codes 5 to 7 are unassigned. -/
def Scope.ofCode : Nat → Option Scope
  | 0 => some .grp | 1 => some .core | 2 => some .quad | 3 => some .dev | 4 => some .sys | _ => none

/-- R66. -/
def Ord.code : Ord → BitVec 2
  | .relaxed => 0 | .acq => 1 | .rel => 2 | .acqrel => 3
def Ord.ofCode : Nat → Ord
  | 0 => .relaxed | 1 => .acq | 2 => .rel | _ => .acqrel

/-- R66. -/
def Hint.code : Hint → BitVec 2
  | .none => 0 | .rep => 1 | .nt => 2
/-- R66: code 3 is unassigned. -/
def Hint.ofCode : Nat → Option Hint
  | 0 => some .none | 1 => some .rep | 2 => some .nt | _ => Option.none

/-- R56. -/
def Bk.code : Bk → BitVec 2
  | .g => 0 | .gv => 1 | .vv => 2 | .v => 3
def Bk.ofCode : Nat → Bk
  | 0 => .g | 1 => .gv | 2 => .vv | _ => .v

/-- The fields of bits [63:48] that every word carries (R48, R49). -/
def readCtl (w : DWord) : Option Ctl :=
  match bits w 63 62 with
  | 0 => some ⟨false, w.getLsbD 61, w.getLsbD 51, w.extractLsb' 48 3⟩
  | 1 => some ⟨true, w.getLsbD 61, w.getLsbD 51, w.extractLsb' 48 3⟩
  | _ => none

/-- R53. -/
def readRRR (c : Ctl) (w : DWord) : Option RRR :=
  (Rm.ofCode (bits w 11 9)).map fun rm =>
    { ctl := c, d := w.extractLsb' 40 8, a := w.extractLsb' 32 8, b := w.extractLsb' 24 8, c := w.extractLsb' 16 8,
      ty := Ty.ofCode (bits w 15 12), rm := rm, sat := w.getLsbD 8, bg := w.getLsbD 7, ag := w.getLsbD 6,
      opx := w.extractLsb' 0 6 }

/-- R54. -/
def readRI (c : Ctl) (w : DWord) : Option RI :=
  (Rm.ofCode (bits w 27 25)).map fun rm =>
    { ctl := c, d := w.extractLsb' 40 8, a := w.extractLsb' 32 8, ty := Ty.ofCode (bits w 31 28), rm := rm,
      sat := w.getLsbD 24, opx := w.extractLsb' 20 4, imm := w.extractLsb' 0 20 }

/-- R55: [35:32] is reserved. -/
def readWI (c : Ctl) (w : DWord) : Option WI :=
  if bits w 35 32 = 0 then
    some { ctl := c, d := w.extractLsb' 40 8, ty := Ty.ofCode (bits w 39 36), imm := w.extractLsb' 0 32 }
  else none

/-- R56. -/
def readMF (c : Ctl) (w : DWord) : Option MF :=
  match Scope.ofCode (bits w 21 19), MTy.ofCode (bits w 16 13), Hint.ofCode (bits w 11 10) with
  | some sc, some t, some h =>
    some { ctl := c, data := w.extractLsb' 40 8, base := w.extractLsb' 32 8, aux := w.extractLsb' 24 8,
           bk := Bk.ofCode (bits w 23 22), scope := sc, ord := Ord.ofCode (bits w 18 17), ty := t, lax := w.getLsbD 12,
           hint := h, disp := w.extractLsb' 0 10 }
  | _, _, _ => none

/-- R57: [39:36] is reserved. -/
def readBF (c : Ctl) (w : DWord) : Option BF :=
  if bits w 39 36 = 0 then
    some { ctl := c, reg := w.extractLsb' 40 8, mv := w.getLsbD 35, msk := w.extractLsb' 32 3, off := w.extractLsb' 0 32 }
  else none

/-- R58. -/
def readEF (c : Ctl) (w : DWord) : Option EF :=
  some { ctl := c, a := w.extractLsb' 40 8, b := w.extractLsb' 32 8, c := w.extractLsb' 24 8, x := w.extractLsb' 16 8,
         imm8 := w.extractLsb' 8 8, flags := w.extractLsb' 0 8 }

/-- The instruction that opcode `opc` names with the fields of `w`, before the checks of its entry (R60). -/
def readOp (opc : Nat) (c : Ctl) (w : DWord) : Option Instr :=
  match opc with
  | 0x000 => (readRRR c w).map .add
  | 0x020 => (readRI c w).map .addImm
  | 0x001 => (readRRR c w).map .sub
  | 0x021 => (readRI c w).map .subImm
  | 0x002 => (readRRR c w).map .mul
  | 0x022 => (readRI c w).map .mulImm
  | 0x003 => (readRRR c w).map .mulhi
  | 0x004 => (readRRR c w).map .mad
  | 0x005 => (readRRR c w).map .fma
  | 0x006 => (readRRR c w).map .min
  | 0x023 => (readRI c w).map .minImm
  | 0x007 => (readRRR c w).map .max
  | 0x024 => (readRI c w).map .maxImm
  | 0x008 => (readRRR c w).map .abs
  | 0x009 => (readRRR c w).map .neg
  | 0x00A => (readRRR c w).map .and
  | 0x025 => (readRI c w).map .andImm
  | 0x00B => (readRRR c w).map .or
  | 0x026 => (readRI c w).map .orImm
  | 0x00C => (readRRR c w).map .xor
  | 0x027 => (readRI c w).map .xorImm
  | 0x00D => (readRRR c w).map .not
  | 0x00E => (readRRR c w).map .ttbl
  | 0x00F => (readRRR c w).map .shl
  | 0x028 => (readRI c w).map .shlImm
  | 0x010 => (readRRR c w).map .shr
  | 0x029 => (readRI c w).map .shrImm
  | 0x011 => (readRRR c w).map .rot
  | 0x02A => (readRI c w).map .rotImm
  | 0x012 => (readRRR c w).map .popc
  | 0x013 => (readRRR c w).map .clz
  | 0x014 => (readRRR c w).map .brev
  | 0x015 => (readRRR c w).map .bfe
  | 0x02C => (readRI c w).map .bfeImm
  | 0x016 => (readRRR c w).map .bfi
  | 0x017 => (readRRR c w).map .setp
  | 0x02B => (readRI c w).map .setpImm
  | 0x018 => (readRRR c w).map .sel
  | 0x019 => (readRRR c w).map .plop
  | 0x030 => (readRRR c w).map .cvt
  | 0x031 => (readRRR c w).map .cvtx
  | 0x032 => (readRRR c w).map .pack
  | 0x033 => (readRRR c w).map .unpack
  | 0x034 => (readRRR c w).map .mov
  | 0x035 => (readWI c w).map .movi
  | 0x036 => (readRI c w).map .movs
  | 0x037 => (readRRR c w).map .movg
  | 0x040 => (readRRR c w).map .lxch
  | 0x041 => (readRRR c w).map .pagg
  | 0x042 => (readRRR c w).map .pmask
  | 0x043 => (readRRR c w).map .xred
  | 0x044 => (readRRR c w).map .qx
  | 0x045 => (readRRR c w).map .rcp
  | 0x046 => (readRRR c w).map .rsq
  | 0x047 => (readRRR c w).map .sqrt
  | 0x048 => (readRRR c w).map .exp2
  | 0x049 => (readRRR c w).map .log2
  | 0x04A => (readRRR c w).map .sin
  | 0x04B => (readRRR c w).map .cos
  | 0x04C => (readRRR c w).map .tanh
  | 0x04D => (readRRR c w).map .div
  | 0x060 => (readBF c w).map .bra
  | 0x061 => (readBF c w).map .brx
  | 0x062 => (readBF c w).map .call
  | 0x063 => (readBF c w).map .callx
  | 0x064 => (readBF c w).map .ret
  | 0x065 => (readBF c w).map .exit
  | 0x066 => (readEF c w).map .yield
  | 0x067 => (readEF c w).map .trap
  | 0x068 => (readEF c w).map .bkpt
  | 0x069 => (readEF c w).map .mset
  | 0x06A => (readEF c w).map .reconv
  | 0x06B => (readEF c w).map .bar
  | 0x06C => (readEF c w).map .arrive
  | 0x06D => (readEF c w).map .jset
  | 0x06E => (readEF c w).map .jread
  | 0x080 => (readMF c w).map .ld
  | 0x081 => (readMF c w).map .st
  | 0x082 => (readMF c w).map .lds
  | 0x083 => (readMF c w).map .sts
  | 0x084 => (readMF c w).map .ldss
  | 0x085 => (readMF c w).map .stss
  | 0x086 => (readMF c w).map .stn
  | 0x087 => (readMF c w).map .repark
  | 0x088 => (readMF c w).map .locate
  | 0x089 => (readMF c w).map .parkq
  | 0x08A => (readMF c w).map .rstld
  | 0x08B => (readMF c w).map .ldfe
  | 0x08C => (readMF c w).map .stfe
  | 0x08D => (readMF c w).map .feset
  | 0x08E => (readMF c w).map .tst
  | 0x08F => (readMF c w).map .retract
  | 0x090 => (readMF c w).map .commit
  | 0x091 => (readMF c w).map .atom
  | 0x092 => (readMF c w).map .atomc
  | 0x093 => (readMF c w).map .atoms
  | 0x094 => (readMF c w).map .red
  | 0x095 => (readMF c w).map .fence
  | 0x096 => (readEF c w).map .waitc
  | 0x097 => (readEF c w).map .clean
  | 0x098 => (readEF c w).map .inval
  | 0x099 => (readMF c w).map .pref
  | 0x0A0 => (readEF c w).map .mvec
  | 0x0A1 => (readEF c w).map .mvwait
  | 0x0A8 => (readEF c w).map .mma
  | 0x0A9 => (readEF c w).map .accz
  | 0x0AA => (readEF c w).map .accld
  | 0x0AB => (readEF c w).map .accmv
  | 0x0AC => (readEF c w).map .accst
  | 0x0AD => (readEF c w).map .accrel
  | 0x0AE => (readEF c w).map .mmq
  | 0x0AF => (readEF c w).map .opfence
  | 0x0B0 => (readEF c w).map .mwait
  | 0x0B1 => (readEF c w).map .tidld
  | 0x0B2 => (readEF c w).map .tidinv
  | 0x0C0 => (readEF c w).map .cpy
  | 0x0C1 => (readEF c w).map .cpyg
  | 0x0C2 => (readEF c w).map .cpys
  | 0x0C3 => (readEF c w).map .cpywait
  | 0x0C4 => (readEF c w).map .cpydec
  | 0x0C5 => (readEF c w).map .strmb
  | 0x0C6 => (readEF c w).map .strmu
  | 0x0C7 => (readEF c w).map .strmq
  | 0x0D0 => (readEF c w).map .launch
  | 0x0D1 => (readEF c w).map .lwait
  | 0x0D2 => (readEF c w).map .tspawn
  | 0x0D3 => (readEF c w).map .tsignal
  | 0x0D4 => (readEF c w).map .tdone
  | 0x0D5 => (readEF c w).map .stloop
  | 0x0D6 => (readEF c w).map .stage
  | 0x0D7 => (readEF c w).map .waitl
  | 0x0D8 => (readEF c w).map .stend
  | 0x0E0 => (readEF c w).map .colload
  | 0x0E1 => (readEF c w).map .colrun
  | 0x0E2 => (readEF c w).map .colwait
  | 0x0E3 => (readEF c w).map .colq
  | 0x0E4 => (readEF c w).map .rput
  | 0x0E5 => (readEF c w).map .rget
  | 0x0E6 => (readEF c w).map .recirc
  | 0x0F0 => (readEF c w).map .csrr
  | 0x0F1 => (readEF c w).map .csrw
  | 0x0F2 => (readEF c w).map .eret
  | 0x0F3 => (readEF c w).map .halt
  | 0x0F4 => (readEF c w).map .preempt
  | 0x0F5 => (readEF c w).map .keyld
  | 0x0F6 => (readEF c w).map .tlbinv
  | 0x0F7 => (readEF c w).map .tlbsync
  | 0x0F8 => (readEF c w).map .tlblock
  | 0x0F9 => (readEF c w).map .tlbunlk
  | 0x0FA => (readEF c w).map .tlbpre
  | 0x0FB => (readEF c w).map .resume
  | _ => none

/-- The engine class of an assigned opcode (R60); none for an unassigned one (R61). -/
def opClass (opc : Nat) : Option Nat :=
  if opc ≤ 0x019 then some 0
  else if 0x020 ≤ opc ∧ opc ≤ 0x02C then some 0
  else if 0x030 ≤ opc ∧ opc ≤ 0x037 then some 0
  else if 0x040 ≤ opc ∧ opc ≤ 0x04D then some 1
  else if 0x060 ≤ opc ∧ opc ≤ 0x06E then some 2
  else if 0x080 ≤ opc ∧ opc ≤ 0x099 then some 3
  else if 0x0A0 ≤ opc ∧ opc ≤ 0x0A1 then some 4
  else if 0x0A8 ≤ opc ∧ opc ≤ 0x0B2 then some 5
  else if 0x0C0 ≤ opc ∧ opc ≤ 0x0C7 then some 6
  else if 0x0D0 ≤ opc ∧ opc ≤ 0x0D8 then some 7
  else if 0x0E0 ≤ opc ∧ opc ≤ 0x0E6 then some 8
  else if 0x0F0 ≤ opc ∧ opc ≤ 0x0FB then some 9
  else none

/-- The opcode of a word (R48). -/
def opcodeOf (w : DWord) : Nat := bits w 60 52

/-- BRA, BRX, CALL, CALLX, RET and EXIT, with ERET and HALT, are the control transfers of R46. -/
def isTransfer (opc : Nat) : Bool := decide (0x060 ≤ opc ∧ opc ≤ 0x065) || opc == 0x0F2 || opc == 0x0F3

/-- The decoder: total, and each refusal named in the order of R62. -/
def decode (w : DWord) : Except DecodeError Instr :=
  match readCtl w with
  | none => .error .illegalVersion
  | some c =>
    match opClass (opcodeOf w) with
    | none => .error .unassignedOpcode
    | some _ =>
      match readOp (opcodeOf w) c w with
      | none => .error .reservedField
      | some i => if i.wf then .ok i else .error .reservedField

/-- A clause header's fields (R44). -/
structure Header where
  cls : Nat
  count : Nat
  wldc : Nat
  wstc : Nat
  wxc : Nat
  wmc : Nat
  deriving DecidableEq, Repr

/-- A valid header (R44, R47): `count` is the number of instructions. -/
def readHeader (w : DWord) : Option Header :=
  if bits w 63 62 = 3 ∧ bits w 61 58 < 10 ∧ bits w 37 0 = 0 then
    some ⟨bits w 61 58, bits w 57 54 + 1, bits w 53 50, bits w 49 46, bits w 45 42, bits w 41 38⟩
  else none

/-- The word of a header (R44). -/
def packHeader (h : Header) : DWord :=
  (3 : BitVec 2) ++ (BitVec.ofNat 4 h.cls ++ (BitVec.ofNat 4 (h.count - 1) ++ (BitVec.ofNat 4 h.wldc ++
    (BitVec.ofNat 4 h.wstc ++ (BitVec.ofNat 4 h.wxc ++ (BitVec.ofNat 4 h.wmc ++ (0 : BitVec 38)))))))

/-- Bits [63:48] of a word (R48). -/
def packCtl (opc : Nat) (c : Ctl) : BitVec 16 :=
  (if c.compat then 1 else 0 : BitVec 2) ++ (BitVec.ofBool c.sw ++ (BitVec.ofNat 9 opc ++ (BitVec.ofBool c.gn ++ c.gp)))

def packRRR (opc : Nat) (f : RRR) : DWord :=
  packCtl opc f.ctl ++ (f.d ++ (f.a ++ (f.b ++ (f.c ++ (f.ty.code ++ (f.rm.code ++ (BitVec.ofBool f.sat ++
    (BitVec.ofBool f.bg ++ (BitVec.ofBool f.ag ++ f.opx)))))))))

def packRI (opc : Nat) (f : RI) : DWord :=
  packCtl opc f.ctl ++ (f.d ++ (f.a ++ (f.ty.code ++ (f.rm.code ++ (BitVec.ofBool f.sat ++ (f.opx ++ f.imm))))))

def packWI (opc : Nat) (f : WI) : DWord := packCtl opc f.ctl ++ (f.d ++ (f.ty.code ++ ((0 : BitVec 4) ++ f.imm)))

def packMF (opc : Nat) (f : MF) : DWord :=
  packCtl opc f.ctl ++ (f.data ++ (f.base ++ (f.aux ++ (f.bk.code ++ (f.scope.code ++ (f.ord.code ++ (f.ty.code ++
    (BitVec.ofBool f.lax ++ (f.hint.code ++ f.disp)))))))))

def packBF (opc : Nat) (f : BF) : DWord :=
  packCtl opc f.ctl ++ (f.reg ++ ((0 : BitVec 4) ++ (BitVec.ofBool f.mv ++ (f.msk ++ f.off))))

def packEF (opc : Nat) (f : EF) : DWord := packCtl opc f.ctl ++ (f.a ++ (f.b ++ (f.c ++ (f.x ++ (f.imm8 ++ f.flags)))))

/-- The encoder: the word of an instruction (R53 to R60); none for an event, which is no word. -/
def encode : Instr → Option DWord
  | .add f => some (packRRR 0x000 f)
  | .addImm f => some (packRI 0x020 f)
  | .sub f => some (packRRR 0x001 f)
  | .subImm f => some (packRI 0x021 f)
  | .mul f => some (packRRR 0x002 f)
  | .mulImm f => some (packRI 0x022 f)
  | .mulhi f => some (packRRR 0x003 f)
  | .mad f => some (packRRR 0x004 f)
  | .fma f => some (packRRR 0x005 f)
  | .min f => some (packRRR 0x006 f)
  | .minImm f => some (packRI 0x023 f)
  | .max f => some (packRRR 0x007 f)
  | .maxImm f => some (packRI 0x024 f)
  | .abs f => some (packRRR 0x008 f)
  | .neg f => some (packRRR 0x009 f)
  | .and f => some (packRRR 0x00A f)
  | .andImm f => some (packRI 0x025 f)
  | .or f => some (packRRR 0x00B f)
  | .orImm f => some (packRI 0x026 f)
  | .xor f => some (packRRR 0x00C f)
  | .xorImm f => some (packRI 0x027 f)
  | .not f => some (packRRR 0x00D f)
  | .ttbl f => some (packRRR 0x00E f)
  | .shl f => some (packRRR 0x00F f)
  | .shlImm f => some (packRI 0x028 f)
  | .shr f => some (packRRR 0x010 f)
  | .shrImm f => some (packRI 0x029 f)
  | .rot f => some (packRRR 0x011 f)
  | .rotImm f => some (packRI 0x02A f)
  | .popc f => some (packRRR 0x012 f)
  | .clz f => some (packRRR 0x013 f)
  | .brev f => some (packRRR 0x014 f)
  | .bfe f => some (packRRR 0x015 f)
  | .bfeImm f => some (packRI 0x02C f)
  | .bfi f => some (packRRR 0x016 f)
  | .setp f => some (packRRR 0x017 f)
  | .setpImm f => some (packRI 0x02B f)
  | .sel f => some (packRRR 0x018 f)
  | .plop f => some (packRRR 0x019 f)
  | .cvt f => some (packRRR 0x030 f)
  | .cvtx f => some (packRRR 0x031 f)
  | .pack f => some (packRRR 0x032 f)
  | .unpack f => some (packRRR 0x033 f)
  | .mov f => some (packRRR 0x034 f)
  | .movi f => some (packWI 0x035 f)
  | .movs f => some (packRI 0x036 f)
  | .movg f => some (packRRR 0x037 f)
  | .lxch f => some (packRRR 0x040 f)
  | .pagg f => some (packRRR 0x041 f)
  | .pmask f => some (packRRR 0x042 f)
  | .xred f => some (packRRR 0x043 f)
  | .qx f => some (packRRR 0x044 f)
  | .rcp f => some (packRRR 0x045 f)
  | .rsq f => some (packRRR 0x046 f)
  | .sqrt f => some (packRRR 0x047 f)
  | .exp2 f => some (packRRR 0x048 f)
  | .log2 f => some (packRRR 0x049 f)
  | .sin f => some (packRRR 0x04A f)
  | .cos f => some (packRRR 0x04B f)
  | .tanh f => some (packRRR 0x04C f)
  | .div f => some (packRRR 0x04D f)
  | .bra f => some (packBF 0x060 f)
  | .brx f => some (packBF 0x061 f)
  | .call f => some (packBF 0x062 f)
  | .callx f => some (packBF 0x063 f)
  | .ret f => some (packBF 0x064 f)
  | .exit f => some (packBF 0x065 f)
  | .yield f => some (packEF 0x066 f)
  | .trap f => some (packEF 0x067 f)
  | .bkpt f => some (packEF 0x068 f)
  | .mset f => some (packEF 0x069 f)
  | .reconv f => some (packEF 0x06A f)
  | .bar f => some (packEF 0x06B f)
  | .arrive f => some (packEF 0x06C f)
  | .jset f => some (packEF 0x06D f)
  | .jread f => some (packEF 0x06E f)
  | .ld f => some (packMF 0x080 f)
  | .st f => some (packMF 0x081 f)
  | .lds f => some (packMF 0x082 f)
  | .sts f => some (packMF 0x083 f)
  | .ldss f => some (packMF 0x084 f)
  | .stss f => some (packMF 0x085 f)
  | .stn f => some (packMF 0x086 f)
  | .repark f => some (packMF 0x087 f)
  | .locate f => some (packMF 0x088 f)
  | .parkq f => some (packMF 0x089 f)
  | .rstld f => some (packMF 0x08A f)
  | .ldfe f => some (packMF 0x08B f)
  | .stfe f => some (packMF 0x08C f)
  | .feset f => some (packMF 0x08D f)
  | .tst f => some (packMF 0x08E f)
  | .retract f => some (packMF 0x08F f)
  | .commit f => some (packMF 0x090 f)
  | .atom f => some (packMF 0x091 f)
  | .atomc f => some (packMF 0x092 f)
  | .atoms f => some (packMF 0x093 f)
  | .red f => some (packMF 0x094 f)
  | .fence f => some (packMF 0x095 f)
  | .waitc f => some (packEF 0x096 f)
  | .clean f => some (packEF 0x097 f)
  | .inval f => some (packEF 0x098 f)
  | .pref f => some (packMF 0x099 f)
  | .mvec f => some (packEF 0x0A0 f)
  | .mvwait f => some (packEF 0x0A1 f)
  | .mma f => some (packEF 0x0A8 f)
  | .accz f => some (packEF 0x0A9 f)
  | .accld f => some (packEF 0x0AA f)
  | .accmv f => some (packEF 0x0AB f)
  | .accst f => some (packEF 0x0AC f)
  | .accrel f => some (packEF 0x0AD f)
  | .mmq f => some (packEF 0x0AE f)
  | .opfence f => some (packEF 0x0AF f)
  | .mwait f => some (packEF 0x0B0 f)
  | .tidld f => some (packEF 0x0B1 f)
  | .tidinv f => some (packEF 0x0B2 f)
  | .cpy f => some (packEF 0x0C0 f)
  | .cpyg f => some (packEF 0x0C1 f)
  | .cpys f => some (packEF 0x0C2 f)
  | .cpywait f => some (packEF 0x0C3 f)
  | .cpydec f => some (packEF 0x0C4 f)
  | .strmb f => some (packEF 0x0C5 f)
  | .strmu f => some (packEF 0x0C6 f)
  | .strmq f => some (packEF 0x0C7 f)
  | .launch f => some (packEF 0x0D0 f)
  | .lwait f => some (packEF 0x0D1 f)
  | .tspawn f => some (packEF 0x0D2 f)
  | .tsignal f => some (packEF 0x0D3 f)
  | .tdone f => some (packEF 0x0D4 f)
  | .stloop f => some (packEF 0x0D5 f)
  | .stage f => some (packEF 0x0D6 f)
  | .waitl f => some (packEF 0x0D7 f)
  | .stend f => some (packEF 0x0D8 f)
  | .colload f => some (packEF 0x0E0 f)
  | .colrun f => some (packEF 0x0E1 f)
  | .colwait f => some (packEF 0x0E2 f)
  | .colq f => some (packEF 0x0E3 f)
  | .rput f => some (packEF 0x0E4 f)
  | .rget f => some (packEF 0x0E5 f)
  | .recirc f => some (packEF 0x0E6 f)
  | .csrr f => some (packEF 0x0F0 f)
  | .csrw f => some (packEF 0x0F1 f)
  | .eret f => some (packEF 0x0F2 f)
  | .halt f => some (packEF 0x0F3 f)
  | .preempt f => some (packEF 0x0F4 f)
  | .keyld f => some (packEF 0x0F5 f)
  | .tlbinv f => some (packEF 0x0F6 f)
  | .tlbsync f => some (packEF 0x0F7 f)
  | .tlblock f => some (packEF 0x0F8 f)
  | .tlbunlk f => some (packEF 0x0F9 f)
  | .tlbpre f => some (packEF 0x0FA f)
  | .resume f => some (packEF 0x0FB f)
  | .resultReturn _ => none
  | .lateCause _ => none
  | .heldArrival _ => none
  | .barrierTimeOut _ => none
  | .yieldExpiry _ => none
  | .homeWriteAccept _ => none
  | .parkNotice _ => none
  | .parkWriteBackLand _ => none
  | .flushedReductionApply _ => none
  | .watcherReport _ => none
  | .monitorPoll _ => none
  | .waitcTimeOut _ => none
  | .granuleStep _ _ => none
  | .matrixOpStart _ => none
  | .matrixOpComplete _ => none
  | .matrixSignTimeOut _ => none
  | .copyCommandComplete _ => none
  | .streamPopResume _ => none
  | .streamPushResume _ => none
  | .blockRetire _ => none
  | .blockSave _ => none
  | .blockRestore _ => none
  | .launchEnd _ => none
  | .taskPop _ => none
  | .taskComplete _ => none
  | .iterationHandout _ => none
  | .stageUpdateVisible _ => none
  | .stageWaitTimeOut _ => none
  | .pageFault _ => none
  | .nodeStart _ => none
  | .nodeComplete _ => none
  | .chunkArrival _ _ => none
  | .remoteRequest _ => none
  | .remoteTransferComplete _ => none
  | .flitReceive _ _ => none
  | .linkDown _ => none
  | .peerSilence _ => none
  | .linkTrained _ => none
  | .drainTimeOut _ _ => none
  | .reconfigurationTimeOut _ _ => none
  | .requestResend _ _ => none
  | .controllerReply _ => none
  | .neighbourSolicitation _ => none
  | .controlFrameReceive _ => none
  | .mailboxDoorbell _ _ => none
  | .optPortcfgWrite _ => none
  | .optDomctlWrite _ => none
  | .lndGateLock _ => none
  | .sysHostirq _ => none
  | .sysNvdb _ => none
  | .registerWrite _ => none
  | .eventModeEntry _ => none
  | .hostWrite _ _ => none
  | .hostRead _ _ _ => none
  | .functionLevelReset _ => none
  | .lockInterface _ => none
  | .nvmeCompletion _ => none
  | .getVersion _ => none
  | .getCapabilities _ => none
  | .negotiateAlgorithms _ => none
  | .getDigests _ => none
  | .getCertificate _ => none
  | .challenge _ => none
  | .getMeasurements _ => none
  | .keyExchange _ => none
  | .finish _ => none
  | .heartbeat _ => none
  | .keyUpdate _ => none
  | .endSession _ => none
  | .vendorDefinedRequest _ => none
  | .packageReset => none
  | .partitionReset _ => none
  | .snapshot => none
  | .powerWindow _ => none
  | .thermalStateChange _ _ => none
  | .coreSpare _ => none
  | .rowSpare _ _ => none
  | .writeBackError _ => none
  | .copyLineArrival _ _ => none
  | .operandFetchEnd _ => none
  | .startInterfaceRequest _ => none
  | .quietModeSlot => none
  | .storageDma _ => none

/-- The decoder on a word numbered as spec/opcode_table.json numbers bits; a word is 64 bits, so the bits above `nbits`
are those of `w` above it, all 0. -/
def decodeTableWord (_nbits w : Nat) : Option Instr :=
  match decode (BitVec.ofNat 64 w) with
  | .ok i => some i
  | .error _ => none

end Sys2Proof
end

