-- ==== Sys2Proof/Machine/Float.lean ====
section
/-! DEFINITION. Number formats and exact arithmetic (spec/04): a value is taken out of its format exactly, combined exactly
on integers, and placed in a format with one rounding. -/
namespace Sys2Proof.Machine

/-- A floating-point format of R70: exponent and mantissa bits, bias, its encoding of the largest finite magnitude, its
infinity where it has one, and its canonical NaN where it has one. -/
structure Fmt where
  ebits : Nat
  mbits : Nat
  bias : Nat
  maxFin : Nat
  inf : Option Nat
  nan : Option Nat
  deriving DecidableEq, Repr

namespace Fmt
def f32 : Fmt := ⟨8, 23, 127, 0x7F7FFFFF, some 0x7F800000, some 0x7FC00000⟩
def bf16 : Fmt := ⟨8, 7, 127, 0x7F7F, some 0x7F80, some 0x7FC0⟩
def f16 : Fmt := ⟨5, 10, 15, 0x7BFF, some 0x7C00, some 0x7E00⟩
def e4m3 : Fmt := ⟨4, 3, 7, 0x7E, none, some 0x7F⟩
def e5m2 : Fmt := ⟨5, 2, 15, 0x7B, some 0x7C, some 0x7E⟩
def e2m1 : Fmt := ⟨2, 1, 1, 0x7, none, none⟩
def e2m3 : Fmt := ⟨2, 3, 1, 0x1F, none, none⟩
def e3m2 : Fmt := ⟨3, 2, 3, 0x1F, none, none⟩
/-- The width of the format less its sign. -/
def magBits (f : Fmt) : Nat := f.ebits + f.mbits
end Fmt

/-- The format of a floating-point type (R63). An integer or raw type has none; FP32 stands for it and is never used. -/
def Ty.fmt : Ty → Fmt
  | .f32 => .f32 | .bf16 => .bf16 | .f16 => .f16 | .e4m3 => .e4m3 | .e5m2 => .e5m2 | .e2m1 => .e2m1
  | .i8 | .i16 | .i32 | .i64 | .n8 | .n16 | .n32 | .n64 | .b32 | .b64 => .f32

/-- An exact value: not a number, an infinity, or (−1)^neg · m · 2^e. -/
inductive Fl where
  | nan
  | inf (neg : Bool)
  | fin (neg : Bool) (m : Nat) (e : Int)
  deriving DecidableEq, Repr

namespace Fl

def zero (neg : Bool) : Fl := .fin neg 0 0

def isNan : Fl → Bool
  | .nan => true | .inf _ => false | .fin _ _ _ => false

def isZero : Fl → Bool
  | .fin _ m _ => m == 0 | .nan => false | .inf _ => false

def sign : Fl → Bool
  | .nan => false | .inf n => n | .fin n _ _ => n

def negate : Fl → Fl
  | .nan => .nan | .inf n => .inf (!n) | .fin n m e => .fin (!n) m e

/-- The value that bits hold in a format (R69, R70). -/
def ofBits (f : Fmt) (x : Nat) : Fl :=
  let neg := x / 2 ^ f.magBits % 2 == 1
  let mag := x % 2 ^ f.magBits
  let ef := mag / 2 ^ f.mbits
  let m := mag % 2 ^ f.mbits
  if f.inf = some mag then .inf neg
  else if mag > f.maxFin then .nan
  else if ef = 0 then .fin neg m (1 - (f.bias : Int) - f.mbits)
  else .fin neg (m + 2 ^ f.mbits) ((ef : Int) - f.bias - f.mbits)

/-- Rounds a magnitude `m` whose low `k` bits fall away (R65, R77). -/
def roundShift (rm : Rm) (neg : Bool) (m k : Nat) : Nat :=
  let q := m / 2 ^ k
  let r := m % 2 ^ k
  let up := match rm with
    | .rne => decide (2 * r > 2 ^ k) || (decide (2 * r = 2 ^ k) && q % 2 == 1)
    | .rna => decide (2 * r ≥ 2 ^ k) && decide (0 < r)
    | .rz => false
    | .rdn => neg && decide (0 < r)
    | .rup => !neg && decide (0 < r)
  if up then q + 1 else q

/-- The encoding of NaN in a format; +0 where it has none (R72, R79). -/
def nanBits (f : Fmt) : Nat := f.nan.getD 0

/-- The encoding of an infinite result (R78): the format's infinity; NaN in E4M3; the largest finite value in a format with
neither. -/
def infBits (f : Fmt) (sat neg : Bool) : Nat :=
  let s := if neg then 2 ^ f.magBits else 0
  if sat then s + f.maxFin
  else match f.inf with
    | some i => s + i
    | none => match f.nan with
      | some n => n
      | none => s + f.maxFin

/-- The encoding of an overflow under a mode (R78, R79). -/
def overflowBits (f : Fmt) (rm : Rm) (sat neg : Bool) : Nat :=
  let s := if neg then 2 ^ f.magBits else 0
  match rm with
  | .rne | .rna => infBits f sat neg
  | .rz => s + f.maxFin
  | .rdn => if neg then infBits f sat neg else s + f.maxFin
  | .rup => if neg then s + f.maxFin else infBits f sat neg

/-- place(): one rounding of an exact value into a format (R77, R78, R79). -/
def place (f : Fmt) (rm : Rm) (sat : Bool) : Fl → Nat
  | .nan => nanBits f
  | .inf neg => infBits f sat neg
  | .fin neg m e =>
    let s := if neg then 2 ^ f.magBits else 0
    if m = 0 then s
    else
      let emin : Int := 1 - (f.bias : Int)
      let ex : Int := e + (Nat.log2 m : Nat)
      let q : Int := (if ex < emin then emin else ex) - f.mbits
      let k := if q ≤ e then m * 2 ^ (e - q).toNat else roundShift rm neg m (q - e).toNat
      -- a carry out of the mantissa moves to the next exponent by the layout of the encoding itself
      let enc := if k < 2 ^ f.mbits then k else ((q + f.mbits + f.bias).toNat - 1) * 2 ^ f.mbits + k
      if enc > f.maxFin then overflowBits f rm sat neg else s + enc

/-- The exact sum of two values, with the sign of an exact zero by R77 and special values by R83. -/
def add (rm : Rm) : Fl → Fl → Fl
  | .nan, _ => .nan
  | _, .nan => .nan
  | .inf a, .inf b => if a == b then .inf a else .nan
  | .inf a, .fin _ _ _ => .inf a
  | .fin _ _ _, .inf b => .inf b
  | .fin na ma ea, .fin nb mb eb =>
    let e := if ea < eb then ea else eb
    let x : Int := ma * 2 ^ (ea - e).toNat
    let y : Int := mb * 2 ^ (eb - e).toNat
    let z := (if na then -x else x) + (if nb then -y else y)
    if z = 0 then
      if ma = 0 ∧ mb = 0 ∧ na = nb then zero na else zero (rm == .rdn)
    else .fin (decide (z < 0)) z.natAbs e

/-- The exact product (R83). -/
def mul : Fl → Fl → Fl
  | .nan, _ => .nan
  | _, .nan => .nan
  | .inf a, .inf b => .inf (a != b)
  | .inf a, .fin b m _ => if m = 0 then .nan else .inf (a != b)
  | .fin a m _, .inf b => if m = 0 then .nan else .inf (a != b)
  | .fin a ma ea, .fin b mb eb => .fin (a != b) (ma * mb) (ea + eb)

/-- An exact value with a mark that a nonzero rest lies below it: one bit more, set. -/
def withRest (neg : Bool) (m : Nat) (e : Int) (rest : Bool) : Fl :=
  if rest then .fin neg (2 * m + 1) (e - 1) else .fin neg m e

/-- The quotient, exact up to a rest below 2^-200 of it (R83). -/
def div : Fl → Fl → Fl
  | .nan, _ => .nan
  | _, .nan => .nan
  | .inf _, .inf _ => .nan
  | .inf a, .fin b _ _ => .inf (a != b)
  | .fin a _ _, .inf b => zero (a != b)
  | .fin a ma ea, .fin b mb eb =>
    if mb = 0 then (if ma = 0 then .nan else .inf (a != b))
    else
      let n := ma * 2 ^ 200
      withRest (a != b) (n / mb) (ea - eb - 200) (n % mb != 0)

/-- The integer square root, one bit at a time from bit `k`. -/
def isqrtFrom (n : Nat) : Nat → Nat → Nat
  | 0, r => if (r + 1) * (r + 1) ≤ n then r + 1 else r
  | k + 1, r => isqrtFrom n k (if (r + 2 ^ (k + 1)) * (r + 2 ^ (k + 1)) ≤ n then r + 2 ^ (k + 1) else r)

def isqrt (n : Nat) : Nat := isqrtFrom n (Nat.log2 n / 2 + 1) 0

/-- The square root (R83). -/
def sqrt : Fl → Fl
  | .nan => .nan
  | .inf neg => if neg then .nan else .inf false
  | .fin neg m e =>
    if m = 0 then .fin neg 0 0
    else if neg then .nan
    else
      let odd := e % 2 = 1
      let n := (if odd then 2 * m else m) * 2 ^ 200
      let e' := (if odd then e - 1 else e) - 200
      let r := isqrt n
      withRest false r (e' / 2) (r * r != n)

/-- The reciprocal square root (R144). -/
def rsqrt : Fl → Fl
  | .nan => .nan
  | .inf neg => if neg then .nan else zero false
  | .fin neg m e =>
    if m = 0 then .inf neg
    else if neg then .nan
    else
      let odd := e % 2 = 1
      let n := if odd then 2 * m else m
      let e' := if odd then e - 1 else e
      let r := isqrt (2 ^ 400 / n)
      withRest false r (-(e' / 2) - 200) (r * r * n != 2 ^ 400)

/-- The reciprocal (R144). -/
def recip (x : Fl) : Fl := div (.fin false 1 0) x

/-- Whether a magnitude is below another. -/
def magLt (ma : Nat) (ea : Int) (mb : Nat) (eb : Int) : Bool :=
  let e := if ea < eb then ea else eb
  decide (ma * 2 ^ (ea - e).toNat < mb * 2 ^ (eb - e).toNat)

/-- a < b for values that are no NaN; zeros are equal. -/
def lt : Fl → Fl → Bool
  | .nan, _ => false
  | _, .nan => false
  | .inf a, .inf b => a && !b
  | .inf a, .fin _ _ _ => a
  | .fin _ _ _, .inf b => !b
  | .fin na ma ea, .fin nb mb eb =>
    if ma = 0 ∧ mb = 0 then false
    else if ma = 0 then !nb
    else if mb = 0 then na
    else if na != nb then na
    else if na then magLt mb eb ma ea
    else magLt ma ea mb eb

/-- a == b for values that are no NaN. -/
def eq (a b : Fl) : Bool := !a.isNan && !b.isNan && !lt a b && !lt b a

/-- MIN and MAX (R83). -/
def minOf (a b : Fl) : Fl :=
  if a.isNan then b else if b.isNan then a
  else if a.isZero && b.isZero then (if a.sign then a else b)
  else if lt b a then b else a
def maxOf (a b : Fl) : Fl :=
  if a.isNan then b else if b.isNan then a
  else if a.isZero && b.isZero then (if a.sign then b else a)
  else if lt a b then b else a

/-- An integer as an exact value. -/
def ofInt (x : Int) : Fl := .fin (decide (x < 0)) x.natAbs 0

/-- The value rounded to an integer under a mode; none for NaN and infinities (R80). -/
def toInt (rm : Rm) : Fl → Option Int
  | .nan => none
  | .inf _ => none
  | .fin neg m e =>
    let k := if 0 ≤ e then m * 2 ^ e.toNat else roundShift rm neg m (-e).toNat
    some (if neg then -(k : Int) else k)

/-- Multiplies by a power of two exactly (R84, R85). -/
def scale (x : Fl) (k : Int) : Fl :=
  match x with
  | .nan => .nan | .inf n => .inf n | .fin n m e => .fin n m (e + k)

/-- An E8M0 scale as an exact value (R71). -/
def ofScale (b : Nat) : Fl := if b = 255 then .nan else .fin false 1 ((b : Int) - 127)

/-! ### Functions of R144, computed to 640 bits below the binary point. The rounding of the exact result is that of its
neighbourhood of width 2^-600, since no format of R144 has a boundary of rounding that near to a result that is not exact
(log entry 12). -/

/-- Bits below the binary point. -/
def prec : Nat := 640

/-- Sum of 1/(k·2^k), k = n .. 1, with `p` bits: ln 2. -/
def ln2Sum (p : Nat) : Nat → Nat
  | 0 => 0
  | k + 1 => ln2Sum p k + 2 ^ p / ((k + 1) * 2 ^ (k + 1))

/-- ln 2 with `p` bits. -/
def ln2 (p : Nat) : Nat := ln2Sum (p + 40) (p + 40) / 2 ^ 40

/-- Sum over j of ±t_j/(2j+1), t_{j+1} = t_j / n². -/
def atanSum (n2 : Nat) : Nat → Nat → Nat → Int
  | 0, _, _ => 0
  | k + 1, t, d => (t / d : Nat) - atanSum n2 k (t / n2) (d + 2)

/-- π with `p` bits by Machin's formula. -/
def piBits (p : Nat) : Nat :=
  let q := p + 60
  (16 * atanSum 25 (q / 4) (2 ^ q / 5) 1 - 4 * atanSum 57121 (q / 15) (2 ^ q / 239) 1).toNat / 2 ^ 60

/-- Taylor sum of e^y, y with `p` bits and below 1. -/
def expSum (p y : Nat) : Nat → Nat → Nat → Nat
  | 0, _, _ => 0
  | k + 1, t, j => t + expSum p y k (t * y / 2 ^ p / j) (j + 1)

/-- e^y with `p` bits, y below 1. -/
def expFrac (p y : Nat) : Nat := expSum p y 200 (2 ^ p) 1

/-- Alternating Taylor sum in y² : t − t·y²/(j(j+1)) + … -/
def trigSum (p y2 : Nat) : Nat → Nat → Nat → Int
  | 0, _, _ => 0
  | k + 1, t, j => (t : Int) - trigSum p y2 k (t * y2 / 2 ^ p / (j * (j + 1))) (j + 2)

/-- sin r and cos r for r in [0, 2) with `p` bits. -/
def sinFrac (p r : Nat) : Int := trigSum p (r * r / 2 ^ p) 120 r 2
def cosFrac (p r : Nat) : Int := trigSum p (r * r / 2 ^ p) 120 (2 ^ p) 1

/-- Sum of z^(2k+1)/(2k+1) with `p` bits. -/
def atanhSum (p z2 : Nat) : Nat → Nat → Nat → Nat
  | 0, _, _ => 0
  | k + 1, t, d => t / d + atanhSum p z2 k (t * z2 / 2 ^ p) (d + 2)

/-- An inexact result as an exact value with a rest. -/
def approx (neg : Bool) (m : Nat) (p : Nat) (n : Int) : Fl := withRest neg m (n - p) true

/-- EXP2 (R144). -/
def exp2 : Fl → Fl
  | .nan => .nan
  | .inf neg => if neg then zero false else .inf false
  | .fin neg m e =>
    if m = 0 then .fin false 1 0
    else if 12 < e + (Nat.log2 m : Nat) then (if neg then withRest false 0 (-5000) true else .fin false 1 5000)
    else
      let x : Int := if prec + e < 0 then 0 else m * 2 ^ (prec + e).toNat
      let x := if neg then -x else x
      let n := x / (2 ^ prec : Nat)
      let f := (x % (2 ^ prec : Nat)).toNat
      if f = 0 then .fin false 1 n
      else approx false (expFrac prec (f * ln2 prec / 2 ^ prec)) prec n

/-- LOG2 (R144). -/
def log2 : Fl → Fl
  | .nan => .nan
  | .inf neg => if neg then .nan else .inf false
  | .fin neg m e =>
    if m = 0 then .inf true
    else if neg then .nan
    else
      let l := Nat.log2 m
      let n : Int := e + l
      if m = 2 ^ l then (if n = 0 then zero false else ofInt n)
      else
        -- z = (x − 1)/(x + 1) for x = m / 2^l in (1, 2)
        let z := (m - 2 ^ l) * 2 ^ prec / (m + 2 ^ l)
        let ln := 2 * atanhSum prec (z * z / 2 ^ prec) 220 z 1
        let r : Int := n * (2 ^ prec : Nat) + (ln * 2 ^ prec / ln2 prec : Nat)
        if r < 0 then withRest true ((-r).toNat - 1) (-(prec : Int)) true else withRest false r.toNat (-(prec : Int)) true

/-- x mod π/2 with `prec` bits, and the quadrant, for a magnitude m·2^e. -/
def reduce (m : Nat) (e : Int) : Nat × Nat :=
  let big := prec + 160
  let half := piBits big / 2
  let x := if (big : Int) + e < 0 then 0 else m * 2 ^ ((big : Int) + e).toNat
  (x / half, x % half / 2 ^ 160)

/-- A signed fixed-point number as an inexact value. -/
def ofFixed (neg : Bool) (x : Int) : Fl :=
  if x < 0 then withRest (!neg) ((-x).toNat) (-(prec : Int)) true else withRest neg x.toNat (-(prec : Int)) true

/-- A tiny argument's result just inside it: f(x) = x less a rest. -/
def justInside (neg : Bool) (m : Nat) (e : Int) : Fl := withRest neg (m * 2 ^ 200 - 1) (e - 200) true

/-- SIN (R144). -/
def sin : Fl → Fl
  | .nan => .nan
  | .inf _ => .nan
  | .fin neg m e =>
    if m = 0 then zero neg
    else if e + (Nat.log2 m : Nat) < -100 then justInside neg m e
    else
      let (k, r) := reduce m e
      match k % 4 with
      | 0 => ofFixed neg (sinFrac prec r)
      | 1 => ofFixed neg (cosFrac prec r)
      | 2 => ofFixed (!neg) (sinFrac prec r)
      | _ => ofFixed (!neg) (cosFrac prec r)

/-- COS (R144). -/
def cos : Fl → Fl
  | .nan => .nan
  | .inf _ => .nan
  | .fin _ m e =>
    if m = 0 then .fin false 1 0
    else if e + (Nat.log2 m : Nat) < -100 then justInside false 1 0
    else
      let (k, r) := reduce m e
      match k % 4 with
      | 0 => ofFixed false (cosFrac prec r)
      | 1 => ofFixed true (sinFrac prec r)
      | 2 => ofFixed true (cosFrac prec r)
      | _ => ofFixed false (sinFrac prec r)

/-- TANH (R144): (E − 1)/(E + 1) for E = e^(2x). -/
def tanh : Fl → Fl
  | .nan => .nan
  | .inf neg => .fin neg 1 0
  | .fin neg m e =>
    if m = 0 then zero neg
    else if e + (Nat.log2 m : Nat) < -100 then justInside neg m e
    else if 8 < e + (Nat.log2 m : Nat) then justInside neg 1 0
    else
      let y := if (prec : Int) + e + 1 < 0 then 0 else m * 2 ^ ((prec : Int) + e + 1).toNat
      let l := ln2 prec
      let n := y / l
      let E := expFrac prec (y % l) * 2 ^ n
      withRest neg ((E - 2 ^ prec) * 2 ^ prec / (E + 2 ^ prec)) (-(prec : Int)) true

end Fl
end Sys2Proof.Machine
end

