-- ==== Sys2Proof/Machine/Alu.lean ====
section
/-! DEFINITION. The values that lane instructions compute from their operands (spec/04, spec/06): operands and results are raw
64-bit values, of which a 32-bit or narrower type uses the low bits. -/
namespace Sys2Proof.Machine.Alu

/-- rd(F) of an integer or raw type (R115): the low w bits, signed for `.i` types. -/
def int (t : Ty) (x : DWord) : Int :=
  let u := x.toNat % 2 ^ t.width
  if t.signed && decide (2 ^ (t.width - 1) ≤ u) then (u : Int) - 2 ^ t.width else u

/-- rd(F) of a floating-point type (R115). -/
def flt (t : Ty) (x : DWord) : Fl := Fl.ofBits (Ty.fmt t) (x.toNat % 2 ^ t.width)

/-- wrap(x) of R115: x mod 2^w read as the type. -/
def wrapInt (t : Ty) (x : Int) : Int :=
  let u := x % 2 ^ t.width
  if t.signed && decide (2 ^ (t.width - 1) ≤ u) then u - 2 ^ t.width else u

/-- The ends of an integer type's range (R74). -/
def loInt (t : Ty) : Int := if t.signed then -(2 ^ (t.width - 1)) else 0
def hiInt (t : Ty) : Int := if t.signed then 2 ^ (t.width - 1) - 1 else 2 ^ t.width - 1

/-- clamp(x) of R115. -/
def clampInt (t : Ty) (x : Int) : Int := if x < loInt t then loInt t else if hiInt t < x then hiInt t else x

/-- The register image of a value of an integer type: extended to 32 bits, or 64 for a pair (R115). -/
def image (t : Ty) (x : Int) : DWord := if t.is64 then BitVec.ofInt 64 x else (BitVec.ofInt 32 x).zeroExtend 64

/-- wr(D, clamp(x)) or wr(D, wrap(x)) (R120). -/
def putInt (t : Ty) (sat : Bool) (x : Int) : DWord := image t (if sat then clampInt t x else wrapInt t x)

/-- wr(D, place(x)). -/
def putFlt (t : Ty) (rm : Rm) (sat : Bool) (x : Fl) : DWord := BitVec.ofNat 64 (Fl.place (Ty.fmt t) rm sat x)

/-- The rounding and saturation an instruction names. -/
structure Mode where
  ty : Ty
  rm : Rm
  sat : Bool

/-- ADD, SUB, MUL (R120). -/
def add (m : Mode) (a b : DWord) : DWord :=
  if m.ty.isInt then putInt m.ty m.sat (int m.ty a + int m.ty b)
  else putFlt m.ty m.rm m.sat (Fl.add m.rm (flt m.ty a) (flt m.ty b))
def sub (m : Mode) (a b : DWord) : DWord :=
  if m.ty.isInt then putInt m.ty m.sat (int m.ty a - int m.ty b)
  else putFlt m.ty m.rm m.sat (Fl.add m.rm (flt m.ty a) (flt m.ty b).negate)
def mul (m : Mode) (a b : DWord) : DWord :=
  if m.ty.isInt then putInt m.ty m.sat (int m.ty a * int m.ty b)
  else putFlt m.ty m.rm m.sat (Fl.mul (flt m.ty a) (flt m.ty b))

/-- MULHI (R121): the upper w bits of the exact product. -/
def mulhi (m : Mode) (a b : DWord) : DWord := putInt m.ty false (int m.ty a * int m.ty b / 2 ^ m.ty.width)

/-- MAD and FMA (R122). A zero times an infinity is NaN whatever the addend (R83). -/
def mad (m : Mode) (a b c : DWord) : DWord :=
  if m.ty.isInt then putInt m.ty m.sat (int m.ty a * int m.ty b + int m.ty c)
  else putFlt m.ty m.rm m.sat (Fl.add m.rm (Fl.mul (flt m.ty a) (flt m.ty b)) (flt m.ty c))

/-- MIN, MAX (R120, R83). -/
def min (m : Mode) (a b : DWord) : DWord :=
  if m.ty.isInt then image m.ty (if int m.ty b < int m.ty a then int m.ty b else int m.ty a)
  else putFlt m.ty .rne false (Fl.minOf (flt m.ty a) (flt m.ty b))
def max (m : Mode) (a b : DWord) : DWord :=
  if m.ty.isInt then image m.ty (if int m.ty a < int m.ty b then int m.ty b else int m.ty a)
  else putFlt m.ty .rne false (Fl.maxOf (flt m.ty a) (flt m.ty b))

/-- ABS, NEG (R123). -/
def abs (m : Mode) (a : DWord) : DWord :=
  if m.ty.isInt then putInt m.ty m.sat (Int.natAbs (int m.ty a))
  else putFlt m.ty .rne false (if (flt m.ty a).sign then (flt m.ty a).negate else flt m.ty a)
def neg (m : Mode) (a : DWord) : DWord :=
  if m.ty.isInt then putInt m.ty m.sat (-int m.ty a) else putFlt m.ty .rne false (flt m.ty a).negate

/-- Bits at the width of the type, as the type's register image. -/
def bits (t : Ty) (x : DWord) : DWord := image t (wrapInt t (x.toNat : Int))

/-- TTBL (R125): bit i of the result is TT[a_i + 2·b_i + 4·c_i]. -/
def ttbl (tt : BitVec 8) (a b c : DWord) : DWord :=
  let k (i : Nat) (x : DWord) : DWord := if tt.getLsbD i then x else 0
  k 0 (~~~a &&& ~~~b &&& ~~~c) ||| k 1 (a &&& ~~~b &&& ~~~c) ||| k 2 (~~~a &&& b &&& ~~~c) ||| k 3 (a &&& b &&& ~~~c)
    ||| k 4 (~~~a &&& ~~~b &&& c) ||| k 5 (a &&& ~~~b &&& c) ||| k 6 (~~~a &&& b &&& c) ||| k 7 (a &&& b &&& c)

/-- SHL, SHR, ROT (R126): `n` is the count. -/
def shl (t : Ty) (a : DWord) (n : Nat) : DWord := if t.width ≤ n then 0 else putInt t false ((a.toNat : Int) * 2 ^ n)
def shr (t : Ty) (a : DWord) (n : Nat) : DWord :=
  if t.width ≤ n then image t (if int t a < 0 then -1 else 0) else image t (int t a / 2 ^ n)
def rot (t : Ty) (a : DWord) (n : Nat) : DWord :=
  let w := t.width
  let u := a.toNat % 2 ^ w
  let k := n % w
  image t (wrapInt t ((u * 2 ^ k % 2 ^ w + u / 2 ^ (w - k) : Nat) : Int))

/-- The set bits among the low `w` of a number. -/
def popCount (w u : Nat) : Nat := (List.range w).foldl (fun n i => n + u / 2 ^ i % 2) 0

/-- POPC, CLZ, BREV (R127). -/
def popc (t : Ty) (a : DWord) : DWord := BitVec.ofNat 64 (popCount t.width (a.toNat % 2 ^ t.width))
def clz (t : Ty) (a : DWord) : DWord :=
  let u := a.toNat % 2 ^ t.width
  BitVec.ofNat 64 (if u = 0 then t.width else t.width - 1 - Nat.log2 u)
def brev (t : Ty) (a : DWord) : DWord :=
  BitVec.ofNat 64 ((List.range t.width).foldl (fun n i => n + a.toNat / 2 ^ i % 2 * 2 ^ (t.width - 1 - i)) 0)

/-- BFE, BFI (R128): the field spec holds the position in [7:0] and the length in [15:8]. -/
def bfe (t : Ty) (a : DWord) (s : Nat) : DWord :=
  let w := t.width
  let p := s % 256
  let n := Nat.min (s / 256 % 256) w
  let field := if w ≤ p then 0 else a.toNat % 2 ^ w / 2 ^ p % 2 ^ n
  if n = 0 then 0
  else if t.signed && decide (2 ^ (n - 1) ≤ field) then image t ((field : Int) - 2 ^ n) else image t field
def bfi (t : Ty) (a : DWord) (s : Nat) (c : DWord) : DWord :=
  let w := t.width
  let p := s % 256
  let n := Nat.min (s / 256 % 256) w
  let put (x i : Nat) : Nat :=
    if p + i < w then (if c.getLsbD i then x ||| 2 ^ (p + i) else if x.testBit (p + i) then x - 2 ^ (p + i) else x) else x
  BitVec.ofNat 64 ((List.range n).foldl put (a.toNat % 2 ^ w))

/-- CVT (R80, R81, R133): raw types convert as unsigned integers. -/
def cvt (src : Ty) (m : Mode) (a : DWord) : DWord :=
  if src.isFloat then
    let x := flt src a
    if m.ty.isFloat then putFlt m.ty m.rm m.sat x
    else match Fl.toInt m.rm x with
      | some i => image m.ty (clampInt m.ty i)
      | none => image m.ty (if x.isNan then 0 else if x.sign then loInt m.ty else hiInt m.ty)
  else if m.ty.isFloat then putFlt m.ty m.rm m.sat (Fl.ofInt (int src a))
  else putInt m.ty m.sat (int src a)

/-- CVTX (R76, R134): element i of the source to byte i. -/
def cvtx (kind : Nat) (m : Mode) (a : DWord) : DWord :=
  let elem (i : Nat) : Nat :=
    if kind = 0 then
      let u := a.toNat / 2 ^ (4 * i) % 16
      Fl.place (Ty.fmt m.ty) m.rm false (Fl.ofInt (if 8 ≤ u then (u : Int) - 16 else u))
    else
      Fl.place (Ty.fmt m.ty) m.rm false (Fl.ofBits (if kind = 1 then .e2m3 else .e3m2) (a.toNat / 2 ^ (6 * i) % 64))
  BitVec.ofNat 64 (elem 0 + elem 1 * 2 ^ 8 + elem 2 * 2 ^ 16 + elem 3 * 2 ^ 24)

/-- PACK (R135): `old` is D. -/
def pack (m : Mode) (e : Nat) (old a : DWord) : DWord :=
  let w := m.ty.width
  let x := Fl.place (Ty.fmt m.ty) m.rm m.sat (Fl.ofBits .f32 (a.toNat % 2 ^ 32))
  let o := old.toNat % 2 ^ 32
  BitVec.ofNat 64 (o - o / 2 ^ (w * e) % 2 ^ w * 2 ^ (w * e) + x * 2 ^ (w * e))

/-- UNPACK (R135). -/
def unpack (t : Ty) (e : Nat) (a : DWord) : DWord :=
  putFlt .f32 .rne false (Fl.ofBits (Ty.fmt t) (a.toNat % 2 ^ 32 / 2 ^ (t.width * e) % 2 ^ t.width))

/-- MOVI (R137). -/
def movi (t : Ty) (imm : BitVec 32) : DWord := if t == .i64 then imm.signExtend 64 else imm.zeroExtend 64

/-- A compare by R68 on integers, by code. -/
def cmpInt (code : Nat) (a b : Int) : Bool :=
  match code with
  | 0 => decide (a = b) | 1 => decide (a ≠ b) | 2 => decide (a < b) | 3 => decide (a ≤ b) | 4 => decide (b < a)
  | _ => decide (b ≤ a)

/-- A compare by R68 on floating-point values, by code. -/
def cmpFlt (code : Nat) (a b : Fl) : Bool :=
  let nan := a.isNan || b.isNan
  match code with
  | 0 => Fl.eq a b | 1 => nan || !Fl.eq a b | 2 => Fl.lt a b | 3 => !nan && !Fl.lt b a | 4 => Fl.lt b a
  | 5 => !nan && !Fl.lt a b | 6 => nan | _ => !nan

/-- SETP (R129). -/
def setp (t : Ty) (code : Nat) (a b : DWord) : Bool :=
  if t.isInt then cmpInt code (int t a) (int t b) else cmpFlt code (flt t a) (flt t b)

/-- RCP to DIV (R144). -/
def special (m : Mode) (f : Fl → Fl) (a : DWord) : DWord := putFlt m.ty m.rm m.sat (f (flt m.ty a))
def div (m : Mode) (a b : DWord) : DWord := putFlt m.ty m.rm m.sat (Fl.div (flt m.ty a) (flt m.ty b))

/-- The operations of R142 on two values. -/
def xred (op : Nat) (m : Mode) (a b : DWord) : DWord :=
  match op with
  | 0 => add { m with sat := false } a b
  | 1 => min m a b
  | 2 => max m a b
  | 3 => a &&& b
  | 4 => a ||| b
  | _ => a ^^^ b

/-! ### Memory operations (R217, R219) -/

/-- The arithmetic type that a memory type names. -/
def ofMem : MTy → Ty
  | .n8 => .n8 | .i8 => .i8 | .n16 => .n16 | .i16 => .i16 | .b32 => .b32 | .b64 => .b64 | .b128 => .b64 | .f32 => .f32
  | .bf16 => .bf16 | .f16 => .f16 | .i32 => .i32 | .i64 => .i64 | .n32 => .n32 | .n64 => .n64

/-- The new value of an atomic or a reduction, by the code of R67: integer adds wrap, floats round RNE (R217, R220). -/
def memOp (op : Nat) (t : MTy) (old b : DWord) : DWord :=
  let ty := ofMem t
  let m : Mode := ⟨ty, .rne, false⟩
  match op with
  | 0 => add m old b
  | 1 => min m old b
  | 2 => max m old b
  | 3 => old &&& b
  | 4 => old ||| b
  | 5 => old ^^^ b
  | 6 => b
  | 7 => if int ty b ≤ int ty old then 0 else image ty (int ty old + 1)
  | _ => if int ty old = 0 ∨ int ty b < int ty old then image ty (int ty b) else image ty (int ty old - 1)

end Sys2Proof.Machine.Alu
end

