-- ==== Sys2Proof/Config.lean ====
section
/-! DEFINITION. What the spec leaves free and what an implementation fixes: constants without a body, so that no proof can
see a value. Each is named in a log entry. -/
namespace Sys2Proof.Config

/-- A free choice: the first argument is the state's counter of choices, the second names the place of the choice within
one step (log entry 5). -/
opaque choice : Nat → Nat → Nat

/-- A value the spec leaves undefined, by the counter of choices and its place within one step (log entry 5). -/
opaque freeValue : Nat → Nat → Nat

/-! What stands for cryptography that the spec only names (R440; log entry 50). -/

/-- The key material of an SPDM session: by the digest of its transcript, the generation of its keys, and whether the part sends. -/
opaque sessionKey : List (BitVec 8) → Nat → Bool → List (BitVec 8)
/-- The part's certificate chain. -/
opaque certChain : List (BitVec 8)
/-- A key that the part's random generator draws (R438), by the place of the draw. -/
opaque randomKey : Nat → BitVec 512
/-- Whether an RSA-3072 signature of a text verifies against the keys in ROM. -/
opaque rsaOk : List (BitVec 8) → List (BitVec 8) → Bool
/-- Whether an SLH-DSA signature of a text verifies against the keys in ROM. -/
opaque slhOk : List (BitVec 8) → List (BitVec 8) → Bool
opaque rsaSign : List (BitVec 8) → List (BitVec 8)
opaque slhSign : List (BitVec 8) → List (BitVec 8)
/-- The fields of a response that SPDM defines and the spec does not give: by its code and the transcript. -/
opaque spdmBody : Nat → List (BitVec 8) → List (BitVec 8)

/-! What the part was delivered with, and how its configuration bytes are laid out (R446; log entry 2). -/

opaque firmware : List (BitVec 8)
opaque storeMagic : BitVec 64
opaque storeVersion : BitVec 32
/-- The store's bytes as delivered, by offset. -/
opaque storeByte : Nat → BitVec 8
/-- Partitions: number, quadrants, queue pairs and namespaces. -/
opaque partTable : List (Nat × BitVec 8) → List (Nat × BitVec 32 × List Nat × List Nat)
opaque quiet : List (Nat × BitVec 8) → Bool
/-- The control port's link address, address and prefix length, controller, UDP ports, VLAN, FEC setting and part identity. -/
opaque portTable : List (Nat × BitVec 8) → BitVec 48 × BitVec 128 × Nat × BitVec 128 × Nat × Nat × Option Nat × Bool × BitVec 64

/-- The flits for which a port's peer has room when a link comes UP, by credit class (R413; log entry 41). -/
opaque linkCredits : Nat → Nat

/-! HBM rows (R252, R444; log entry 51). -/

/-- The spare rows of a bank of a channel, the bytes of a row, and the lines that a row of a bank backs, by place in their channel. -/
opaque spareRows : Nat → Nat → Nat
opaque rowBytes : Nat
opaque rowLines : Nat → Nat → Nat → List Nat

end Sys2Proof.Config
end

