-- ==== Sys2Proof/Machine/Map.lean ====
section
/-! DEFINITION. Sparse tables in one canonical form: keys strictly rising, and no entry equal to the default that an
unlisted key reads as, so that equal tables are equal data. -/
namespace Sys2Proof.Machine.Map

/-- The value at a key; `d` where the key is not listed. -/
def get {α : Type} (d : α) : List (Nat × α) → Nat → α
  | [], _ => d
  | (k, x) :: m, i => if i = k then x else get d m i

/-- Lists a value before its successors. -/
def insert {α : Type} (i : Nat) (x : α) : List (Nat × α) → List (Nat × α)
  | [] => [(i, x)]
  | (k, y) :: m => if i < k then (i, x) :: (k, y) :: m else if i = k then (i, x) :: m else (k, y) :: insert i x m

/-- Unlists a key. -/
def erase {α : Type} (i : Nat) : List (Nat × α) → List (Nat × α)
  | [] => []
  | (k, y) :: m => if i = k then erase i m else (k, y) :: erase i m

/-- Writes a value; writing the default unlists the key. -/
def set {α : Type} [DecidableEq α] (d : α) (m : List (Nat × α)) (i : Nat) (x : α) : List (Nat × α) :=
  if x = d then erase i m else insert i x m

/-- The canonical form: keys strictly rising above `lo`, no entry equal to the default. -/
def ok {α : Type} [DecidableEq α] (d : α) : Option Nat → List (Nat × α) → Bool
  | _, [] => true
  | none, (k, x) :: m => decide (x ≠ d) && ok d (some k) m
  | some lo, (k, x) :: m => decide (lo < k) && decide (x ≠ d) && ok d (some k) m

end Sys2Proof.Machine.Map
end

