-- ==== Sys2Proof/Machine/State.lean ====
section
/-! DEFINITION. The state of the Kraex V7 as plain data, its value after reset, and the reasons a step can stop. -/
namespace Sys2Proof.Machine

/-- Why the machine stops. -/
inductive Fault where
  /-- Raised by the meaning of an instruction word when no program counter has been picked to issue it. A step never
  calls a word without one. Safe: the machine stops where the hardware has nothing to do. -/
  | noIssuer
  deriving DecidableEq, Repr

/-- Why a step has no meaning. -/
inductive Refusal where
  /-- Raised by Dispatch.lean for an instruction that has no meaning yet. Safe: nothing is claimed of it. -/
  | notModelled (mnemonic : String)
  deriving DecidableEq, Repr

/-! ## Lanes and groups (05) -/

/-- A call frame or a trap frame (R94); a trap frame keeps the clause it began in (R112). -/
structure Frame where
  addr : DWord
  trap : Bool
  cls : Nat
  pos : Nat
  left : Nat
  deriving DecidableEq, Repr

/-- An access that can still report a late cause (R375): where its instruction stands. -/
structure OpenAcc where
  id : Nat
  pc : DWord
  pos : Nat
  left : Nat
  cls : Nat
  /-- The lane's call stack as the access left it. -/
  stack : List Frame
  deriving DecidableEq, Repr

/-- The former value of a register that a lane wrote while an access was open (R375); `seq` orders the writes. `m` records
that a branch took the lane out of a convergence mask with this address (R101). -/
inductive Undo where
  | v (seq reg : Nat) (old : Word)
  | p (seq pred : Nat) (old : Bool)
  | g (seq reg : Nat) (old : DWord)
  | m (seq reg : Nat) (addr : DWord)
  deriving DecidableEq, Repr

/-- One lane (R92, R95, R96). `pos` is 0 at a clause header and otherwise the position of the next instruction. -/
structure Lane where
  live : Bool
  exited : Bool
  pc : DWord
  pos : Nat
  left : Nat
  cls : Nat
  stack : List Frame
  v : List (Nat × Word)
  p : BitVec 7
  xcause : Word
  xinfo : DWord
  xpc : DWord
  xidx : Word
  helper : Word
  /-- The wait that parks the lane. -/
  park : Option Nat
  opens : List OpenAcc
  undo : List Undo
  /-- Former values of registers that the lane wrote while an operation of its group could read them or write them (R289): number
  of the write, register, value. -/
  olds : List (Nat × Nat × Word)
  /-- What the lane's last OPFENCE ordered (R290): its own scratchpad writes numbered below the first number, and those of others that
  were released by the second, its last acquire. -/
  fenced : Nat × Nat
  /-- Clock of the later of its last issue and its last release from parking (R98). -/
  since : Nat
  /-- Issued TDONE in the current task (R341). -/
  taskDone : Bool
  deriving DecidableEq, Repr

/-- A convergence mask register (R95, R101). -/
structure MaskReg where
  mask : LaneMask
  addr : DWord
  deriving DecidableEq, Repr

/-- The four result counters (R45). -/
structure Counters where
  ldc : Nat
  stc : Nat
  xc : Nat
  mc : Nat
  deriving DecidableEq, Repr

/-- A stream register's binding (R319). -/
structure StreamBind where
  reg : Nat
  out : Bool
  block : Nat
  off : Nat
  deriving DecidableEq, Repr

/-- A task that a group runs (R341, R346). -/
structure TaskRun where
  record : List Byte
  sent : Word
  args : DWord
  c0 : Word
  c1 : Word
  c2 : Word
  succ : DWord
  autosig : Bool
  /-- The trap that ends the task: cause, %xpc, %xinfo, trapping lanes (R346). -/
  fault : Option (Nat × DWord × DWord × LaneMask)
  deriving DecidableEq, Repr

/-- A group's place in a staged loop (R347, R356): its slot, the loop's name `uid` (the model's own), the iteration it holds
and the count its STAGEs leave. -/
structure LoopPlace where
  slot : Nat
  uid : Nat
  iter : Option Nat
  cur : Nat
  deriving DecidableEq, Repr

/-- A group of lanes in a group slot, or a system core's one group (R423). -/
structure Group where
  lid : Nat
  block : Nat
  num : Nat
  part : Nat
  sys : Bool
  /-- Its first slab in its sub-core (R331). -/
  slab : Nat
  lanes : List Lane
  g : List (Nat × DWord)
  m : List MaskReg
  acc : List (Nat × Nat)
  cnt : Counters
  hold : Bool
  /-- The clock at which the guard counter last read 0 (R98). -/
  guard : Nat
  picked : Nat
  tags : List Nat
  streams : List StreamBind
  loop : Option LoopPlace
  task : Option TaskRun
  /-- The group has become task-serving (R341). -/
  serving : Bool
  /-- Stops at its next clause boundary (R329, R338, R346). -/
  stopping : Bool
  deriving DecidableEq, Repr

/-- A program counter that a slot holds (R97). -/
structure SlotPc where
  gid : Nat
  pc : DWord
  pos : Nat
  deriving DecidableEq, Repr

/-- A sub-core's two issue slots (R97): each holds the place at which its program counter stands in mid-clause, or the
program counter just assigned. `late` says that slot B gave way to slot A in the clock before (R145). -/
structure SubCore where
  a : Option SlotPc
  b : Option SlotPc
  late : Bool
  deriving DecidableEq, Repr

/-- What a clock still has to do, in the order of R105 and R154: an arrival held for it, or one issue slot of a unit. -/
inductive CycleItem where
  | held (a : HeldArrival)
  | slot (unit : Nat) (isB : Bool)
  deriving DecidableEq, Repr

/-- The clock in progress; the model's own (log entry 5): what is left of it, whether slot B issues, and the g registers that
slot A wrote in it, by group (R95), a convergence mask m as 64 + m (R153). -/
structure Cycle where
  items : List CycleItem
  slotB : Bool
  wrote : List (Nat × Nat)
  deriving DecidableEq, Repr

/-- The instruction that is issuing: its group, its lanes, where it stands and its word. -/
structure Cx where
  gid : Nat
  mask : LaneMask
  pc : DWord
  pos : Nat
  left : Nat
  cls : Nat
  word : DWord
  deriving DecidableEq, Repr

/-- An instruction that has issued: where, its name (`id`), and the lanes that take part (R51). -/
structure Iss where
  cx : Cx
  id : Nat
  lanes : List Nat
  deriving DecidableEq, Repr

/-- One lane's access of class 3 that passed the checks of R196, with what it took from the lane's registers at issue: its
place in global memory or in the scratchpad of `blk`, its data, ATOMC's compare value or FESET's count, its readers, and which
half of a `.b128` access it is, if only one (R234). -/
structure Acc where
  lane : Nat
  ea : DWord
  pa : Nat
  kind : PageKind
  blk : BlockRef
  off : Nat
  data : List Byte
  extra : DWord
  readers : Option (BitVec 384)
  half : Option Bool
  deriving DecidableEq, Repr

/-- An access that its core holds until the earlier open accesses of its lanes have closed (R375), or the second half of a
`.b128` access (R234): the instruction, its lanes' accesses, and the register writes that its first halves will make. -/
structure Job where
  iss : Iss
  instr : Instr
  accs : List Acc
  got : List RegWrite
  /-- The registers that its result writes in each lane, a predicate p as 256 + p, and those, by lane, whose result a later
  write has overtaken (R100). -/
  dst : List Nat
  lost : List (Nat × Nat)
  /-- The lanes that its result concerns. -/
  lanes : LaneMask
  deriving DecidableEq, Repr

/-! ## Waits -/

/-- A WAITC condition (R224); `paddr` is the translated word of kind 0. -/
structure Cond where
  kind : Nat
  cmp : Nat
  signed : Bool
  index : Nat
  value : Word
  word1 : DWord
  paddr : Nat
  pkind : PageKind
  deriving DecidableEq, Repr

/-- What parked lanes await. -/
inductive WaitKind where
  | bar (join : Nat) (token : Word) (scope : Scope) (st : Option (BitVec 8))
  /-- An arrival held for the next clock (R105). -/
  | held
  | reconv (m : Nat)
  /-- YIELD's last clock; for n = 0, when its group had been picked last (R150). -/
  | yield (until_ : Nat) (pick : Option Nat)
  | waitc (conds : List Cond) (all : Bool) (limit : Nat) (reg : Nat) (scope : Scope)
  | mvwait (tag : Option Nat) (reg : Nat) (scope : Scope)
  | ldfe (access lane off : Nat) (ty : MTy) (reg : Nat) (clr : Bool)
  | mwait (ops : List Nat) (acc : Bool) (scope : Scope)
  | cpywait (cc thr : Nat) (clr : Bool) (reg : Nat) (scope : Scope)
  /-- R320: the instruction and the elements its earlier pops received, lane by lane. -/
  | streamPop (i : Instr) (got : List (List (Nat × Word)))
  /-- R320: the results to push, lane by lane. -/
  | streamPush (reg : Nat) (vals : List (Nat × Word))
  | lwait (lid : Nat) (reg : Nat) (scope : Scope)
  /-- WAITL on the predecessor of an iteration of the loop `uid` in a slot (R360). -/
  | waitl (s iter slot uid : Nat)
  | stend (reg : Nat)
  | colwait (slot : Option Nat) (reg : Nat) (scope : Scope)
  | pop
  | taskEnd
  /-- PREEMPT until its saves end (R429): the blocks saved so far, and whether the pool ran short. -/
  | preempt (lid reg saved : Nat) (short : Bool)
  | pageFault (park : Nat)
  | halt
  deriving DecidableEq, Repr

/-- Parked lanes of one group: `t0` is the reference tick at which they parked, `cx` where their instruction stands, `slotB`
whether slot B issued it (R190). -/
structure Wait where
  id : Nat
  gid : Nat
  lanes : LaneMask
  t0 : Nat
  cx : Cx
  kind : WaitKind
  slotB : Bool
  deriving DecidableEq, Repr

/-! ## Blocks, spans, launches (05, 16, 17, 18) -/

/-- A tensor identifier entry as its 64 bytes, or invalid (R273, R278). -/
abbrev TensorEntry := Option (List Byte)

/-- What the last OPFENCE of a signing lane ordered (R290), as in the lane. -/
structure Fence where
  lane : Nat
  own : Nat
  acq : Nat
  deriving DecidableEq, Repr

/-- An open matrix signing phase (R286): the operation's identifier, the signer's group, the word's bits [47:0], who signed,
the tensor copy it uses (R277) with its corner (R282), the slot, and the register elements taken at each signature (R289). `opened`
is the number at which each lane's window opened, `seen` what the OPFENCEs of the signing lanes ordered (R290). -/
structure Phase where
  op : Nat
  gid : Nat
  word : EF
  signers : LaneMask
  tensor : TensorEntry
  s0 : Nat
  s1 : Nat
  slot : Nat
  snap : List (Nat × Word)
  opened : List (Nat × Nat)
  seen : List Fence
  deriving DecidableEq, Repr

/-- Scratchpad bytes as they stood before a write, under the number of the write (R290): the lane that wrote them, none for an
engine, and the number of the writer's first release after the write. -/
structure Former where
  num : Nat
  who : Option (Nat × Nat)
  rel : Option Nat
  off : Nat
  bytes : List Byte
  deriving DecidableEq, Repr

/-- A join register (R104). -/
structure Join where
  e : Nat
  a : Nat
  t : Word
  mode : Bool
  /-- Lanes that arrived in the current phase, as 32·(group in block) + lane. -/
  arrived : List Nat
  phase : Option Phase
  /-- The clock after that of the last completion: a phase completes at most once a clock (R105). -/
  last : Nat
  deriving DecidableEq, Repr

/-- A completion counter (R307). -/
structure Cc where
  count : Nat
  dataerr : Bool
  auth : Bool
  locality : Bool
  deriving DecidableEq, Repr

/-- A locked region (R371). -/
structure Region where
  base : DWord
  len : DWord
  deriving DecidableEq, Repr

/-- A placed block. -/
structure Block where
  lid : Nat
  num : Nat
  quad : Nat
  cores : List Nat
  gids : List Nat
  /-- Its first scratchpad granule on its lowest core (R331). -/
  gran : Nat
  /-- Scratchpad bytes by offset (R158). -/
  scratch : List (Nat × Byte)
  /-- What its writes replaced, latest first. -/
  former : List Former
  /-- Full granules (R189). -/
  full : List (Nat × Bool)
  joins : List Join
  ccs : List Cc
  regions : List Region
  placedAt : Nat
  deriving DecidableEq, Repr

/-- A launch record's fields (R322). -/
structure Record where
  entry : DWord
  args : DWord
  handler : DWord
  tidtab : DWord
  rstab : DWord
  blocks : Nat
  scratch : Nat
  lanes : Nat
  regs : Nat
  span : Nat
  prio : Nat
  fetch : Bool
  pin : Bool
  bto : Nat
  qmask : BitVec 32
  deriving DecidableEq, Repr

/-- A launch that a distributor has accepted (R324). -/
structure Launch where
  lid : Nat
  part : Nat
  quad : Nat
  addr : DWord
  record : Record
  space : BitVec 16
  root : Nat
  tids : List (Nat × TensorEntry)
  readers : List (Nat × Byte)
  status : Nat
  /-- The cores that its blocks have had. -/
  cores : List Nat
  held : Bool
  /-- Ended by a trap, stopping at clause boundaries (R329). -/
  ending : Bool
  blocksEnded : Nat
  /-- Orders the lists of waiting blocks (R330). -/
  order : Nat
  deriving DecidableEq, Repr

/-- An accumulator slot (R283): element (i, j) at 64·i + j. -/
structure AccSlot where
  sub : Nat
  slot : Nat
  bound : Bool
  i32 : Bool
  elems : List (Nat × Word)
  deriving DecidableEq, Repr

/-- The spans of a launch that a quadrant has not placed yet (R330): the next one to place. -/
structure Waiting where
  lid : Nat
  span : Nat
  quad : Nat
  deriving DecidableEq, Repr

/-- A saved block (R338, R339): its block and groups as they stood, under names of their own, its accumulators, its waits and
the pages of the pool that make up its save area. -/
structure Saved where
  block : Block
  groups : List (Nat × Group)
  accs : List (Nat × AccSlot)
  waits : List Wait
  pages : List Nat
  /-- It rejoins its list only when an awaited event occurs (R337). -/
  onEvent : Bool
  /-- The reference tick of the save. -/
  savedAt : Nat
  deriving DecidableEq, Repr

/-- An iteration entry (R350) or a header of a loop (R354). -/
structure StageIter where
  iter : Nat
  count : Nat
  holder : Option Nat
  deriving DecidableEq, Repr

/-- An open loop in a slot (R348, R354). -/
structure LoopHdr where
  uid : Nat
  n : Nat
  tag : Nat
  base : Nat
  w : Nat
  low : Nat
  next : Nat
  deriving DecidableEq, Repr

/-- One loop slot of a span (R347): an open loop with its iteration entries by logical entry, and the closed tag of an idle slot. -/
structure LoopSlot where
  lid : Nat
  span : Nat
  slot : Nat
  hdr : Option LoopHdr
  iters : List (Nat × StageIter)
  closed : Option Nat
  deriving DecidableEq, Repr

/-- A task queue (R343): its records, oldest first, of which up to 64 are held on chip and the others stand in the ring; `head`
counts the records popped, modulo the ring. -/
structure TaskQueue where
  quad : Nat
  prio : Nat
  records : List (List Byte)
  head : Nat
  deriving DecidableEq, Repr

/-- The host core of a span that stands on cores (R347). -/
structure SpanHost where
  lid : Nat
  span : Nat
  core : Nat
  deriving DecidableEq, Repr

/-- The scheduler's own state (17). -/
structure Sched where
  /-- The next launch sequence of each quadrant, less 1 (R324). -/
  seqs : List (Nat × Nat)
  /-- Ended launches of each quadrant with their STATUS, newest first (R328). -/
  ended : List (Nat × Nat)
  waiting : List Waiting
  saved : List Saved
  queues : List TaskQueue
  loops : List LoopSlot
  hosts : List SpanHost
  /-- Placements and acceptances so far; orders them. -/
  stamp : Nat
  /-- Quadrants in which a block has retired since they were last idle (R333). -/
  refill : List Nat
  deriving DecidableEq, Repr

/-! ## The memory system (07, 08, 13) -/

/-- A cached copy of a line: `dirty` bytes only in the owning L2 slice of a quadrant-local line (R159); `fill` is the access
whose fill is pending (R161, R235); `owed` says that an engine of the core wrote the line since and the copy lacks it (R239). -/
structure Copy where
  site : Site
  line : Nat
  data : BitVec 1024
  dirty : BitVec 128
  isLocal : Bool
  fill : Option Nat
  owed : Bool
  age : Nat
  deriving DecidableEq, Repr

/-- The states of a park record (R175). -/
inductive ParkState where
  | parked | moving | returning
  deriving DecidableEq, Repr

/-- Home's record of a parked line with the data at its site (R175). `set` is the reader set, `mask` the bits still set. -/
structure ParkRec where
  line : Nat
  site : Site
  set : BitVec 384
  mask : BitVec 384
  lid : Nat
  state : ParkState
  spill : Bool
  data : BitVec 1024
  kind : PageKind
  age : Nat
  deriving DecidableEq, Repr

/-- A word that rests in a curd buffer (R167), with the lanes whose reductions it holds (R199). -/
structure CurdWord where
  core : Nat
  addr : Nat
  kind : PageKind
  op : Nat
  ty : MTy
  det : Bool
  val : DWord
  who : List LaneName
  deriving DecidableEq, Repr

/-- A tentative cell (R191, R258). -/
structure TCell where
  addr : Nat
  width : Nat
  former : DWord
  who : LaneName
  observed : Bool
  deriving DecidableEq, Repr

/-- A TLB entry (R369). `agent` is the TLB's number in R369's order; `size` is the leaf's bytes. -/
structure TlbEntry where
  agent : Nat
  part : Nat
  space : BitVec 16
  va : Nat
  size : Nat
  off : Nat
  kind : PageKind
  r : Bool
  w : Bool
  x : Bool
  /-- The block that locks it, and the base of its region (R371). -/
  locked : Option (BlockRef × Nat)
  age : Nat
  deriving DecidableEq, Repr

/-- A granule step of a bank vector command (R263): its bytes, its operands as physical addresses, and the destination's
page kind. -/
structure BankStep where
  num : Nat
  len : Nat
  dst : Nat
  a : Nat
  b : Nat
  kind : PageKind
  deriving DecidableEq, Repr

/-- A bank vector command (R261 to R263): its steps not yet done, and whether one failed. -/
structure BankCmd where
  id : Nat
  gid : Nat
  tag : Nat
  op : Nat
  ty : Ty
  rm : Rm
  sat : Bool
  scalar : DWord
  steps : List BankStep
  dataerr : Bool
  lid : Nat
  deriving DecidableEq, Repr

/-- A quadrant's sub-group parked on a page fault, or an engine's held operation (R374). -/
structure Parked where
  id : Nat
  part : Nat
  gid : Nat
  agent : Nat
  /-- The launch it belongs to, or 0. -/
  lid : Nat
  /-- RESUME has made it ready while its block is saved (R374). -/
  ready : Bool
  /-- What goes on at RESUME, for an engine. -/
  held : Option Instr
  deriving DecidableEq, Repr

/-- The memory system beside the bytes themselves. -/
structure MemSys where
  tags : List (Nat × BitVec 16)
  copies : List Copy
  parks : List ParkRec
  curd : List CurdWord
  cells : List TCell
  tlb : List TlbEntry
  /-- Entries that the TLBINVs of a system core have dropped since its last TLBSYNC completed (R373). -/
  dropped : List (Nat × TlbEntry)
  bank : List BankCmd
  parked : List Parked
  nextPark : Nat
  /-- Lines that hold an uncorrectable error (R268, R443). -/
  bad : List Nat
  /-- Monitors in use at each ordering-point unit, by wait (R225). -/
  monitors : List (Nat × Nat)
  /-- The number of each lane's last acquire, at 32·group + lane: what OPFENCE goes by (R290); the model's own. -/
  acqs : List (Nat × Nat)
  /-- Accesses that cores hold, in issue order (R375). -/
  jobs : List Job
  deriving DecidableEq, Repr

/-! ## Matrix engine and copy engine (15, 16) -/

/-- What a matrix operation does (R272). -/
inductive MatKind where
  | mma (word : EF) (tensor : TensorEntry) (s0 s1 : Nat)
  | accz (i32 : Bool)
  | accld (word : EF)
  | accmv (word : EF)
  | accst (word : EF) (tensor : TensorEntry) (s0 s1 : Nat) (pages : List (Nat × Nat × PageKind))
  | mmq (word : EF) (tile : Nat)
  deriving DecidableEq, Repr

/-- A matrix operation of a sub-core, in start order (R272); `ready` is the clock at which it became ready and `slotB` the issue slot
that made it so. `snap` holds its register operands as they stood when the
window of R289 opened, at 256·lane + register, and after the fetch as the engine read them, with the scratchpad bytes of a
tensor operand at 8,192 + offset. `opened` and `seen` are as in a phase; `own` are the lanes that read their operands
themselves, the others answering as helpers (R103, R288). -/
structure MatOp where
  id : Nat
  sub : Nat
  gid : Nat
  handle : Nat
  slot : Nat
  kind : MatKind
  ready : Nat
  slotB : Bool
  started : Bool
  fetched : Bool
  snap : List (Nat × Word)
  /-- It counts in MC. -/
  mc : Bool
  /-- Lanes in whose program order it was issued: who signed, or the lanes of its program counter (R292). -/
  signers : LaneMask
  own : LaneMask
  opened : List (Nat × Nat)
  seen : List Fence
  blk : BlockRef
  deriving DecidableEq, Repr

/-- A tile-queue slot (R303). -/
structure Tile where
  id : Nat
  core : Nat
  tag : Nat
  ty : Nat
  seq : Nat
  sub : Nat
  gslot : Nat
  complete : Bool
  data : List Byte
  deriving DecidableEq, Repr

/-- One line that a copy command moves (R309): its physical address and page kind, none for scratchpad bytes that take zeros
(R312), and for each byte its place in the line and its scratchpad or buffer offset. -/
structure Piece where
  num : Nat
  src : Option (Nat × PageKind)
  lane : Nat
  moves : List (Nat × Nat)
  deriving DecidableEq, Repr

/-- What a copy command does. -/
inductive CopyKind where
  | toScratch
  | fromScratch
  | decrypt (off len : Nat) (key : BitVec 256)
  deriving DecidableEq, Repr

/-- A queued copy command (R308): the pieces not yet moved, the bytes that a decryption has gathered, and by lane the scratchpad
granules that it has written and those that it leaves without a byte (R189, R309). -/
structure CopyCmd where
  id : Nat
  core : Nat
  blk : BlockRef
  cc : Nat
  kind : CopyKind
  pieces : List Piece
  got : List (Nat × Byte)
  wrote : List (Nat × Nat)
  lost : List (Nat × Nat)
  dataerr : Bool
  auth : Bool
  locality : Bool
  /-- The key slot it was accepted on (R439). -/
  keySlot : Option Nat
  deriving DecidableEq, Repr

/-- The matrix and copy engines. -/
structure Engines where
  mat : List MatOp
  accs : List AccSlot
  tiles : List Tile
  tileSeq : List (Nat × Nat)
  copies : List CopyCmd
  deriving DecidableEq, Repr

/-! ## Collective engine and optics (21, 22) -/

/-- A chunk that has arrived at a port; `num` orders what a port delivers (R392, R404). -/
structure Arrived where
  num : Nat
  port : Nat
  chunk : Chunk
  deriving DecidableEq, Repr

/-- A peer's request that waits for its turn or for a translation (R401, R404). -/
structure Inbound where
  num : Nat
  req : RemoteReq
  held : Bool
  deriving DecidableEq, Repr

/-- A run in progress (R381, R390). -/
structure Run where
  lid : Nat
  bases : List DWord
  gen : Word
  dom : Nat
  epoch : BitVec 16
  /-- Dependency counters, started nodes, and nodes that have completed or met an end condition. -/
  deps : List Nat
  started : List Nat
  completed : List Nat
  /-- Chunks taken by receive nodes (R392). -/
  taken : List (Nat × Arrived)
  conds : BitVec 7
  node : Nat
  mkind : Nat
  stopped : Bool
  order : Nat
  part : Nat
  space : BitVec 16
  root : Nat
  deriving DecidableEq, Repr

/-- A graph slot of a die (R381). -/
structure GraphSlot where
  die : Nat
  slot : Nat
  /-- The graph's bytes, 32 a node (R384). -/
  bytes : List Byte
  n : Nat
  ghash : Word
  run : Option Run
  status : Word
  last : Option (Word × BitVec 16)
  deriving DecidableEq, Repr

/-- An RPUT or RGET in flight (R401, R411). -/
structure Transfer where
  id : Nat
  port : Nat
  put : Bool
  gid : Nat
  part : Nat
  va : DWord
  len : Nat
  lanes : LaneMask
  reg : Nat
  lid : Nat
  /-- RGET's local pages as translated at issue (R310). -/
  pages : List (Nat × Nat × PageKind)
  deriving DecidableEq, Repr

/-- What a flit carries beside its numbers and its check (R412); `node` names the node whose chunk ends with it (R422). -/
structure FlitBody where
  ty : Nat
  flags : Nat
  chan : Nat
  payload : List Byte
  node : Option NodeRef
  deriving DecidableEq, Repr

/-- A flit that was sent and not yet acknowledged (R413): its SEQ and its CRED. -/
structure SentFlit where
  seq : Nat
  cred : Nat
  body : FlitBody
  deriving DecidableEq, Repr

/-- A chunk whose last flit the peer has yet to acknowledge (R422). -/
structure Unacked where
  port : Nat
  node : NodeRef
  deriving DecidableEq, Repr

/-- A reconfiguration window (R416). -/
structure Window where
  id : Nat
  dom : Nat
  t0 : Nat
  drained : Bool
  /-- Whether what was in flight on its ports has been aborted, so that nothing more is waited for. -/
  cut : Bool
  /-- The map's valid words: port and PEER (R415). -/
  map : List (Nat × Nat)
  req : Option Nat
  answer : Option Nat
  gid : Nat
  access : Nat
  reg : Nat
  lanes : LaneMask
  lastSent : Nat
  /-- Its request frame has left (R419). -/
  left : Bool
  deriving DecidableEq, Repr

/-- A port's link layer (R413, R414). -/
structure Link where
  port : Nat
  /-- The next sequence number expected from the peer, and the next to send. -/
  expect : Nat
  next : Nat
  acked : Nat
  resends : Nat
  /-- Two lanes failed once: every later training ends DOWN (R405). -/
  dead : Bool
  lastFlit : Nat
  /-- Flits sent and not acknowledged, oldest first. -/
  sent : List SentFlit
  /-- Flits that wait for credits or for the window, requests and responses. -/
  reqQ : List FlitBody
  rspQ : List FlitBody
  /-- Credits for own sends, requests and responses. -/
  creditReq : Nat
  creditRsp : Nat
  /-- Flits of the peer's requests and responses accepted since the training, and the credits returned for them. -/
  rxReq : Nat
  rxRsp : Nat
  retReq : Nat
  retRsp : Nat
  /-- Payload of the request and of the response that are arriving. -/
  partReq : Option (List Byte)
  partRsp : Option (List Byte)
  /-- An acknowledgement, and a NAK, is to be sent. -/
  ackDue : Bool
  nakDue : Bool
  deriving DecidableEq, Repr

/-- Collective engines and optics. -/
structure Fabric where
  graphs : List GraphSlot
  staging : List Arrived
  inbox : List Inbound
  /-- What peers sent and a full staging keeps behind withheld credits, by port, in order (R392, R413). -/
  waiting : List (Nat × Instr)
  /-- Chunks sent and not yet acknowledged, oldest first. -/
  unacked : List Unacked
  transfers : List Transfer
  windows : List Window
  links : List Link
  /-- What the ports have put on their fibres, in order: the port, and for each physical lane in use its bytes of one flit. -/
  wire : List (Nat × List (Nat × List Byte))
  reqCount : Nat
  /-- COLQ .gen reads held until a window closes (R399): domain, access, group, lanes, register. -/
  genQueries : List (Nat × Nat × Nat × LaneMask × Nat)
  deriving DecidableEq, Repr

/-! ## System, host, security, health (24, 25) -/

/-- A partition (R431): its number is its virtual function's. -/
structure Part where
  num : Nat
  quads : BitVec 32
  keyset : Bool
  pairs : List Nat
  namespaces : List Nat
  /-- The AES-256-XTS key that the partition's last reset drew, data key low and tweak key high (R438). -/
  xtsKey : BitVec 512
  deriving DecidableEq, Repr

/-- A key of a function's IDE stream (R436): one of its two key sets and of the six parts (posted, non-posted and completion, each
received and sent), and whether the part is in use. -/
structure IdeKey where
  fn : Nat
  set : Nat
  part : Nat
  key : BitVec 256
  go : Bool
  deriving DecidableEq, Repr

/-- A key slot (R439). -/
structure KeySlot where
  slot : Nat
  part : Nat
  key : BitVec 256
  model : Word
  deriving DecidableEq, Repr

/-- A delivered key (R438). -/
structure Delivered where
  part : Nat
  ticket : Word
  model : Word
  key : BitVec 256
  deriving DecidableEq, Repr

/-- TDISP states (R436). -/
inductive Tdi where
  | configUnlocked | configLocked | run | error
  deriving DecidableEq, Repr

/-- The control port's settings from the health store (R418). -/
structure PortSettings where
  mac : BitVec 48
  addr : BitVec 128
  prefix_ : Nat
  controller : BitVec 128
  controllerMac : Option (BitVec 48)
  /-- The part's UDP port and the controller's. -/
  udp : Nat
  udpPeer : Nat
  vlan : Option Nat
  /-- RS-FEC is on (R417). -/
  fec : Bool
  partId : DWord
  deriving DecidableEq, Repr

/-- An SPDM session of the responder (R440). -/
structure Session where
  id : Nat
  established : Bool
  /-- The generation of its keys, which KEY_UPDATE advances. -/
  generation : Nat
  /-- The transcript's digest from which its keys follow. -/
  hash : List Byte
  /-- The records received and sent under these keys. -/
  got : Nat
  sent : Nat
  deriving DecidableEq, Repr

/-- The SPDM responder's connection state (R440). -/
structure Spdm where
  version : Bool
  caps : Bool
  algs : Bool
  transcript : List Byte
  sessions : List Session
  nextSession : Nat
  lastSig : List Byte
  deriving DecidableEq, Repr

/-- A storage command in flight (R437): its pair, its 64 bytes, and SYS_XLAT as its fetch bound it (R366). -/
structure NvCmd where
  pair : Nat
  entry : List Byte
  xlat : DWord
  deriving DecidableEq, Repr

/-- Where the storage port stands in a pair's queues: the place of the next submission entry, and the completion entries
written so far. -/
structure NvPos where
  pair : Nat
  fetched : Nat
  posted : Nat
  deriving DecidableEq, Repr

/-- A firmware image with its two signatures (R440, R448). -/
structure Firmware where
  image : List Byte
  rsaSig : List Byte
  slhSig : List Byte
  deriving DecidableEq, Repr

/-- A snapshot of the lifetime counters (R447), with the sequence number and the CRC-32 at its end. -/
structure Snapshot where
  counts : List (Nat × Nat)
  seq : Nat
  crc : BitVec 32
  deriving DecidableEq, Repr

/-- The health store but for snapshots and event log (R446): the header's magic, layout version and slot to try first, the firmware
slots and the configuration bytes; none stands for what the part was delivered with (log entry 2). -/
structure Store where
  magic : DWord
  version : Word
  firstB : Bool
  fwA : Option Firmware
  fwB : Option Firmware
  config : Option (List (Nat × Byte))
  deriving DecidableEq, Repr

/-- What the part has sent to the outside, in order. -/
inductive Out where
  | chunk (port : Nat) (c : Chunk)
  | remote (port : Nat) (put : Bool) (id : Nat) (addr : DWord) (len : Nat) (data : List Byte)
  | remoteAnswer (port tag status : Nat) (data : List Byte)
  | linkControl (port : Nat) (nak : Bool) (expect : Nat)
  | frame (bytes : List Byte)
  | advertisement (dest : BitVec 48) (addr : BitVec 128)
  | solicitation (addr : BitVec 128)
  | msix (vf : Nat)
  | hostData (vf tag : Nat) (data : List Byte)
  | unsupported (vf tag : Nat)
  | hostAbort (vf tag : Nat)
  | tdisp (vf : Nat) (ok : Bool)
  | nvme (pair : Nat) (entry : List Byte)
  | nvmeData (pair tag : Nat) (data : List Byte)
  | nvmeFail (pair tag : Nat)
  | spdm (session : Nat) (bytes : List Byte)
  /-- A replace request, as SPDM and I3C report it (R444). -/
  | replaceReport (unit number : Nat)
  deriving DecidableEq, Repr

/-- Thermal and power state (R449). -/
structure Power where
  clock : Nat
  state : Nat
  temp : List (Nat × Nat)
  deriving DecidableEq, Repr

/-- A replace request of a partition (R445): unit kind 1 core, 2 HBM channel, 3 optical port, 4 cellar slice. -/
structure Repl where
  part : Nat
  unit : Nat
  number : Nat
  hours : Nat
  ack : Bool
  deriving DecidableEq, Repr

/-- Who holds while a record waits for space in a fault queue (R377). -/
inductive FqHolder where
  | lanes (gid : Nat) (mask : LaneMask)
  | distributor (quad : Nat)
  | other
  deriving DecidableEq, Repr

/-- A fault-queue record that waits for space (R377). -/
structure PendingRec where
  part : Nat
  bytes : List Byte
  who : FqHolder
  deriving DecidableEq, Repr

/-- System, host, security and health. -/
structure SysState where
  parts : List Part
  /-- Control registers as raw 64-bit values at 256·number + instance, or by partition at 65536·partition + 256·number. -/
  csr : List (Nat × DWord)
  keys : List KeySlot
  delivery : List Delivered
  tdi : List (Nat × Tdi)
  /-- The keys of the functions' IDE streams; function 0 is the physical one (R436). -/
  ideKeys : List IdeKey
  /-- The uncorrectable error status of each function's AER capability (R433; log entry 85). -/
  aer : List (Nat × Word)
  /-- SYS_QUIET.QUIET, and the VF that owns the host link (R441). -/
  quiet : Bool
  quietVf : Nat
  /-- The reference tick at which its slot began (R441). -/
  quietAt : Nat
  /-- The join registers of the system cores (R423), at 16·quadrant + register. -/
  joins : List (Nat × Join)
  settings : PortSettings
  spdm : Spdm
  /-- Fault-queue records that wait for space, oldest first (R377). -/
  pendingFq : List PendingRec
  /-- Storage commands that the controller holds (R437). -/
  nvme : List NvCmd
  nvPos : List NvPos
  /-- System cores that have stopped (R425). -/
  stopped : List Nat
  power : Power
  /-- Health counters by number (R114, R447). -/
  counts : List (Nat × Nat)
  /-- The event log (R446, R447): its records of 64 bytes, oldest first, and how many have ever been appended. -/
  events : List (List Byte)
  logged : Nat
  repl : List Repl
  /-- The two snapshots (R446, R447). -/
  snap0 : Option Snapshot
  snap1 : Option Snapshot
  hours : Nat
  /-- Errors of the last hour by unit, each at its reference tick (R444). -/
  recent : List (Nat × Nat)
  mappedOut : List Nat
  /-- The numbers that spare cores have taken: where a core stands now shows in the health records alone (R11). -/
  sparesUsed : List Nat
  rowsOut : List (Nat × Nat)
  slicesOut : List Nat
  /-- The spare rows used, by bank: 256·slice + bank (R444). -/
  rowSpares : List (Nat × Nat)
  /-- The digests of the resident kernels as loaded, by VF (R440; log entry 3). -/
  measurements : List (Nat × List Byte)
  store : Store
  /-- The running firmware; none is the one delivered. -/
  firmware : Option Firmware
  recovery : Bool
  outbox : List Out
  deriving DecidableEq, Repr

/-- What takes effect once the result of an instruction returns, beside its registers: TIDLD's or TIDINV's entry (R277), the SENT
bit of TSIGNAL (R345), the placement of an accepted LAUNCH (R364), the entries that a TLBINV drops (R373: partition, mode,
space, base, length). A TLBSYNC's result waits until nothing uses the entries that its system core dropped. -/
inductive AfterKind where
  | tid (lid k : Nat) (e : TensorEntry)
  | sent (gid n : Nat)
  | place (lid : Nat) (quads : List Nat)
  | inv (key part mode : Nat) (space : BitVec 16) (base len : Nat)
  | sync (key : Nat)
  deriving DecidableEq, Repr

/-- An effect that waits for the result of the instruction `id`. -/
structure After where
  id : Nat
  kind : AfterKind
  deriving DecidableEq, Repr

/-- The whole machine. -/
structure State where
  /-- The instruction that is issuing; the model's own (log entry 5). -/
  cur : Option Cx
  /-- What is in flight inside the part or arrives from outside, each waiting for its moment; the model's own. -/
  due : List Instr
  after : List After
  /-- Counts free choices; the model's own (log entry 5). -/
  free : Nat
  /-- Names accesses, waits and operations; the model's own. -/
  nextId : Nat
  clock : Nat
  cycle : Cycle
  groups : List (Nat × Group)
  subs : List (Nat × SubCore)
  waits : List Wait
  blocks : List Block
  launches : List Launch
  sched : Sched
  /-- Memory of every partition: byte `off` of partition `p` at 2^48·p + off. -/
  mem : List Host.Cell
  ms : MemSys
  eng : Engines
  fab : Fabric
  sys : SysState
  deriving DecidableEq, Repr

/-! ## Reset -/

/-- A lane as a group's creation leaves it (R95), standing nowhere. -/
def Lane.fresh : Lane :=
  { live := false, exited := false, pc := 0, pos := 0, left := 0, cls := 0, stack := [], v := [], p := 0, xcause := 0,
    xinfo := 0, xpc := 0, xidx := 0, helper := 0, park := none, opens := [], undo := [], olds := [], fenced := (0, 0), since := 0,
    taskDone := false }

/-- A group as its creation leaves it (R95), without lanes. -/
def Group.fresh : Group :=
  { lid := 0, block := 0, num := 0, part := 0, sys := false, slab := 0, lanes := [], g := [], m := List.replicate 8 ⟨0, 0⟩, acc := [],
    cnt := ⟨0, 0, 0, 0⟩, hold := false, guard := 0, picked := 0, tags := [1, 1, 1, 1], streams := [], loop := none,
    task := none, serving := false, stopping := false }

/-- A join register as the block's start leaves it (R104). -/
def Join.fresh : Join := ⟨0, 0, 0, false, [], none, 0⟩

/-- A completion counter as the block's start leaves it (R307). -/
def Cc.fresh : Cc := ⟨0, false, false, false⟩

/-- The key of a control register that is global: number and instance (R426). -/
def csrKey (num inst : Nat) : Nat := 256 * num + inst

/-- The key of a control register that each partition has (R426). -/
def csrPart (part num : Nat) : Nat := 65536 * part + 256 * num

/-- OPT_DOMCTL after reset: DTO 0x0186A0, RTO 0x05F5E100 (R408). -/
def domctlReset : DWord := 0x0186A005F5E10000

/-- CEL_GEOM of a partition of all 512 slices without faults: LOST 0, CMIN 524,288, NSLICE 512 (R251, R253). -/
def geomReset : DWord := 0x800000200

/-- The control registers after reset: every one 0 but OPT_DOMCTL and the computed CEL_GEOM. -/
def csrReset : List (Nat × DWord) :=
  (List.range 32).map (fun d => (csrKey 0x21 d, domctlReset)) ++ [(csrPart 1 0x18, geomReset)]

/-- DESIGN CHOICE (log entry 2): the partition table at reset names one partition, VF 1, that holds every quadrant, every
storage queue pair and namespace 1. -/
def partReset : Part := ⟨1, BitVec.allOnes 32, true, List.range 64, [1], Config.randomKey 0⟩

/-- The machine right after reset: no launch, no group, memory zero (R438), no copy, no record, the control registers at
their reset values, and every other register at the value its log entry names. -/
def State.reset : State :=
  { cur := none, due := [], after := [], free := 0, nextId := 0, clock := 0, cycle := ⟨[], false, []⟩, groups := [], subs := [], waits := [], blocks := [],
    launches := [],
    sched := { seqs := [], ended := [], waiting := [], saved := [], queues := [], loops := [], hosts := [], stamp := 0, refill := [] },
    mem := [],
    ms := { tags := [], copies := [], parks := [], curd := [], cells := [], tlb := [], dropped := [], bank := [], parked := [], nextPark := 0,
            bad := [], monitors := [], acqs := [], jobs := [] },
    eng := { mat := [], accs := [], tiles := [], tileSeq := [], copies := [] },
    fab := { graphs := [], staging := [], inbox := [], waiting := [], unacked := [], transfers := [], windows := [], links := [], wire := [], reqCount := 0,
             genQueries := [] },
    sys := { parts := [partReset], csr := csrReset, keys := [], delivery := [], tdi := [(1, .error)], ideKeys := [], aer := [], quiet := false, quietVf := 0, quietAt := 0, joins := [],
             settings := ⟨0, 0, 0, 0, none, 0, 0, none, false, 0⟩,
             spdm := ⟨false, false, false, [], [], 0, []⟩, pendingFq := [],
             nvme := [], nvPos := [], stopped := [], power := ⟨940, 0, []⟩, counts := [], events := [], logged := 0, repl := [], snap0 := none, snap1 := none, hours := 0,
             recent := [],
             mappedOut := [], sparesUsed := [], rowsOut := [], slicesOut := [], rowSpares := [], measurements := [], store := ⟨Config.storeMagic, Config.storeVersion, false, none, none, none⟩,
             firmware := none, recovery := false, outbox := [] } }

end Sys2Proof.Machine
end

