-- ==== Sys2Proof/Machine/Mem.lean ====
section
/-! DEFINITION. The memory system (spec/07, spec/09, spec/13): bytes, homes, copies, parks, tentative cells, the curd buffer,
and what an access does at each of them. -/
namespace Sys2Proof.Machine

/-- Memory in canonical form: addresses strictly rising, no byte equal to what an unlisted address reads as. -/
abbrev Memory := List Host.Cell

/-- What an unlisted address reads as: the partition reset writes zeros to every line (R438). -/
def Memory.unlisted : Byte := 0
def Memory.read (m : Memory) (a : Nat) : Byte := Map.get Memory.unlisted m a
def Memory.write (m : Memory) (a : Nat) (b : Byte) : Memory := Map.set Memory.unlisted m a b
/-- The canonical form. -/
def Memory.wf (m : Memory) : Bool := Map.ok Memory.unlisted none m

/-- `n` bytes from `a` upward. -/
def Memory.readBytes (m : Memory) (a n : Nat) : List Byte := (List.range n).map fun i => Memory.read m (a + i)
/-- Bytes written from `a` upward. -/
def Memory.writeBytes (m : Memory) (a : Nat) : List Byte → Memory
  | [] => m
  | b :: bs => Memory.writeBytes (Memory.write m a b) (a + 1) bs

/-- Puts an element before the first that a test places after it. -/
def insertBy {α : Type} (before : α → α → Bool) (x : α) : List α → List α
  | [] => [x]
  | y :: ys => if before x y then x :: y :: ys else y :: insertBy before x ys
/-- Sorts a list, keeping the order of equals. -/
def sortBy {α : Type} (before : α → α → Bool) (l : List α) : List α := l.foldr (insertBy before) []

/-- The number that bytes hold, lowest address first (R2). -/
def leNat : List Byte → Nat
  | [] => 0
  | b :: bs => b.toNat + 256 * leNat bs
/-- The low `n` bytes of a number, lowest first (R2). -/
def leBytes : Nat → Nat → List Byte
  | 0, _ => []
  | n + 1, x => BitVec.ofNat 8 x :: leBytes n (x / 256)

/-- A field of a record's bytes, little-endian; bytes past the end read 0. -/
def fieldAt (bs : List Byte) (at_ n : Nat) : Nat := leNat ((bs.drop at_).take n)

/-- A line's bytes as one value, byte 0 lowest. -/
def lineAt (m : Memory) (line : Nat) : BitVec 1024 := BitVec.ofNat 1024 (leNat (Memory.readBytes m (128 * line) 128))
def setLineAt (m : Memory) (line : Nat) (d : BitVec 1024) : Memory :=
  Memory.writeBytes m (128 * line) (leBytes 128 d.toNat)
def byteOf (d : BitVec 1024) (off : Nat) : Byte := d.extractLsb' (8 * off) 8
def setByteOf (d : BitVec 1024) (off : Nat) (b : Byte) : BitVec 1024 :=
  (d &&& ~~~((0xFF : BitVec 1024) <<< (8 * off))) ||| (b.zeroExtend 1024 <<< (8 * off))
def putBytes (d : BitVec 1024) (bs : List StoreByte) : BitVec 1024 := bs.foldl (fun d b => setByteOf d b.off b.val) d
/-- `n` bytes of a line from `off`. -/
def bytesOf (d : BitVec 1024) (off n : Nat) : List Byte := (List.range n).map fun i => byteOf d (off + i)

/-! ## Numbers of the package -/

def quadOf (core : Nat) : Nat := core / 12
def dieOf (core : Nat) : Nat := core / 48

/-- A free choice among `n` (log entry 5); `tag` names its place in the step. -/
def State.pick (s : State) (tag n : Nat) : Nat := if n ≤ 1 then 0 else Config.choice s.free tag % n
/-- A free bit (log entry 5). -/
def State.coin (s : State) (tag : Nat) : Bool := Config.choice s.free tag % 2 == 1

/-- A new name for an access, a wait or an operation. -/
def State.newId (s : State) : State := { s with nextId := s.nextId + 1 }
/-- Puts something in flight. -/
def State.send (s : State) (i : Instr) : State := { s with due := s.due ++ [i] }

/-- Counts an event in the health counters (R114, R447). -/
def State.count (s : State) (k : Nat) : State :=
  { s with sys := { s.sys with counts := Map.set 0 s.sys.counts k (Map.get 0 s.sys.counts k + 1) } }

/-- Numbers of the health counters. -/
def cntRecall : Nat := 1
def cntDecline : Nat := 2
def cntSpill : Nat := 3
def cntHwLocate : Nat := 4
def cntDoubleMatch : Nat := 5
def cntLoopEnd : Nat := 6
def cntMailbox : Nat := 7
def cntChunkDropped : Nat := 8
def cntIgnoredReply : Nat := 9
def cntHostDropped : Nat := 10
def cntFlitDropped : Nat := 11
def cntNoPages : Nat := 12
def cntFrameDropped : Nat := 13
def cntError : Nat := 14
def cntAbort : Nat := 15
def cntRingRetry : Nat := 16
/-- The counters of a histogram of 64 bins: temperature and droop (R447). -/
def cntTemp (bin : Nat) : Nat := 2 ^ 30 + Nat.min bin 63
def cntDroop (bin : Nat) : Nat := 2 ^ 30 + 64 + Nat.min bin 63
/-- Errors by unit (R443, R447): of a cellar slice or its channel, of an HBM bank, of a core's SRAM, of an L2 slice. -/
def cntSlice (corrected : Bool) (slice : Nat) : Nat := 2 ^ 31 + (if corrected then 2 ^ 20 else 0) + slice
def cntBank (corrected : Bool) (slice bank : Nat) : Nat := 2 ^ 32 + (if corrected then 2 ^ 20 else 0) + 256 * slice + bank
def cntCore (corrected : Bool) (core : Nat) : Nat := 2 ^ 33 + (if corrected then 2 ^ 20 else 0) + core
def cntL2 (corrected : Bool) (quad slice : Nat) : Nat := 2 ^ 34 + (if corrected then 2 ^ 20 else 0) + 8 * quad + slice
/-- A margin found at a training of a port (R421, R447). -/
def cntMargin (port margin : Nat) : Nat := 2 ^ 29 + 256 * port + margin
/-- The lifetime total of a count of OPT_CNT, by its lowest bit and port (R421, R447). -/
def cntOpt (lo port : Nat) : Nat := 2 ^ 28 + 64 * port + lo
def cntTrap (cause core : Nat) : Nat := 1024 + 512 * cause + core
def cntRecord (cause core : Nat) : Nat := 2 ^ 18 + 512 * cause + Nat.min core 511

/-- Control registers (R426). -/
def State.csr (s : State) (k : Nat) : DWord := Map.get 0 s.sys.csr k
def State.setCsr (s : State) (k : Nat) (v : DWord) : State := { s with sys := { s.sys with csr := Map.set 0 s.sys.csr k v } }

def State.part (s : State) (p : Nat) : Option Part := s.sys.parts.find? fun x => x.num == p
/-- Whether a partition holds a quadrant (R431). -/
def State.holds (s : State) (p quad : Nat) : Bool :=
  match s.part p with
  | some x => x.quads.getLsbD quad
  | none => false
/-- Whether a partition holds a whole die (R431). -/
def State.holdsDie (s : State) (p die : Nat) : Bool := (List.range 4).all fun q => s.holds p (4 * die + q)
/-- The partition that holds a quadrant, or 0. -/
def State.ownerOf (s : State) (quad : Nat) : Nat :=
  match s.sys.parts.find? fun x => x.quads.getLsbD quad with
  | some x => x.num
  | none => 0
/-- Whether a locked bridge gate refuses a packet between two quadrants (R10, R432): it would cross between the gate's quadrant
and a unit outside the partition that owns it. -/
def State.gateStops (s : State) (a b : Nat) : Bool :=
  let locked (q other : Nat) : Bool := (s.csr (csrKey 0x28 q)).getLsbD 0 && s.ownerOf q != s.ownerOf other
  a != b && (locked a b || locked b a)
/-- The quadrants of a partition, ascending. -/
def State.quadsOf (s : State) (p : Nat) : List Nat := (List.range 32).filter fun q => s.holds p q

/-- The partition's cellar slices in ascending global number (R9, R250). -/
def State.slices (s : State) (p : Nat) : List Nat :=
  (s.quadsOf p).flatMap fun q => ((List.range 16).map fun c => 16 * q + c).filter fun x => !s.sys.slicesOut.contains x

/-- The top of a partition's memory (R251), from its geometry (R253). -/
def State.top (s : State) (p : Nat) : Nat :=
  let g := (s.csr (csrPart p 0x18)).toNat
  (g % 1024) * (g / 2 ^ 16 % 2 ^ 20) * 4096

/-- A physical address: byte `off` of partition `p`. -/
def paddr (p off : Nat) : Nat := p * 2 ^ 48 + off
def partOfAddr (a : Nat) : Nat := a / 2 ^ 48
def offOf (a : Nat) : Nat := a % 2 ^ 48
def lineOf (a : Nat) : Nat := a / 128

/-- The 9-bit hash of R162. -/
def lineHash (a : Nat) : Nat :=
  (List.range 7).foldl (fun h i => Nat.xor h (a / 2 ^ (7 + 9 * i) % 512)) 0
/-- A line's L2 slice in a quadrant (R162). -/
def l2Slice (line : Nat) : Nat := lineHash (offOf (128 * line)) % 8
/-- A line's set in its L2 slice (R270). -/
def l2Set (line : Nat) : Nat := offOf (128 * line) / 1024 % 1024

/-- Position `i` of a list, or 0. -/
def nth (l : List Nat) (i : Nat) : Nat := l.getD i 0

/-- The home slice of a line (R250). -/
def State.homeSlice (s : State) (line : Nat) : Nat :=
  let l := s.slices (partOfAddr (128 * line))
  nth l (offOf (128 * line) / 4096 % l.length)

/-- The quadrant whose unit serves an access: the owner of a quadrant-local page, or that of the line's home slice (R14). -/
def State.servedBy (s : State) (kind : PageKind) (pa : Nat) : Nat :=
  match kind with
  | .local o => o
  | .shared | .ms => s.homeSlice (lineOf pa) / 16

/-- The near cellar slice of a die for a line (R172). -/
def State.nearSlice (s : State) (die line : Nat) : Nat :=
  let l := (s.slices (partOfAddr (128 * line))).filter fun x => x / 64 == die
  nth l (lineHash (offOf (128 * line)) % l.length)

/-- Records of 64 bytes that the event log holds (R446). -/
def eventRecords : Nat := 490496
/-- A record of the event log, 64 bytes (R446): kind 0 an uncorrectable error of a line, 1 an OVER error, 2 a replace request; the unit;
the clock (log entry 86). -/
def eventBytes (kind unit clock : Nat) : List Byte := (leBytes 8 kind ++ leBytes 8 unit ++ leBytes 8 clock ++ List.replicate 40 0)
/-- Appends to the event log, whose oldest record it overwrites when full (R447). -/
def State.logEvent (s : State) (kind unit : Nat) : State :=
  let l := s.sys.events ++ [eventBytes kind unit s.clock]
  { s with sys := { s.sys with events := l.drop (l.length - eventRecords), logged := s.sys.logged + 1 } }

/-- Logs an uncorrectable error in the CEL_ERR of the quadrant that owns the line's channel (R268, R269): `kind` is 1 for a
load or atomic, 2 for an engine read, 3 for a write-back, 4 for a record or a cell. OVER stands until software clears it. -/
def State.logError (s : State) (line kind : Nat) : State :=
  let sl := s.homeSlice line
  let key := csrKey 0x19 (sl / 16)
  let n := Nat.max 1 (s.slices (partOfAddr (128 * line))).length
  let off := offOf (128 * line)
  let s1 := ((s.count cntError).count (cntSlice false sl)).logEvent (if (s.csr key).getLsbD 63 then 1 else 0) line
  if (s.csr key).getLsbD 63 then s1.setCsr key (s.csr key ||| ((1 : DWord) <<< 62))
  else s1.setCsr key ((s.csr key &&& ((1 : DWord) <<< 62)) ||| BitVec.ofNat 64 (2 ^ 63 + kind * 2 ^ 59 + sl % 32 * 2 ^ 54 + off / 4096 / n % 2 ^ 20 * 2 ^ 12 + off / 128 % 32 * 2 ^ 7))

/-! ## Home -/

def State.parkOf (s : State) (line : Nat) : Option ParkRec := s.ms.parks.find? fun r => r.line == line
def State.setMem (s : State) (m : Memory) : State := { s with mem := m }
def State.setCopies (s : State) (l : List Copy) : State := { s with ms := { s.ms with copies := l } }
def State.setParks (s : State) (l : List ParkRec) : State := { s with ms := { s.ms with parks := l } }
def State.setCells (s : State) (l : List TCell) : State := { s with ms := { s.ms with cells := l } }
def State.setCurd (s : State) (l : List CurdWord) : State := { s with ms := { s.ms with curd := l } }

/-- Advances a line's sequence tag (R165). -/
def State.stamp (s : State) (line : Nat) : State :=
  { s with ms := { s.ms with tags := Map.set 0 s.ms.tags line (Map.get 0 s.ms.tags line + 1) } }

def isNear : Site → Bool
  | .near _ => true | .l1 _ => false | .l2 _ _ => false | .home => false

/-- Drops the copies of a line that a test picks. -/
def State.dropCopies (s : State) (line : Nat) (f : Copy → Bool) : State :=
  s.setCopies (s.ms.copies.filter fun c => !(c.line == line && f c))

/-- Whether a live cell overlaps bytes [a, a + n). -/
def TCell.meets (c : TCell) (a n : Nat) : Bool := decide (c.addr < a + n) && decide (a < c.addr + c.width)

/-- Marks the cells that a read of [a, a + n) by someone other than `who` observes (R192). -/
def State.observe (s : State) (a n : Nat) (who : Option LaneName) : State :=
  s.setCells (s.ms.cells.map fun c => if c.meets a n && !(who == some c.who) then { c with observed := true } else c)

/-- The words of a line that the armed monitors watch (R225). -/
def State.watched (s : State) (line : Nat) : List Nat :=
  (s.waits ++ s.sched.saved.flatMap fun x => x.waits).flatMap fun w => match w.kind with
    | .waitc conds _ _ _ _ =>
      if s.ms.monitors.any fun m => m.2 == w.id then
        (conds.filter fun c => c.kind == 0 && lineOf c.paddr == line).map fun c => c.paddr
      else []
    | _ => []

/-- The armed monitors evaluate again after a write that the ordering point accepts; each evaluation is a foreign load of its
word (R192, R225). -/
def State.evalMonitors (s : State) (line : Nat) : State := (s.watched line).foldl (fun s a => s.observe a 4 none) s

/-- Home puts bytes in a line: no replica is left (R166), and the monitors evaluate (R225). -/
def State.putHome (s : State) (line : Nat) (bs : List StoreByte) : State :=
  ((s.setMem (setLineAt s.mem line (putBytes (lineAt s.mem line) bs))).dropCopies line fun c => isNear c.site).evalMonitors line

/-- Home applies a write: the bytes, the tag, and no replica left (R165, R166). -/
def State.writeHome (s : State) (line : Nat) (bs : List StoreByte) : State := (s.putHome line bs).stamp line

/-- A line's tag as home stamped it last (R165). -/
def State.tagOf (s : State) (line : Nat) : Nat × BitVec 16 := (line, Map.get 0 s.ms.tags line)

/-- Removes a line's park record. -/
def State.unpark (s : State) (line : Nat) : State := s.setParks (s.ms.parks.filter fun r => !(r.line == line))

/-- Brings a parked line home and deletes its record (R179). -/
def State.recall (s : State) (line : Nat) : State :=
  match s.parkOf line with
  | none => s
  | some r =>
    let s1 := if r.site = .home then s else s.setMem (setLineAt s.mem line r.data)
    ((s1.unpark line).stamp line).count cntRecall

/-- Commits the live cells that a test picks: the new value stays (R193). -/
def State.commitCells (s : State) (f : TCell → Bool) : State :=
  let hit := s.ms.cells.filter f
  hit.foldl (fun s c => s.stamp (lineOf c.addr)) (s.setCells (s.ms.cells.filter fun c => !f c))

/-- Whether a line holds a live cell. -/
def State.hasCell (s : State) (line : Nat) : Bool := s.ms.cells.any fun c => lineOf c.addr == line

/-! ## Copies -/

def State.copyAt (s : State) (site : Site) (line : Nat) : Option Copy :=
  s.ms.copies.find? fun c => c.site == site && c.line == line

/-- Writes the dirty bytes of a copy home (R270). -/
def State.writeBack (s : State) (c : Copy) : State :=
  let old := lineAt s.mem c.line
  let d := (List.range 128).foldl (fun d i => if c.dirty.getLsbD i then setByteOf d i (byteOf c.data i) else d) old
  if c.dirty == 0 then s else s.setMem (setLineAt s.mem c.line d)

def isL2 : Site → Bool
  | .l2 _ _ => true | .l1 _ => false | .near _ => false | .home => false

/-- The owning L2 slice writes a line back and drops it (R215, R218, R255, R270). -/
def State.l2WriteBack (s : State) (line : Nat) : State :=
  let s1 := (s.ms.copies.filter fun c => c.line == line && isL2 c.site).foldl State.writeBack s
  s1.dropCopies line fun c => isL2 c.site

/-- Frames in use at the place where `line` would be held at `site`: its set of an L2 slice, or the whole of an L1. -/
def sameFrames (site : Site) (line : Nat) (site' : Site) (line' : Nat) : Bool :=
  site == site' && (!isL2 site || l2Set line == l2Set line')
def frameCount (site : Site) : Nat :=
  match site with
  | .l1 _ => 2048 | .l2 _ _ => 16 | .near _ => 262144 | .home => 0

/-- Whether a record holds its line pinned at its site: a line on its way home is pinned nowhere (R176, R450). -/
def ParkRec.pinned (r : ParkRec) : Bool := r.state != .returning

/-- Room for one more line: evicts a free choice of unpinned line when the frames are full; none when every frame is pinned
(R270, R450; log entry 6). -/
def State.makeRoom (s : State) (site : Site) (line : Nat) : Option State :=
  let held := s.ms.copies.filter fun c => sameFrames site line c.site c.line
  let pinned := s.ms.parks.countP fun r => r.pinned && sameFrames site line r.site r.line
  if held.length + pinned < frameCount site then some s
  else match held[s.pick 7 held.length]? with
    | none => none
    | some v => some ({ s.writeBack v with free := s.free + 1 }.dropCopies v.line fun c => c.site == site)

/-- Places a copy at a site, in place of one already there. -/
def State.putCopy (s : State) (c : Copy) : State :=
  match s.copyAt c.site c.line with
  | some _ => s.setCopies (s.ms.copies.map fun x => if x.site == c.site && x.line == c.line then c else x)
  | none => match s.makeRoom c.site c.line with
    | none => s
    | some s1 => s1.setCopies (s1.ms.copies ++ [c])

/-- A fresh clean copy. -/
def cleanCopy (site : Site) (line : Nat) (d : BitVec 1024) (loc : Bool) (fill : Option Nat) (age : Nat) : Copy :=
  ⟨site, line, d, 0, loc, fill, false, age⟩

/-! ## Acknowledgements -/

/-- The result that something in flight carries. -/
def retOf : Instr → Option Ret
  | .homeWriteAccept w => w.ret
  | .parkNotice n => n.ret
  | .flushedReductionApply r => r.ret
  | _ => none

/-- Changes the result that something in flight carries. -/
def withRet (f : Ret → Ret) : Instr → Instr
  | .resultReturn r => .resultReturn (f r)
  | .homeWriteAccept w => .homeWriteAccept { w with ret := w.ret.map f }
  | .parkNotice n => .parkNotice { n with ret := n.ret.map f }
  | .flushedReductionApply r => .flushedReductionApply { r with ret := r.ret.map f }
  | i => i

/-- Home acknowledges a write with its sequence tags (R165, R245): the result goes back once nothing else in flight carries it,
with every tag that its writes were given (R14). -/
def State.ack (s : State) (r : Option Ret) (tags : List (Nat × BitVec 16)) : State :=
  match r with
  | none => s
  | some x =>
    if s.due.any fun i => match retOf i with
      | some y => y.id == x.id
      | none => false
    then { s with due := s.due.map (withRet fun y => if y.id = x.id then { y with tags := y.tags ++ tags } else y) }
    else s.send (.resultReturn { x with tags := x.tags ++ tags })

/-- A lane's access meets a late cause at home (R268, R375): the cause is on its way, and the result no longer concerns the lane. -/
def State.lateAt (s : State) (x : Ret) (lane cause : Nat) (info : DWord) : State :=
  let out (y : Ret) : Ret := if y.id = x.id then { y with lanes := y.lanes &&& ~~~((1 : LaneMask) <<< lane) } else y
  ({ s with due := s.due.map (withRet out) } : State).send (.lateCause ⟨x.gid, lane, x.id, cause, info⟩)

/-- Who an access's packets come from, as a number of its own per agent. -/
def agentKey : Agent → Nat
  | .lanes c => c
  | .sysCore q => 384 + q
  | .copy c => 1000 + c
  | .matrix c u => 2000 + 12 * c + u
  | .collective d => 8000 + d
  | .memSide => 9000
  | .host vf => 9100 + vf
  | .storage => 9200

/-- The quadrant through whose L2 slices an agent's writes pass (R14). -/
def agentQuad : Agent → Option Nat
  | .lanes c => some (quadOf c)
  | .sysCore q => some q
  | .copy c => some (quadOf c)
  | .matrix c _ => some (quadOf c)
  | .collective _ => none
  | .memSide => none
  | .host _ => none
  | .storage => none

/-- The core whose L1 an engine's writes pass (R14, R239). -/
def engineCore : Agent → Option Nat
  | .copy c => some c
  | .matrix c _ => some c
  | .lanes _ | .sysCore _ | .collective _ | .memSide | .host _ | .storage => none

/-- Whether the access that fills a copy is still on its way. -/
def State.fillPending (s : State) (c : Copy) : Bool :=
  match c.fill with
  | some id => s.due.any fun x => match x with
    | .resultReturn r => r.id == id
    | _ => false
  | none => false

/-- A store updates a copy; where a fill of the copy is pending, each byte ends as the stored or the fill byte (R161, R235). -/
def State.storeCopy (s : State) (c : Copy) (bs : List StoreByte) : Copy :=
  { c with data := putBytes c.data (bs.filter fun b => !s.fillPending c || s.coin (524288 + 128 * (if isL2 c.site then 1 else 0) + b.off)) }

/-- Whether a copy holds a fill byte where a store wrote (R235). -/
def staleFill (c : Copy) (bs : List StoreByte) : Bool := c.fill.isSome && bs.any fun b => byteOf c.data b.off != b.val

/-- An engine of a core writes a line that the core's L1 holds: a free choice of a copy that takes the bytes at once, and of one
that owes them until an acquire whose scope contains the engine drops it (R229, R239, R306, R316; log entry 81). -/
def State.engineCopy (s : State) (c : Copy) (bs : List StoreByte) : Copy :=
  if s.coin (655360 + 2 * (c.line % 2048)) then s.storeCopy c bs else { c with owed := true }

/-- A write passes the copies at its agent's own levels: the quadrant's L2 slice, and the L1 for an engine of a core (R14,
R239). An L2 copy that a race with a fill left stale is dropped at the acknowledgement (R235; log entry 77). -/
def State.passCopies (s : State) (ag : Agent) (line : Nat) (bs : List StoreByte) : State :=
  match agentQuad ag with
  | none => s
  | some q => s.setCopies (s.ms.copies.filterMap fun c =>
      if c.line != line then some c
      else match c.site with
        | .l1 x => some (if engineCore ag == some x then s.engineCopy c bs else c)
        | .l2 q' _ => if q == q' && !c.isLocal then (if staleFill (s.storeCopy c bs) bs then none else some (s.storeCopy c bs)) else some c
        | .near _ => some c
        | .home => some c)

/-- The lane that wrote a byte of a write by lanes of the group that `who` names. -/
def writerOf (who : Option LaneName) (b : StoreByte) : Option LaneName := who.map fun n => { n with lane := b.lane }

/-- The cells that a store commits (R193): those it overlaps, but for the writing lane's own. -/
def storeCommits (line : Nat) (bs : List StoreByte) (who : Option LaneName) (c : TCell) : Bool :=
  bs.any fun b => c.meets (128 * line + b.off) 1 && !(writerOf who b == some c.who)

def dirtyMask (bs : List StoreByte) : BitVec 128 := bs.foldl (fun m b => m ||| ((1 : BitVec 128) <<< b.off)) 0

/-- Bytes of a write perform at their ordering point (R14, R165, R193, R198): home for a device-shared line; the owning L2
slice for a quadrant-local line that is not parked and holds no live cell; the channel controller for an MS line. Home stamps
the tag with the `last` of them (R234, R245). -/
def State.perform1 (s : State) (w : WritePkt) (bs : List StoreByte) (last : Bool) : State × List (Nat × BitVec 16) :=
  let home (s : State) : State × List (Nat × BitVec 16) :=
    if last then ((s.writeHome w.line bs), [(s.writeHome w.line bs).tagOf w.line]) else (s.putHome w.line bs, [])
  match w.kind with
  | .ms =>
    (((s.setMem (setLineAt s.mem w.line (putBytes (lineAt s.mem w.line) bs))).commitCells (storeCommits w.line bs w.who)).evalMonitors
      w.line, [])
  | .shared => home ((s.recall w.line).commitCells (storeCommits w.line bs w.who))
  | .local q =>
    if (s.parkOf w.line).isSome || s.hasCell w.line then
      home (((s.l2WriteBack w.line).recall w.line).commitCells (storeCommits w.line bs w.who))
    else
      let site := Site.l2 q (l2Slice w.line)
      match s.copyAt site w.line with
      | some c => (s.putCopy { c with data := putBytes c.data bs, dirty := c.dirty ||| dirtyMask bs }, [])
      | none =>
        if w.nt then home s
        -- a slice allocates nothing from a line that cannot be read (R268; log entry 82)
        else if s.ms.bad.contains w.line then home (s.logError w.line 1)
        else match s.makeRoom site w.line with
          | none => home s
          | some s1 => (s1.setCopies (s1.ms.copies ++
              [⟨site, w.line, putBytes (lineAt s1.mem w.line) bs, dirtyMask bs, true, none, false, s1.clock⟩]), [])

/-- The quadrant of a core, or of a system core's key (R423). -/
def keyQuad (core : Nat) : Nat := if core < 384 then quadOf core else core - 384

/-- The clean copies of a line at a core's own levels, dropped so that its next load sees what it wrote at home (R199, R238). -/
def State.dropOwn (s : State) (core line : Nat) : State :=
  s.dropCopies line fun c => match c.site with
    | .l1 x => x == core
    | .l2 q _ => !c.isLocal && q == keyQuad core
    | .near _ => false
    | .home => false

/-- One lane's reduction of a word at its executing unit: one write with its own tag (R220, R245, R256). -/
def State.redWord (s : State) (r : FlushedRed) (w : RedWord) : State :=
  let n := MTy.bytes r.ty
  let off := w.addr % 128
  let old := BitVec.ofNat 64 (leNat (bytesOf (lineAt s.mem r.line) off n))
  let new := Alu.memOp r.op r.ty old w.val
  let bs := (List.range n).map fun i => (⟨off + i, new.extractLsb' (8 * i) 8, w.lane⟩ : StoreByte)
  match r.kind with
  | .ms => (s.setMem (setLineAt s.mem r.line (putBytes (lineAt s.mem r.line) bs))).evalMonitors r.line
  | .shared | .local _ => s.writeHome r.line bs

/-- The lanes of a reduction apply back to back, ascending, with their tags (R256). -/
def State.redWords (s : State) (r : FlushedRed) : State × List (Nat × BitVec 16) :=
  r.words.foldl (fun (x : State × List (Nat × BitVec 16)) w =>
    (x.1.redWord r w, if r.kind = .ms then x.2 else x.2 ++ [(x.1.redWord r w).tagOf r.line])) (s, [])

/-! ## Parking -/

/-- The cores of a mask. -/
def coresOf (m : BitVec 384) : List Nat := (List.range 384).filter fun c => m.getLsbD c

/-- The park level of a reader set (R172). -/
def State.parkSite (s : State) (readers : BitVec 384) (line : Nat) : Site :=
  match coresOf readers with
  | [] => .home
  | c :: cs =>
    if cs = [] then .l1 c
    else if cs.all fun x => quadOf x == quadOf c then .l2 (quadOf c) (l2Slice line)
    else if cs.all fun x => dieOf x == dieOf c then .near (s.nearSlice (dieOf c) line)
    else .home

/-- One level outward (R182). -/
def State.outward (s : State) (site : Site) (line : Nat) : Site :=
  match site with
  | .l1 c => .l2 (quadOf c) (l2Slice line)
  | .l2 q _ => .near (s.nearSlice (q / 4) line)
  | .near _ => .home
  | .home => .home

/-- The cellar slice whose pinned share a record counts against, beside its own site (R257). -/
def State.pinsAt (s : State) (site : Site) (line : Nat) : Nat :=
  match site with
  | .l1 _ | .l2 _ _ => s.ms.parks.countP fun r => r.pinned && r.site == site
  | .near n => s.ms.parks.countP fun r => r.site == site || s.homeSlice r.line == n
  | .home => s.ms.parks.countP fun r => r.site == .near (s.homeSlice line) || s.homeSlice r.line == s.homeSlice line

def pinQuota : Site → Nat
  | .l1 _ => 512 | .l2 _ _ => 4096 | .near _ => 131072 | .home => 131072

/-- Whether a new pin at a site exceeds its share, or finds its L2 set full of pins (R181, R182). -/
def State.pinFull (s : State) (site : Site) (line : Nat) : Bool :=
  decide (pinQuota site ≤ s.pinsAt site line)
    || (isL2 site && decide (16 ≤ s.ms.parks.countP fun r => r.pinned && sameFrames site line r.site r.line))

/-- The oldest parked line at a site that can move outward, in the line's own set where the set is what is full (R182). -/
def State.oldestPin (s : State) (site : Site) (line : Nat) : Option ParkRec :=
  let inSet := isL2 site && decide (16 ≤ s.ms.parks.countP fun r => r.pinned && sameFrames site line r.site r.line)
  (s.ms.parks.filter fun r => r.pinned && r.site == site && (!inSet || l2Set r.line == l2Set line)).foldl
    (fun o r => match o with
      | none => some r
      | some x => if r.age < x.age then some r else some x) none

/-- Home declines a pin: the line's data goes home as an ordinary write with its tag, and the record goes (R183, R257). -/
def State.decline (s : State) (r : ParkRec) : State :=
  (((s.setMem (setLineAt s.mem r.line r.data)).unpark r.line).stamp r.line).count cntDecline

/-- A line takes its place at its record's site; a line parked at home keeps its data in memory. -/
def State.parkHere (s : State) (r : ParkRec) : State :=
  let s1 := if r.site = .home then s.setMem (setLineAt s.mem r.line r.data) else s
  let s2 : State := match s1.makeRoom r.site r.line with
    | some x => x
    | none => s1
  s2.setParks (s2.ms.parks ++ [r])

/-- Whether a pin asks for a frame of the home slice's share that its line does not hold yet (R257): a new record's frame, or a
line that comes to be parked at home. -/
def State.asksHome (s : State) (r : ParkRec) : Bool :=
  match s.parkOf r.line with
  | none => true
  | some x => r.site == .home && x.site != .home

/-- Pins a line at its record's site, spilling or declining by R181 to R183 and R257; `fuel` bounds the levels passed. -/
def State.pin : Nat → State → ParkRec → State
  | 0, s, r => s.decline r
  | fuel + 1, s, r =>
    let spill (s : State) (v : ParkRec) : State :=
      (State.pin fuel s { v with site := s.outward v.site v.line, spill := true }).count cntSpill
    -- the home slice's share: its oldest line that can move outward goes first (R182)
    let s1 := if s.asksHome r && s.pinFull .home r.line then match s.oldestPin (.near (s.homeSlice r.line)) r.line with
        | some v => spill s v
        | none => s
      else s
    if s1.asksHome r && s1.pinFull .home r.line then s1.decline r
    else
      let s2 := s1.unpark r.line
      if r.site = .home ∨ s2.pinFull r.site r.line = false then s2.parkHere r
      else match s2.oldestPin r.site r.line with
        | none => State.pin fuel s2 { r with site := s2.outward r.site r.line, spill := true }
        | some v => (spill s2 v).parkHere r

/-- Whether the writer of a parking store keeps its own L1 copy, updated (R173, step 3): it is a declared reader, and the line
does not rest in that L1. -/
def keepsCopy (core : Nat) (readers : BitVec 384) (site : Site) : Bool := readers.getLsbD core && site != .l1 core

/-- Invalidates what a park makes stale (R173, R174, R236): the L1 copies of the readers, the writer's unless it is kept, and the
clean L2 copies of quadrants that hold a reader or the writer. REPARK writes nothing and has no writer (R208). -/
def State.parkInvalidate (s : State) (line : Nat) (writer : Option Nat) (readers : BitVec 384) (site : Site) : State :=
  let qs := (coresOf readers).map quadOf
  s.dropCopies line fun c => match c.site with
    | .l1 x => if writer = some x then !keepsCopy x readers site else readers.getLsbD x
    | .l2 q _ => qs.contains q || writer.map keyQuad == some q
    | .near _ => true
    | .home => false

/-- The current value of a line toward its ordering point (R175, R198, R451). -/
def State.current (s : State) (line : Nat) : BitVec 1024 :=
  match s.parkOf line with
  | some r => if r.site = .home then lineAt s.mem line else r.data
  | none => match s.ms.copies.find? fun c => c.line == line && c.isLocal && isL2 c.site with
    | some c => c.data
    | none => lineAt s.mem line

/-- Whether the bytes of a line that no copy holds cannot be read (R268). -/
def State.unreadable (s : State) (line : Nat) : Bool :=
  s.ms.bad.contains line && (s.parkOf line).isNone && !(s.ms.copies.any fun c => c.line == line && c.isLocal && isL2 c.site)

/-- Parks a line with a reader set and the given data (R172, R173); a declined one is stamped as it is declined. -/
def State.parkLine (s : State) (line : Nat) (writer : Option Nat) (lid : Nat) (readers : BitVec 384) (kind : PageKind) (d : BitVec 1024) : State :=
  let site := s.parkSite readers line
  let s1 := (s.parkInvalidate line writer readers site).dropCopies line fun c => isL2 c.site && c.isLocal
  let s2 := State.pin 8 s1 ⟨line, site, readers, readers, lid, .parked, false, d, kind, s1.clock⟩
  if (s2.parkOf line).isSome then s2.stamp line else s2

/-- A moving line lands: its record reads parked (R178). -/
def State.landMove (s : State) (line : Nat) : State :=
  s.setParks (s.ms.parks.map fun x => if x.line == line && x.state == .moving then { x with state := .parked } else x)

/-- Sets a record at its site: a line parked at home keeps its data in memory. -/
def State.setParkData (s : State) (r : ParkRec) (d : BitVec 1024) : State :=
  let s1 := if r.site = .home then s.setMem (setLineAt s.mem r.line d) else s
  s1.setParks (s1.ms.parks.map fun x => if x.line == r.line then { r with data := d } else x)

/-- The bytes of an STN are written and the line is parked (R173, R206, R451): at its site when a record of this launch with
this set holds it, else afresh. A line that cannot be read is not parked: the bytes go home as a store's (R268; log entry 82). -/
def State.parkBytes (s : State) (n : ParkNote) (bs : List StoreByte) : State :=
  let s0 := (s.landMove n.line).commitCells (storeCommits n.line bs n.who)
  let afresh (s : State) : State :=
    let s1 := s.commitCells fun c => lineOf c.addr == n.line
    if s1.unreadable n.line then (s1.logError n.line 1).writeHome n.line bs
    else s1.parkLine n.line (some n.core) n.lid n.readers n.kind (putBytes (s1.current n.line) bs)
  match s0.parkOf n.line with
  | some r =>
    if r.state = .parked ∧ r.lid = n.lid ∧ r.set = n.readers then
      let d := putBytes (if r.site = .home then lineAt s0.mem n.line else r.data) bs
      ((s0.parkInvalidate n.line (some n.core) n.readers r.site).setParkData { r with mask := n.readers } d).stamp n.line
    else afresh (s0.recall n.line)
  | none => afresh s0

/-- Lifts a pin (R176): a line parked elsewhere is written back, one parked at home becomes an ordinary line. -/
def State.liftPin (s : State) (r : ParkRec) : State :=
  if r.site = .home then s.unpark r.line
  else (s.setParks (s.ms.parks.map fun x => if x.line == r.line then { r with state := .returning, mask := 0 } else x)).send
    (.parkWriteBackLand ⟨r.line, r.data⟩)

/-- A returning line's write-back lands (R176, R177). -/
def State.landBack (s : State) (line : Nat) : State :=
  match s.parkOf line with
  | some r => if r.state = .returning then (s.setMem (setLineAt s.mem line r.data)).unpark line else s
  | none => s

/-! ## What home accepts (R14, R165, R234, R245) -/

/-- The bytes of one 8-byte half of each `.b128` access (R234). -/
def halfBytes (h : Bool) (bs : List StoreByte) : List StoreByte := bs.filter fun b => (b.off / 8 % 2 == 1) == h
/-- The bytes that a write of which one half may have performed has left. -/
def leftBytes (done : Option Bool) (bs : List StoreByte) : List StoreByte :=
  match done with
  | none => bs
  | some h => halfBytes (!h) bs

/-- The copy of a core's L1 that holds a fill byte where a store of the core wrote goes at the acknowledgement (R235). -/
def State.dropStale (s : State) (core line : Nat) (bs : List StoreByte) : State :=
  s.dropCopies line fun x => x.site == .l1 core && staleFill x bs

/-- A store performs what it has left and is acknowledged (R14, R165). -/
def State.finishWrite (s : State) (w : WritePkt) : State :=
  let bs := leftBytes w.done w.bytes
  let r := s.perform1 w bs true
  let s1 := r.1.passCopies w.agent w.line bs
  let s2 : State := match w.agent with
    | .lanes c => s1.dropStale c w.line w.bytes
    | .sysCore _ | .copy _ | .matrix _ _ | .collective _ | .memSide | .host _ | .storage => s1
  s2.ack w.ret r.2

/-- The bytes that an STN of which one half has performed has left reach the line where it now is (R173, R234). -/
def State.restBytes (s : State) (n : ParkNote) (bs : List StoreByte) : State :=
  match s.parkOf n.line with
  | some r => s.setParkData r (putBytes (if r.site = .home then lineAt s.mem n.line else r.data) bs)
  | none => (s.perform1 ⟨.lanes n.core, n.seq, n.who, n.line, n.kind, false, bs, none, false, none, false⟩ bs false).1

/-- A store, or an STN, of which one half has performed and which home still awaits. -/
def isSecond (line : Nat) : Instr → Bool
  | .homeWriteAccept w => w.line == line && w.done.isSome
  | .parkNotice n => n.line == line && (match n.note with
    | .second _ => true
    | .whole | .split | .moved => false)
  | _ => false

/-- The STN of which one half has performed is complete; home stamped its tag with the first (R234, R245). -/
def State.finishNote (s : State) (n : ParkNote) (first : Bool) : State :=
  ((s.restBytes n (halfBytes (!first) n.bytes)).dropStale n.core n.line n.bytes).ack n.ret []

/-- A write of which one half has performed is one write: its other half performs before any other write to its line (R234,
R245). -/
def State.wholeLine (s : State) (line : Nat) : State :=
  match s.due.findIdx? (isSecond line) with
  | none => s
  | some k =>
    let s1 : State := { s with due := s.due.eraseIdx k }
    match s.due[k]? with
    | some (.homeWriteAccept w) => s1.finishWrite w
    | some (.parkNotice n) => match n.note with
      | .second h => s1.finishNote n h
      | .whole | .split | .moved => s
    | _ => s

/-- A store reaches its ordering point and is acknowledged (R14, R165, R234). -/
def State.acceptWrite (s : State) (w : WritePkt) : State :=
  (if w.done.isSome then s else s.wholeLine w.line).finishWrite w

/-- One half of a `.b128` store performs, and the other stays on its way (R234). -/
def State.acceptHalf (s : State) (w : WritePkt) (h : Bool) : State :=
  ((((s.wholeLine w.line).perform1 w (halfBytes h w.bytes) false).1).passCopies w.agent w.line (halfBytes h w.bytes)).send
    (.homeWriteAccept { w with done := some h })

/-- An STN reaches its site and home accepts its notice (R173), or a moved line lands (R178). -/
def State.acceptNote (s : State) (n : ParkNote) : State :=
  match n.note with
  | .moved => (s.landMove n.line).ack n.ret []
  | .second h => s.finishNote n h
  | .whole | .split =>
    let s1 := ((s.wholeLine n.line).parkBytes n n.bytes).dropStale n.core n.line n.bytes
    s1.ack n.ret [s1.tagOf n.line]

/-- An STN of `.b128` parks its line with one half, and home stamps its tag; the other half stays on its way (R173, R234). -/
def State.noteHalf (s : State) (n : ParkNote) (h : Bool) : State :=
  let s1 := (s.wholeLine n.line).parkBytes n (halfBytes h n.bytes)
  s1.send (.parkNotice { n with note := .second h, ret := n.ret.map fun r => { r with tags := r.tags ++ [s1.tagOf n.line] } })

/-- A reduction is applied at home, at the channel controller for an MS line (R220, R255): a live cell on the line commits first
(R256). On an uncorrectable error it writes nothing, and a lane whose access is still open takes the cause (R268). -/
def State.acceptRed (s : State) (r : FlushedRed) : State :=
  let s0 := s.wholeLine r.line
  let s1 : State := match r.kind with
    | .ms => s0
    | .shared => s0.recall r.line
    | .local _ => (s0.l2WriteBack r.line).recall r.line
  if s1.ms.bad.contains r.line then
    let s2 := s1.logError r.line 1
    match r.ret with
    | none => s2
    | some x =>
      let s3 := r.words.foldl (fun s w => s.lateAt x w.lane 0x19 w.ea) s2
      s3.ack (some { x with lanes := r.words.foldl (fun m w => m &&& ~~~((1 : LaneMask) <<< w.lane)) x.lanes }) []
  else
    let q := (s1.commitCells fun c => lineOf c.addr == r.line).redWords r
    (q.1.dropOwn r.core r.line).ack r.ret q.2

/-! ## What one core has in flight -/

/-- The line and sender of a write in flight. -/
def inFlight : Instr → Option (Nat × Nat × Nat)
  | .homeWriteAccept w => some (agentKey w.agent, w.line, w.seq)
  | .parkNotice n => some (n.core, n.line, n.seq)
  | .flushedReductionApply r => some (r.core, r.line, r.seq)
  | _ => none

/-- Home accepts one write in flight. -/
def State.accept1 (s : State) : Instr → State
  | .homeWriteAccept w => s.acceptWrite w
  | .parkNotice n => s.acceptNote n
  | .flushedReductionApply r => s.acceptRed r
  | _ => s

/-- The place of the earliest write in flight that a test on sender, line and number picks. -/
def State.firstWrite (s : State) (f : Nat → Nat → Nat → Bool) : Option Nat :=
  let at_ := ((List.range s.due.length).zip s.due).filterMap fun x => match inFlight x.2 with
    | some (k, l, n) => if f k l n then some (x.1, n) else none
    | none => none
  (at_.foldl (fun (o : Option (Nat × Nat)) x => match o with
    | none => some x
    | some y => if x.2 < y.2 then some x else some y) none).map fun x => x.1

/-- Accepts the writes in flight that a test picks, in the order they were sent (R246). `fuel` bounds them. -/
def State.drainGo : Nat → State → (Nat → Nat → Nat → Bool) → State
  | 0, s, _ => s
  | fuel + 1, s, f => match s.firstWrite f with
    | none => s
    | some k => match s.due[k]? with
      | none => s
      | some i => State.drainGo fuel (({ s with due := s.due.eraseIdx k } : State).accept1 i) f

/-- Accepts, in the order they were sent, the writes in flight that a test on sender, line and number picks (R246). -/
def State.drain (s : State) (f : Nat → Nat → Nat → Bool) : State := State.drainGo s.due.length s f

/-- A core's writes to one line arrive before what follows them there. -/
def State.drainLine (s : State) (key line : Nat) : State := s.drain fun k l _ => k == key && l == line

/-- What a core's access does at home on a line comes behind the core's writes to it, and behind a write there of which one half has
performed (R234, R246). -/
def State.arriveAt (s : State) (key line : Nat) : State := (s.drainLine key line).wholeLine line

/-- Whether a resting word shares a byte of [a, a + n). -/
def CurdWord.meets (w : CurdWord) (a n : Nat) : Bool := decide (w.addr < a + n) && decide (a < w.addr + MTy.bytes w.ty)

/-- A resting word leaves the curd buffer and is applied, behind its core's writes to the line (R168, R246). -/
def State.flushWord (s : State) (w : CurdWord) : State :=
  (s.drainLine w.core (lineOf w.addr)).acceptRed
    ⟨w.core, 0, none, lineOf w.addr, w.kind, w.op, w.ty, w.det, [⟨w.addr, 0, w.val, 0⟩], none⟩

/-- Flushes the resting words that a test picks, in the order they came to rest (R168). -/
def State.flushCurd (s : State) (f : CurdWord → Bool) : State :=
  (s.ms.curd.filter f).foldl State.flushWord (s.setCurd (s.ms.curd.filter fun w => !f w))

/-- A load of a core from [a, a + n) goes behind the core's reductions that rest there (R238). -/
def State.flushOver (s : State) (core a n : Nat) : State := s.flushCurd fun w => w.core == core && w.meets a n

/-- A lane's write to [a, a + n) goes behind its own reductions that rest there (R199). -/
def State.flushOwn (s : State) (core a n : Nat) (who : LaneName) : State :=
  s.flushCurd fun w => w.core == core && w.meets a n && w.who.contains who

/-- A release by a core (R198, R232): everything its L1 has forwarded is accepted, and its curd buffer is flushed. -/
def State.release (s : State) (key : Nat) : State :=
  ((s.drain fun k _ _ => k == key).flushCurd fun w => w.core == key)

/-- What an acquire by core `key` of quadrant `quad` drops (R180, R198), from `.core` on the L1 copies that lack what the core's
own engines wrote (R229, R239; log entry 81). -/
def State.acquire (s : State) (key quad : Nat) (scope : Scope) : State :=
  match scope with
  | .grp => s
  | .core => s.setCopies (s.ms.copies.filter fun c => !(c.site == .l1 key && c.owed))
  | .quad | .dev | .sys =>
    let s1 := s.drain fun k l _ => k == key && (s.copyAt (.l1 key) l).isSome
    let wide := scope == .dev || scope == .sys
    s1.setCopies (s1.ms.copies.filter fun c => match c.site with
      | .l1 x => !(x == key)
      | .l2 q _ => !(wide && q == quad && !c.isLocal)
      | .near _ => true
      | .home => true)

/-! ## Loads -/

/-- What one lane's load asks of the memory system. `core` is 384 + q for the system core of quadrant q. -/
structure LoadReq where
  core : Nat
  quad : Nat
  who : Option LaneName
  line : Nat
  off : Nat
  width : Nat
  kind : PageKind
  scope : Scope
  nt : Bool
  rep : Bool
  lax : Bool
  id : Nat
  deriving DecidableEq, Repr

/-- What a load returns: the line as it reads there, or a late cause (R375). -/
inductive LoadRes where
  | ok (d : BitVec 1024)
  | locate
  | dataError
  deriving DecidableEq, Repr

/-- The level that serves a scope's relaxed load before home: an L1 copy, or an L2 copy (R198). -/
def State.nearCopy (s : State) (q : LoadReq) : Option Copy :=
  let l1 := if q.scope == .grp || q.scope == .core then s.copyAt (.l1 q.core) q.line else none
  match l1 with
  | some c => some c
  | none => match q.kind with
    | .ms => none
    | .shared =>
      if q.scope == .dev || q.scope == .sys then none else s.copyAt (.l2 q.quad (l2Slice q.line)) q.line
    | .local o => s.copyAt (.l2 o (l2Slice q.line)) q.line

/-- Leaves copies of a line at the levels the load passed, in place of older ones (R163, R166, R202, R230). -/
def State.fill (s : State) (q : LoadReq) (d : BitVec 1024) : State :=
  let put (s : State) (c : Copy) : State :=
    if q.nt then (match s.copyAt c.site c.line with
      | some _ => s.putCopy c
      | none => s) else s.putCopy c
  let loc := match q.kind with
    | .local _ => true | .shared => false | .ms => false
  let l1 (s : State) : State :=
    if q.core < 384 then put s (cleanCopy (.l1 q.core) q.line d loc (some q.id) s.clock) else s
  match q.kind with
  | .ms => s
  | .local o => match s.copyAt (.l2 o (l2Slice q.line)) q.line with
    | some _ => l1 s
    | none => l1 (put s (cleanCopy (.l2 o (l2Slice q.line)) q.line d true none s.clock))
  | .shared =>
    let s1 := l1 (put s (cleanCopy (.l2 q.quad (l2Slice q.line)) q.line d false (some q.id) s.clock))
    if q.rep then s1.putCopy (cleanCopy (.near (s1.nearSlice (q.quad / 4) q.line)) q.line d false none s1.clock) else s1

/-- The load goes past every copy, behind its own core's writes to the line (R175 to R177, R184 to R186, R192, R198, R246). A line
on the move is served once it lands (R177). What a parked line returns leaves no older copy at the lane's own levels (R230). -/
def State.loadFar (s : State) (q : LoadReq) : State × LoadRes :=
  let s := (s.drainLine q.core q.line).landBack q.line
  match s.parkOf q.line with
  | some r0 =>
    let r : ParkRec := { r0 with state := .parked }
    let d := if r.site = .home then lineAt s.mem q.line else r.data
    let s0 := (s.landMove q.line).dropOwn q.core q.line
    if q.core < 384 ∧ r.set.getLsbD q.core then
      let m := r.mask &&& ~~~((1 : BitVec 384) <<< q.core)
      let r1 := { r with mask := m }
      let s1 := s0.setParks (s0.ms.parks.map fun x => if x.line == q.line then r1 else x)
      (if m = 0 then s1.liftPin r1 else s1, .ok d)
    else if r0.state = .moving then (s0, .ok d)
    else if q.lax then (s0.count cntHwLocate, .ok d)
    else (s, .locate)
  | none =>
    match (match q.kind with
      | .local o => s.copyAt (.l2 o (l2Slice q.line)) q.line
      | .shared => none
      | .ms => none) with
    | some c => (s.fill q c.data, .ok c.data)
    | none =>
      if s.ms.bad.contains q.line then (s.logError q.line 1, .dataError)
      else
        let d := lineAt s.mem q.line
        let s1 := s.observe (128 * q.line + q.off) q.width q.who
        -- a line that holds a live cell leaves no copy below home (R237)
        if s1.hasCell q.line then (s1.dropCopies q.line fun c => c.site == .l1 q.core || (isL2 c.site && !c.isLocal
          && c.site == .l2 q.quad (l2Slice q.line)), .ok d)
        else (s1.fill q d, .ok d)

/-- A core's writes in flight to a line, in the order in which they left: number, whether each met a pending fill, the lanes and
the bytes. -/
def State.ownWrites (s : State) (core line : Nat) : List (Nat × Bool × Option LaneName × List StoreByte) :=
  sortBy (fun a b => decide (a.1 ≤ b.1)) (s.due.filterMap fun i => match i with
    | .homeWriteAccept w => if agentKey w.agent == core && w.line == line then some (w.seq, w.met, w.who, w.bytes) else none
    | .parkNotice n => if n.core == core && n.line == line then some (n.seq, n.met, n.who, n.bytes) else none
    | _ => none)

/-- Until it is acknowledged, a store that met a pending fill serves its own lane's loads of the bytes it wrote, over the L1 copy
(R235), unless the lane has written them again. -/
def State.overlay (s : State) (q : LoadReq) (d0 : BitVec 1024) : BitVec 1024 :=
  (s.ownWrites q.core q.line).foldl (fun d x =>
    let own := x.2.2.2.filter fun b => writerOf x.2.2.1 b == q.who
    putBytes d (if x.2.1 then own else own.map fun b => { b with val := byteOf d0 b.off })) d0

/-- Whether a reduction of the lane itself to bytes that it now reads is on its way (R199). -/
def State.redAhead (s : State) (q : LoadReq) : Bool :=
  s.due.any fun i => match i with
    | .flushedReductionApply r => r.core == q.core && r.words.any fun w =>
        (r.who.map fun n => ({ n with lane := w.lane } : LaneName)) == q.who
          && decide (w.addr < 128 * q.line + q.off + q.width) && decide (128 * q.line + q.off < w.addr + MTy.bytes r.ty)
    | _ => false

/-- Whether a load is the first of a declared reader of a parked line (R176). -/
def State.firstRead (s : State) (q : LoadReq) : Bool :=
  match s.parkOf q.line with
  | some r => r.pinned && decide (q.core < 384) && r.mask.getLsbD q.core
  | none => false

/-- One lane's load of one line (R163, R164, R198, R199, R202, R238). -/
def State.load (s : State) (q : LoadReq) : State × LoadRes :=
  let s0 := s.flushOver q.core (128 * q.line + q.off) q.width
  let s := if s0.redAhead q then s0.drainLine q.core q.line else s0
  -- a declared reader's first load goes to the site and clears its bit there (R176, R236)
  if s.firstRead q then s.loadFar q
  else match s.nearCopy q with
  | some c =>
    if c.site == .l1 q.core then (s, .ok (s.overlay q c.data))
    else
      let s1 := s.drainLine q.core q.line
      match s1.nearCopy q with
      | some c1 => (s1.fill q c1.data, .ok c1.data)
      | none => s1.loadFar q
  | none => s.loadFar q

/-! ## Engines -/

/-- An engine's read of a line (R186, R309, R390): the current value at the levels `.dev` admits; none on an uncorrectable
error. A parked line is read by hardware locate; a tentative new value is observed. -/
def State.engineRead (s : State) (line off n : Nat) (kind : PageKind) : State × Option (BitVec 1024) :=
  let s := (s.landBack line).landMove line
  match s.parkOf line with
  | some r => (s.count cntHwLocate, some (if r.site = .home then lineAt s.mem line else r.data))
  | none =>
    match (match kind with
      | .local o => s.copyAt (.l2 o (l2Slice line)) line
      | .shared => none
      | .ms => none) with
    | some c => (s, some c.data)
    | none => if s.ms.bad.contains line then (s.logError line 2, none) else (s.observe (128 * line + off) n none, some (lineAt s.mem line))

/-- One byte as `current` gives its line. -/
def State.peekByte (s : State) (a : Nat) : Byte :=
  match s.parkOf (lineOf a) with
  | some r => if r.site = .home then Memory.read s.mem a else byteOf r.data (a % 128)
  | none => match s.ms.copies.find? fun c => c.line == lineOf a && c.isLocal && isL2 c.site with
    | some c => byteOf c.data (a % 128)
    | none => Memory.read s.mem a

/-- A read of `n` bytes at a physical address that does not change the state: for walks, fetches, records and queues. -/
def State.peek (s : State) (a n : Nat) : List Byte := (List.range n).map fun i => s.peekByte (a + i)

/-- An engine's write of bytes at one line, accepted at once. -/
def State.engineWrite (s : State) (ag : Agent) (kind : PageKind) (line : Nat) (bs : List StoreByte) : State :=
  s.acceptWrite ⟨ag, 0, none, line, kind, false, bs, none, false, none, false⟩

/-- Writes bytes from a physical address upward as an engine, line by line: `fuel` bounds the lines. -/
def State.pokeLines : Nat → State → Agent → PageKind → Nat → List Byte → State
  | 0, s, _, _, _, _ => s
  | fuel + 1, s, ag, kind, a, bs =>
    if bs = [] then s
    else
      let n := 128 - a % 128
      let now := bs.take n
      let sb := (List.range now.length).map fun i => (⟨a % 128 + i, now.getD i 0, 0⟩ : StoreByte)
      State.pokeLines fuel (s.engineWrite ag kind (lineOf a) sb) ag kind (a + n) (bs.drop n)

def State.poke (s : State) (ag : Agent) (kind : PageKind) (a : Nat) (bs : List Byte) : State :=
  State.pokeLines (bs.length + 1) s ag kind a bs

end Sys2Proof.Machine
end

