-- ==== Sys2Proof/Machine/Xlate.lean ====
section
/-! DEFINITION. Translation (spec/20): page tables, TLBs, the checks of R196 step 3. -/
namespace Sys2Proof.Machine

/-- Who translates: the TLB's number in the order of R369, the partition, and the space and root it walks (R366). -/
structure Walker where
  agent : Nat
  part : Nat
  space : BitVec 16
  root : Nat
  en : Bool
  /-- The quadrant from which quadrant-local pages may be reached, or the die for a collective engine (R160). -/
  quad : Option Nat
  die : Option Nat
  /-- The locked regions of the issuing block (R371). -/
  regions : List Region
  deriving DecidableEq, Repr

/-- The outcome of a translation: a physical address and its page kind, a trap cause of R379, or a stopped walk (R368). -/
inductive XRes where
  | ok (paddr : Nat) (kind : PageKind)
  | trap (cause : Nat)
  | stop (level : Nat) (malformed : Bool)
  deriving DecidableEq, Repr

/-- The TLB entries and lockable entries of an agent (R369). -/
def tlbSize (agent : Nat) : Nat :=
  if agent < 384 then 256 else if agent < 416 then 64 else if agent < 424 then 512 else if agent < 456 then 64 else 256

/-- The bytes a leaf maps at a level (R367). -/
def leafSize : Nat → Nat
  | 0 => 2 ^ 16 | 1 => 2 ^ 21 | 2 => 2 ^ 30 | _ => 2 ^ 39

/-- The index of a virtual address at a level (R367). -/
def vaIndex (va level : Nat) : Nat :=
  match level with
  | 0 => va / 2 ^ 16 % 32 | 1 => va / 2 ^ 21 % 512 | 2 => va / 2 ^ 30 % 512 | _ => va / 2 ^ 39 % 512

/-- A page table entry's attributes (R368). -/
structure Leaf where
  va : Nat
  size : Nat
  off : Nat
  kind : PageKind
  r : Bool
  w : Bool
  x : Bool
  deriving DecidableEq, Repr

/-- One step of the walk on an entry `e` read at `level` (R368). -/
inductive PteRes where
  | leaf (l : Leaf)
  | next (frame : Nat)
  | stop (malformed : Bool)
  deriving DecidableEq, Repr

/-- Reads a page-table entry (R368). -/
def readPte (va level e : Nat) : PteRes :=
  let addr := e / 2 ^ 12 % 2 ^ 44 * 2 ^ 12
  let kind := e / 2 ^ 5 % 4
  let isLeaf := e / 2 % 2 == 1
  if e % 2 = 0 then .stop false
  else if e / 2 ^ 56 ≠ 0 ∨ kind = 3 ∨ (isLeaf ∧ level = 3) ∨ (!isLeaf ∧ level = 0) ∨ (isLeaf ∧ addr % leafSize level ≠ 0)
      ∨ (!isLeaf ∧ e / 4 % 2 ^ 10 ≠ 0) then .stop true
  else if isLeaf then
    .leaf ⟨va / leafSize level * leafSize level, leafSize level, addr,
      if kind = 0 then .shared else if kind = 1 then .local (e / 2 ^ 7 % 32) else .ms,
      e / 4 % 2 == 1, e / 8 % 2 == 1, e / 16 % 2 == 1⟩
  else .next addr

/-- Reads an entry of the table in a frame at its ordering point as an engine read, past every L1 and L2 copy (R186, R192, R367).
A place beyond the partition's memory is refused, and so is an uncorrectable error (R251, R268; log entry 75). -/
def State.readEntry (s : State) (p a : Nat) : State × Except XRes Nat :=
  if s.top p ≤ a then (s, .error (.trap 0x13))
  else match s.engineRead (lineOf (paddr p a)) (a % 128) 8 .shared with
    | (s1, some d) => (s1, .ok (leNat (bytesOf d (a % 128) 8)))
    | (s1, none) => (s1, .error (.trap 0x19))

/-- The walk from the table in a frame at a level down (R367). -/
def State.walkFrom (s : State) (p va : Nat) : Nat → Nat → State × Except XRes Leaf
  | 0, frame =>
    match s.readEntry p (frame + 8 * vaIndex va 0) with
    | (s1, .error e) => (s1, .error e)
    | (s1, .ok e) => match readPte va 0 e with
      | .leaf l => (s1, .ok l)
      | .next _ => (s1, .error (.stop 0 true))
      | .stop b => (s1, .error (.stop 0 b))
  | level + 1, frame =>
    match s.readEntry p (frame + 8 * vaIndex va (level + 1)) with
    | (s1, .error e) => (s1, .error e)
    | (s1, .ok e) => match readPte va (level + 1) e with
      | .leaf l => (s1, .ok l)
      | .next f => State.walkFrom s1 p va level f
      | .stop b => (s1, .error (.stop (level + 1) b))

def State.setTlb (s : State) (l : List TlbEntry) : State := { s with ms := { s.ms with tlb := l } }

/-- Whether an entry matches an address (R366). -/
def TlbEntry.hits (e : TlbEntry) (w : Walker) (va : Nat) : Bool :=
  e.agent == w.agent && e.part == w.part && e.space == w.space && decide (e.va ≤ va) && decide (va < e.va + e.size)

/-- The entry that translates an address: the smallest match, the double match counted (R370). -/
def State.tlbFind (s : State) (w : Walker) (va : Nat) : Option TlbEntry :=
  (s.ms.tlb.filter fun e => e.hits w va).foldl (fun o e => match o with
    | none => some e
    | some x => if e.size < x.size then some e else some x) none

/-- Removes the first entry with an age. -/
def dropAged (age agent : Nat) : List TlbEntry → List TlbEntry
  | [] => []
  | e :: es => if e.agent = agent ∧ e.age = age ∧ e.locked = none then es else e :: dropAged age agent es

/-- Installs a leaf, replacing the least recently used unlocked entry of a full TLB (R369). -/
def State.tlbInstall (s : State) (w : Walker) (l : Leaf) (lock : Option (BlockRef × Nat)) : State :=
  let mine := s.ms.tlb.filter fun e => e.agent == w.agent
  let free := mine.filter fun e => e.locked == none
  let oldest := free.foldl (fun a e => Nat.min a e.age) (free.foldl (fun a e => Nat.max a e.age) 0)
  let kept := if mine.length < tlbSize w.agent then s.ms.tlb else dropAged oldest w.agent s.ms.tlb
  s.setTlb (kept ++ [⟨w.agent, w.part, w.space, l.va, l.size, l.off, l.kind, l.r, l.w, l.x, lock, s.clock⟩])

/-- Whether an access lies in a locked region (R371). -/
def inRegion (rs : List Region) (va : Nat) : Bool :=
  rs.any fun r => decide (r.base.toNat ≤ va) && decide (va < r.base.toNat + r.len.toNat)

/-- Permission, partition and locality (R160, R196 step 3, R251). -/
def State.xcheck (s : State) (w : Walker) (va : Nat) (acc : Access) (l : Leaf) : XRes :=
  let allowed := match acc with
    | .read | .engineRead => l.r
    | .write | .atomic | .engineWrite => l.w
    | .fetch => l.x
  let off := l.off + (va - l.va)
  if !allowed then .trap 0x12
  else if s.top w.part ≤ off then .trap 0x13
  else match l.kind with
    | .local q =>
      if w.quad = some q ∨ w.die = some (q / 4) then .ok (paddr w.part off) l.kind else .trap 0x14
    | .shared | .ms => .ok (paddr w.part off) l.kind

/-- Translates and checks one address (R196 step 3, R366 to R371): while EN is 0 every translation misses. -/
def State.xlate (s : State) (w : Walker) (va : DWord) (acc : Access) : State × XRes :=
  let a := va.toNat
  if a / 2 ^ 48 ≠ 0 then (s, .trap 0x12)
  else if !w.en then (s, .stop 3 false)
  else match s.tlbFind w a with
    | some e =>
      let s1 := if s.ms.tlb.any fun x => x.hits w a && x.size != e.size then s.count cntDoubleMatch else s
      let s2 := s1.setTlb (s1.ms.tlb.map fun x => if x = e then { x with age := s1.clock } else x)
      (s2, s.xcheck w a acc ⟨e.va, e.size, e.off, e.kind, e.r, e.w, e.x⟩)
    | none =>
      if inRegion w.regions a then (s, .trap 0x16)
      else match s.walkFrom w.part a 3 w.root with
        | (s1, .error e) => (s1, e)
        | (s1, .ok l) => (s1.tlbInstall w l none, s1.xcheck w a acc l)

/-- SYS_XLAT of a partition (R366). -/
def State.xlatSpace (s : State) (p : Nat) : BitVec 16 := (s.csr (csrPart p 0x06)).extractLsb' 48 16
def State.xlatRoot (s : State) (p : Nat) : Nat := ((s.csr (csrPart p 0x06)).toNat / 2 ^ 12 % 2 ^ 36) * 2 ^ 12
def State.xlatEn (s : State) (p : Nat) : Bool := (s.csr (csrPart p 0x06)).getLsbD 0

/-- A walker of the partition's current space (R366). -/
def State.kernelWalker (s : State) (agent p : Nat) (quad : Option Nat) : Walker :=
  ⟨agent, p, s.xlatSpace p, s.xlatRoot p, s.xlatEn p, quad, none, []⟩

/-- Translates the pages of a range in ascending order, one address for each 4 KiB granule; the first failure decides
(R227, R262, R310). `fuel` bounds the granules. -/
def State.xlateRange (s : State) (w : Walker) (acc : Access) : Nat → Nat → Nat → State × Except (Nat × XRes) (List (Nat × Nat × PageKind))
  | 0, _, _ => (s, .ok [])
  | fuel + 1, va, stop_ =>
    if stop_ ≤ va then (s, .ok [])
    else match s.xlate w (BitVec.ofNat 64 va) acc with
      | (s1, .ok pa k) =>
        let nxt := (va / 4096 + 1) * 4096
        match State.xlateRange s1 w acc fuel nxt stop_ with
        | (s2, .ok l) => (s2, .ok ((va, pa, k) :: l))
        | (s2, .error e) => (s2, .error e)
      | (s1, r) => (s1, .error (va, r))

end Sys2Proof.Machine
end

