-- ==== Sys2Proof/Machine/Ops.lean ====
section
/-! DEFINITION. The named operations over groups, lanes, registers, counters and waits (spec/05), taking a trap and returning
from one, the fault queue's records (spec/20), and the end of a lane. -/
namespace Sys2Proof.Machine

/-- Reference ticks since reset: 100 MHz beside the arithmetic clock's 940 MHz (R12, R96). -/
def State.tick (s : State) : Nat := s.clock * 5 / 47

/-! ## Places of groups -/

/-- The number of a system core's group: quadrant q's is 36,864 + q. -/
def sysGid (q : Nat) : Nat := 36864 + q
def isSysGid (gid : Nat) : Bool := decide (36864 ≤ gid)
/-- The core of a group slot (R11, R92): 96 slots a core, 8 a sub-core. -/
def coreOf (gid : Nat) : Nat := gid / 96
def subOf (gid : Nat) : Nat := gid / 8 % 12
def slotOf (gid : Nat) : Nat := gid % 8
/-- The name under which a group's accesses travel, and its TLB's number (R369). -/
def keyOf (gid : Nat) : Nat := if isSysGid gid then 384 + (gid - 36864) else coreOf gid
def quadOfGid (gid : Nat) : Nat := if isSysGid gid then gid - 36864 else quadOf (coreOf gid)
def agentOf (gid : Nat) : Agent := if isSysGid gid then .sysCore (gid - 36864) else .lanes (coreOf gid)
/-- The unit that issues a group: a sub-core's number, 12 a core, or 4,608 + q for the system core of quadrant q. -/
def subKey (gid : Nat) : Nat := if isSysGid gid then 4608 + (gid - 36864) else gid / 8

def State.group (s : State) (gid : Nat) : Group := Map.get Group.fresh s.groups gid
def State.hasGroup (s : State) (gid : Nat) : Bool := s.groups.any fun x => x.1 == gid
def State.setGroup (s : State) (gid : Nat) (g : Group) : State := { s with groups := Map.insert gid g s.groups }
def State.modGroup (s : State) (gid : Nat) (f : Group → Group) : State := s.setGroup gid (f (s.group gid))

def Group.lane (g : Group) (l : Nat) : Lane := g.lanes.getD l Lane.fresh
def Group.setLane (g : Group) (l : Nat) (x : Lane) : Group := { g with lanes := g.lanes.set l x }
def State.lane (s : State) (gid l : Nat) : Lane := (s.group gid).lane l
def State.modLane (s : State) (gid l : Nat) (f : Lane → Lane) : State :=
  s.setGroup gid ((s.group gid).setLane l (f ((s.group gid).lane l)))

/-- The lanes of a mask, ascending. -/
def lanesOf (m : LaneMask) : List Nat := (List.range 32).filter fun l => m.getLsbD l
def maskOf (ls : List Nat) : LaneMask := ls.foldl (fun m l => m ||| ((1 : LaneMask) <<< l)) 0

/-- Runs an action for each lane of a set, ascending (R5). -/
def eachLane (s : State) (ls : List Nat) (f : State → Nat → State) : State := ls.foldl f s

/-- Lanes of a group acquire (R198, R231). -/
def State.acquireBy (s : State) (gid : Nat) (lanes : LaneMask) (scope : Scope) : State :=
  let s1 := s.acquire (keyOf gid) (quadOfGid gid) scope
  { s1 with ms := { s1.ms with acqs := (lanesOf lanes).foldl (fun m l => Map.set 0 m (32 * gid + l) s1.nextId) s1.ms.acqs } }

/-- Lanes of a group release (R198, R231): the scratchpad writes that they have made are numbered as released (R290). -/
def State.releaseBy (s : State) (gid : Nat) (lanes : LaneMask) : State :=
  let s1 := s.release (keyOf gid)
  let mine (f : Former) : Bool := match f.who with
    | some (g, l) => g == gid && lanes.getLsbD l
    | none => false
  { s1 with blocks := s1.blocks.map fun b => { b with former := b.former.map fun f =>
      if (mine f && f.rel.isNone) = true then { f with rel := some s1.nextId } else f } }

/-- The lanes of a group that are live. -/
def Group.liveLanes (g : Group) : List Nat := (List.range g.lanes.length).filter fun l => (g.lane l).live

/-! ## Blocks and launches -/

def State.launch (s : State) (lid : Nat) : Option Launch := s.launches.find? fun x => x.lid == lid
def State.modLaunch (s : State) (lid : Nat) (f : Launch → Launch) : State :=
  { s with launches := s.launches.map fun x => if x.lid == lid then f x else x }
def State.block (s : State) (b : BlockRef) : Option Block := s.blocks.find? fun x => x.lid == b.lid && x.num == b.block
def State.modBlock (s : State) (b : BlockRef) (f : Block → Block) : State :=
  { s with blocks := s.blocks.map fun x => if x.lid == b.lid && x.num == b.block then f x else x }
def Group.blk (g : Group) : BlockRef := ⟨g.lid, g.block⟩
/-- A lane's logical name (R191). -/
def Group.name (g : Group) (l : Nat) : LaneName := ⟨g.lid, g.block, g.num, l⟩

/-- The declared registers of a group (R95); a system core has the full set (R423). -/
def State.regsOf (s : State) (g : Group) : Nat :=
  if g.sys then 256 else match s.launch g.lid with
    | some x => x.record.regs
    | none => 256

/-- The walker of a group's lanes (R366, R423). -/
def State.laneWalker (s : State) (gid : Nat) : Walker :=
  let g := s.group gid
  let q := quadOfGid gid
  match s.launch g.lid with
  | some x => ⟨keyOf gid, g.part, x.space, x.root, true, some q, none, match s.block g.blk with
    | some b => b.regions
    | none => []⟩
  | none => s.kernelWalker (keyOf gid) g.part (some q)

/-! ## Registers -/

/-- The result that something in flight will write. -/
def retAny : Instr → Option Ret
  | .resultReturn r => some r
  | .homeWriteAccept w => w.ret
  | .parkNotice n => n.ret
  | .flushedReductionApply r => r.ret
  | _ => none

/-- The bits of an element of the result of an instruction (R289): an ACCMV writes elements of its type. -/
def State.elemBits (s : State) (id : Nat) : Nat :=
  match s.eng.mat.find? fun o => o.id == id with
  | some o => (match o.kind with
    | .accmv f => (Ty.ofCode (f.flags.toNat % 16)).width
    | .mma _ _ _ _ | .accz _ | .accld _ | .accst _ _ _ _ _ | .mmq _ _ => 32)
  | none => 32

/-- The values that outstanding writes will leave in a register of a lane, each with the bits of its elements (R100, R289). -/
def State.pendingV (s : State) (gid lane reg : Nat) : List (Nat × Word) :=
  s.due.flatMap fun i => match retAny i with
    | some r => if r.gid = gid then r.writes.filterMap fun w => match w with
        | .v l x val => if l = lane ∧ x = reg then some (s.elemBits r.id, val) else none
        | .p _ _ _ => none
      else []
    | none => []
def State.pendingP (s : State) (gid lane pred : Nat) : List Bool :=
  s.due.flatMap fun i => match retAny i with
    | some r => if r.gid = gid then r.writes.filterMap fun w => match w with
        | .p l x val => if l = lane ∧ x = pred then some val else none
        | .v _ _ _ => none
      else []
    | none => []

/-- Whether an access that its core holds will write a register of a lane, a predicate p as 256 + p (R100). -/
def State.jobWrites (s : State) (gid lane reg : Nat) : Bool :=
  s.ms.jobs.any fun j => j.iss.cx.gid == gid && j.dst.contains reg && j.accs.any fun a => a.lane == lane

/-- The value a lane holds in a v register. -/
def Lane.vReg (x : Lane) (r : Nat) : Word := Map.get 0 x.v r
/-- p7 reads true (R95). -/
def Lane.pReg (x : Lane) (p : Nat) : Bool := p == 7 || x.p.getLsbD p

/-- A word whose elements of `w` bits come from `new` where `f` says so, else from `old`. -/
def mixWord (w : Nat) (f : Nat → Bool) (old new : Word) : Word :=
  (List.range (32 / w)).foldl (fun a e =>
    let m : Word := (BitVec.allOnes 32 >>> (32 - w)) <<< (w * e)
    a ||| (m &&& if f e then new else old)) 0

/-- What a read gives over outstanding writes: each element as it was or as one of them leaves it (R100, R289). -/
def State.mixPending (s : State) (tag : Nat) : Nat → List (Nat × Word) → Word → Word
  | _, [], x => x
  | k, (w, val) :: l, x => State.mixPending s tag (k + 1) l (mixWord w (fun e => s.coin (tag + 2 ^ 32 * (8 * k + e))) x val)

/-- A lane reads a v register for its source operand `op` (R100): the value before an outstanding write or after it. -/
def State.readV (s : State) (gid lane op reg : Nat) : Word :=
  s.mixPending (65536 + 64 * op + lane) 0 (s.pendingV gid lane reg) ((s.lane gid lane).vReg reg)

/-- A lane reads a predicate (R100); p7 reads true (R95). -/
def State.readP (s : State) (gid lane op pred : Nat) : Bool :=
  let old := (s.lane gid lane).pReg pred
  if pred = 7 then old
  else match s.pendingP gid lane pred with
  | [] => old
  | l => (old :: l).getD (s.pick (131072 + 64 * op + lane) (l.length + 1)) old

/-- A predicate source of R52: 8 to 15 are negated. -/
def State.readPs (s : State) (gid lane op field : Nat) : Bool :=
  if field < 8 then s.readP gid lane op field else !s.readP gid lane op (field - 8)

/-- Whether an access of a lane is open (R375), one that its core holds among them. -/
def State.laneOpen (s : State) (gid lane : Nat) : Bool :=
  !(s.lane gid lane).opens.isEmpty || (s.due.any fun i => match retAny i with
    | some r => r.gid == gid && r.lanes.getLsbD lane
    | none => false) || s.ms.jobs.any fun j => j.iss.cx.gid == gid && j.accs.any fun a => a.lane == lane

/-- Sets a v register. -/
def Lane.putV (x : Lane) (r : Nat) (val : Word) : Lane := { x with v := Map.set 0 x.v r val }
/-- Sets a predicate; a write of p7 is discarded (R52). -/
def Lane.putP (x : Lane) (p : Nat) (val : Bool) : Lane :=
  if p < 7 then { x with p := if val then x.p ||| ((1 : BitVec 7) <<< p) else x.p &&& ~~~((1 : BitVec 7) <<< p) } else x

def State.dropWrites (s : State) (gid : Nat) (f : Ret → RegWrite → Bool) : State :=
  { s with due := s.due.map (withRet fun r => if r.gid = gid then { r with writes := r.writes.filter fun w => !f r w } else r) }

/-- A later write overtakes what held accesses will write in a register of a lane (R100). -/
def State.overtake (s : State) (gid lane reg : Nat) : State :=
  { s with ms := { s.ms with jobs := s.ms.jobs.map fun j =>
      if j.iss.cx.gid = gid ∧ j.dst.contains reg = true then { j with lost := j.lost ++ [(lane, reg)] } else j } }

/-- Over the outstanding writes of a register of a lane, each of its elements keeps their value or the one now written (R100,
R289). -/
def State.overV (s : State) (gid lane reg : Nat) (val : Word) : State :=
  let tag := 196608 + 64 * reg + lane
  let mix (r : Ret) (w : RegWrite) : RegWrite := match w with
    | .v l x old => if l = lane ∧ x = reg then .v l x (mixWord (s.elemBits r.id) (fun e => s.coin (tag + 2 ^ 32 * (8 * r.id + e + 1))) old val)
      else w
    | .p _ _ _ => w
  let s1 : State := { s with due := s.due.map (withRet fun r => if r.gid = gid then { r with writes := r.writes.map (mix r) } else r) }
  if s.jobWrites gid lane reg && s.coin tag then s1.overtake gid lane reg else s1

/-- Whether an operation of a group may still read or write its registers (R289). -/
def State.windowOn (s : State) (gid : Nat) : Bool :=
  (s.eng.mat.any fun o => o.gid == gid && !o.fetched)
    || s.blocks.any fun b => b.joins.any fun j => match j.phase with
      | some p => p.gid == gid
      | none => false

/-- Records a register's value before a write while an operation of the group may read it (R289). -/
def Lane.past (x : Lane) (on : Bool) (num reg : Nat) : Lane := if on then { x with olds := x.olds ++ [(num, reg, x.vReg reg)] } else x

/-- A fixed-latency write of a v register: over an outstanding write, either of the two values stays (R100); while an access
of the lane is open, the former value is recorded (R375), and while an operation may read the register (R289). -/
def State.writeV (s : State) (gid lane reg : Nat) (val : Word) : State :=
  let s1 := if (s.pendingV gid lane reg).isEmpty && !s.jobWrites gid lane reg then s else s.overV gid lane reg val
  let u := s.laneOpen gid lane
  s1.modLane gid lane fun x =>
    ((if u then { x with undo := x.undo ++ [.v s.nextId reg (x.vReg reg)] } else x).past (s.windowOn gid) s.nextId reg).putV reg val

/-- A fixed-latency write of a predicate (R100, R375). -/
def State.writeP (s : State) (gid lane pred : Nat) (val : Bool) : State :=
  let s1 := if (s.pendingP gid lane pred).isEmpty && !s.jobWrites gid lane (256 + pred) then s
    else if s.coin (262144 + 64 * pred + lane) then (s.overtake gid lane (256 + pred)).dropWrites gid fun _ w => match w with
      | .p l x _ => l == lane && x == pred
      | .v _ _ _ => false
    else s
  let u := s.laneOpen gid lane
  s1.modLane gid lane fun x =>
    (if u && decide (pred < 7) then { x with undo := x.undo ++ [.p s.nextId pred (x.pReg pred)] } else x).putP pred val

/-- A register pair's value, the even register low (R52). -/
def pairOf (lo hi : Word) : DWord := hi ++ lo

/-- Reads a v operand by width (R115). -/
def State.readVW (s : State) (gid lane op : Nat) (is64 : Bool) (reg : Nat) : DWord :=
  if is64 then pairOf (s.readV gid lane op reg) (s.readV gid lane (op + 8) (reg + 1))
  else (s.readV gid lane op reg).zeroExtend 64

/-- Writes a v operand by width (R115). -/
def State.writeVW (s : State) (gid lane : Nat) (is64 : Bool) (reg : Nat) (x : DWord) : State :=
  let s1 := s.writeV gid lane reg (x.extractLsb' 0 32)
  if is64 then s1.writeV gid lane (reg + 1) (x.extractLsb' 32 32) else s1

/-- The register writes that put a value in a v operand of a lane when a result lands. -/
def retVW (lane : Nat) (is64 : Bool) (reg : Nat) (x : DWord) : List RegWrite :=
  .v lane reg (x.extractLsb' 0 32) :: (if is64 then [.v lane (reg + 1) (x.extractLsb' 32 32)] else [])

/-- A group register (R95). -/
def Group.gReg (g : Group) (r : Nat) : DWord := Map.get 0 g.g r
def State.readG (s : State) (gid r : Nat) : DWord := (s.group gid).gReg r
/-- A write of a g register: one by slot B in a clock in which slot A wrote the register does not stand (R95). -/
def State.writeG (s : State) (gid r : Nat) (x : DWord) : State :=
  if s.cycle.slotB && s.cycle.wrote.contains (gid, r) then s
  else
    let s1 := s.modGroup gid fun g => { g with g := Map.set 0 g.g r x }
    { s1 with cycle := { s1.cycle with wrote := s1.cycle.wrote ++ [(gid, r)] } }
/-- A lane writes a g register; while an access of the lane is open, the former value is recorded (R375). -/
def State.writeGOf (s : State) (gid lane r : Nat) (x : DWord) : State :=
  let u := s.laneOpen gid lane
  (s.modLane gid lane fun y => if u then { y with undo := y.undo ++ [.g s.nextId r (s.readG gid r)] } else y).writeG gid r x

/-! ## Result counters and results -/

def Counters.bump (c : Counters) : Ctr → Counters
  | .ldc => { c with ldc := c.ldc + 1 }
  | .stc => { c with stc := c.stc + 1 }
  | .xc => { c with xc := c.xc + 1 }
  | .mc => { c with mc := c.mc + 1 }
def Counters.fall (c : Counters) : Ctr → Counters
  | .ldc => { c with ldc := c.ldc - 1 }
  | .stc => { c with stc := c.stc - 1 }
  | .xc => { c with xc := c.xc - 1 }
  | .mc => { c with mc := c.mc - 1 }
def Counters.get (c : Counters) : Ctr → Nat
  | .ldc => c.ldc | .stc => c.stc | .xc => c.xc | .mc => c.mc
def Counters.zero (c : Counters) : Bool := c.ldc == 0 && c.stc == 0 && c.xc == 0 && c.mc == 0

/-- A producer issues: its counter rises (R45). -/
def State.bump (s : State) (gid : Nat) (c : Ctr) : State := s.modGroup gid fun g => { g with cnt := g.cnt.bump c }
def State.fallCtr (s : State) (gid : Nat) (c : Ctr) : State := s.modGroup gid fun g => { g with cnt := g.cnt.fall c }

/-- A variable-latency result starts on its way back, and its counter rises (R45, R100). -/
def State.later (s : State) (gid id : Nat) (c : Ctr) (writes : List RegWrite) : State :=
  (s.bump gid c).send (.resultReturn ⟨id, gid, some c, 0, writes, []⟩)

/-! ## Waits -/

/-- Parks lanes on a wait; its name is the `nextId` before. -/
def State.park (s : State) (cx : Cx) (ls : List Nat) (kind : WaitKind) : State :=
  let id := s.nextId
  let s1 := eachLane s ls fun s l => s.modLane cx.gid l fun x => { x with park := some id }
  { s1 with nextId := id + 1, waits := s1.waits ++ [⟨id, cx.gid, maskOf ls, s1.tick, cx, kind, s.cycle.slotB⟩] }

/-- Parks lanes on a wait that an event ends. -/
def State.parkFor (s : State) (cx : Cx) (ls : List Nat) (kind : WaitKind) (ev : WaitRef → Instr) : State :=
  (s.park cx ls kind).send (ev ⟨cx.gid, s.nextId⟩)

/-- A place for a wait that stands at no instruction. -/
def Cx.at0 (gid : Nat) : Cx := ⟨gid, 0, 0, 0, 0, 0, 0⟩

def State.wait (s : State) (id : Nat) : Option Wait := s.waits.find? fun w => w.id == id

/-- Releases the lanes of a wait; their group issues nothing until its counters read 0 (R113). -/
def State.wake (s : State) (w : Wait) : State :=
  let s1 := eachLane s (lanesOf w.lanes) fun s l => s.modLane w.gid l fun x =>
    if x.park = some w.id then { x with park := none, since := s.clock } else x
  { (s1.modGroup w.gid fun g => { g with hold := true }) with waits := s.waits.filter fun x => !(x.id == w.id) }

/-- Lanes whose wait is over as it begins resume as the released ones do (R113). -/
def State.resumed (s : State) (gid : Nat) : State := s.modGroup gid fun g => { g with hold := true }

/-- Writes a status to a v register of every lane of a wait. -/
def State.giveV (s : State) (w : Wait) (reg : Nat) (x : Word) : State :=
  eachLane s (lanesOf w.lanes) fun s l => s.writeV w.gid l reg x

/-! ## Events of a system core, and the fault queue -/

def evtKey (q : Nat) : Nat := csrKey 0x09 q
def evecKey (q : Nat) : Nat := csrKey 0x0A q
def epcKey (q : Nat) : Nat := csrKey 0x0B q

/-- Whether a system core is to enter event mode at its next clause boundary: MODE is 0, and PEND and EN meet (R424, R425). -/
def State.eventPending (s : State) (q : Nat) : Bool :=
  let x := s.csr (evtKey q)
  (x.extractLsb' 0 7 &&& x.extractLsb' 8 7) != 0
def State.eventReady (s : State) (q : Nat) : Bool := !(s.csr (evtKey q)).getLsbD 16 && s.eventPending q

/-- Posts an event bit to the system core of a partition's lowest quadrant (R424). -/
def State.postEvent (s : State) (p bit : Nat) : State :=
  match s.quadsOf p with
  | [] => s
  | q :: _ => (s.setCsr (evtKey q) (s.csr (evtKey q) ||| ((1 : DWord) <<< bit))).send (.eventModeEntry q)

/-- Raises a replace request for a unit, once, in every partition that holds it (R444). -/
def State.replaceUnit (s : State) (parts : List Nat) (unit number : Nat) : State :=
  parts.foldl (fun s p =>
    if s.sys.repl.any fun r => r.part == p && r.unit == unit && r.number == number then s
    else
      let sys : SysState := { s.sys with repl := s.sys.repl ++ [⟨p, unit, number, s.sys.hours, true⟩], outbox := s.sys.outbox ++ [.replaceReport unit number] }
      (({ s with sys := sys } : State).postEvent p 3).logEvent 2 number) s

/-- The header every record opens with (R378). -/
structure RecHead where
  kind : Nat
  cause : Nat
  lid : Nat
  block : Nat
  core : Nat
  sub : Nat
  slot : Nat
  pc : DWord
  info : DWord
  deriving DecidableEq, Repr

/-- The bytes of a record: header and body, padded to 256 (R378). -/
def recordBytes (h : RecHead) (body : List Byte) : List Byte :=
  (leBytes 2 h.kind ++ leBytes 2 h.cause ++ leBytes 4 h.lid ++ leBytes 4 h.block ++ leBytes 2 h.core ++ leBytes 1 h.sub
    ++ leBytes 1 h.slot ++ leBytes 8 h.pc.toNat ++ leBytes 8 h.info.toNat ++ body ++ List.replicate 256 0).take 256

/-- The header of a record about a group. -/
def State.recHead (s : State) (gid kind cause : Nat) (pc info : DWord) : RecHead :=
  let g := s.group gid
  if isSysGid gid then ⟨kind, cause, 0, 0, 0xFFFF, 0, 0, pc, info⟩
  else ⟨kind, cause, g.lid, g.block, coreOf gid, subOf gid, slotOf gid, pc, info⟩

/-- Records consumed and records written of a fault queue, modulo 2^32, and the records its ring holds (R377). -/
def State.fqHead (s : State) (p : Nat) : Nat := (s.csr (csrPart p 0x08)).toNat / 2 ^ 32
def State.fqTail (s : State) (p : Nat) : Nat := (s.csr (csrPart p 0x08)).toNat % 2 ^ 32
def State.fqSize (s : State) (p : Nat) : Nat := 16 * 2 ^ ((s.csr (csrPart p 0x07)).toNat % 16)

/-- Whether a partition's fault queue is enabled and has space (R377). -/
def State.fqRoom (s : State) (p : Nat) : Bool :=
  (s.csr (csrPart p 0x07)).getLsbD 4 && decide ((s.fqTail p + 2 ^ 32 - s.fqHead p) % 2 ^ 32 < s.fqSize p)

/-- Whether the accesses that the writer of a record has issued have left their core, so that its release can be made (R375, R377). -/
def State.recReady (s : State) (who : FqHolder) : Bool :=
  match who with
  | .lanes gid m => !(s.ms.jobs.any fun j => j.iss.cx.gid == gid && j.iss.lanes.any fun l => m.getLsbD l)
  | .distributor _ | .other => true

/-- The release at `.sys` that the write of a record is, by its writer (R377). -/
def State.recRelease (s : State) (who : FqHolder) : State :=
  match who with
  | .lanes gid m => s.releaseBy gid m
  | .distributor _ | .other => s

/-- Writes one record, as a release at `.sys`, if the ring has room and its place can be written (R377; log entry 16). -/
def State.fqTry (s0 : State) (r : PendingRec) : Option State :=
  let p := r.part
  if !s0.fqRoom p || !s0.recReady r.who then none
  else
    let s := s0.recRelease r.who
    let q := (s.quadsOf p).headD 0
    let va := (s.csr (csrPart p 0x07)).toNat / 2 ^ 12 * 2 ^ 12 + 256 * (s.fqTail p % s.fqSize p)
    match s.xlate (s.kernelWalker (384 + q) p (some q)) (BitVec.ofNat 64 va) .write with
    | (s1, .ok pa k) =>
      some (((s1.poke .memSide k pa r.bytes).setCsr (csrPart p 0x08) (BitVec.ofNat 64 (s.fqHead p * 2 ^ 32 + (s.fqTail p + 1) % 2 ^ 32))).postEvent p 0)
    | _ => none

/-- Writes the records that wait, oldest first in each queue, while they can be written (R377): `full` lists the partitions
whose queue takes no more. -/
def State.fqGo : List PendingRec → List Nat → State → State
  | [], _, s => s
  | r :: rs, full, s =>
    let keep (s : State) : State := { s with sys := { s.sys with pendingFq := s.sys.pendingFq ++ [r] } }
    if full.contains r.part then State.fqGo rs full (keep s)
    else match s.fqTry r with
      | some s1 => State.fqGo rs full s1
      | none => State.fqGo rs (r.part :: full) (keep s)
def State.fqDrain (s : State) : State := State.fqGo s.sys.pendingFq [] { s with sys := { s.sys with pendingFq := [] } }

/-- A record joins those that wait for a partition's fault queue, and is counted (R380). -/
def State.queueRec (s : State) (p : Nat) (h : RecHead) (body : List Byte) (who : FqHolder) : State :=
  let s1 := s.count (cntRecord h.cause h.core)
  { s1 with sys := { s1.sys with pendingFq := s1.sys.pendingFq ++ [⟨p, recordBytes h body, who⟩] } }

/-- The header of a record about no group (R378). -/
def plainHead (kind cause : Nat) : RecHead := ⟨kind, cause, 0, 0, 0xFFFF, 0, 0, 0, 0⟩

/-- ACCESS of a page-fault record (R378). -/
def accessCode : Access → Nat
  | .read => 0 | .write => 1 | .atomic => 2 | .fetch => 3 | .engineRead => 4 | .engineWrite => 5

/-- The record of a page fault joins those that wait (R374, R378): that of a parked sub-group, or of an engine's held operation. -/
def State.faultRec (s : State) (f : PageStop) : State :=
  match s.ms.parked.find? fun p => p.id == f.park with
  | none => s
  | some p =>
    let l := (lanesOf f.lanes).headD 0
    let head : RecHead := if f.agent = 0 then s.recHead f.gid 1 0x15 (s.lane f.gid l).pc f.va
      else { plainHead 1 0x15 with lid := p.lid, info := f.va }
    let body := leBytes 8 f.va.toNat ++ leBytes 4 f.lanes.toNat ++ leBytes 1 (accessCode f.access) ++ leBytes 1 f.level
      ++ leBytes 1 (if f.malformed then 1 else 0) ++ leBytes 1 0 ++ leBytes 4 f.park ++ leBytes 4 (if f.agent = 0 then 0 else f.agent + 1)
    s.queueRec p.part head body (if f.agent = 0 then .lanes f.gid f.lanes else .other)

/-- Records are written in the order of their events (R377): the page faults numbered below `n` whose events have not run yet have their
records first. -/
def State.faultsFirst (s : State) (n : Nat) : State :=
  let early (i : Instr) : Option PageStop := match i with
    | .pageFault f => if f.park < n then some f else none
    | _ => none
  (s.due.filterMap early).foldl State.faultRec { s with due := s.due.filter fun i => (early i).isNone }

/-- Posts a record to a partition's fault queue, and counts it (R380); while the queue has no room it waits, and `who` holds
(R377). -/
def State.post (s : State) (p : Nat) (h : RecHead) (body : List Byte) (who : FqHolder) : State :=
  ((s.faultsFirst s.ms.nextPark).queueRec p h body who).fqDrain

/-- Whether a lane holds because a record of it waits for space (R377). -/
def State.recordHolds (s : State) (gid lane : Nat) : Bool :=
  s.sys.pendingFq.any fun r => match r.who with
    | .lanes g m => g == gid && m.getLsbD lane
    | .distributor _ | .other => false

/-! ## Taking a trap (R110, R111), and returning from one (R112, R428) -/

/-- A trap: its cause and information, where its instruction stands, and whether it resumes at the next one (R379). -/
structure TrapAt where
  cause : Nat
  info : DWord
  pc : DWord
  pos : Nat
  left : Nat
  cls : Nat
  next : Bool
  deriving DecidableEq, Repr

/-- The place after an instruction: the next one, or the header after its clause. -/
def nextPos (pos left : Nat) : Nat × Nat := if left ≤ 1 then (0, 0) else (pos + 1, left - 1)

/-- The frame a trap pushes (R94, R111, R112): a frame holds bits [63:3] of an address. -/
def TrapAt.frame (t : TrapAt) : Frame :=
  if t.next then ⟨(t.pc + 8) &&& ~~~7, true, t.cls, (nextPos t.pos t.left).1, (nextPos t.pos t.left).2⟩
  else ⟨t.pc &&& ~~~7, true, t.cls, t.pos, t.left⟩

/-! ## The call stack in memory (R94, R430) -/

def stkKey (p : Nat) : Nat := csrPart p 0x0C

/-- The address of a frame of a lane in the call-stack region of its partition, `depth` frames above the bottom (R430); none
while SYS_STKBASE.EN is 0, and none for a system core. -/
def State.frameVa (s : State) (gid lane depth : Nat) : Option DWord :=
  let p := (s.group gid).part
  let base := s.csr (stkKey p)
  if isSysGid gid || !base.getLsbD 0 then none
  else
    let i := (s.quadsOf p).findIdx fun q => q == quadOfGid gid
    some (BitVec.ofNat 64 (base.toNat / 2 ^ 16 * 2 ^ 16
      + 512 * ((((12 * i + coreOf gid % 12) * 12 + subOf gid) * 8 + slotOf gid) * 32 + lane) + 8 * depth))

/-- Writes the frame `depth` above the bottom of a lane's stack to the region; where the region cannot be written, the part's
own copy alone holds it (log entry 76). -/
def State.spillFrame (s : State) (gid lane depth : Nat) : State :=
  let st := (s.lane gid lane).stack
  match s.frameVa gid lane depth, st[st.length - 1 - depth]? with
  | some va, some f => match s.xlate (s.kernelWalker (keyOf gid) (s.group gid).part (some (quadOfGid gid))) va .write with
    | (s1, .ok pa k) => s1.poke .memSide k pa (leBytes 8 ((f.addr &&& ~~~7).toNat + (if f.trap then 1 else 0)))
    | (s1, _) => s1
  | _, _ => s

/-- Reads the frame `depth` above the bottom back from the region into the sub-core. -/
def State.fillFrame (s : State) (gid lane depth : Nat) : State :=
  let st := (s.lane gid lane).stack
  match s.frameVa gid lane depth, st[st.length - 1 - depth]? with
  | some va, some f => match s.xlate (s.kernelWalker (keyOf gid) (s.group gid).part (some (quadOfGid gid))) va .read with
    | (s1, .ok pa k) => match s1.engineRead (lineOf pa) (pa % 128) 8 k with
      | (s2, some d) =>
        let x := BitVec.ofNat 64 (leNat (bytesOf d (pa % 128) 8))
        s2.modLane gid lane fun y => { y with stack := y.stack.set (y.stack.length - 1 - depth) { f with addr := x &&& ~~~7, trap := x.getLsbD 0 } }
      | (s2, none) => s2
    | (s1, _) => s1
  | _, _ => s

/-- Pushes a frame: the sub-core holds the top four, and the fifth goes to the region (R94). -/
def State.pushFrame (s : State) (gid lane : Nat) (f : Frame) : State :=
  let n := (s.lane gid lane).stack.length
  let s1 := s.modLane gid lane fun x => { x with stack := f :: x.stack }
  if n < 4 then s1 else s1.spillFrame gid lane (n - 4)

/-- Pops the top frame, and the fourth below it comes back from the region (R94). -/
def State.popFrame (s : State) (gid lane : Nat) : State :=
  let s1 := s.modLane gid lane fun x => { x with stack := x.stack.drop 1 }
  let n := (s1.lane gid lane).stack.length
  if n < 4 then s1 else s1.fillFrame gid lane (n - 4)

/-- The trap registers (R96, R111). A trap at a header has position 1 (log entry 17). -/
def Lane.xregs (x : Lane) (t : TrapAt) : Lane :=
  { x with xcause := BitVec.ofNat 32 t.cause, xinfo := t.info, xpc := t.pc,
           xidx := BitVec.ofNat 32 (if t.pos = 0 then 1 else t.pos) }

/-- Marks a launch ended by a trap: its groups stop at clause boundaries (R329). -/
def State.endLaunch (s : State) (lid : Nat) : State :=
  let s1 := s.modLaunch lid fun x => { x with ending := true }
  let s2 : State := { s1 with groups := s1.groups.map fun (x : Nat × Group) =>
    if x.2.lid == lid && !x.2.sys then (x.1, { x.2 with stopping := true }) else x }
  s2.send (.launchEnd lid)

/-- Lanes stop for good where their instruction stands, at a clause boundary. -/
def State.haltLanes (s : State) (gid : Nat) (ls : List Nat) (pc : DWord) : State :=
  eachLane s ls fun s l => s.modLane gid l fun x => { x with pc := pc, pos := 0, left := 0 }

/-- A trap that would end the launch: it ends the task of a task-serving group (R346), and the launch of any other with a
KIND 2 record (R111, R378). The trapping lanes stop where they are. -/
def State.endByTrap (s : State) (gid : Nat) (ls : List Nat) (cause : Nat) (t : TrapAt) : State :=
  let g := s.group gid
  let s1 := s.haltLanes gid ls t.pc
  if g.serving && g.task.isSome then
    (s1.modGroup gid fun g => { g with stopping := true, task := g.task.map fun k =>
      if k.fault.isSome then k else { k with fault := some (cause, t.pc, t.info, maskOf ls) } }).send (.taskComplete gid)
  else
    (s1.post g.part (s.recHead gid 2 cause t.pc t.info) (leBytes 4 (maskOf ls).toNat) (.lanes gid (maskOf ls))).endLaunch g.lid

/-- A system core stops for good, with a double-trap record (R425). -/
def State.stopCore (s : State) (gid l : Nat) (pc info : DWord) : State :=
  let s1 := s.modLane gid l fun x => { x with live := false, park := none }
  let s2 : State := { s1 with sys := { s1.sys with stopped := s1.sys.stopped ++ [gid - 36864] } }
  s2.post (s.group gid).part (s.recHead gid 2 0x40 pc info) (leBytes 4 1) (.lanes gid 1)

/-- A system core goes on at SYS_EVEC in event mode, with SYS_EPC as given (R425); `bits` are set in SYS_EVT. -/
def State.toVector (s : State) (gid l : Nat) (epc bits : DWord) : State :=
  let q := gid - 36864
  ((s.setCsr (epcKey q) (epc &&& ~~~7)).setCsr (evtKey q) (s.csr (evtKey q) ||| bits)).modLane gid l fun x =>
    { x with pc := s.csr (evecKey q), pos := 0, left := 0 }

/-- A system core's trap enters event mode, or stops the core (R425). -/
def State.trapSys (s : State) (gid l : Nat) (t : TrapAt) : State :=
  let q := gid - 36864
  let s1 := s.modLane gid l fun x => x.xregs t
  if (s.csr (evtKey q)).getLsbD 16 || s.csr (evecKey q) == 0 then s1.stopCore gid l t.pc t.info
  else s1.toVector gid l t.frame.addr 0x10080

/-- Whether a launch is already ending by a trap. -/
def State.isEnding (s : State) (lid : Nat) : Bool :=
  match s.launch lid with
  | some x => x.ending
  | none => true

/-- What keeps a trap from entering its handler in a lane (R94, R111): a full stack, or a handler that already runs. -/
def Lane.noEntry (x : Lane) : Option Nat :=
  if 64 ≤ x.stack.length then some 0x06 else if x.stack.any fun f => f.trap then some 0x40 else none

/-- Entry to a lane-handled trap (R111) of lanes each with its own information word, ascending: the trap registers, a trap frame,
and the handler; or the end of the launch when the first lane that cannot enter has a full stack or a running handler, or the
launch has no handler. Every trap of a lane is counted (R114). The record of a launch's end takes the information of the
lowest lane. Where the launch is ending already, the lanes only stop. -/
def State.trapLanes (s : State) (gid : Nat) (who : List (Nat × DWord)) (t : TrapAt) : State :=
  let g := s.group gid
  let s := who.foldl (fun s _ => s.count (cntTrap t.cause (keyOf gid))) s
  match who with
  | [] => s
  | (l0, info0) :: _ =>
    let ls := who.map fun x => x.1
    let t0 : TrapAt := { t with info := info0 }
    if g.sys then s.trapSys gid l0 t0
    else
      let handler := match s.launch g.lid with
        | some x => x.record.handler
        | none => 0
      let s1 := who.foldl (fun s x => s.modLane gid x.1 fun y => y.xregs { t with info := x.2 }) s
      let stop (s : State) (cause : Nat) : State :=
        if s.isEnding g.lid && !(g.serving && g.task.isSome) then s.haltLanes gid ls t.pc else s.endByTrap gid ls cause t0
      match ls.findSome? fun l => (s.lane gid l).noEntry with
      | some cause => stop s1 cause
      | none =>
        if handler = 0 then stop s1 t.cause
        else eachLane s1 ls fun s l => (s.pushFrame gid l t.frame).modLane gid l fun x =>
          { x with pc := handler, pos := 0, left := 0, since := s.clock }

/-- A lane-handled trap of lanes that share one information word (R111). -/
def State.trap (s : State) (gid : Nat) (ls : List Nat) (t : TrapAt) : State := s.trapLanes gid (ls.map fun l => (l, t.info)) t

/-- A lane returns from its handler to the trap frame it popped; its group issues nothing until its counters read 0 (R112). -/
def State.trapReturn (s : State) (gid l : Nat) (f : Frame) : State :=
  (s.modLane gid l fun x => { x with pc := f.addr, pos := f.pos, left := f.left, cls := f.cls }).modGroup gid fun g =>
    { g with hold := true }

/-- A system core leaves event mode (R428). -/
def State.eventReturn (s : State) (gid l : Nat) : State :=
  let q := gid - 36864
  ((s.setCsr (evtKey q) (s.csr (evtKey q) &&& ~~~0x10000)).modLane gid l fun x =>
    { x with pc := s.csr (epcKey q), pos := 0, left := 0 }).send (.eventModeEntry q)

/-- Where the issuing instruction stands, as a trap of it. -/
def Cx.at_ (cx : Cx) (cause : Nat) (info : DWord) : TrapAt := ⟨cause, info, cx.pc, cx.pos, cx.left, cx.cls, false⟩

/-- Traps that lanes of the issuing instruction found one by one: a lane, its cause and its information. DESIGN CHOICE (log
entry 69): lanes of one cause trap together, in the order in which the causes first appear, so that the first cause decides
the record that ends a launch. `fuel` bounds the causes. -/
def State.trapEach : Nat → State → Cx → List (Nat × Nat × DWord) → State
  | 0, s, _, _ => s
  | _ + 1, s, _, [] => s
  | fuel + 1, s, cx, (l, c, i) :: rest =>
    let same := ((l, c, i) :: rest).filter fun x => x.2.1 == c
    State.trapEach fuel (s.trapLanes cx.gid (same.map fun x => (x.1, x.2.2)) (cx.at_ c i)) cx (rest.filter fun x => !(x.2.1 == c))

/-- A page fault at the issuing instruction (R374): its lanes park there as a sub-group, and the record is posted by the
page-fault event. A system core's page fault is a trap (R425). -/
def State.pageStop (s : State) (cx : Cx) (ls : List Nat) (va : DWord) (acc : Access) (level : Nat) (bad : Bool) : State :=
  if isSysGid cx.gid then s.trap cx.gid ls (cx.at_ 0x15 va)
  else
    let s := ls.foldl (fun s _ => s.count (cntTrap 0x15 (keyOf cx.gid))) s
    let s1 := eachLane s ls fun s l => s.modLane cx.gid l fun x => { x with pc := cx.pc, pos := cx.pos, left := cx.left, cls := cx.cls }
    let id := s1.ms.nextPark
    let ms : MemSys := { s1.ms with nextPark := id + 1, parked := s1.ms.parked ++ [⟨id, (s.group cx.gid).part, cx.gid, 0, (s.group cx.gid).lid, false, none⟩] }
    let s2 : State := { s1 with ms := ms }
    (s2.park cx ls (.pageFault id)).send (.pageFault ⟨cx.gid, maskOf ls, va, acc, level, bad, 0, id⟩)

/-! ## Join registers (R104 to R109, R154) -/

/-- A join register of a block, or of the system core of quadrant `b.block` for the block of no launch (R423). -/
def State.join (s : State) (b : BlockRef) (j : Nat) : Join :=
  match s.block b with
  | some x => x.joins.getD j Join.fresh
  | none => Map.get Join.fresh s.sys.joins (16 * b.block + j)
def State.setJoin (s : State) (b : BlockRef) (j : Nat) (x : Join) : State :=
  match s.block b with
  | some _ => s.modBlock b fun k => { k with joins := k.joins.set j x }
  | none => { s with sys := { s.sys with joins := Map.set Join.fresh s.sys.joins (16 * b.block + j) x } }

/-- The acquire of a lane released from BAR (R240). -/
def State.barAcquire (s : State) (gid : Nat) (lanes : LaneMask) (b : BlockRef) (scope : Scope) : State :=
  match scope with
  | .grp => s.acquireBy gid lanes .grp
  | .core => match s.block b with
    | some x => s.acquireBy gid lanes (if 1 < x.cores.length then .quad else .core)
    | none => s
  | .quad | .dev | .sys => s.acquireBy gid lanes scope

/-- Releases a lane from BAR: the status it asked for, and the acquire (R106, R156). -/
def State.wakeBar (s : State) (w : Wait) (b : BlockRef) (scope : Scope) (st : Option (BitVec 8)) (passed : Bool) : State :=
  let s1 := (s.wake w).barAcquire w.gid w.lanes b scope
  match st with
  | none => s1
  | some p => eachLane s1 (lanesOf w.lanes) fun s l => s.writeP w.gid l p.toNat passed

/-- The lanes that wait on the completed token go on (R105, R106). -/
def State.wakeToken (s : State) (b : BlockRef) (j : Nat) (t : Word) : State :=
  s.waits.foldl (fun s w => match w.kind with
    | .bar j' token scope st =>
      if j' = j ∧ token = t ∧ (s.group w.gid).blk = b then s.wakeBar w b scope st false else s
    | _ => s) s

/-- A phase completes (R105): the next token, no arrival, and every lane that waits on the completed token goes on. -/
def State.completePhase (s : State) (b : BlockRef) (j : Nat) : State :=
  let x := s.join b j
  (s.setJoin b j { x with t := x.t + 1, a := 0, arrived := [], last := s.clock + 1 }).wakeToken b j x.t

/-- Whether one more arrival completes a phase (R105). -/
def Join.nextCompletes (x : Join) : Bool := decide (x.e ≤ x.a + 1)

/-- One arrival (R105); the token is T before it. -/
def State.arrive (s : State) (b : BlockRef) (j who : Nat) : State :=
  let x := s.join b j
  let s1 := s.setJoin b j { x with a := x.a + 1, arrived := x.arrived ++ [who] }
  if x.nextCompletes then s1.completePhase b j else s1

/-! ## Matrix phases and the end of a lane (R102, R108, R149, R286, R304) -/

/-- Whether an operation starts before another of its sub-core (R272): it became ready in an earlier clock; in one clock the lower
group slot comes first, and of one group slot A. -/
def MatOp.before (o x : MatOp) : Bool :=
  decide (o.ready < x.ready) || (o.ready == x.ready && (decide (o.gid < x.gid) || (o.gid == x.gid && !o.slotB && x.slotB)))

/-- Queues a ready operation at its sub-core's engine (R272). -/
def State.queueOp (s : State) (o : MatOp) : State :=
  let s1 : State := { s with eng := { s.eng with mat := insertBy MatOp.before o s.eng.mat } }
  s1.send (.matrixOpStart o.id)

/-- A phase's operation becomes ready (R272, R286). -/
def State.readyOp (s : State) (p : Phase) : State :=
  s.queueOp { id := p.op, sub := subKey p.gid, gid := p.gid, handle := p.word.c.toNat % 16, slot := p.slot,
              kind := .mma p.word p.tensor p.s0 p.s1, ready := s.clock, slotB := s.cycle.slotB, started := false, fetched := false, snap := p.snap,
              mc := true, signers := p.signers, own := p.signers, opened := p.opened, seen := p.seen, blk := (s.group p.gid).blk }

/-- A signing phase completes when A reaches L (R286). -/
def State.checkPhase (s : State) (b : BlockRef) (j : Nat) : State :=
  let x := s.join b j
  match x.phase with
  | none => s
  | some p =>
    let lim := Nat.min x.e ((s.group p.gid).lanes.countP fun l => !l.exited)
    if lim ≤ x.a then ((s.setJoin b j { x with t := x.t + 1, a := 0, phase := none, last := s.clock + 1 }).wakeToken b j x.t).readyOp p
    else s

/-- An exiting lane's deduction from one join register (R108, R286); a phase completes at most once in a clock (R105). -/
def State.deduct (s : State) (b : BlockRef) (gid who j : Nat) : State :=
  let x := s.join b j
  if x.mode then (match x.phase with
    | some p => if p.gid = gid then s.checkPhase b j else s
    | none => s)
  else if x.e = 0 then s
  else
    let had := x.arrived.contains who
    let a := if had then x.a - 1 else x.a
    let s1 := s.setJoin b j { x with e := x.e - 1, a := a, arrived := x.arrived.filter fun y => !(y == who) }
    if 0 < a ∧ x.e - 1 ≤ a ∧ x.last ≠ s.clock + 1 then s1.completePhase b j else s1

/-- Whether exits have left a phase complete in a clock that had completed one already (R105, R108). -/
def Join.due (x : Join) : Bool := !x.mode && decide (0 < x.a) && decide (x.e ≤ x.a)

/-- A phase that exits left complete in a clock that had completed one already completes at the start of the next (R105, R108). -/
def State.completeDue (s : State) : State :=
  s.blocks.foldl (fun s b => (List.range 16).foldl (fun s j =>
    if (s.join ⟨b.lid, b.num⟩ j).due then s.completePhase ⟨b.lid, b.num⟩ j else s) s) s

/-- Lanes parked at RECONV on a mask go on once every lane of it has arrived or exited (R101, R153). -/
def State.checkReconv (s : State) (gid m : Nat) : State :=
  let g := s.group gid
  let mk := (g.m.getD m ⟨0, 0⟩).mask
  let ws := s.waits.filter fun w => w.gid == gid && (match w.kind with
    | .reconv k => k == m
    | _ => false)
  let at_ := ws.foldl (fun a w => a ||| w.lanes) (0 : LaneMask)
  if ws.isEmpty || (mk &&& ~~~at_) != 0 then s
  else (ws.foldl State.wake s).modGroup gid fun g => { g with m := g.m.set m ⟨0, 0⟩ }

/-- Removes lanes from a convergence mask (R101, R102). -/
def State.leaveMask (s : State) (gid m : Nat) (ls : LaneMask) : State :=
  (s.modGroup gid fun g => { g with m := g.m.set m { (g.m.getD m ⟨0, 0⟩) with mask := (g.m.getD m ⟨0, 0⟩).mask &&& ~~~ls } }).checkReconv gid m

/-- A group whose lanes have all exited gives its slot back once its counters read 0 and its matrix and bank vector work is
settled (R102, R149, R266, R304); the block retires with its last group. -/
def State.settle (s : State) (gid : Nat) : State :=
  let g := s.group gid
  if s.hasGroup gid && !g.sys && g.liveLanes.isEmpty && g.cnt.zero && !(s.eng.mat.any fun o => o.gid == gid)
      && !(s.ms.bank.any fun c => c.gid == gid) && !g.serving then
    let accs := s.eng.accs.map fun (a : AccSlot) =>
      if a.sub == subKey gid && g.acc.any (fun h => h.2 == a.slot + 1) then { a with bound := false } else a
    let s1 : State := { s with groups := Map.erase gid s.groups, eng := { s.eng with accs := accs } }
    let s2 := s1.modBlock g.blk fun b => { b with gids := b.gids.filter fun x => !(x == gid) }
    s2.send (.blockRetire g.blk)
  else s

/-- Lanes end (R102, R108, R149, R193). -/
def State.exitLanes (s : State) (gid : Nat) (ls : List Nat) : State :=
  let g := s.group gid
  let s1 := eachLane s ls fun s l => s.modLane gid l fun x => { x with live := false, exited := true, park := none }
  let s2 := eachLane s1 ls fun s l =>
    let s := (List.range 16).foldl (fun s j => s.deduct g.blk gid (32 * g.num + l) j) s
    (s.commitCells fun c => c.who == g.name l).dropWrites gid fun _ w => match w with
      | .v l' _ _ => l' == l
      | .p l' _ _ => l' == l
  let s3 := (List.range 8).foldl (fun s m => s.leaveMask gid m (maskOf ls)) s2
  let g3 := s3.group gid
  if g3.liveLanes.isEmpty then
    (s3.modGroup gid fun g => { g with streams := [] })
  else s3

end Sys2Proof.Machine
end

