-- ==== Sys2Proof/Machine/Scratch.lean ====
section
/-! DEFINITION. A block's scratchpad: its bytes, its full-empty bits with the LDFE readers that wait on them (R158, R189,
R190, R213), and the rings of bound streams (R317, R318). -/
namespace Sys2Proof.Machine

def Block.readB (b : Block) (off n : Nat) : List Byte := (List.range n).map fun i => Map.get 0 b.scratch (off + i)
def Block.writeB (b : Block) (off : Nat) (bs : List Byte) : Block :=
  { b with scratch := ((List.range bs.length).zip bs).foldl (fun m x => Map.set 0 m (off + x.1) x.2) b.scratch }
def Block.isFull (b : Block) (gran : Nat) : Bool := Map.get false b.full gran
def Block.setFull (b : Block) (gran : Nat) (v : Bool) : Block := { b with full := Map.set false b.full gran v }

def State.readS (s : State) (b : BlockRef) (off n : Nat) : List Byte :=
  match s.block b with
  | some x => x.readB off n
  | none => List.replicate n 0
/-- A write of scratchpad bytes by a lane; what it replaces is recorded for operand fetches (R290). -/
def State.writeBy (s : State) (who : Option (Nat × Nat)) (b : BlockRef) (off : Nat) (bs : List Byte) : State :=
  s.modBlock b fun x =>
    { (x.writeB off bs) with former := ⟨s.nextId, who, if who.isSome then none else some s.nextId, off, x.readB off bs.length⟩ :: x.former }
/-- A write of scratchpad bytes by an engine or a stream unit, released as it lands. -/
def State.writeS (s : State) (b : BlockRef) (off : Nat) (bs : List Byte) : State := s.writeBy none b off bs
/-- The scratchpad bytes that a block's launch declares (R158, R322). -/
def State.scratchSize (s : State) (b : BlockRef) : Nat :=
  match s.launch b.lid with
  | some x => x.record.scratch
  | none => 0
/-- Blocks in a span of a launch (R322). -/
def State.spanOf (s : State) (lid : Nat) : Nat :=
  match s.launch lid with
  | some x => Nat.max 1 x.record.span
  | none => 1
/-- The block that a selector names in the span of a block; none at or beyond the span's block count (R158). -/
def State.selBlock (s : State) (b : BlockRef) (sel : Nat) : Option BlockRef :=
  let n := s.spanOf b.lid
  let t := b.block / n * n + sel
  let total := match s.launch b.lid with
    | some x => x.record.blocks
    | none => 0
  if sel < n ∧ t < total then some ⟨b.lid, t⟩ else none

/-! ## What a memory TYPE makes of bytes (R197) -/

/-- The register writes of a load of bytes by TYPE into a lane's data register. -/
def loadWrites (lane reg : Nat) (ty : MTy) (bs : List Byte) : List RegWrite :=
  let x := leNat bs
  let w (k : Nat) : RegWrite := .v lane (reg + k) (BitVec.ofNat 32 (x / 2 ^ (32 * k)))
  match ty with
  | .n8 | .n16 | .bf16 | .f16 | .b32 | .f32 | .i32 | .n32 => [w 0]
  | .i8 => [.v lane reg ((BitVec.ofNat 8 x).signExtend 32)]
  | .i16 => [.v lane reg ((BitVec.ofNat 16 x).signExtend 32)]
  | .b64 | .i64 | .n64 => [w 0, w 1]
  | .b128 => [w 0, w 1, w 2, w 3]

/-- The number of v registers that a memory TYPE names (R197). -/
def MTy.regs : MTy → Nat
  | .n8 | .i8 | .n16 | .i16 | .bf16 | .f16 | .b32 | .f32 | .i32 | .n32 => 1
  | .b64 | .i64 | .n64 => 2
  | .b128 => 4

/-- The bytes that a store takes from a lane's data register (R197). -/
def State.storeBytes (s : State) (gid lane reg : Nat) (ty : MTy) : List Byte :=
  (((List.range (MTy.regs ty)).map fun k => leBytes 4 (s.readV gid lane (16 + k) (reg + k)).toNat).flatten).take (MTy.bytes ty)

/-! ## Full-empty bits -/

/-- Waits by sub-core, slot A before slot B, then as they parked (R154, R190). -/
def inSlotOrder (ws : List Wait) : List Wait :=
  sortBy (fun a b => decide (subKey a.gid < subKey b.gid) || (subKey a.gid == subKey b.gid && (!a.slotB || b.slotB))) ws

/-- The waits of LDFE on a granule of a block's scratchpad, in the order of R190: by sub-core, slot A before slot B, then as they
parked. -/
def State.ldfeWaits (s : State) (b : BlockRef) (gran : Nat) : List Wait :=
  inSlotOrder (s.waits.filter fun w => match w.kind with
    | .ldfe _ _ off _ _ _ => off / 16 == gran && (s.group w.gid).blk == b
    | _ => false)

/-- One waiting LDFE reader takes the granule's value while the bit reads full (R190, R213). LDC falls with the last reader
of its instruction. -/
def State.ldfeTake (s : State) (b : BlockRef) (gran : Nat) (w : Wait) : State :=
  match w.kind, s.block b with
  | .ldfe acc lane off ty reg clr, some x =>
    if x.isFull gran then
      let s1 := if clr then s.modBlock b fun x => x.setFull gran false else s
      let more := s1.waits.any fun v => !(v.id == w.id) && (match v.kind with
        | .ldfe a _ _ _ _ _ => a == acc
        | _ => false)
      (s1.wake w).send (.resultReturn ⟨acc, w.gid, if more then none else some .ldc, 0,
        loadWrites lane reg ty (x.readB off (MTy.bytes ty)), []⟩)
    else s
  | _, _ => s

/-- A granule turns full, and its readers are served (R189, R213). -/
def State.fillGran (s : State) (b : BlockRef) (gran : Nat) : State :=
  let s1 := s.modBlock b fun x => x.setFull gran true
  (s1.ldfeWaits b gran).foldl (fun s w => s.ldfeTake b gran w) s1

/-- The granules that [off, off + n) touches. -/
def granules (off n : Nat) : List Nat := if n = 0 then [] else (List.range ((off + n - 1) / 16 - off / 16 + 1)).map fun i => off / 16 + i

/-! ## Stream rings (R317 to R320) -/

structure Ring where
  blk : BlockRef
  off : Nat
  head : Nat
  tail : Nat
  cap : Nat
  deriving DecidableEq, Repr

/-- A ring's control granule as it stands; none where CAP or the extent is invalid (R317, R318). -/
def State.ring (s : State) (b : BlockRef) (off : Nat) : Option Ring :=
  let c := s.readS b off 16
  let cap := fieldAt c 8 4
  if 4 ≤ cap ∧ cap ≤ 16384 ∧ 2 ^ Nat.log2 cap = cap ∧ off + 16 + 4 * cap ≤ s.scratchSize b then
    some ⟨b, off, fieldAt c 0 4, fieldAt c 4 4, cap⟩
  else none

/-- The elements a ring holds, modulo 2^32. -/
def Ring.held (r : Ring) : Nat := (r.tail + 2 ^ 32 - r.head) % 2 ^ 32

/-- The binding of a stream register of a group (R319). -/
def Group.bound (g : Group) (reg : Nat) : Option StreamBind := g.streams.find? fun x => x.reg == reg
/-- The ring of a bound register. -/
def State.ringOf (s : State) (gid : Nat) (k : StreamBind) : Option Ring := s.ring ⟨(s.group gid).lid, k.block⟩ k.off

/-- Pops `n` elements from the head (R320). -/
def State.ringPop (s : State) (r : Ring) (n : Nat) : State × List Word :=
  (s.writeS r.blk r.off (leBytes 4 (r.head + n)),
   (List.range n).map fun i => BitVec.ofNat 32 (leNat (s.readS r.blk (r.off + 16 + 4 * ((r.head + i) % r.cap)) 4)))

/-- Pushes elements at the tail; each granule of theirs turns full (R189, R320). DESIGN CHOICE (log entry 83): the stream unit's own
writes of HEAD and TAIL turn no granule full. -/
def State.ringPush (s : State) (r : Ring) (xs : List Word) : State :=
  let at_ (i : Nat) : Nat := r.off + 16 + 4 * ((r.tail + i) % r.cap)
  let s1 := ((List.range xs.length).zip xs).foldl (fun s x => s.writeS r.blk (at_ x.1) (leBytes 4 x.2.toNat)) s
  let s2 := s1.writeS r.blk (r.off + 4) (leBytes 4 (r.tail + xs.length))
  ((List.range xs.length).map fun i => at_ i / 16).eraseDups.foldl (fun s g => s.fillGran r.blk g) s2

end Sys2Proof.Machine
end

