-- ==== Sys2Proof/Machine/Flags.lean ====
section
/-! DEFINITION. Predicates: the guard (R51), the truth tables of PLOP (R131) and the aggregates of PAGG and PMASK (R141).
The compares of SETP are Alu.setp (R68, R129). -/
namespace Sys2Proof.Machine

/-- Whether a lane's guard lets it take part (R48, R51). -/
def State.guardOf (s : State) (gid lane : Nat) (c : Ctl) : Bool := s.readP gid lane 0 c.gp.toNat != c.gn

/-- The lanes that take part (R51). -/
def State.taking (s : State) (cx : Cx) (c : Ctl) : List Nat := (lanesOf cx.mask).filter fun l => s.guardOf cx.gid l c

/-- PLOP (R131): TT[2·a + b]. -/
def plopOf (tt : BitVec 6) (a b : Bool) : Bool := tt.getLsbD ((if a then 2 else 0) + (if b then 1 else 0))

/-- PAGG (R141) by operation, over the values that the lanes taking part read. -/
def paggOf (op : Nat) (l : List Bool) : Bool :=
  match op with
  | 0 => l.all id
  | 1 => l.any id
  | 2 => l.all id || l.all not
  | _ => l.countP id % 2 == 1

/-- PMASK (R141): the lanes that read the predicate true. -/
def pmaskOf (l : List (Nat × Bool)) : LaneMask := maskOf ((l.filter fun x => x.2).map fun x => x.1)

end Sys2Proof.Machine
end

