-- ==== Sys2Proof/Machine/Operands.lean ====
section
/-! DEFINITION. How an instruction word issues and how it names its operands: the guard and the switch marker (R50, R51), the
register-range and stream checks (R95, R320), the operands of class 0 (R115, R116), effective addresses (R195) and the checks
of class 3 (R196). -/
namespace Sys2Proof.Machine

/-- What a step answers. -/
abbrev Answer := Host.Outcome State Fault Refusal

def Iss.gid (i : Iss) : Nat := i.cx.gid
/-- The lowest-numbered lane that takes part. -/
def Iss.low (i : Iss) : Nat := i.lanes.headD 0

/-! ## Issue -/

/-- Sets what an issue slot of a unit holds (R97). -/
def State.setSlot (s : State) (unit : Nat) (isB : Bool) (p : Option SlotPc) : State :=
  let k := Map.get ⟨none, none, false⟩ s.subs unit
  { s with subs := Map.set ⟨none, none, false⟩ s.subs unit (if isB then { k with b := p } else { k with a := p }) }

/-- The instruction cannot issue yet: it stands where it is, and its slot keeps it (R45, R97, R308, R375). -/
def State.stall (s : State) : State :=
  match s.cur with
  | none => s
  | some cx => { (s.setSlot (subKey cx.gid) s.cycle.slotB (some ⟨cx.gid, cx.pc, cx.pos⟩)) with cur := none }

/-- The lanes of the issuing program counter pass the word (R43, R146); the switch marker holds the group (R49, R50). -/
def State.start (s : State) (cx : Cx) (c : Ctl) : State :=
  let n := nextPos cx.pos cx.left
  let s1 := eachLane { s with cur := none, nextId := s.nextId + 1 } (lanesOf cx.mask) fun s l =>
    s.modLane cx.gid l fun x => { x with pc := cx.pc + 8, pos := n.1, left := n.2, cls := cx.cls, since := s.clock }
  if c.sw || c.compat then s1.modGroup cx.gid fun g => { g with hold := true } else s1

/-- Register writes recorded for a lane while an access of it is open, with those that later accesses will make (R375). -/
def State.recorded (s : State) (gid lane : Nat) : Nat :=
  (s.lane gid lane).undo.length + (s.due.flatMap fun i => match retAny i with
    | some r => if r.gid = gid then r.writes.filter fun w => match w with
        | .v l _ _ => l == lane
        | .p l _ _ => l == lane
      else []
    | none => []).length
    + ((s.ms.jobs.filter fun j => j.iss.cx.gid == gid && j.accs.any fun a => a.lane == lane).map fun j => j.dst.length).sum

/-- Whether the word holds issue: its counter reads 63 (R45), or it would make a 33rd recorded write (R375). -/
def State.holdsIssue (s : State) (gid : Nat) (ls : List Nat) (ctr : Option Ctr) (writes : Nat) : Bool :=
  !ls.isEmpty && ((match ctr with
    | some c => decide (63 ≤ (s.group gid).cnt.get c)
    | none => false) || ls.any fun l => s.laneOpen gid l && decide (32 < s.recorded gid l + writes))

/-- The first of the named v registers that the lanes may not name, and its cause (R95, R320). -/
def State.nameTrap (s : State) (gid : Nat) (names : List Nat) : Option (Nat × Nat) :=
  names.findSome? fun r =>
    if ((s.group gid).bound r).isSome then some (0x2B, r)
    else if s.regsOf (s.group gid) ≤ r then some (0x05, r)
    else none

/-- Issues a word of a class other than 0 (R45, R50, R51, R95, R320): `ctr` is the counter it raises, `names` the v registers
it names and `writes` how many of them it writes; `body` is its effect in the lanes that take part. -/
def issue (s : State) (c : Ctl) (ctr : Option Ctr) (names : List Nat) (writes : Nat) (body : State → Iss → State) : Answer :=
  match s.cur with
  | none => .fault .noIssuer
  | some cx =>
    let ls := s.taking cx c
    if s.holdsIssue cx.gid ls ctr writes then .next s.stall
    else
      let s1 := s.start cx c
      if ls = [] then .next s1
      else match s.nameTrap cx.gid names with
        | some x => .next (s1.trap cx.gid ls (cx.at_ x.1 (BitVec.ofNat 64 x.2)))
        | none => .next (body s1 ⟨cx, s.nextId, ls⟩)

/-- Issues a privileged word (R61): on a compute core it traps whatever the guard reads. -/
def issuePriv (s : State) (c : Ctl) (ctr : Option Ctr) (names : List Nat) (writes : Nat) (body : State → Iss → State) : Answer :=
  match s.cur with
  | none => .fault .noIssuer
  | some cx =>
    if isSysGid cx.gid then issue s c ctr names writes body
    else .next (({ s with cur := none } : State).trap cx.gid (lanesOf cx.mask) (cx.at_ 0x04 cx.word))

/-- Traps every lane that takes part with one cause (R379). -/
def State.trapAll (s : State) (i : Iss) (cause : Nat) (info : Nat) : State :=
  s.trap i.gid i.lanes (i.cx.at_ cause (BitVec.ofNat 64 info))

/-- The registers of a v pair or of one v register. -/
def vNames (is64 : Bool) (r : BitVec 8) : List Nat := if is64 then [r.toNat, r.toNat + 1] else [r.toNat]

/-- A value the spec leaves open (log entry 5). -/
def State.freeWord (s : State) (tag : Nat) : Word := BitVec.ofNat 32 (Config.freeValue s.free tag)

/-! ## Special registers (R96) -/

/-- The argument pointer of a group: its task's, or its launch's (R322, R341). -/
def State.argsOf (s : State) (g : Group) : DWord :=
  match g.task with
  | some t => t.args
  | none => match s.launch g.lid with
    | some x => x.record.args
    | none => 0

def lo32 (x : DWord) : Word := x.extractLsb' 0 32
def hi32 (x : DWord) : Word := x.extractLsb' 32 32

/-- A special register as a lane reads it. What a number reads on a system core where R96 names a block, a launch, a core or
a slot is a free value (log entry 18). -/
def State.special (s : State) (i : Iss) (lane n : Nat) : Word :=
  let g := s.group i.gid
  let x := g.lane lane
  let w (k : Nat) : Word := BitVec.ofNat 32 k
  let ofLaunch (f : Launch → Nat) : Word := match s.launch g.lid with
    | some k => if g.sys then s.freeWord n else w (f k)
    | none => s.freeWord n
  match n with
  | 0x00 => w lane
  | 0x01 => ofLaunch fun _ => g.num
  | 0x02 => ofLaunch fun _ => g.block
  | 0x03 => ofLaunch fun k => g.block % Nat.max 1 k.record.span
  | 0x04 => ofLaunch fun k => g.block / Nat.max 1 k.record.span
  | 0x05 => ofLaunch fun k => k.record.blocks
  | 0x06 => ofLaunch fun k => k.record.lanes
  | 0x07 => if g.sys then s.freeWord n else w (coreOf i.gid)
  | 0x08 => if g.sys then s.freeWord n else w (subOf i.gid)
  | 0x09 => if g.sys then s.freeWord n else w (slotOf i.gid)
  | 0x0A => w (quadOfGid i.gid)
  | 0x0B => w (quadOfGid i.gid / 4)
  | 0x0C => i.cx.mask
  | 0x0D => x.helper
  | 0x0E => w x.stack.length
  | 0x0F => ofLaunch fun k => k.record.prio
  | 0x10 => w s.clock
  | 0x11 => w (s.clock / 2 ^ 32)
  | 0x12 => w s.tick
  | 0x13 => w (s.tick / 2 ^ 32)
  | 0x14 => ofLaunch fun _ => g.lid
  | 0x15 => if g.sys then s.freeWord n else lo32 (s.argsOf g)
  | 0x16 => if g.sys then s.freeWord n else hi32 (s.argsOf g)
  | 0x17 => x.xcause
  | 0x18 => lo32 x.xinfo
  | 0x19 => hi32 x.xinfo
  | 0x1A => lo32 x.xpc
  | 0x1B => hi32 x.xpc
  | 0x1C => x.xidx
  | 0x1D => match g.task with
    | some t => t.c0
    | none => 0
  | 0x1E => match g.task with
    | some t => t.c1
    | none => 0
  | _ => match g.task with
    | some t => t.c2
    | none => 0

/-! ## Class 0: lane operations over operands (R115, R116, R118, R320) -/

/-- A source of a class 0 instruction. -/
inductive Src where
  | v (is64 : Bool) (reg : Nat)
  /-- PACK's D, which it reads and writes (R135). -/
  | keep (reg : Nat)
  | g (reg : Nat)
  /-- A predicate source, negated from 8 (R52). -/
  | ps (field : Nat)
  | special (num : Nat)
  | imm (x : DWord)

/-- A destination of a class 0 instruction. -/
inductive Dst where
  | v (is64 : Bool) (reg : Nat)
  | p (reg : Nat)
  | g (reg : Nat)

/-- A class 0 instruction: its sources in field order, its destination, and its function of the sources; a predicate takes
bit 0 of the result. -/
structure LaneOp where
  srcs : List Src
  dst : Dst
  fn : List DWord → DWord

/-- A v or g operand of the RRR format (R53, R115). -/
def srcVG (isG is64 : Bool) (r : BitVec 8) : Src := if isG then .g r.toNat else .v is64 r.toNat
/-- A predicate result. -/
def boolBits (b : Bool) : DWord := if b then 1 else 0
/-- Position `i` of the sources. -/
def arg (l : List DWord) (i : Nat) : DWord := l.getD i 0

/-- How one operand names v registers: each with 1 for a single source, 2 for a single destination and 0 otherwise. -/
def Src.names : Src → List (Nat × Nat)
  | .v true r => [(r, 0), (r + 1, 0)]
  | .v false r => [(r, 1)]
  | .keep r => [(r, 0)]
  | .g _ | .ps _ | .special _ | .imm _ => []
def Dst.names : Dst → List (Nat × Nat)
  | .v true r => [(r, 0), (r + 1, 0)]
  | .v false r => [(r, 2)]
  | .p _ | .g _ => []
def Dst.writes : Dst → Nat
  | .v true _ => 2 | .v false _ => 1 | .p _ => 1 | .g _ => 1

/-- The register-range and stream-use checks of class 0 (R95, R320). -/
def State.laneTrap (s : State) (gid : Nat) (op : LaneOp) : Option (Nat × Nat) :=
  (op.dst.names ++ op.srcs.flatMap Src.names).findSome? fun x =>
    match (s.group gid).bound x.1 with
    | some k => if (x.2 = 1 ∧ k.out = false) ∨ (x.2 = 2 ∧ k.out = true) then none else some (0x2B, x.1)
    | none => if s.regsOf (s.group gid) ≤ x.1 then some (0x05, x.1) else none

/-- The value a lane reads for a source; `n` is the operand's place (R100). -/
def State.readSrc (s : State) (i : Iss) (lane n : Nat) : Src → DWord
  | .v is64 r => s.readVW i.gid lane (n + 1) is64 r
  | .keep r => (s.readV i.gid lane (n + 1) r).zeroExtend 64
  | .g r => s.readG i.gid r
  | .ps f => boolBits (s.readPs i.gid lane (n + 1) f)
  | .special k => (s.special i lane k).zeroExtend 64
  | .imm x => x

/-- The input registers among the sources, in field order, with their operand places. -/
def State.inputs (s : State) (gid : Nat) (op : LaneOp) : List (Nat × Nat) :=
  ((List.range op.srcs.length).zip op.srcs).filterMap fun x => match x.2 with
    | .v false r => if ((s.group gid).bound r).isSome then some (x.1, r) else none
    | _ => none

/-- The result in a lane: its own operands, with popped elements in place of input registers. -/
def State.laneValue (s : State) (i : Iss) (op : LaneOp) (ins : List (Nat × Nat)) (got : List (List (Nat × Word))) (lane : Nat) : DWord :=
  op.fn (((List.range op.srcs.length).zip op.srcs).map fun x =>
    match ins.findIdx? fun y => y.1 == x.1 with
    | some j => (((got.getD j []).lookup lane).getD 0).zeroExtend 64
    | none => s.readSrc i lane x.1 x.2)

/-- Writes one lane's result. -/
def State.putDst (s : State) (i : Iss) (lane : Nat) (d : Dst) (x : DWord) : State :=
  match d with
  | .v is64 r => s.writeVW i.gid lane is64 r x
  | .p r => s.writeP i.gid lane r (x.getLsbD 0)
  | .g r => s.writeGOf i.gid lane r x

/-- Computes and writes the results, or pushes them to an output binding (R320): a g destination takes the lowest lane's
value (R95, R136). -/
def State.laneFinish (s : State) (i : Iss) (op : LaneOp) (ins : List (Nat × Nat)) (got : List (List (Nat × Word))) : State :=
  let vals := i.lanes.map fun l => (l, s.laneValue i op ins got l)
  let plain : State := (match op.dst with
    | .g _ => vals.take 1
    | .v _ _ | .p _ => vals).foldl (fun (s : State) (x : Nat × DWord) => s.putDst i x.1 op.dst x.2) s
  match op.dst with
  | .v false r => match (s.group i.gid).bound r with
    | none => plain
    | some k => match s.ringOf i.gid k with
      | none => s.trapAll i 0x29 r
      | some q =>
        let xs := vals.map fun x => (x.1, lo32 x.2)
        if xs.length ≤ q.cap - q.held then s.ringPush q (xs.map fun x => x.2)
        else s.parkFor i.cx i.lanes (.streamPush r xs) .streamPushResume
  | .v true _ | .p _ | .g _ => plain

/-- The first bound register among the operands whose ring is invalid, in the order of its pops and push (R318, R320). -/
def State.badRing (s : State) (gid : Nat) (op : LaneOp) : Option Nat :=
  let regs := ((s.inputs gid op).map fun x => x.2) ++ (match op.dst with
    | .v false r => [r]
    | .v true _ | .p _ | .g _ => [])
  regs.find? fun r => match (s.group gid).bound r with
    | some k => (s.ringOf gid k).isNone
    | none => false

/-- Pops for the input registers not yet served, in field order, then computes (R320). A word that finds a ring invalid moves nothing
(R110, R318). DESIGN CHOICE (log entry 83): once lanes have parked with elements that they popped, those pops stand though a ring
turn invalid. `fuel` bounds the operands. -/
def State.laneGo : Nat → State → Iss → Instr → LaneOp → List (List (Nat × Word)) → State
  | 0, s, _, _, _, _ => s
  | fuel + 1, s, i, w, op, got =>
    let ins := s.inputs i.gid op
    match (if got = [] then s.badRing i.gid op else none) with
    | some r => s.trapAll i 0x29 r
    | none =>
    match ins[got.length]? with
    | none => s.laneFinish i op ins got
    | some (_, r) =>
      match (s.group i.gid).bound r with
      | none => s
      | some k => match s.ringOf i.gid k with
        | none => s.trapAll i 0x29 r
        | some q =>
          if i.lanes.length ≤ q.held then
            let p := s.ringPop q i.lanes.length
            State.laneGo fuel p.1 i w op (got ++ [i.lanes.zip p.2])
          else s.parkFor i.cx i.lanes (.streamPop w got) .streamPopResume

/-- Issues a class 0 instruction (R51, R95, R118, R320, R375). -/
def issueLane (s : State) (c : Ctl) (w : Instr) (op : LaneOp) : Answer :=
  match s.cur with
  | none => .fault .noIssuer
  | some cx =>
    let ls := s.taking cx c
    if s.holdsIssue cx.gid ls none op.dst.writes then .next s.stall
    else
      let s1 := s.start cx c
      if ls = [] then .next s1
      else match s.laneTrap cx.gid op with
        | some x => .next (s1.trap cx.gid ls (cx.at_ x.1 (BitVec.ofNat 64 x.2)))
        | none => .next (s1.laneGo 5 ⟨cx, s.nextId, ls⟩ w op [])

/-! ## Class 3: addresses and checks (R56, R195, R196) -/

/-- The displacement (R56): 18 bits with AUX where the entry names no second operand and BK names no index. -/
def dispOf (f : MF) (second : Bool) : DWord :=
  if second || f.bk == .gv then f.disp.signExtend 64 else (f.aux ++ f.disp : BitVec 18).signExtend 64

/-- A lane's effective address (R195); `second` says that the entry uses AUX for a second operand. -/
def State.ea (s : State) (gid lane : Nat) (f : MF) (second : Bool) : DWord :=
  let d := dispOf f second
  match f.bk with
  | .g => s.readG gid f.base.toNat + d
  | .gv => s.readG gid f.base.toNat + (s.readV gid lane 2 f.aux.toNat).zeroExtend 64 + d
  | .vv => s.readVW gid lane 1 true f.base.toNat + d
  | .v => (s.readV gid lane 1 f.base.toNat).zeroExtend 64 + d

/-- The v registers that form the address. -/
def addrNames (f : MF) : List Nat :=
  match f.bk with
  | .g => [] | .gv => [f.aux.toNat] | .vv => [f.base.toNat, f.base.toNat + 1] | .v => [f.base.toNat]
/-- The v registers of the data operand (R197). -/
def dataNames (f : MF) : List Nat := (List.range (MTy.regs f.ty)).map fun k => f.data.toNat + k

/-- A lane's global access. -/
def accG (lane : Nat) (ea : DWord) (pa : Nat) (kind : PageKind) : Acc := ⟨lane, ea, pa, kind, ⟨0, 0⟩, 0, [], 0, none, none⟩
/-- A lane's scratchpad access. -/
def accS (lane : Nat) (ea : DWord) (b : BlockRef) (off : Nat) : Acc := ⟨lane, ea, 0, .shared, b, off, [], 0, none, none⟩

/-- What the checks of R196 found: the lanes that go on, those that trap (lane, cause, information), and those whose walk
stopped (lane, address, level, malformed). -/
structure Checked where
  ok : List Acc
  traps : List (Nat × Nat × DWord)
  stops : List (Nat × DWord × Nat × Bool)
  deriving DecidableEq, Repr

/-- The checks of R196 in order for a global instruction: alignment to `width`, translation, and the entry's own. -/
def State.checkGlobal (s : State) (i : Iss) (acc : Access) (width : Nat) (own : Nat → DWord → Option (Nat × DWord))
    (eas : List (Nat × DWord)) : State × Checked :=
  let w := s.laneWalker i.gid
  eas.foldl (fun r x =>
    let l := x.1
    let ea := x.2
    if ea.toNat % width ≠ 0 then (r.1, { r.2 with traps := r.2.traps ++ [(l, 0x10, ea)] })
    else match r.1.xlate w ea acc with
      | (s1, .ok pa k) => match own l ea with
        | some t => (s1, { r.2 with traps := r.2.traps ++ [(l, t.1, t.2)] })
        | none => (s1, { r.2 with ok := r.2.ok ++ [accG l ea pa k] })
      | (s1, .trap c) => (s1, { r.2 with traps := r.2.traps ++ [(l, c, ea)] })
      | (s1, .stop lv bad) => (s1, { r.2 with stops := r.2.stops ++ [(l, ea, lv, bad)] })) (s, ⟨[], [], []⟩)

/-- The lanes that failed take their traps, and those whose walk stopped park as one sub-group (R110, R374). -/
def State.failures (s : State) (i : Iss) (acc : Access) (c : Checked) : State :=
  let s1 := State.trapEach (c.traps.length + 1) s i.cx c.traps
  match c.stops with
  | [] => s1
  | x :: _ => s1.pageStop i.cx (c.stops.map fun y => y.1) x.2.1 acc x.2.2.1 x.2.2.2

/-- The checks of R196 for a scratchpad instruction (R158): `sel` is a lane's block, none beyond the span. The offset is
ea mod 2^32 (R195). -/
def State.checkScratch (s : State) (width : Nat) (sel : Nat → Option BlockRef) (eas : List (Nat × DWord)) :
    List Acc × List (Nat × Nat × DWord) :=
  eas.foldl (fun r x =>
    let off := x.2.toNat % 2 ^ 32
    if off % width ≠ 0 then (r.1, r.2 ++ [(x.1, 0x10, x.2)])
    else match sel x.1 with
      | some b =>
        if off + width ≤ s.scratchSize b then (r.1 ++ [accS x.1 x.2 b off], r.2) else (r.1, r.2 ++ [(x.1, 0x11, BitVec.ofNat 64 off)])
      | none => (r.1, r.2 ++ [(x.1, 0x11, BitVec.ofNat 64 off)])) ([], [])

/-- Translates one group-wide address for the lanes that take part (R51, R196): the state, and the place where it succeeds. -/
def State.checkOne (s : State) (i : Iss) (acc : Access) (va : DWord) : State × Option (Nat × PageKind) :=
  match s.xlate (s.laneWalker i.gid) va acc with
  | (s1, .ok pa k) => (s1, some (pa, k))
  | (s1, .trap c) => (s1.trap i.gid i.lanes (i.cx.at_ c va), none)
  | (s1, .stop lv bad) => (s1.pageStop i.cx i.lanes va acc lv bad, none)

/-- Translates the pages of a group-wide range in ascending order by a walker (R227, R262, R310). -/
def State.checkRangeBy (s : State) (w : Walker) (i : Iss) (acc : Access) (va len : Nat) : State × Option (List (Nat × Nat × PageKind)) :=
  match s.xlateRange w acc (len / 4096 + 2) va (va + len) with
  | (s1, .ok l) => (s1, some l)
  | (s1, .error (a, .trap c)) => (s1.trap i.gid i.lanes (i.cx.at_ c (BitVec.ofNat 64 a)), none)
  | (s1, .error (a, .stop lv bad)) => (s1.pageStop i.cx i.lanes (BitVec.ofNat 64 a) acc lv bad, none)
  | (s1, .error (_, .ok _ _)) => (s1, none)

/-- The same as the lanes of the group reach them. -/
def State.checkRange (s : State) (i : Iss) (acc : Access) (va len : Nat) : State × Option (List (Nat × Nat × PageKind)) :=
  s.checkRangeBy (s.laneWalker i.gid) i acc va len

/-- The physical place of a virtual address in a translated range. -/
def rangeAt (l : List (Nat × Nat × PageKind)) (va : Nat) : Option (Nat × PageKind) :=
  (l.find? fun x => x.1 / 4096 == va / 4096).map fun x => (x.2.1 + (va - x.1), x.2.2)

/-- Writes one value to a v register of every lane that takes part. -/
def State.giveAll (s : State) (i : Iss) (reg : Nat) (x : Word) : State := eachLane s i.lanes fun s l => s.writeV i.gid l reg x

end Sys2Proof.Machine
end

