-- ==== Sys2Proof/Machine/LaneOps.lean ====
section
/-! DEFINITION. Class 0: lane arithmetic, bits, predicates, conversions and moves (R115 to R138), each as its operands and its
function of them. -/
namespace Sys2Proof.Machine

def modeRRR (f : RRR) : Alu.Mode := ⟨f.ty, f.rm, f.sat⟩
def modeRI (f : RI) : Alu.Mode := ⟨f.ty, f.rm, f.sat⟩
/-- IMM of the RI format as a raw value (R116). -/
def immRI (f : RI) : DWord := f.imm.signExtend 64

def srcA (f : RRR) (is64 : Bool) : Src := srcVG f.ag is64 f.a
def srcB (f : RRR) (is64 : Bool) : Src := srcVG f.bg is64 f.b
def dstV (is64 : Bool) (r : BitVec 8) : Dst := .v is64 r.toNat

/-- One source of the instruction's type. -/
def unaryOp (f : RRR) (fn : DWord → DWord) : LaneOp := ⟨[srcA f f.ty.is64], dstV f.ty.is64 f.d, fun l => fn (arg l 0)⟩
/-- Two sources of the instruction's type. -/
def binaryOp (f : RRR) (fn : DWord → DWord → DWord) : LaneOp :=
  ⟨[srcA f f.ty.is64, srcB f f.ty.is64], dstV f.ty.is64 f.d, fun l => fn (arg l 0) (arg l 1)⟩
/-- A and the immediate. -/
def immOp (f : RI) (fn : DWord → DWord → DWord) : LaneOp :=
  ⟨[.v f.ty.is64 f.a.toNat], dstV f.ty.is64 f.d, fun l => fn (arg l 0) (immRI f)⟩
/-- A and a 32-bit B: a shift count or a field spec (R126, R128; log entry 11). -/
def countOp (f : RRR) (fn : DWord → Nat → DWord) : LaneOp :=
  ⟨[srcA f f.ty.is64, srcB f false], dstV f.ty.is64 f.d, fun l => fn (arg l 0) ((arg l 1).toNat % 2 ^ 32)⟩

/-- ADD (R120). -/
def opAdd (f : RRR) : LaneOp := binaryOp f (Alu.add (modeRRR f))
def execAdd (f : RRR) (s : State) : Answer := issueLane s f.ctl (.add f) (opAdd f)

/-- ADD with an immediate (R116, R120). -/
def opAddImm (f : RI) : LaneOp := immOp f (Alu.add (modeRI f))
def execAddImm (f : RI) (s : State) : Answer := issueLane s f.ctl (.addImm f) (opAddImm f)

/-- SUB (R120). -/
def opSub (f : RRR) : LaneOp := binaryOp f (Alu.sub (modeRRR f))
def execSub (f : RRR) (s : State) : Answer := issueLane s f.ctl (.sub f) (opSub f)

/-- SUB with an immediate (R116, R120). -/
def opSubImm (f : RI) : LaneOp := immOp f (Alu.sub (modeRI f))
def execSubImm (f : RI) (s : State) : Answer := issueLane s f.ctl (.subImm f) (opSubImm f)

/-- MUL (R120). -/
def opMul (f : RRR) : LaneOp := binaryOp f (Alu.mul (modeRRR f))
def execMul (f : RRR) (s : State) : Answer := issueLane s f.ctl (.mul f) (opMul f)

/-- MUL with an immediate (R116, R120). -/
def opMulImm (f : RI) : LaneOp := immOp f (Alu.mul (modeRI f))
def execMulImm (f : RI) (s : State) : Answer := issueLane s f.ctl (.mulImm f) (opMulImm f)

/-- MIN (R120). -/
def opMin (f : RRR) : LaneOp := binaryOp f (Alu.min (modeRRR f))
def execMin (f : RRR) (s : State) : Answer := issueLane s f.ctl (.min f) (opMin f)

/-- MIN with an immediate (R116, R120). -/
def opMinImm (f : RI) : LaneOp := immOp f (Alu.min (modeRI f))
def execMinImm (f : RI) (s : State) : Answer := issueLane s f.ctl (.minImm f) (opMinImm f)

/-- MAX (R120). -/
def opMax (f : RRR) : LaneOp := binaryOp f (Alu.max (modeRRR f))
def execMax (f : RRR) (s : State) : Answer := issueLane s f.ctl (.max f) (opMax f)

/-- MAX with an immediate (R116, R120). -/
def opMaxImm (f : RI) : LaneOp := immOp f (Alu.max (modeRI f))
def execMaxImm (f : RI) (s : State) : Answer := issueLane s f.ctl (.maxImm f) (opMaxImm f)

/-- MULHI (R121). -/
def opMulhi (f : RRR) : LaneOp := binaryOp f (Alu.mulhi (modeRRR f))
def execMulhi (f : RRR) (s : State) : Answer := issueLane s f.ctl (.mulhi f) (opMulhi f)

/-- MAD (R122). -/
def opMad (f : RRR) : LaneOp := 
  ⟨[srcA f f.ty.is64, srcB f f.ty.is64, .v f.ty.is64 f.c.toNat], dstV f.ty.is64 f.d,
    fun l => Alu.mad (modeRRR f) (arg l 0) (arg l 1) (arg l 2)⟩
def execMad (f : RRR) (s : State) : Answer := issueLane s f.ctl (.mad f) (opMad f)

/-- FMA (R122). -/
def opFma (f : RRR) : LaneOp := 
  ⟨[srcA f f.ty.is64, srcB f f.ty.is64, .v f.ty.is64 f.c.toNat], dstV f.ty.is64 f.d,
    fun l => Alu.mad (modeRRR f) (arg l 0) (arg l 1) (arg l 2)⟩
def execFma (f : RRR) (s : State) : Answer := issueLane s f.ctl (.fma f) (opFma f)

/-- ABS (R123). -/
def opAbs (f : RRR) : LaneOp := unaryOp f (Alu.abs (modeRRR f))
def execAbs (f : RRR) (s : State) : Answer := issueLane s f.ctl (.abs f) (opAbs f)

/-- NEG (R123). -/
def opNeg (f : RRR) : LaneOp := unaryOp f (Alu.neg (modeRRR f))
def execNeg (f : RRR) (s : State) : Answer := issueLane s f.ctl (.neg f) (opNeg f)

/-- AND (R124). -/
def opAnd (f : RRR) : LaneOp := binaryOp f fun a b => a &&& b
def execAnd (f : RRR) (s : State) : Answer := issueLane s f.ctl (.and f) (opAnd f)

/-- AND with an immediate (R124): a narrow result is extended by R115. -/
def opAndImm (f : RI) : LaneOp := immOp f fun a b => Alu.bits f.ty (a &&& b)
def execAndImm (f : RI) (s : State) : Answer := issueLane s f.ctl (.andImm f) (opAndImm f)

/-- OR (R124). -/
def opOr (f : RRR) : LaneOp := binaryOp f fun a b => a ||| b
def execOr (f : RRR) (s : State) : Answer := issueLane s f.ctl (.or f) (opOr f)

/-- OR with an immediate (R124): a narrow result is extended by R115. -/
def opOrImm (f : RI) : LaneOp := immOp f fun a b => Alu.bits f.ty (a ||| b)
def execOrImm (f : RI) (s : State) : Answer := issueLane s f.ctl (.orImm f) (opOrImm f)

/-- XOR (R124). -/
def opXor (f : RRR) : LaneOp := binaryOp f fun a b => a ^^^ b
def execXor (f : RRR) (s : State) : Answer := issueLane s f.ctl (.xor f) (opXor f)

/-- XOR with an immediate (R124): a narrow result is extended by R115. -/
def opXorImm (f : RI) : LaneOp := immOp f fun a b => Alu.bits f.ty (a ^^^ b)
def execXorImm (f : RI) (s : State) : Answer := issueLane s f.ctl (.xorImm f) (opXorImm f)

/-- NOT (R124). -/
def opNot (f : RRR) : LaneOp := unaryOp f fun a => ~~~a
def execNot (f : RRR) (s : State) : Answer := issueLane s f.ctl (.not f) (opNot f)

/-- TTBL (R125): bits [7:0] of the word are the table. -/
def opTtbl (f : RRR) : LaneOp := 
  ⟨[.v f.ty.is64 f.a.toNat, .v f.ty.is64 f.b.toNat, .v f.ty.is64 f.c.toNat], dstV f.ty.is64 f.d,
    fun l => Alu.ttbl (BitVec.ofBool f.bg ++ (BitVec.ofBool f.ag ++ f.opx)) (arg l 0) (arg l 1) (arg l 2)⟩
def execTtbl (f : RRR) (s : State) : Answer := issueLane s f.ctl (.ttbl f) (opTtbl f)

/-- SHL (R126). -/
def opShl (f : RRR) : LaneOp := countOp f (Alu.shl f.ty)
def execShl (f : RRR) (s : State) : Answer := issueLane s f.ctl (.shl f) (opShl f)

/-- SHL with an immediate count (R126). -/
def opShlImm (f : RI) : LaneOp := immOp f fun a _ => Alu.shl f.ty a f.imm.toNat
def execShlImm (f : RI) (s : State) : Answer := issueLane s f.ctl (.shlImm f) (opShlImm f)

/-- SHR (R126). -/
def opShr (f : RRR) : LaneOp := countOp f (Alu.shr f.ty)
def execShr (f : RRR) (s : State) : Answer := issueLane s f.ctl (.shr f) (opShr f)

/-- SHR with an immediate count (R126). -/
def opShrImm (f : RI) : LaneOp := immOp f fun a _ => Alu.shr f.ty a f.imm.toNat
def execShrImm (f : RI) (s : State) : Answer := issueLane s f.ctl (.shrImm f) (opShrImm f)

/-- ROT (R126). -/
def opRot (f : RRR) : LaneOp := countOp f (Alu.rot f.ty)
def execRot (f : RRR) (s : State) : Answer := issueLane s f.ctl (.rot f) (opRot f)

/-- ROT with an immediate count (R126). -/
def opRotImm (f : RI) : LaneOp := immOp f fun a _ => Alu.rot f.ty a f.imm.toNat
def execRotImm (f : RI) (s : State) : Answer := issueLane s f.ctl (.rotImm f) (opRotImm f)

/-- POPC (R127): into one v register. -/
def opPopc (f : RRR) : LaneOp := ⟨[srcA f f.ty.is64], dstV false f.d, fun l => Alu.popc f.ty (arg l 0)⟩
def execPopc (f : RRR) (s : State) : Answer := issueLane s f.ctl (.popc f) (opPopc f)

/-- CLZ (R127): into one v register. -/
def opClz (f : RRR) : LaneOp := ⟨[srcA f f.ty.is64], dstV false f.d, fun l => Alu.clz f.ty (arg l 0)⟩
def execClz (f : RRR) (s : State) : Answer := issueLane s f.ctl (.clz f) (opClz f)

/-- BREV (R127). -/
def opBrev (f : RRR) : LaneOp := unaryOp f (Alu.brev f.ty)
def execBrev (f : RRR) (s : State) : Answer := issueLane s f.ctl (.brev f) (opBrev f)

/-- BFE (R128). -/
def opBfe (f : RRR) : LaneOp := countOp f (Alu.bfe f.ty)
def execBfe (f : RRR) (s : State) : Answer := issueLane s f.ctl (.bfe f) (opBfe f)

/-- BFE with an immediate field spec (R128). -/
def opBfeImm (f : RI) : LaneOp := immOp f fun a _ => Alu.bfe f.ty a f.imm.toNat
def execBfeImm (f : RI) (s : State) : Answer := issueLane s f.ctl (.bfeImm f) (opBfeImm f)

/-- BFI (R128). -/
def opBfi (f : RRR) : LaneOp := 
  ⟨[srcA f f.ty.is64, srcB f false, .v f.ty.is64 f.c.toNat], dstV f.ty.is64 f.d,
    fun l => Alu.bfi f.ty (arg l 0) ((arg l 1).toNat % 2 ^ 32) (arg l 2)⟩
def execBfi (f : RRR) (s : State) : Answer := issueLane s f.ctl (.bfi f) (opBfi f)

/-- SETP (R129). -/
def opSetp (f : RRR) : LaneOp := 
  ⟨[srcA f f.ty.is64, srcB f f.ty.is64], .p f.d.toNat, fun l => boolBits (Alu.setp f.ty f.opx.toNat (arg l 0) (arg l 1))⟩
def execSetp (f : RRR) (s : State) : Answer := issueLane s f.ctl (.setp f) (opSetp f)

/-- SETP with an immediate (R129). -/
def opSetpImm (f : RI) : LaneOp := 
  ⟨[.v f.ty.is64 f.a.toNat], .p f.d.toNat, fun l => boolBits (Alu.setp f.ty f.opx.toNat (arg l 0) (immRI f))⟩
def execSetpImm (f : RI) (s : State) : Answer := issueLane s f.ctl (.setpImm f) (opSetpImm f)

/-- SEL (R130). -/
def opSel (f : RRR) : LaneOp := 
  ⟨[srcA f f.ty.is64, srcB f f.ty.is64, .ps f.c.toNat], dstV f.ty.is64 f.d,
    fun l => if (arg l 2).getLsbD 0 then arg l 0 else arg l 1⟩
def execSel (f : RRR) (s : State) : Answer := issueLane s f.ctl (.sel f) (opSel f)

/-- PLOP (R131). -/
def opPlop (f : RRR) : LaneOp := 
  ⟨[.ps f.a.toNat, .ps f.b.toNat], .p f.d.toNat, fun l => boolBits (plopOf f.opx ((arg l 0).getLsbD 0) ((arg l 1).getLsbD 0))⟩
def execPlop (f : RRR) (s : State) : Answer := issueLane s f.ctl (.plop f) (opPlop f)

/-- CVT (R132, R133): OPX[3:0] is the source type. -/
def opCvt (f : RRR) : LaneOp := 
  ⟨[srcA f (Ty.ofCode f.opx.toNat).is64], dstV f.ty.is64 f.d, fun l => Alu.cvt (Ty.ofCode f.opx.toNat) (modeRRR f) (arg l 0)⟩
def execCvt (f : RRR) (s : State) : Answer := issueLane s f.ctl (.cvt f) (opCvt f)

/-- CVTX (R134). -/
def opCvtx (f : RRR) : LaneOp := ⟨[srcA f false], dstV false f.d, fun l => Alu.cvtx f.opx.toNat (modeRRR f) (arg l 0)⟩
def execCvtx (f : RRR) (s : State) : Answer := issueLane s f.ctl (.cvtx f) (opCvtx f)

/-- PACK (R135): it reads D as well as A. -/
def opPack (f : RRR) : LaneOp := 
  ⟨[srcA f false, .keep f.d.toNat], dstV false f.d, fun l => Alu.pack (modeRRR f) f.opx.toNat (arg l 1) (arg l 0)⟩
def execPack (f : RRR) (s : State) : Answer := issueLane s f.ctl (.pack f) (opPack f)

/-- UNPACK (R135). -/
def opUnpack (f : RRR) : LaneOp := ⟨[srcA f false], dstV false f.d, fun l => Alu.unpack f.ty f.opx.toNat (arg l 0)⟩
def execUnpack (f : RRR) (s : State) : Answer := issueLane s f.ctl (.unpack f) (opUnpack f)

/-- MOV (R136). -/
def opMov (f : RRR) : LaneOp := unaryOp f fun a => a
def execMov (f : RRR) (s : State) : Answer := issueLane s f.ctl (.mov f) (opMov f)

/-- MOVI (R137). -/
def opMovi (f : WI) : LaneOp := ⟨[], dstV f.ty.is64 f.d, fun _ => Alu.movi f.ty f.imm⟩
def execMovi (f : WI) (s : State) : Answer := issueLane s f.ctl (.movi f) (opMovi f)

/-- MOVS (R96, R138). -/
def opMovs (f : RI) : LaneOp := ⟨[.special (f.imm.toNat % 32)], dstV false f.d, fun l => arg l 0⟩
def execMovs (f : RI) (s : State) : Answer := issueLane s f.ctl (.movs f) (opMovs f)

/-- MOVG (R136): `.b32` zero-extends, `.i32` sign-extends; the lowest lane that takes part writes (R95). -/
def opMovg (f : RRR) : LaneOp := 
  ⟨[srcA f f.ty.is64], .g f.d.toNat, fun l =>
    if f.ty == .b64 then arg l 0 else if f.ty == .i32 then (lo32 (arg l 0)).signExtend 64 else (lo32 (arg l 0)).zeroExtend 64⟩
def execMovg (f : RRR) (s : State) : Answer := issueLane s f.ctl (.movg f) (opMovg f)

/-- The class 0 instructions by their operands, for one that parks at a stream (R320). -/
def laneOpOf : Instr → Option LaneOp
  | .add f => some (opAdd f)
  | .addImm f => some (opAddImm f)
  | .sub f => some (opSub f)
  | .subImm f => some (opSubImm f)
  | .mul f => some (opMul f)
  | .mulImm f => some (opMulImm f)
  | .min f => some (opMin f)
  | .minImm f => some (opMinImm f)
  | .max f => some (opMax f)
  | .maxImm f => some (opMaxImm f)
  | .mulhi f => some (opMulhi f)
  | .mad f => some (opMad f)
  | .fma f => some (opFma f)
  | .abs f => some (opAbs f)
  | .neg f => some (opNeg f)
  | .and f => some (opAnd f)
  | .andImm f => some (opAndImm f)
  | .or f => some (opOr f)
  | .orImm f => some (opOrImm f)
  | .xor f => some (opXor f)
  | .xorImm f => some (opXorImm f)
  | .not f => some (opNot f)
  | .ttbl f => some (opTtbl f)
  | .shl f => some (opShl f)
  | .shlImm f => some (opShlImm f)
  | .shr f => some (opShr f)
  | .shrImm f => some (opShrImm f)
  | .rot f => some (opRot f)
  | .rotImm f => some (opRotImm f)
  | .popc f => some (opPopc f)
  | .clz f => some (opClz f)
  | .brev f => some (opBrev f)
  | .bfe f => some (opBfe f)
  | .bfeImm f => some (opBfeImm f)
  | .bfi f => some (opBfi f)
  | .setp f => some (opSetp f)
  | .setpImm f => some (opSetpImm f)
  | .sel f => some (opSel f)
  | .plop f => some (opPlop f)
  | .cvt f => some (opCvt f)
  | .cvtx f => some (opCvtx f)
  | .pack f => some (opPack f)
  | .unpack f => some (opUnpack f)
  | .mov f => some (opMov f)
  | .movi f => some (opMovi f)
  | .movs f => some (opMovs f)
  | .movg f => some (opMovg f)
  | _ => none

end Sys2Proof.Machine
end

