-- ==== Sys2Proof/Machine/CrossLane.lean ====
section
/-! DEFINITION. Class 1: cross-lane operations and special functions (R139 to R145); results return through XC. -/
namespace Sys2Proof.Machine

/-- The name of the oldest open access of a lane (R375). -/
def State.oldestOpen (s : State) (gid lane : Nat) : Nat :=
  let a := (s.lane gid lane).opens.map fun o => o.id
  let b := s.due.filterMap fun i => match retAny i with
    | some r => if r.gid = gid ∧ r.lanes.getLsbD lane then some r.id else none
    | none => none
  (a ++ b).foldl Nat.min s.nextId

/-- The value that a helper lane supplies (R103): while an access of it is open, the one recorded before the oldest (R375). -/
def State.helperV (s : State) (gid lane op reg : Nat) : Word :=
  if s.laneOpen gid lane then
    let o := s.oldestOpen gid lane
    match (s.lane gid lane).undo.findSome? fun u => match u with
      | .v n r old => if r = reg ∧ o < n then some old else none
      | .p _ _ _ | .g _ _ _ | .m _ _ _ => none with
    | some x => x
    | none => (s.lane gid lane).vReg reg
  else s.readV gid lane op reg

/-- Operand A of another lane (R139): its own value if it takes part, else a helper's. DESIGN CHOICE (log entry 89): a lane that the group
does not have, as beside the one lane of a system core, reads as a helper whose registers are 0. -/
def State.readA (s : State) (i : Iss) (ag is64 : Bool) (a : BitVec 8) (lane : Nat) : DWord :=
  if ag then s.readG i.gid a.toNat
  else if i.lanes.contains lane then s.readVW i.gid lane 1 is64 a.toNat
  else if is64 then pairOf (s.helperV i.gid lane 1 a.toNat) (s.helperV i.gid lane 9 (a.toNat + 1))
  else (s.helperV i.gid lane 1 a.toNat).zeroExtend 64

/-- The v registers of A and of the destination. -/
def namesDA (f : RRR) (is64 : Bool) : List Nat := vNames is64 f.d ++ (if f.ag then [] else vNames is64 f.a)

/-- Values for the lanes that take part return to D through XC (R139). -/
def State.laterV (s : State) (i : Iss) (is64 : Bool) (d : BitVec 8) (f : Nat → DWord) : State :=
  s.later i.gid i.id .xc (i.lanes.flatMap fun l => retVW l is64 d.toNat (f l))

/-- The source lane of LXCH (R140); none where it is not valid. -/
def lxchSrc (mode k lane n : Nat) (stepBy : Int) : Option Nat :=
  let z := 2 ^ k
  let base := lane / z * z
  let q := lane % z
  match mode with
  | 0 => some (base + n % z)
  | 1 => some (base + (q + n) % z)
  | 2 => if (base : Int) ≤ lane + stepBy ∧ lane + stepBy < base + z then some (lane + stepBy).toNat else none
  | _ => some (base + Nat.xor q (n % z))

/-- LXCH (R140). -/
def execLxch (f : RRR) (s : State) : Answer :=
  let im := f.opx.getLsbD 5
  issue s f.ctl (some .xc) (namesDA f f.ty.is64 ++ (if im || f.bg then [] else [f.b.toNat])) (vNames f.ty.is64 f.d).length
    fun s i => s.laterV i f.ty.is64 f.d fun l =>
      let b : Word := if im then f.c.zeroExtend 32 else if f.bg then lo32 (s.readG i.gid f.b.toNat) else s.readV i.gid l 2 f.b.toNat
      let by_ : Int := if im then f.c.toInt else b.toInt
      match lxchSrc (f.opx.toNat % 4) (f.opx.toNat / 4 % 8) l b.toNat by_ with
      | some k => s.readA i f.ag f.ty.is64 f.a k
      | none => s.readA i f.ag f.ty.is64 f.a l

/-- PAGG (R141). -/
def execPagg (f : RRR) (s : State) : Answer :=
  issue s f.ctl (some .xc) [] 1 fun s i =>
    let r := paggOf (f.opx.toNat % 4) (i.lanes.map fun l => s.readPs i.gid l 1 f.a.toNat)
    s.later i.gid i.id .xc (i.lanes.map fun l => .p l f.d.toNat r)

/-- PMASK (R141). -/
def execPmask (f : RRR) (s : State) : Answer :=
  issue s f.ctl (some .xc) [f.d.toNat] 1 fun s i =>
    let m := pmaskOf (i.lanes.map fun l => (l, s.readPs i.gid l 1 f.a.toNat))
    let x : DWord := if f.opx.getLsbD 0 then BitVec.ofNat 64 (Alu.popCount 32 m.toNat) else m.zeroExtend 64
    s.laterV i false f.d fun _ => x

/-- XRED (R142): in ascending lane order. -/
def execXred (f : RRR) (s : State) : Answer :=
  issue s f.ctl (some .xc) (namesDA f false) 1 fun s i =>
    let vals := i.lanes.map fun l => s.readA i f.ag false f.a l
    let y := (vals.drop 1).foldl (Alu.xred f.opx.toNat (modeRRR f)) (arg vals 0)
    let x := if f.ty == .f32 then Alu.putFlt .f32 .rne false (Alu.flt .f32 y) else y
    s.laterV i false f.d fun _ => x

/-- The source quad lane of QX (R143). -/
def qxSrc (opx lane : Nat) : Nat := lane / 4 * 4 + (if opx < 4 then Nat.xor (lane % 4) opx else opx - 4)

/-- QX (R143): it sets %helper (R103). A lane that is its own source never answers as a helper. -/
def execQx (f : RRR) (s : State) : Answer :=
  issue s f.ctl (some .xc) (namesDA f f.ty.is64) (vNames f.ty.is64 f.d).length fun s i =>
    let s1 := s.laterV i f.ty.is64 f.d fun l => s.readA i f.ag f.ty.is64 f.a (qxSrc f.opx.toNat l)
    eachLane s1 i.lanes fun s l =>
      let k := qxSrc f.opx.toNat l
      s.modLane i.gid l fun x => { x with helper := if k = l ∨ i.lanes.contains k then 0 else (1 : Word) <<< (k % 4) }

/-- One special function of A (R144). -/
def issueSpecial (f : RRR) (fn : Fl → Fl) (s : State) : Answer :=
  issue s f.ctl (some .xc) (namesDA f false) 1 fun s i =>
    s.laterV i false f.d fun l => Alu.special (modeRRR f) fn (s.readA i f.ag false f.a l)

/-- RCP (R144). -/
def execRcp (f : RRR) (s : State) : Answer := issueSpecial f Fl.recip s
/-- RSQ (R144). -/
def execRsq (f : RRR) (s : State) : Answer := issueSpecial f Fl.rsqrt s
/-- SQRT (R144). -/
def execSqrt (f : RRR) (s : State) : Answer := issueSpecial f Fl.sqrt s
/-- EXP2 (R144). -/
def execExp2 (f : RRR) (s : State) : Answer := issueSpecial f Fl.exp2 s
/-- LOG2 (R144). -/
def execLog2 (f : RRR) (s : State) : Answer := issueSpecial f Fl.log2 s
/-- SIN (R144). -/
def execSin (f : RRR) (s : State) : Answer := issueSpecial f Fl.sin s
/-- COS (R144). -/
def execCos (f : RRR) (s : State) : Answer := issueSpecial f Fl.cos s
/-- TANH (R144). -/
def execTanh (f : RRR) (s : State) : Answer := issueSpecial f Fl.tanh s

/-- DIV (R144). -/
def execDiv (f : RRR) (s : State) : Answer :=
  issue s f.ctl (some .xc) (namesDA f false ++ (if f.bg then [] else [f.b.toNat])) 1 fun s i =>
    s.laterV i false f.d fun l =>
      let b := if f.bg then s.readG i.gid f.b.toNat else (s.readV i.gid l 2 f.b.toNat).zeroExtend 64
      Alu.div (modeRRR f) (s.readA i f.ag false f.a l) b

end Sys2Proof.Machine
end

