-- ==== Sys2Proof/Machine/Control.lean ====
section
/-! DEFINITION. Class 2 but for EXIT: transfers, YIELD, deliberate traps, reconvergence and join registers (R146 to R157), with
the events that end their waits (R105, R109, R150). -/
namespace Sys2Proof.Machine

/-! ## Control transfer (R146 to R148) -/

/-- A lane goes to an address, where it stands at a clause header. -/
def State.goTo (s : State) (gid lane : Nat) (a : DWord) : State :=
  s.modLane gid lane fun x => { x with pc := a, pos := 0, left := 0 }

/-- The target of BRA and CALL: the word's own address + 8·sext(OFF, 32) (R57). -/
def branchTarget (cx : Cx) (f : BF) : DWord := cx.pc + f.off.signExtend 64 * 8

/-- Records that a lane with an open access is about to leave a convergence mask (R375). -/
def State.noteMask (s : State) (i : Iss) (m l : Nat) : State :=
  let k := (s.group i.gid).m.getD m ⟨0, 0⟩
  if k.mask.getLsbD l && s.laneOpen i.gid l then s.modLane i.gid l fun x => { x with undo := x.undo ++ [.m s.nextId m k.addr] } else s

/-- The lanes that branch leave the mask that MV names (R101). -/
def State.leaveFor (s : State) (i : Iss) (f : BF) : State :=
  let m := f.msk.toNat
  if f.mv then (eachLane s i.lanes fun s l => s.noteMask i m l).leaveMask i.gid m (maskOf i.lanes) else s

/-- BRA (R147). -/
def execBra (f : BF) (s : State) : Answer :=
  issue s f.ctl none [] (if f.mv then 1 else 0) fun s i => (eachLane s i.lanes fun s l => s.goTo i.gid l (branchTarget i.cx f)).leaveFor i f

/-- BRX (R147). -/
def execBrx (f : BF) (s : State) : Answer :=
  issue s f.ctl none (vNames true f.reg) (if f.mv then 1 else 0) fun s i =>
    (eachLane s i.lanes fun s l => s.goTo i.gid l (s.readVW i.gid l 1 true f.reg.toNat)).leaveFor i f

/-- The call of CALL and CALLX (R94, R148): lanes at depth 64 trap, the others push a call frame and go. -/
def State.callTo (s : State) (i : Iss) (target : Nat → DWord) : State :=
  let deep := i.lanes.filter fun l => decide (64 ≤ (s.lane i.gid l).stack.length)
  let s1 := eachLane s (i.lanes.filter fun l => !deep.contains l) fun s l =>
    (s.pushFrame i.gid l ⟨i.cx.pc + 8, false, 0, 0, 0⟩).goTo i.gid l (target l)
  if deep = [] then s1 else s1.trap i.gid deep (i.cx.at_ 0x06 0)

/-- CALL (R148). -/
def execCall (f : BF) (s : State) : Answer :=
  issue s f.ctl none [] 0 fun s i => s.callTo i fun _ => branchTarget i.cx f

/-- CALLX (R148). -/
def execCallx (f : BF) (s : State) : Answer :=
  issue s f.ctl none (vNames true f.reg) 0 fun s i => s.callTo i fun l => s.readVW i.gid l 1 true f.reg.toNat

/-- RET (R148): a lane at depth 0 traps; a trap frame returns from the handler by R112. -/
def execRet (f : BF) (s : State) : Answer :=
  issue s f.ctl none [] 0 fun s i =>
    let empty := i.lanes.filter fun l => (s.lane i.gid l).stack.isEmpty
    let s1 := eachLane s i.lanes fun s l =>
      match (s.lane i.gid l).stack with
      | [] => s
      | fr :: _ =>
        let s1 := s.popFrame i.gid l
        if fr.trap then s1.trapReturn i.gid l fr else s1.goTo i.gid l fr.addr
    if empty = [] then s1 else s1.trap i.gid empty (i.cx.at_ 0x07 0)

/-! ## YIELD, TRAP, BKPT (R150, R151) -/

/-- YIELD (R150): for n clocks, or for n = 0 until the next pick of the group. -/
def execYield (f : EF) (s : State) : Answer :=
  issue s f.ctl none [] 0 fun s i =>
    s.parkFor i.cx i.lanes (.yield (s.clock + f.imm8.toNat) (if f.imm8 = 0 then some (s.group i.gid).picked else none)) .yieldExpiry

/-- Whether a YIELD has ended (R150): its clocks have passed, or its group has been picked again; a group whose lanes all wait
has nothing else to be picked for. -/
def State.yieldOver (s : State) (gid until_ : Nat) (pick : Option Nat) : Bool :=
  match pick with
  | some p => (s.group gid).picked != p || (s.group gid).liveLanes.all fun l => (s.lane gid l).park.isSome
  | none => decide (until_ ≤ s.clock)

/-- YIELD_EXPIRY (R150). -/
def execYieldExpiry (r : WaitRef) (s : State) : Answer :=
  match s.wait r.id with
  | some w => match w.kind with
    | .yield u p => if s.yieldOver w.gid u p then .next (s.wake w) else .next (s.send (.yieldExpiry r))
    | _ => .next s
  | none => .next s

/-- A trap that resumes at the next instruction, in every lane that takes part (R111, R379). -/
def State.trapNext (s : State) (i : Iss) (cause : Nat) (code : BitVec 8) : State :=
  s.trap i.gid i.lanes { i.cx.at_ cause (code.zeroExtend 64) with next := true }

/-- TRAP (R151). -/
def execTrap (f : EF) (s : State) : Answer := issue s f.ctl none [] 0 fun s i => s.trapNext i 0x08 f.imm8
/-- BKPT (R151). -/
def execBkpt (f : EF) (s : State) : Answer := issue s f.ctl none [] 0 fun s i => s.trapNext i 0x09 f.imm8

/-! ## MSET, RECONV (R152, R153) -/

/-- MSET's offset: bits [39:8] (R152). -/
def msetOff (f : EF) : BitVec 32 := f.b ++ f.c ++ f.x ++ f.imm8

/-- MSET (R153): lanes parked at RECONV on the mask are released at once. Where slot A wrote the mask in the same clock, its write
stands. -/
def execMset (f : EF) (s : State) : Answer :=
  issue s f.ctl none [] 0 fun s i =>
    let m := f.a.toNat
    let ws := s.waits.filter fun w => w.gid == i.gid && w.kind == .reconv m
    let s1 := ws.foldl State.wake s
    if s1.cycle.slotB && s1.cycle.wrote.contains (i.gid, 64 + m) then s1
    else
      let s2 := s1.modGroup i.gid fun g => { g with m := g.m.set m ⟨maskOf i.lanes, i.cx.pc + (msetOff f).signExtend 64 * 8⟩ }
      { s2 with cycle := { s2.cycle with wrote := s2.cycle.wrote ++ [(i.gid, 64 + m)] } }

/-- RECONV (R101, R153). -/
def execReconv (f : EF) (s : State) : Answer :=
  issue s f.ctl none [] 0 fun s i =>
    let m := f.a.toNat
    let r := (s.group i.gid).m.getD m ⟨0, 0⟩
    let inside := i.lanes.filter fun l => r.mask.getLsbD l
    if r.mask ≠ 0 ∧ r.addr ≠ i.cx.pc then s.trapAll i 0x0A m
    else if inside = [] then s
    else (s.park i.cx inside (.reconv m)).checkReconv i.gid m

/-! ## Join registers (R104 to R109, R155 to R157) -/

/-- An arrival's release at block scope (R105, R168, R232, R240): what the core has forwarded is accepted, and its curd buffer
flushed. -/
def State.barRelease (s : State) (i : Iss) : State := s.releaseBy i.gid (maskOf i.lanes)

/-- The barrier time-out of a launch, 0 for none (R109). -/
def State.bto (s : State) (lid : Nat) : Nat :=
  match s.launch lid with
  | some x => x.record.bto
  | none => 0

/-- A lane parks in BAR on a token; a time-out runs if the launch sets one (R107, R109). -/
def State.parkBar (s : State) (cx : Cx) (l j : Nat) (token : Word) (scope : Scope) (st : Option (BitVec 8)) : State :=
  let s1 := s.park cx [l] (.bar j token scope st)
  if s.bto (s.group cx.gid).lid = 0 then s1 else s1.send (.barrierTimeOut ⟨cx.gid, s.nextId⟩)

/-- How BAR and ARRIVE arrive: a token register, whether the lane waits, and its acquire scope. -/
structure Arrival where
  join : Nat
  token : Option Nat
  waits : Bool
  scope : Scope
  deriving DecidableEq, Repr

/-- One lane's arrival is applied (R105, R156): its token is T before it; unless it completes the phase, a waiting lane
parks. -/
def State.arriveLane (s : State) (cx : Cx) (l : Nat) (a : Arrival) : State :=
  let g := s.group cx.gid
  let t := (s.join g.blk a.join).t
  let s1 := match a.token with
    | some r => s.writeV cx.gid l r t
    | none => s
  let s2 := s1.arrive g.blk a.join (32 * g.num + l)
  if !a.waits then s2
  else if (s2.join g.blk a.join).t ≠ t then s2.barAcquire cx.gid (maskOf [l]) g.blk a.scope
  else s2.parkBar cx l a.join t a.scope none

/-- Whether an arrival would complete a second phase of a join register in one clock (R105). -/
def State.secondPhase (s : State) (b : BlockRef) (j : Nat) : Bool :=
  (s.join b j).last == s.clock + 1 && (s.join b j).nextCompletes

/-- Arrivals of one instruction, lane by lane: once a phase has completed in this clock, an arrival that would complete another
is held for the next clock (R105). -/
def State.arriveAll (s : State) (i : Iss) (a : Arrival) : State :=
  let b := (s.group i.gid).blk
  eachLane s i.lanes fun s l =>
    if s.secondPhase b a.join then
      (s.park i.cx [l] .held).send (.heldArrival ⟨b, a.join, i.gid, l, a.token, a.waits, a.scope⟩)
    else s.arriveLane i.cx l a

/-- HELD_ARRIVAL (R105): the arrival is applied at the start of the next clock; one that would complete a second phase in it is
held again. A lane held in BAR goes on behind the counters (R113). DESIGN CHOICE (log entry 70): MODE is checked as the arrival issues, so
that it counts though a JSET of that clock has set MODE to 1 (R156). -/
def execHeldArrival (a : HeldArrival) (s : State) : Answer :=
  match s.waits.find? fun w => w.gid == a.gid && w.kind == .held && w.lanes.getLsbD a.lane with
  | some w =>
    if s.secondPhase a.blk a.join then .next (s.send (.heldArrival a))
    else
      let s1 := s.modLane a.gid a.lane fun x => { x with park := none, since := s.clock }
      let s2 : State := { s1 with waits := s1.waits.filter fun v => !(v.id == w.id) }
      let s3 := s2.arriveLane w.cx a.lane ⟨a.join, a.token, a.waits, a.scope⟩
      .next (if a.waits && (s3.lane a.gid a.lane).park.isNone then s3.modGroup a.gid fun g => { g with hold := true } else s3)
  | none => .next s

/-- A scope field of three bits (R66). -/
def scopeOf (b : BitVec 3) : Scope :=
  match Scope.ofCode b.toNat with
  | some x => x
  | none => .core

/-- `bar.wait` of one lane on a token (R106): a past phase passes at once. -/
def State.waitToken (s : State) (i : Iss) (l j : Nat) (t : Word) (scope : Scope) (st : Option (BitVec 8)) : State :=
  let b := (s.group i.gid).blk
  let d := (s.join b j).t - t
  if d = 0 ∨ 2 ^ 31 < d.toNat then s.parkBar i.cx l j t scope st
  else
    let s1 := s.barAcquire i.gid (maskOf [l]) b scope
    match st with
    | some p => s1.writeP i.gid l p.toNat true
    | none => s1

/-- BAR (R155, R156). FLAGS: [0] W, [3:1] SC, [4] TK, [5] ST. -/
def execBar (f : EF) (s : State) : Answer :=
  let w := f.flags.getLsbD 0
  let tk := f.flags.getLsbD 4
  let j := f.x.toNat
  issue s f.ctl none (if w || tk then [f.a.toNat] else []) (if tk then 1 else 0) fun s i =>
    if (s.join (s.group i.gid).blk j).mode then s.trapAll i 0x0B j
    else if w then
      let toks := i.lanes.map fun l => (l, s.readV i.gid l 1 f.a.toNat)
      toks.foldl (fun s x => s.waitToken i x.1 j x.2 (scopeOf f.sc) (if f.flags.getLsbD 5 then some f.b else none)) s
    else (s.barRelease i).arriveAll i ⟨j, if tk then some f.a.toNat else none, true, scopeOf f.sc⟩

/-- ARRIVE (R155, R156). -/
def execArrive (f : EF) (s : State) : Answer :=
  let j := f.x.toNat
  issue s f.ctl none [f.a.toNat] 1 fun s i =>
    if (s.join (s.group i.gid).blk j).mode then s.trapAll i 0x0B j
    else (s.barRelease i).arriveAll i ⟨j, some f.a.toNat, false, .core⟩

/-- JSET (R157). -/
def execJset (f : EF) (s : State) : Answer :=
  let j := f.x.toNat
  issue s f.ctl none [f.a.toNat] 0 fun s i =>
    let b := (s.group i.gid).blk
    let e := (s.readV i.gid i.low 1 f.a.toNat).toNat
    let x := s.join b j
    let waited := s.waits.any fun w => (s.group w.gid).blk == b && (match w.kind with
      | .bar k t _ _ => k == j && t == x.t
      | .waitc conds _ _ _ _ => conds.any fun c => c.kind == 1 && c.index == j && c.value == x.t
      | _ => false)
    if 12288 < e then s.trapAll i 0x0C j
    else if x.a ≠ 0 ∨ waited = true ∨ x.phase.isSome = true then s.trapAll i 0x0D j
    else s.setJoin b j { x with e := e, a := 0, mode := f.flags.getLsbD 0, arrived := [] }

/-- JREAD (R157). -/
def execJread (f : EF) (s : State) : Answer :=
  issue s f.ctl none [f.a.toNat] 1 fun s i =>
    let x := s.join (s.group i.gid).blk f.x.toNat
    s.giveAll i f.a.toNat (if f.flags.getLsbD 0 then BitVec.ofNat 32 (x.e + 2 ^ 14 * x.a + (if x.mode then 2 ^ 31 else 0)) else x.t)

/-! ## The barrier time-out (R109) -/

/-- Where lanes of a block stand, as a diagnostic record lists them: (program counter, group, lane mask), one for each
distinct address of the lanes that a test picks (R109, R378). -/
def State.whereStand (s : State) (b : BlockRef) (missing : Nat → Nat → Bool) : List (DWord × Nat × LaneMask) :=
  match s.block b with
  | none => []
  | some x => x.gids.flatMap fun gid =>
    let g := s.group gid
    let ls := g.liveLanes.filter fun l => missing gid l
    ((ls.map fun l => (g.lane l).pc).eraseDups).map fun pc => (pc, g.num, maskOf (ls.filter fun l => (g.lane l).pc == pc))

/-- The body of a KIND 3 record from byte 32 (R378). -/
def diagBody (token : Word) (idx : Nat) (l : List (DWord × Nat × LaneMask)) : List Byte :=
  leBytes 4 token.toNat ++ leBytes 1 idx ++ leBytes 3 0 ++ leBytes 4 (l.length - 16) ++ leBytes 4 0
    ++ ((l.take 16).flatMap fun x => leBytes 8 (x.1.toNat / 8 * 8 % 2 ^ 48 + 2 ^ 48 * (x.2.1 % 512)) ++ leBytes 4 x.2.2.toNat)

/-- Ends waits by a trap that resumes after their instruction (R109, R292, R360). -/
def State.timeOut (s : State) (ws : List Wait) (cause : Nat) (info : DWord) : State :=
  ws.foldl (fun s w =>
    let s1 := eachLane s (lanesOf w.lanes) fun s l => s.modLane w.gid l fun x => { x with park := none }
    let s2 : State := { s1 with waits := s1.waits.filter fun v => !(v.id == w.id) }
    s2.trap w.gid (lanesOf w.lanes) { w.cx.at_ cause info with next := true }) s

/-- BARRIER_TIME_OUT (R109). DESIGN CHOICE (log entry 70): the wait whose time-out is taken up heads the one record, with its group
and program counter. -/
def execBarrierTimeOut (r : WaitRef) (s : State) : Answer :=
  match s.wait r.id with
  | none => .next s
  | some w => match w.kind with
    | .bar j token _ _ =>
      let g := s.group w.gid
      if s.tick - w.t0 < s.bto g.lid then .next (s.send (.barrierTimeOut r))
      else
        let ws := s.waits.filter fun v => (s.group v.gid).blk == g.blk && (match v.kind with
          | .bar k t _ _ => k == j && t == token
          | _ => false)
        let x := s.join g.blk j
        let out := s.whereStand g.blk fun gid l => !(x.arrived.contains (32 * (s.group gid).num + l))
        let info : DWord := token ++ BitVec.ofNat 32 j
        let s1 := s.post g.part (s.recHead w.gid 3 0x0E w.cx.pc info) (diagBody token j out)
          (.lanes w.gid w.lanes)
        .next (s1.timeOut ws 0x0E info)
    | _ => .next s

end Sys2Proof.Machine
end

