-- ==== Sys2Proof/Machine/MemLane.lean ====
section
/-! DEFINITION. What class 3 accesses of lanes do when they perform: loads and stores of memory and of the scratchpad (R197 to
R204, R213, R228, R234); and the events that carry results, packets and late causes (R100, R165, R173, R176, R375). -/
namespace Sys2Proof.Machine

/-! ## Results that return (R100, R375) -/

/-- A value lands in a v register. A fixed-latency write made meanwhile keeps the value that a withdrawal restores (R375). -/
def Lane.landV (x : Lane) (id : Nat) (newer : Bool) (r : Nat) (val : Word) : Lane :=
  let hit (u : Undo) : Bool := match u with
    | .v n r' _ => r' == r && decide (id < n)
    | .p _ _ _ | .g _ _ _ | .m _ _ _ => false
  match x.undo.findIdx? hit with
  | some k => { x with undo := x.undo.set k (.v (match x.undo[k]? with
      | some (.v n _ _) => n
      | _ => 0) r val) }.putV r val
  | none => (if newer then { x with undo := x.undo ++ [.v (id + 1) r (x.vReg r)] } else x).putV r val

def Lane.landP (x : Lane) (id : Nat) (newer : Bool) (p : Nat) (val : Bool) : Lane :=
  let hit (u : Undo) : Bool := match u with
    | .p n p' _ => p' == p && decide (id < n)
    | .v _ _ _ | .g _ _ _ | .m _ _ _ => false
  match x.undo.findIdx? hit with
  | some k => { x with undo := x.undo.set k (.p (match x.undo[k]? with
      | some (.p n _ _) => n
      | _ => 0) p val) }.putP p val
  | none => (if newer && decide (p < 7) then { x with undo := x.undo ++ [.p (id + 1) p (x.pReg p)] } else x).putP p val

/-- The record of an access that has closed goes (R375). -/
def Lane.close (x : Lane) (id : Nat) : Lane := { x with opens := x.opens.filter fun o => !(o.id == id) }

/-- A result lands (R100): its writes, but for a lane that has exited (R149), its counter, and the record of lanes whose last
open access it closes (R375). -/
def State.land (s : State) (r : Ret) : State :=
  let s1 := r.writes.foldl (fun s w => match w with
    | .v l reg val =>
      let newer := s.laneOpen r.gid l && decide (s.oldestOpen r.gid l < r.id)
      if (s.lane r.gid l).exited then s else s.modLane r.gid l fun x => (x.past (s.windowOn r.gid) s.nextId reg).landV r.id newer reg val
    | .p l p val =>
      let newer := s.laneOpen r.gid l && decide (s.oldestOpen r.gid l < r.id)
      if (s.lane r.gid l).exited then s else s.modLane r.gid l fun x => x.landP r.id newer p val) s
  let s2 := match r.ctr with
    | some c => s1.fallCtr r.gid c
    | none => s1
  let s3 := eachLane s2 (lanesOf r.lanes) fun s l =>
    let s1 := s.modLane r.gid l fun x => x.close r.id
    if s1.laneOpen r.gid l then s1 else s1.modLane r.gid l fun x => { x with undo := [] }
  s3.settle r.gid

/-- The counter an access of class 3 counts in (R60). -/
def ctrOf : Instr → Ctr
  | .st _ | .sts _ | .stss _ | .stn _ | .repark _ | .stfe _ | .feset _ | .tst _ | .commit _ | .red _ | .fence _
  | .clean _ | .inval _ => .stc
  | _ => .ldc

/-- Whether a later write has left standing what an access held in its core writes (R100). -/
def Job.keeps (j : Job) (w : RegWrite) : Bool :=
  match w with
  | .v l r _ => !j.lost.contains (l, r)
  | .p l p _ => !j.lost.contains (l, 256 + p)

/-- The result of an access, without those of its register writes that later writes overtook (R100). -/
def Job.ret (j : Job) (writes : List RegWrite) : Ret :=
  ⟨j.iss.id, j.iss.gid, some (ctrOf j.instr), j.lanes, (j.got ++ writes).filter j.keeps, []⟩

/-- A held access without a lane that is withdrawn from it (R375). -/
def Job.without (j : Job) (lane : Nat) : Job :=
  { j with accs := j.accs.filter fun a => !(a.lane == lane), lanes := j.lanes &&& ~~~((1 : LaneMask) <<< lane),
           got := j.got.filter fun w => match w with
             | .v l _ _ => !(l == lane)
             | .p l _ _ => !(l == lane) }

/-- Restores a recorded register (R375). A lane goes back into a convergence mask that still names the same point. -/
def State.restoreReg (s : State) (gid l after : Nat) (u : Undo) : State :=
  match u with
  | .v n r old => if after < n then s.modLane gid l fun x => x.putV r old else s
  | .p n p old => if after < n then s.modLane gid l fun x => x.putP p old else s
  | .g n r old => if after < n then s.modGroup gid fun g => { g with g := Map.set 0 g.g r old } else s
  | .m n r addr =>
    let k := (s.group gid).m.getD r ⟨0, 0⟩
    if after < n ∧ k.mask ≠ 0 ∧ k.addr = addr then
      s.modGroup gid fun g => { g with m := g.m.set r { k with mask := k.mask ||| ((1 : LaneMask) <<< l) } }
    else s

/-- The number of a recorded write. -/
def Undo.num : Undo → Nat
  | .v n _ _ | .p n _ _ | .g n _ _ | .m n _ _ => n

/-- A wait without a lane, and without the stream elements that it holds for it (R320). -/
def Wait.without (w : Wait) (l : Nat) : Wait :=
  { w with
    lanes := w.lanes &&& ~~~((1 : LaneMask) <<< l)
    kind := match w.kind with
      | .streamPop i got => .streamPop i (got.map fun g => g.filter fun y => y.1 != l)
      | .streamPush r vals => .streamPush r (vals.filter fun y => y.1 != l)
      | k => k }

/-- A wait that no lane is left in goes: its monitors are free (R225), and LDC falls with the last reader of an LDFE (R213). -/
def State.dropWait (s : State) (w : Wait) : State :=
  let s1 : State := { s with ms := { s.ms with monitors := s.ms.monitors.filter fun m => !(m.2 == w.id) } }
  match w.kind with
  | .ldfe acc _ _ _ _ _ =>
    if s1.waits.any fun v => (match v.kind with
      | .ldfe a _ _ _ _ _ => a == acc
      | _ => false) then s1
    else s1.send (.resultReturn ⟨acc, w.gid, some .ldc, 0, [], []⟩)
  | _ => s1

/-- Withdraws what a lane did after an access (R375): the recorded registers, its held accesses, its later results, its waits. What
older open accesses still need of the record stays. DESIGN CHOICE (log entry 83): the elements that a withdrawn instruction popped from
or pushed to a ring stay moved. -/
def State.withdraw (s : State) (gid l : Nat) (o : OpenAcc) : State :=
  let s1 := (s.lane gid l).undo.foldr (fun u s => s.restoreReg gid l o.id u) s
  let older := (s.lane gid l).opens.filter fun y => decide (y.id < o.id)
  let s2 := s1.modLane gid l fun x =>
    { x with stack := o.stack, park := none, opens := older,
             undo := if older = [] then [] else x.undo.filter fun u => decide (u.num ≤ o.id) }
  let late (r : Ret) : Ret := if r.gid = gid ∧ o.id < r.id then
      { r with lanes := r.lanes &&& ~~~((1 : LaneMask) <<< l), writes := r.writes.filter fun w => match w with
        | .v l' _ _ => !(l' == l)
        | .p l' _ _ => !(l' == l) } else r
  let jobs := s2.ms.jobs.map fun j => if j.iss.gid = gid ∧ o.id < j.iss.id then j.without l else j
  let idle := jobs.filter fun j => j.accs.isEmpty
  let s3 : State := { s2 with
    due := s2.due.map (withRet late) ++ idle.map fun j => .resultReturn (j.ret []),
    ms := { s2.ms with jobs := jobs.filter fun j => !j.accs.isEmpty },
    waits := s2.waits.map fun w => if w.gid = gid then w.without l else w }
  (s3.waits.filter fun w => w.lanes == 0).foldl State.dropWait { s3 with waits := s3.waits.filter fun w => w.lanes != 0 }

/-- LATE_CAUSE (R375): a late locate, data-error or gate withdraws the lane's later instructions and traps at the access. -/
def execLateCause (c : Late) (s : State) : Answer :=
  match (s.lane c.gid c.lane).opens.find? fun o => o.id == c.access with
  | none => .next s
  | some o =>
    let s1 := s.withdraw c.gid c.lane o
    .next (s1.trap c.gid [c.lane] ⟨c.cause, c.info, o.pc, o.pos, o.left, o.cls, false⟩)

/-- The core keeps where an access of a lane stands while it can still report a late cause (R375). -/
def State.keepOpen (s : State) (i : Iss) (l : Nat) : State :=
  s.modLane i.gid l fun x => if x.opens.any fun o => o.id == i.id then x
    else { x with opens := x.opens ++ [⟨i.id, i.cx.pc, i.cx.pos, i.cx.left, i.cx.cls, x.stack⟩] }

/-- A lane's access met a late cause: it stays open until the cause arrives (R375). -/
def State.openLate (s : State) (i : Iss) (l cause : Nat) (info : DWord) : State :=
  (s.keepOpen i l).send (.lateCause ⟨i.gid, l, i.id, cause, info⟩)

/-! ## What an access gives -/

/-- What performing the accesses of an instruction gives: the state, the register writes of its result, the lanes that met a late
cause, the second halves still to come (R234), and the tags that home returned for what it accepted in the step (R165, R245). -/
structure Done where
  s : State
  writes : List RegWrite
  late : List Nat
  rest : List Acc
  tags : List (Nat × BitVec 16)

/-- Accesses one after the other, ascending. DESIGN CHOICE (log entry 73): those of one instruction that may leave act in one step. -/
def performEach (s : State) (accs : List Acc) (f : State → Acc → Done) : Done :=
  accs.foldl (fun d a =>
    let r := f d.s a
    ⟨r.s, d.writes ++ r.writes, d.late ++ r.late, d.rest ++ r.rest, d.tags ++ r.tags⟩) ⟨s, [], [], [], []⟩

/-- An access that only changes the state. -/
def Done.ofState (s : State) : Done := ⟨s, [], [], [], []⟩
/-- An access that gives register writes. -/
def Done.gives (s : State) (w : List RegWrite) : Done := ⟨s, w, [], [], []⟩
/-- With the tags that home returned (R165). -/
def Done.tagged (d : Done) (tags : List (Nat × BitVec 16)) : Done := { d with tags := d.tags ++ tags }
/-- Accesses that give only tags, one after the other. -/
def tagEach (s : State) (accs : List Acc) (f : State → Acc → State × List (Nat × BitVec 16)) : Done :=
  performEach s accs fun s a => (Done.ofState (f s a).1).tagged (f s a).2
/-- A lane's access that meets a late cause. -/
def State.fails (s : State) (i : Iss) (a : Acc) (cause : Nat) : Done := ⟨s.openLate i a.lane cause a.ea, [], [a.lane], [], []⟩

/-- What an access with `.acq` invalidates (R198). -/
def State.acqFor (s : State) (i : Iss) (o : Ord) (sc : Scope) : State :=
  if o == .acq || o == .acqrel then s.acquireBy i.gid (maskOf i.lanes) sc else s
/-- What an access with `.rel` waits for (R198, R232). -/
def State.relFor (s : State) (i : Iss) (o : Ord) : State :=
  if o == .rel || o == .acqrel then s.releaseBy i.gid (maskOf i.lanes) else s

/-- The half of a `.b128` access that performs first, where its two halves perform apart (R234): a free choice (log entry 5). -/
def State.firstHalf (s : State) (ty : MTy) (a : Acc) : Option Bool :=
  match a.half with
  | some h => some h
  | none => if ty == .b128 && s.coin (600000 + a.lane) then some (s.coin (600064 + a.lane)) else none

/-- Performs a `.b128` access whole, or one half of it, the other still to come (R234): `f` takes the offset of the bytes in the
access, how many they are and the access. -/
def State.halves (s : State) (ty : MTy) (a : Acc) (f : Nat → Nat → Done) : Done :=
  match s.firstHalf ty a with
  | none => f 0 (MTy.bytes ty)
  | some h =>
    let d := f (if h then 8 else 0) 8
    if a.half.isSome || d.late.contains a.lane then d else { d with rest := d.rest ++ [{ a with half := some (!h) }] }

/-- The register writes of a load of the bytes from `at_` of an access: by TYPE, or one half of a `.b128` (R197, R234). -/
def partWrites (lane reg : Nat) (ty : MTy) (at_ : Nat) (bs : List Byte) : List RegWrite :=
  if bs.length = MTy.bytes ty then loadWrites lane reg ty bs else loadWrites lane (reg + at_ / 4) .b64 bs

/-! ## Loads (R202) -/

/-- Whether the launch of a group fetches on a locate (R186, R322). -/
def State.fetches (s : State) (gid : Nat) : Bool :=
  match s.launch (s.group gid).lid with
  | some x => x.record.fetch
  | none => false

/-- One lane's load of `n` bytes from `at_` of its access. -/
def State.loadPart (s : State) (i : Iss) (f : MF) (a : Acc) (at_ n : Nat) : Done :=
  let q : LoadReq := ⟨keyOf i.gid, quadOfGid i.gid, some ((s.group i.gid).name a.lane), lineOf a.pa, a.pa % 128 + at_, n, a.kind, f.scope,
    f.hint == .nt, f.hint == .rep, f.lax || s.fetches i.gid, i.id⟩
  match s.load q with
  | (s1, .ok d) => .gives s1 (partWrites a.lane f.data.toNat f.ty at_ (bytesOf d (a.pa % 128 + at_) n))
  | (s1, .locate) => s1.fails i a 0x17
  | (s1, .dataError) => s1.fails i a 0x19

/-- One lane's load. -/
def State.loadLane (s : State) (i : Iss) (f : MF) (a : Acc) : Done := s.halves f.ty a fun at_ n => s.loadPart i f a at_ n

/-- The lanes' effective addresses. -/
def State.eas (s : State) (i : Iss) (f : MF) (second : Bool) : List (Nat × DWord) := i.lanes.map fun l => (l, s.ea i.gid l f second)

/-! ## Stores (R163, R202, R235) -/

/-- A store updates the copy its own core's L1 holds (R163); a system core has no L1 (R423). -/
def State.storeL1 (s : State) (core line : Nat) (bs : List StoreByte) : State :=
  if core < 384 then
    s.setCopies (s.ms.copies.map fun c => if c.line == line && c.site == .l1 core then s.storeCopy c bs else c)
  else s

/-- The number of a write that leaves its core now, by its lowest lane: home accepts a core's writes to a line in the order in which
they left (R199, R246). The name `nextId - 1` is that of the access that is leaving. -/
def State.seqFor (s : State) (lane : Nat) : Nat := 64 * (s.nextId - 1) + lane

/-- Whether a write of a core meets a pending fill of the line in its L1 (R161, R235). -/
def State.meetsFill (s : State) (core line : Nat) : Bool :=
  match s.copyAt (.l1 core) line with
  | some c => s.fillPending c
  | none => false

/-- The bytes of a lane's store in its line. -/
def Acc.storeBytes (a : Acc) : List StoreByte :=
  (List.range a.data.length).map fun k => ⟨a.pa % 128 + k, a.data.getD k 0, a.lane⟩

/-- The acknowledgement of an instruction's stores (R14, R45): it lands when the last of them has been accepted. -/
def Iss.ackOf (i : Iss) (lanes : List Nat) : Ret := ⟨i.id, i.gid, some .stc, maskOf lanes, [], []⟩

/-- The lanes' own reductions that rest on the bytes that they write go first (R199). -/
def State.flushOwnOf (s : State) (i : Iss) (accs : List Acc) : State :=
  accs.foldl (fun s a => s.flushOwn (keyOf i.gid) a.pa a.data.length ((s.group i.gid).name a.lane)) s

/-- The packet of the lanes of one instruction that store to one line. -/
def State.storePkt (s : State) (i : Iss) (nt : Bool) (r : Option Ret) (a : Acc) (accs : List Acc) : WritePkt :=
  ⟨agentOf i.gid, s.seqFor a.lane, some ((s.group i.gid).name a.lane), lineOf a.pa, a.kind, nt, accs.flatMap Acc.storeBytes, r,
    accs.any fun a => a.data.length == 16, none, s.meetsFill (keyOf i.gid) (lineOf a.pa)⟩

/-- The lanes of one instruction that store to one line leave as one write (R14, R202, R245), behind their own reductions that
rest on their bytes (R199). -/
def State.storeLine (s : State) (i : Iss) (nt : Bool) (r : Ret) (accs : List Acc) : State :=
  match accs with
  | [] => s
  | a :: _ =>
    let s1 := s.flushOwnOf i accs
    let w := s1.storePkt i nt (some r) a accs
    (s1.storeL1 (keyOf i.gid) w.line w.bytes).send (.homeWriteAccept w)

/-- Accesses by line, in the order in which the lines first appear. -/
def byLine (accs : List Acc) : List (List Acc) :=
  ((accs.map fun a => lineOf a.pa).eraseDups).map fun l => accs.filter fun a => lineOf a.pa == l

/-- The stores of an instruction leave the core, line by line. -/
def State.storeAll (s : State) (i : Iss) (nt : Bool) (r : Ret) (accs : List Acc) : State :=
  (byLine accs).foldl (fun s l => s.storeLine i nt r l) s

/-- HOME_WRITE_ACCEPT (R14, R165): behind the writes of its agent to the line that left earlier (R246). A `.b128` store performs
whole, or one of its halves performs first (R234). -/
def execHomeWriteAccept (w : WritePkt) (s : State) : Answer :=
  let s1 := s.drain fun k l n => k == agentKey w.agent && l == w.line && decide (n < w.seq)
  .next (if w.split && w.done.isNone && s.coin 600128 then s1.acceptHalf w (s.coin 600129) else s1.acceptWrite w)

/-- FLUSHED_REDUCTION_APPLY (R168, R220). -/
def execFlushedReductionApply (r : FlushedRed) (s : State) : Answer :=
  .next ((s.drain fun k l n => k == r.core && l == r.line && decide (n < r.seq)).acceptRed r)

/-- PARK_NOTICE (R173, R178): an STN of `.b128` performs whole, or one of its halves performs first (R234). -/
def execParkNotice (n : ParkNote) (s : State) : Answer :=
  let s1 := s.drain fun k l m => k == n.core && l == n.line && decide (m < n.seq)
  .next (if n.note = .split ∧ s.coin 600128 = true then s1.noteHalf n (s.coin 600129) else s1.acceptNote n)

/-- PARK_WRITE_BACK_LAND (R176). -/
def execParkWriteBackLand (b : LineBack) (s : State) : Answer := .next (s.landBack b.line)

/-! ## Scratchpad (R203, R204) -/

/-- A lane's scratchpad offset: ea mod 2^32 (R195). -/
def State.offs (s : State) (i : Iss) (f : MF) (second : Bool) : List (Nat × Nat) :=
  (s.eas i f second).map fun x => (x.1, x.2.toNat % 2 ^ 32)

/-- Lanes that failed the scratchpad checks trap. -/
def State.sFail (s : State) (i : Iss) (l : List (Nat × Nat × DWord)) : State := State.trapEach (l.length + 1) s i.cx l

/-- One lane's scratchpad load; a lane of an LDSS with `.lax` beyond its range reads 0 (R204). -/
def State.loadS (s : State) (f : MF) (a : Acc) : Done :=
  if a.extra = 1 then .gives s (loadWrites a.lane f.data.toNat f.ty [])
  else s.halves f.ty a fun at_ n => .gives s (partWrites a.lane f.data.toNat f.ty at_ (s.readS a.blk (a.off + at_) n))

/-- One lane's scratchpad store. -/
def State.putS (s : State) (i : Iss) (f : MF) (a : Acc) : Done :=
  s.halves f.ty a fun at_ n => .ofState (s.writeBy (some (i.gid, a.lane)) a.blk (a.off + at_) ((a.data.drop at_).take n))

/-- STFE of one lane (R213): its bytes, released with the granule that turns full (R231). -/
def State.stfeLane (s : State) (i : Iss) (a : Acc) : State :=
  let m := maskOf [a.lane]
  ((s.writeBy (some (i.gid, a.lane)) a.blk a.off a.data).releaseBy i.gid m).fillGran a.blk (a.off / 16)

/-- The issuing block, as the block every lane selects. -/
def State.ownBlock (s : State) (i : Iss) : Nat → Option BlockRef := fun _ => some (s.group i.gid).blk
/-- The block that v(AUX) selects in the span (R158). -/
def State.auxBlock (s : State) (i : Iss) (f : MF) : Nat → Option BlockRef :=
  fun l => s.selBlock (s.group i.gid).blk (s.readV i.gid l 3 f.aux.toNat).toNat

/-- Sets a run of full-empty bits (R213): only filling releases readers. -/
def State.setRun (s : State) (b : BlockRef) (full : Bool) (from_ n : Nat) : State :=
  (List.range n).foldl (fun s k =>
    if full then (match s.block b with
      | some x => if x.isFull (from_ + k) then s else s.fillGran b (from_ + k)
      | none => s)
    else s.modBlock b fun x => x.setFull (from_ + k) false) s

/-! ## PREF (R228) -/

/-- PREF of one lane (R228): a clean copy toward LEVEL of a line that is neither parked nor holds a live cell, from the copy
nearest outward that there is, so that the levels keep their order (R230). -/
def State.prefLane (s : State) (i : Iss) (level : Nat) (ea : DWord) : State :=
  match s.xlate (s.laneWalker i.gid) ea .read with
  | (s1, .ok pa k) =>
    let line := lineOf pa
    let q := quadOfGid i.gid
    let s1 := s1.drainLine (keyOf i.gid) line
    if (s1.parkOf line).isSome || s1.hasCell line || s1.ms.bad.contains line then s1
    else
      let at_ (s : State) (site : Site) (loc : Bool) (d : BitVec 1024) : State :=
        match s.copyAt site line with
        | some _ => s
        | none => s.putCopy (cleanCopy site line d loc none s.clock)
      let here (s : State) (site : Site) : BitVec 1024 := match s.copyAt site line with
        | some c => c.data
        | none => s.current line
      let toL1 (s : State) (site : Site) (loc : Bool) : State :=
        if level = 0 ∧ !isSysGid i.gid then at_ s (.l1 (keyOf i.gid)) loc (here s site) else s
      match k with
      | .ms => s1
      | .local o =>
        let site := Site.l2 o (l2Slice line)
        toL1 (at_ s1 site true (s1.current line)) site true
      | .shared =>
        let site := Site.l2 q (l2Slice line)
        if level = 2 then at_ s1 (.near (s1.nearSlice (q / 4) line)) false (s1.current line)
        else toL1 (at_ s1 site false (s1.current line)) site false
  | (s1, _) => s1

/-- Whether a group has bank vector commands that a FENCE `.ms` awaits (R222, R267). -/
def State.bankBusy (s : State) (gid : Nat) : Bool := s.ms.bank.any fun c => c.gid == gid

end Sys2Proof.Machine
end

