-- ==== Sys2Proof/Machine/MemHome.lean ====
section
/-! DEFINITION. What class 3 accesses do when they perform at home or at a park site: STN, REPARK, LOCATE, PARKQ (R170 to R178,
R205 to R210), tentative stores (R191 to R194, R214, R215), atomics and reductions (R167, R168, R216 to R220), and the
maintenance of a line (R227). -/
namespace Sys2Proof.Machine

/-! ## Reader words (R28, R170, R171) -/

def coreMask (ls : List Nat) : BitVec 384 := ls.foldl (fun m c => m ||| ((1 : BitVec 384) <<< c)) 0

/-- The cores that a reader word names; none where a bit outside its kind's fields is set or a core number passes 383. DESIGN
CHOICE (log entry 71): kind 0b001 from a system core, which has no bit in the mask, names none. -/
def readerCores (s : State) (gid : Nat) (w : Word) : Option (BitVec 384) :=
  let x := w.toNat % 2 ^ 29
  let bit (n k : Nat) : Bool := n.testBit k
  match w.toNat / 2 ^ 29 with
  | 1 => if x = 0 ∧ keyOf gid < 384 then some (coreMask [keyOf gid]) else none
  | 2 => if x < 384 then some (coreMask [x]) else none
  | 3 =>
    let q := x / 2 ^ 12
    if q < 32 then some (coreMask (((List.range 12).filter (bit (x % 2 ^ 12))).map fun c => 12 * q + c)) else none
  | 4 =>
    let d := x / 16
    if d < 8 then some (coreMask (((List.range 4).filter (bit (x % 16))).flatMap fun q => (List.range 12).map fun c => 12 * (4 * d + q) + c))
    else none
  | 5 =>
    if x < 256 then some (coreMask (((List.range 8).filter (bit x)).flatMap fun d => (List.range 48).map fun c => 48 * d + c)) else none
  | 6 =>
    if x < 64 then
      let table := match s.launch (s.group gid).lid with
        | some k => k.readers
        | none => []
      some (BitVec.ofNat 384 (leNat ((List.range 48).map fun k => Map.get 0 table (48 * x + k))))
    else none
  | _ => none

/-- Whether a launch is pinned (R322). -/
def State.pinned (s : State) (gid : Nat) : Bool :=
  match s.launch (s.group gid).lid with
  | some x => x.record.pin
  | none => false

/-- A reader word's set after the checks of R171. -/
def State.readerSet (s : State) (gid : Nat) (w : Word) : Option (BitVec 384) :=
  let kind := w.toNat / 2 ^ 29
  match readerCores s gid w with
  | none => none
  | some m =>
    if m = 0 then none
    else if (coresOf m).any fun c => !s.holds (s.group gid).part (quadOf c) then none
    else if (kind = 2 ∨ kind = 3 ∨ kind = 6) ∧ s.pinned gid = false then none
    else some m

/-! ## STN (R205, R206) -/

/-- Whether a set names a core outside the quadrant of a quadrant-local page (R206). -/
def leavesQuad (k : PageKind) (m : BitVec 384) : Bool :=
  match k with
  | .local q => (coresOf m).any fun c => quadOf c != q
  | .shared | .ms => false

/-- Whether an STN acts as a plain store: on an MS page or with no reader (R206). `extra` holds the reader word. -/
def Acc.plain (a : Acc) : Bool := a.kind == .ms || decide (a.extra.toNat / 2 ^ 29 = 0)

/-- The lanes of an STN that store to one line with one reader word leave as one parking store (R173, R206). Whether the writer's
L1 copy is updated or dropped follows R173, step 3. -/
def State.noteRun (s : State) (i : Iss) (r : Ret) (accs : List Acc) : State :=
  match accs with
  | [] => s
  | a :: _ =>
    let key := keyOf i.gid
    let line := lineOf a.pa
    let g := s.group i.gid
    let m := a.readers.getD 0
    let bs := accs.flatMap Acc.storeBytes
    let s1 := (s.flushOwnOf i accs).drainLine key line
    let s2 := if keepsCopy key m (s1.parkSite m line) then s1.storeL1 key line bs else s1.dropCopies line fun c => c.site == .l1 key
    s2.send (.parkNotice ⟨key, s1.seqFor a.lane, some (g.name a.lane), line, a.kind, m, g.lid, bs, some r,
      if accs.any fun a => a.data.length == 16 then .split else .whole, s1.meetsFill key line⟩)

/-- Cuts the accesses of one line into runs of lanes that act as one: plain stores, or one reader word. -/
def noteRuns : List Acc → List (List Acc)
  | [] => []
  | a :: as => match noteRuns as with
    | [] => [[a]]
    | [] :: rs => [a] :: rs
    | (b :: bs) :: rs => if a.plain = b.plain ∧ (a.plain || a.extra == b.extra) = true then (a :: b :: bs) :: rs else [a] :: (b :: bs) :: rs

/-- STN's stores leave the core (R206): line by line, in ascending lanes. -/
def State.noteAll (s : State) (i : Iss) (r : Ret) (accs : List Acc) : State :=
  ((byLine accs).flatMap noteRuns).foldl (fun s l => if (l.head?.map Acc.plain).getD true then s.storeLine i false r l else s.noteRun i r l) s

/-! ## REPARK, LOCATE, PARKQ (R207 to R210) -/

/-- A record moves to the level of a new set (R178): kept cores keep their bits, added cores start set. It reads moving until the
notice of its new site arrives, which returns the instruction's result (R208, R209). -/
def State.movePark (s : State) (i : Iss) (ret : Ret) (r : ParkRec) (m : BitVec 384) : State :=
  let d := s.current r.line
  let r1 : ParkRec := { r with set := m, mask := (r.mask &&& m) ||| (m &&& ~~~r.set), site := s.parkSite m r.line, spill := false,
                               state := .moving, data := d }
  let s1 := s.dropCopies r.line fun c => match c.site with
    | .l1 x => m.getLsbD x && !r.set.getLsbD x
    | .l2 _ _ => !c.isLocal
    | .near _ => true
    | .home => false
  let s2 := State.pin 8 s1 r1
  let s3 := if r1.mask = 0 then match s2.parkOf r.line with
      | some x => s2.liftPin x
      | none => s2
    else s2
  s3.send (.parkNotice ⟨keyOf i.gid, s.seqFor 0, none, r.line, r.kind, m, r.lid, [], some ret, .moved, false⟩)

/-- REPARK parks a line that it finds without a record of its launch (R208), with the tag that home stamps. DESIGN CHOICE: the live
tentative cells of the line commit first (log entry 71), and a line that cannot be read is left as it is (log entry 82). -/
def State.parkAnew (s : State) (i : Iss) (m : BitVec 384) (a : Acc) : State × List (Nat × BitVec 16) :=
  let line := lineOf a.pa
  if s.unreadable line then (s.logError line 1, [])
  else
    let s1 := s.commitCells fun c => lineOf c.addr == line
    let s2 := s1.parkLine line none (s.group i.gid).lid m a.kind (s1.current line)
    (s2, [s2.tagOf line])

/-- REPARK of one lane (R208), with the tags that its park returns (R245). -/
def State.reparkLane (s : State) (i : Iss) (ret : Ret) (add : Bool) (a : Acc) : State × List (Nat × BitVec 16) :=
  let line := lineOf a.pa
  let s := ((s.arriveAt (keyOf i.gid) line).landBack line).landMove line
  let lid := (s.group i.gid).lid
  if a.kind = .ms then (s, [])
  else match a.readers with
    | none => match s.parkOf line with
      | some r => (if !add && r.lid == lid then s.liftPin { r with mask := 0 } else s, [])
      | none => (s, [])
    | some m => match s.parkOf line with
      | some r =>
        if r.lid = lid then (s.movePark i ret r (if add then m ||| r.set else m), []) else (s.recall line).parkAnew i m a
      | none => s.parkAnew i m a

/-- LOCATE of one lane (R209). DESIGN CHOICE (log entry 71): one by a system core, which has no bit in the mask, changes nothing. -/
def State.locateLane (s : State) (i : Iss) (ret : Ret) (a : Acc) : State :=
  let key := keyOf i.gid
  let s := ((s.arriveAt key (lineOf a.pa)).landBack (lineOf a.pa)).landMove (lineOf a.pa)
  match s.parkOf (lineOf a.pa) with
  | some r => if key < 384 ∧ r.set.getLsbD key = false then s.movePark i ret r (r.set ||| ((1 : BitVec 384) <<< key)) else s
  | none => s

/-- The set bits of a reader mask. -/
def maskCount (m : BitVec 384) : Nat := (coresOf m).length

/-- PARKQ's word (R210). -/
def State.parkWord (s : State) (key line : Nat) : Word :=
  match s.parkOf line with
  | none => 0
  | some r =>
    let st := match r.state with
      | .parked => 1 | .moving => 2 | .returning => 3
    let at_ : Nat × Nat := match r.site with
      | .l1 c => (1, c) | .l2 q n => (2, 8 * q + n) | .near n => (3, n) | .home => (4, s.homeSlice line)
    BitVec.ofNat 32 (at_.1 * 2 ^ 29 + st * 2 ^ 27 + (if key < 384 ∧ r.mask.getLsbD key then 2 ^ 26 else 0)
      + (if r.spill then 2 ^ 25 else 0) + maskCount r.mask * 2 ^ 16 + at_.2)

/-- PARKQ of one lane (R210), as the query arrives at home. -/
def State.parkqLane (s : State) (i : Iss) (reg : Nat) (a : Acc) : Done :=
  let s1 := s.drainLine (keyOf i.gid) (lineOf a.pa)
  .gives s1 [.v a.lane reg (s1.parkWord (keyOf i.gid) (lineOf a.pa))]

/-! ## Tentative stores (R191 to R194, R214, R215) -/

def State.cellAt (s : State) (a n : Nat) : Option TCell := s.ms.cells.find? fun c => c.addr == a && c.width == n
def State.dropCell (s : State) (a n : Nat) : State := s.setCells (s.ms.cells.filter fun c => !(c.addr == a && c.width == n))

/-- The issuing core's and quadrant's copies of a line go before an access that acts at home (R191, R237). -/
def State.dropNear (s : State) (gid line : Nat) : State := s.dropOwn (keyOf gid) line

/-- The number that bytes at a physical address hold at home. -/
def State.homeNum (s : State) (a n : Nat) : Nat := leNat (bytesOf (lineAt s.mem (lineOf a)) (a % 128) n)
def homeBytes (a : Nat) (bs : List Byte) : List StoreByte := (List.range bs.length).map fun k => ⟨a % 128 + k, bs.getD k 0, 0⟩

/-- Whether home's pool of cells for a line is full (R191). -/
def State.poolFull (s : State) (line : Nat) : Bool :=
  decide (512 ≤ s.ms.cells.countP fun c => s.homeSlice (lineOf c.addr) == s.homeSlice line)

/-- What a TST of one lane comes to at home (R193, R215): done there, a plain store, or an uncorrectable error. -/
inductive TstRes where
  | done (s : State)
  | plain (s : State)
  | bad (s : State)

/-- TST of one lane at home (R193, R215). DESIGN CHOICE (log entry 73): each lane's store is a write of its own, with its own tag (R245). -/
def State.tstLane (s : State) (i : Iss) (a : Acc) : TstRes :=
  let n := a.data.length
  let who := (s.group i.gid).name a.lane
  let line := lineOf a.pa
  let s := ((s.flushOwn (keyOf i.gid) a.pa n who).arriveAt (keyOf i.gid) line).dropNear i.gid line
  let own := match s.cellAt a.pa n with
    | some c => c.who == who
    | none => false
  if own then .done ((s.recall line).writeHome line a.storeBytes)
  else if a.kind = .ms ∨ s.poolFull line = true then .plain s
  else
    let s0 := s.commitCells fun k => k.meets a.pa n
    let s1 := (match a.kind with
      | .local _ => s0.l2WriteBack line
      | .shared | .ms => s0).recall line
    if s1.ms.bad.contains line then .bad (s1.logError line 1)
    else
      -- it invalidates any quadrant L2 copy of the line (R191)
      let s2 := s1.dropCopies line fun c => isL2 c.site
      .done ((s2.setCells (s2.ms.cells ++ [⟨a.pa, n, BitVec.ofNat 64 (s2.homeNum a.pa n), who, false⟩])).writeHome line a.storeBytes)

/-- What TST's lanes have come to: the lanes done with their predicates, those whose plain stores are still to leave, those that met a
late cause, and the tags returned. -/
structure TstDone where
  s : State
  preds : List (Nat × Bool)
  plain : List Acc
  late : List Nat
  tags : List (Nat × BitVec 16)

/-- TST of one lane, after lower ones (R215): a plain store before a later lane's access to its line is accepted at once, so that
the lanes act in ascending order (R199); a write that home accepts returns its tag (R165). DESIGN CHOICE (log entry 73): each lane's
write is one of its own. -/
def TstDone.lane (d : TstDone) (i : Iss) (later : List Acc) (a : Acc) : TstDone :=
  match d.s.tstLane i a with
  | .done s1 => { d with s := s1, preds := d.preds ++ [(a.lane, true)], tags := d.tags ++ [s1.tagOf (lineOf a.pa)] }
  | .plain s1 =>
    let d1 := { d with s := s1, preds := d.preds ++ [(a.lane, false)] }
    if later.any fun b => lineOf b.pa == lineOf a.pa then
      let s2 := s1.acceptWrite (s1.storePkt i false none a [a])
      { d1 with s := s2, tags := d.tags ++ (if a.kind = .ms then [] else [s2.tagOf (lineOf a.pa)]) }
    else { d1 with plain := d.plain ++ [a] }
  | .bad s1 => { d with s := s1.openLate i a.lane 0x19 a.ea, late := d.late ++ [a.lane] }

/-- TST's lanes, ascending. -/
def TstDone.lanes (d : TstDone) (i : Iss) : List Acc → TstDone
  | [] => d
  | a :: as => (d.lane i as a).lanes i as

/-- TST (R215): each lane at home, ascending, with its predicate; the plain stores that no later lane's access to their lines
follows leave last. -/
def State.tstAll (s : State) (i : Iss) (pred : Nat) (accs : List Acc) : Done :=
  let d := (⟨s, [], [], [], []⟩ : TstDone).lanes i accs
  let writes := d.preds.map fun y => (.p y.1 pred y.2 : RegWrite)
  if d.plain = [] then ⟨d.s, writes, d.late, [], d.tags⟩
  else
    let ret : Ret := ⟨i.id, i.gid, some .stc, maskOf (d.preds.map fun y => y.1), writes, d.tags⟩
    ⟨d.s.storeAll i false ret d.plain, [], d.late, [], []⟩

/-- RETRACT of one lane (R194): the state, the predicate, and the tag of what home accepted. -/
def State.retractLane (s : State) (i : Iss) (n : Nat) (a : Acc) : State × Bool × List (Nat × BitVec 16) :=
  let line := lineOf a.pa
  let who := (s.group i.gid).name a.lane
  let s := (s.flushOwn (keyOf i.gid) a.pa n who).arriveAt (keyOf i.gid) line
  match s.cellAt a.pa n with
  | some c =>
    if c.who = who then
      let s1 := if c.observed then s.commitCells fun k => k.addr == a.pa && k.width == n
        else (((s.dropCell a.pa n).recall line).writeHome line (homeBytes a.pa (leBytes n c.former.toNat))).dropNear i.gid line
      (s1, !c.observed, [s1.tagOf line])
    else (s, false, [])
  | none => (s, false, [])

/-- COMMIT of one lane (R215), with the tag of the commit (R230). -/
def State.commitLane (s : State) (i : Iss) (n : Nat) (a : Acc) : State × List (Nat × BitVec 16) :=
  let mine (k : TCell) : Bool := k.addr == a.pa && k.width == n && k.who == (s.group i.gid).name a.lane
  let s1 := s.arriveAt (keyOf i.gid) (lineOf a.pa)
  let s2 := s1.commitCells mine
  (s2, if s1.ms.cells.any mine then [s2.tagOf (lineOf a.pa)] else [])

/-! ## Atomics (R216 to R218) -/

/-- One indivisible step at the executing unit (R218, R255), after a commit of every live cell of the line (R256): the state and the old value; none on an uncorrectable error, when
nothing is written (R268). -/
def State.atomicAt (s : State) (gid lane : Nat) (kind : PageKind) (pa n : Nat) (op : DWord → DWord) : State × Option DWord :=
  let line := lineOf pa
  let s := (((s.flushOwn (keyOf gid) pa n ((s.group gid).name lane)).arriveAt (keyOf gid) line).landBack line).landMove line
  let s1 := match kind with
    | .ms => s
    | .shared => s.recall line
    | .local _ => (s.l2WriteBack line).recall line
  if s1.ms.bad.contains line then (s1.logError line 1, none)
  else
    let s2 := s1.commitCells fun c => lineOf c.addr == line
    let old := BitVec.ofNat 64 (s2.homeNum pa n)
    let bs := homeBytes pa (leBytes n (op old).toNat)
    let s3 := match kind with
      | .ms => (s2.setMem (setLineAt s2.mem line (putBytes (lineAt s2.mem line) bs))).evalMonitors line
      | .shared | .local _ => s2.writeHome line bs
    (s3.dropNear gid line, some old)

/-- ATOM and ATOMC (R218): `op` is a lane's operation on the old value. DESIGN CHOICE (log entry 73): the home accesses of all
its lanes come in one step, ascending, also on different lines. -/
def State.atomAll (s : State) (i : Iss) (f : MF) (accs : List Acc) (op : Acc → DWord → DWord) : Done :=
  let n := MTy.bytes f.ty
  let lines := accs.map fun a => lineOf a.pa
  let s0 := s.relFor i f.ord
  let s1 := if f.ord == .acqrel then s0.flushCurd fun w => w.core == keyOf i.gid && lines.contains (lineOf w.addr) else s0
  let d := performEach s1 accs fun s a => match s.atomicAt i.gid a.lane a.kind a.pa n (op a) with
    | (s2, some old) => (Done.gives s2 (loadWrites a.lane f.data.toNat f.ty (leBytes n old.toNat))).tagged
        (if a.kind = .ms then [] else [s2.tagOf (lineOf a.pa)])
    | (s2, none) => s2.fails i a 0x19
  { d with s := d.s.acqFor i f.ord f.scope }

/-- ATOMC's new value (R218). -/
def casOf (a : Acc) (old : DWord) : DWord := if old = a.extra then BitVec.ofNat 64 (leNat a.data) else old

/-- ATOMS of one lane (R218): in the scratchpad, full-empty bits unchanged. -/
def State.atomsLane (s : State) (i : Iss) (f : MF) (a : Acc) : Done :=
  let n := MTy.bytes f.ty
  let old := BitVec.ofNat 64 (leNat (s.readS a.blk a.off n))
  let new := Alu.memOp (f.aux.toNat / 16) f.ty old (BitVec.ofNat 64 (leNat a.data))
  .gives (s.writeBy (some (i.gid, a.lane)) a.blk a.off (leBytes n new.toNat)) (loadWrites a.lane f.data.toNat f.ty (leBytes n old.toNat))

/-! ## Reductions (R167, R168, R219, R220) -/

/-- Makes room in a core's curd buffer of 1,024 granules: a free choice of granule is evicted (R167, R168; log entry 6). -/
def State.curdRoom (s : State) (core granule : Nat) : State :=
  let held := ((s.ms.curd.filter fun w => w.core == core).map fun w => w.addr / 16).eraseDups
  if held.contains granule ∨ held.length < 1024 then s
  else
    let v := nth held (s.pick 8 held.length)
    { s.flushCurd fun w => w.core == core && w.addr / 16 == v with free := s.free + 1 }

/-- A reduction comes to rest, or merges with the one that rests there (R167). -/
def State.rest (s : State) (w : CurdWord) : State :=
  match s.ms.curd.find? fun x => x.core == w.core && x.addr == w.addr && x.op == w.op && x.ty == w.ty && !x.det && !w.det with
  | some _ => s.setCurd (s.ms.curd.map fun x =>
      if x.core == w.core && x.addr == w.addr then { x with val := Alu.memOp w.op w.ty x.val w.val, who := (x.who ++ w.who).eraseDups } else x)
  | none =>
    let s1 := (s.flushOver w.core w.addr (MTy.bytes w.ty)).curdRoom w.core (w.addr / 16)
    s1.setCurd (s1.ms.curd ++ [w])

/-- Whether a reduction of a lane goes straight to its executing unit (R220): on an MS page, with `.rel`, or from a system core,
which has no curd buffer (log entry 15). -/
def straight (i : Iss) (f : MF) (a : Acc) : Bool := a.kind == .ms || f.ord == .rel || isSysGid i.gid

/-- The lanes of a RED that go straight to one line leave together (R220, R256); each stays open, for home may report an error
(R268, R375). -/
def State.redLine (s : State) (i : Iss) (f : MF) (r : Ret) (accs : List Acc) : State :=
  match accs with
  | [] => s
  | a :: _ =>
    (accs.foldl (fun s a => s.keepOpen i a.lane) s).send (.flushedReductionApply ⟨keyOf i.gid, s.seqFor a.lane,
      some ((s.group i.gid).name a.lane), lineOf a.pa, a.kind, f.aux.toNat / 16, f.ty, f.hint == .nt,
      accs.map fun a => ⟨a.pa, a.ea, BitVec.ofNat 64 (leNat a.data), a.lane⟩, some r⟩)

/-- RED (R220): AUX[31:28] is the operation; HINT `.nt` is `.det`. -/
def State.redAll (s : State) (i : Iss) (f : MF) (accs : List Acc) : Done :=
  let r := i.ackOf (accs.map fun a => a.lane)
  let go := accs.filter (straight i f)
  let s1 := (accs.filter fun a => !straight i f a).foldl (fun s a =>
    s.rest ⟨keyOf i.gid, a.pa, a.kind, f.aux.toNat / 16, f.ty, f.hint == .nt, BitVec.ofNat 64 (leNat a.data),
      [(s.group i.gid).name a.lane]⟩) (s.relFor i f.ord)
  .ofState ((byLine go).foldl (fun s l => s.redLine i f r l) s1)

/-! ## The maintenance of a line (R227) -/

/-- Writes the dirty bytes of a quadrant-local line home and keeps it clean. -/
def State.cleanL2 (s : State) (line : Nat) : State :=
  let s1 := (s.ms.copies.filter fun c => c.line == line && isL2 c.site).foldl State.writeBack s
  s1.setCopies (s1.ms.copies.map fun c => if c.line == line && isL2 c.site then { c with dirty := 0 } else c)

/-- CLEAN of one line: the issuing core's writes to it, the curd words that rest there, the dirty L2 line, and a recall (R199, R227). -/
def State.cleanLine (s : State) (key line : Nat) : State :=
  (((s.arriveAt key line).flushCurd fun w => lineOf w.addr == line).cleanL2 line).recall line

end Sys2Proof.Machine
end

