-- ==== Sys2Proof/Machine/Access.lean ====
section
/-! DEFINITION. Class 3: how an access leaves its core, at once or held behind the lane's earlier ones (R198, R222, R375), what each
instruction performs there, and its meaning (R201 to R222, R228). -/
namespace Sys2Proof.Machine

/-! ## Performing (R198) -/

/-- Whether an instruction accesses memory rather than the scratchpad, a table or nothing (R196). -/
def isGlobal : Instr → Bool
  | .ld _ | .st _ | .stn _ | .repark _ | .locate _ | .parkq _ | .tst _ | .retract _ | .commit _ | .atom _ | .atomc _ | .red _ => true
  | _ => false

/-- Whether a locked bridge gate refuses an access's packet (R10, R432). -/
def State.gated (s : State) (i : Iss) (w : Instr) (a : Acc) : Bool := isGlobal w && s.gateStops (quadOfGid i.gid) (s.servedBy a.kind a.pa)

/-- Accesses of loads, and the acquire once the last of them is complete (R198). -/
def acquiring (s : State) (i : Iss) (f : MF) (accs : List Acc) (one : State → Acc → Done) : Done :=
  let d := performEach s accs one
  if d.rest = [] then { d with s := d.s.acqFor i f.ord f.scope } else d

/-- The bytes of RSTLD at an offset of the launch's reader-set table (R211). -/
def State.readerBytes (s : State) (gid off n : Nat) : List Byte :=
  let table := match s.launch (s.group gid).lid with
    | some x => x.readers
    | none => []
  (List.range n).map fun k => Map.get 0 table (off + k)

/-- The lines of the range of CLEAN and INVAL, which each of its lanes names beside an access of its own (R226). -/
def rangeLines (accs : List Acc) : List Nat := ((accs.filter fun a => a.extra == 1).map fun a => lineOf a.pa).eraseDups

/-- What the accesses of an instruction of class 3 do when they perform. `r` is the result that its packets carry. -/
def State.performOk (s : State) (i : Iss) (w : Instr) (r : Ret) (accs : List Acc) : Done :=
  match w with
  | .ld f => acquiring s i f accs fun s a => s.loadLane i f a
  | .st f => .ofState ((s.relFor i f.ord).storeAll i (f.hint == .nt) r accs)
  | .lds f | .ldss f => acquiring s i f accs fun s a => s.loadS f a
  | .sts f | .stss f => performEach (s.relFor i f.ord) accs fun s a => s.putS i f a
  | .stn f => .ofState ((s.relFor i f.ord).noteAll i r accs)
  | .repark f => tagEach s accs fun s a => s.reparkLane i r (f.data.getLsbD 0) a
  | .locate _ => .ofState (accs.foldl (fun s a => s.locateLane i r a) s)
  | .parkq f => performEach s accs fun s a => s.parkqLane i f.data.toNat a
  | .rstld f => performEach s accs fun s a => s.halves f.ty a fun at_ n =>
      .gives s (partWrites a.lane f.data.toNat f.ty at_ (s.readerBytes i.gid (a.off + at_) n))
  | .stfe _ => .ofState (accs.foldl (fun s a => s.stfeLane i a) (s.releaseBy i.gid (maskOf i.lanes)))
  | .feset f => .ofState (accs.foldl (fun s a => s.setRun a.blk (f.aux.getLsbD 0) (a.off / 16) a.extra.toNat) s)
  | .tst f => (s.relFor i f.ord).tstAll i f.aux.toNat accs
  | .retract f => performEach s accs fun s a =>
      let q := s.retractLane i (MTy.bytes f.ty) a
      (Done.gives q.1 [.p a.lane f.aux.toNat q.2.1]).tagged q.2.2
  | .commit f => tagEach s accs fun s a => s.commitLane i (MTy.bytes f.ty) a
  | .atom f => s.atomAll i f accs fun a old => Alu.memOp (f.aux.toNat / 16) f.ty old (BitVec.ofNat 64 (leNat a.data))
  | .atomc f => s.atomAll i f accs casOf
  | .atoms f => acquiring (s.relFor i f.ord) i f accs fun s a => s.atomsLane i f a
  | .red f => s.redAll i f accs
  | .fence f => .ofState ((s.relFor i f.ord).acqFor i f.ord f.scope)
  | .clean _ => .ofState ((rangeLines accs).foldl (fun s l => s.cleanLine (keyOf i.gid) l) s)
  | .inval _ => .ofState ((rangeLines accs).foldl (fun s l => (s.cleanLine (keyOf i.gid) l).dropCopies l fun _ => true) s)
  | _ => .ofState s

/-- The accesses perform, but for those whose packet a locked gate refuses: their lanes take the late cause gate (R379). -/
def State.perform (s : State) (i : Iss) (w : Instr) (r : Ret) (accs : List Acc) : Done :=
  let out := accs.filter (s.gated i w)
  let go := accs.filter fun a => !s.gated i w a
  let s1 := out.foldl (fun s a => s.openLate i a.lane 0x1A a.ea) s
  if go = [] then ⟨s1, [], out.map fun a => a.lane, [], []⟩
  else
    let d := s1.performOk i w { r with lanes := r.lanes &&& ~~~(maskOf (out.map fun a => a.lane)) } go
    { d with late := d.late ++ out.map fun a => a.lane }

/-! ## Held accesses (R222, R375) -/

/-- Whether an earlier access of a lane is still open, or held in the core, for one that is no load (R375). A plain store on its
way holds nothing back: home gives no order to one core's writes to different lines (R246; log entry 8). -/
def State.heldBack (s : State) (gid lane id : Nat) : Bool :=
  ((s.lane gid lane).opens.any fun o => decide (o.id < id))
    || (s.due.any fun i => match retAny i with
      | some r => r.gid == gid && r.ctr == some .ldc && r.lanes.getLsbD lane && decide (r.id < id)
      | none => false)
    || s.ms.jobs.any fun j => j.iss.gid == gid && decide (j.iss.id < id) && j.accs.any fun a => a.lane == lane

/-- The bytes that an access of an instruction may touch; none for one that acts on its whole line. -/
def widthOf : Instr → Option Nat
  | .ld f | .st f | .lds f | .sts f | .ldss f | .stss f | .stn f | .rstld f | .stfe f | .tst f | .retract f | .commit f
  | .atom f | .atomc f | .atoms f | .red f => some (MTy.bytes f.ty)
  | _ => none

/-- Whether two accesses of a lane may touch one byte. -/
def Acc.overlaps (w : Instr) (a : Acc) (w' : Instr) (b : Acc) : Bool :=
  isGlobal w == isGlobal w' &&
    (if isGlobal w then lineOf a.pa == lineOf b.pa && (match widthOf w, widthOf w' with
      | some m, some n => decide (a.pa < b.pa + n) && decide (b.pa < a.pa + m)
      | _, _ => true)
    else a.blk == b.blk && decide (a.off < b.off + (widthOf w').getD 16) && decide (b.off < a.off + (widthOf w).getD 16))

/-- Whether an instruction acquires (R198). -/
def acquires : Instr → Bool
  | .ld f | .lds f | .ldss f | .atom f | .atomc f | .atoms f | .fence f => f.ord == .acq || f.ord == .acqrel
  | _ => false

def isFence : Instr → Bool
  | .fence _ => true
  | _ => false

/-- Whether a load waits for an access of its lane that the core holds: a fence, an acquire, or one to bytes it reads (R198, R199,
R222). -/
def State.loadWaits (s : State) (j : Job) (a : Acc) : Bool :=
  s.ms.jobs.any fun k => k.iss.gid == j.iss.gid && decide (k.iss.id < j.iss.id) &&
    k.accs.any fun b => b.lane == a.lane && (isFence k.instr || acquires k.instr || Acc.overlaps j.instr a k.instr b)

def isLoad : Instr → Bool
  | .ld _ | .lds _ | .ldss _ | .rstld _ => true
  | _ => false

def isMaintenance : Instr → Bool
  | .clean _ | .inval _ => true
  | _ => false

/-- Whether a FENCE `.ms` awaits bank vector commands, CLEANs or INVALs that its group issued before it (R222, R267). -/
def State.bankWaits (s : State) (j : Job) : Bool :=
  match j.instr with
  | .fence f => f.disp.getLsbD 0 && ((s.ms.bank.any fun c => c.gid == j.iss.gid && decide (c.id < j.iss.id))
      || s.ms.jobs.any fun k => k.iss.gid == j.iss.gid && decide (k.iss.id < j.iss.id) && isMaintenance k.instr)
  | _ => false

/-- Whether an access may leave its core (R222, R375). -/
def State.jobReady (s : State) (j : Job) : Bool :=
  !s.bankWaits j && j.accs.all fun a => if isLoad j.instr then !s.loadWaits j a else !s.heldBack j.iss.gid a.lane j.iss.id

/-- The core holds an access (R375): its lanes stay open until it has performed. -/
def State.holdJob (s : State) (j : Job) : State :=
  let s1 := j.accs.foldl (fun s a => s.keepOpen j.iss a.lane) s
  { s1 with ms := { s1.ms with jobs := s1.ms.jobs ++ [{ j with lanes := j.lanes ||| maskOf (j.accs.map fun a => a.lane) }] } }

/-- Takes an access out of its core's hold. -/
def State.dropJob (s : State) (n : Nat) : State := { s with ms := { s.ms with jobs := s.ms.jobs.eraseIdx n } }

/-- Whether packets in flight carry the result of an instruction. -/
def State.carried (s : State) (id : Nat) : Bool :=
  s.due.any fun i => match retOf i with
    | some r => r.id == id
    | none => false

/-- An access leaves its core and performs; its result is on its way, carried by its packets or sent at once (R45, R100). Of a
`.b128` access of which one half has performed, the other is held (R234). -/
def State.runJob (s : State) (j : Job) : State :=
  let d := s.perform j.iss j.instr (j.ret []) j.accs
  let j1 : Job := { j with accs := d.rest, got := j.got ++ d.writes, lanes := j.lanes &&& ~~~(maskOf d.late) }
  if d.rest ≠ [] then d.s.holdJob j1
  else if d.s.carried j.iss.id then
    { d.s with due := d.s.due.map (withRet fun y => if y.id = j.iss.id then { y with writes := y.writes.filter j.keeps, tags := y.tags ++ d.tags } else y) }
  else d.s.send (.resultReturn { j1.ret [] with tags := d.tags })

/-- The accesses of an instruction leave its core, or are held there (R45, R375). `dst` names the registers its result writes. -/
def State.leave (s : State) (i : Iss) (w : Instr) (dst : List Nat) (accs : List Acc) : State :=
  if accs = [] then s
  else
    let j : Job := ⟨i, w, accs, [], dst, [], if isGlobal w then maskOf (accs.map fun a => a.lane) else 0⟩
    let s1 := s.bump i.gid (ctrOf w)
    if s1.jobReady j then s1.runJob j else s1.holdJob j

/-- What the checks of a global instruction let pass leaves; the other lanes fail (R110, R196). -/
def State.leaveG (c : State × Checked) (i : Iss) (acc : Access) (w : Instr) (dst : List Nat) : State :=
  (c.1.leave i w dst c.2.ok).failures i acc c.2

/-- The same for a scratchpad instruction. -/
def State.leaveS (s : State) (c : List Acc × List (Nat × Nat × DWord)) (i : Iss) (w : Instr) (dst : List Nat) : State :=
  (s.leave i w dst c.1).sFail i c.2

/-- Gives every access that passed what it takes from its lane's registers. -/
def Checked.with (c : State × Checked) (f : Acc → Acc) : State × Checked := (c.1, { c.2 with ok := c.2.ok.map f })

/-- An access takes its data from the lane's data register (R197). -/
def State.dataFor (s : State) (i : Iss) (f : MF) (a : Acc) : Acc := { a with data := s.storeBytes i.gid a.lane f.data.toNat f.ty }

/-- No check of an entry's own. -/
def noCheck : Nat → DWord → Option (Nat × DWord) := fun _ _ => none

/-! ## LD, ST (R201, R202) -/

/-- LD. -/
def execLd (f : MF) (s : State) : Answer :=
  issue s f.ctl (some .ldc) (dataNames f ++ addrNames f) (MTy.regs f.ty) fun s i =>
    State.leaveG (s.checkGlobal i .read (MTy.bytes f.ty) noCheck (s.eas i f false)) i .read (.ld f) (dataNames f)

/-- ST. -/
def execSt (f : MF) (s : State) : Answer :=
  issue s f.ctl (some .stc) (dataNames f ++ addrNames f) 0 fun s i =>
    State.leaveG (Checked.with (s.checkGlobal i .write (MTy.bytes f.ty) noCheck (s.eas i f false)) (s.dataFor i f)) i .write (.st f) []

/-! ## LDS, STS, LDSS, STSS (R203, R204) -/

/-- LDS. -/
def execLds (f : MF) (s : State) : Answer :=
  issue s f.ctl (some .ldc) (dataNames f ++ addrNames f) (MTy.regs f.ty) fun s i =>
    s.leaveS (s.checkScratch (MTy.bytes f.ty) (s.ownBlock i) (s.eas i f false)) i (.lds f) (dataNames f)

/-- Scratchpad checks whose accesses take their data. -/
def State.withData (s : State) (i : Iss) (f : MF) (c : List Acc × List (Nat × Nat × DWord)) : List Acc × List (Nat × Nat × DWord) :=
  (c.1.map (s.dataFor i f), c.2)

/-- STS. -/
def execSts (f : MF) (s : State) : Answer :=
  issue s f.ctl (some .stc) (dataNames f ++ addrNames f) 0 fun s i =>
    s.leaveS (s.withData i f (s.checkScratch (MTy.bytes f.ty) (s.ownBlock i) (s.eas i f false))) i (.sts f) []

/-- The lanes beyond their range read 0 in place of a fault (R204). -/
def laxRange (eas : List (Nat × DWord)) (c : List Acc × List (Nat × Nat × DWord)) : List Acc × List (Nat × Nat × DWord) :=
  let out := c.2.filter fun x => x.2.1 == 0x11
  (c.1 ++ out.map fun x => { accS x.1 ((eas.lookup x.1).getD 0) ⟨0, 0⟩ 0 with extra := 1 }, c.2.filter fun x => x.2.1 != 0x11)

/-- LDSS: under `.lax` a lane beyond its range reads 0. -/
def execLdss (f : MF) (s : State) : Answer :=
  issue s f.ctl (some .ldc) (dataNames f ++ addrNames f ++ [f.aux.toNat]) (MTy.regs f.ty) fun s i =>
    let c := s.checkScratch (MTy.bytes f.ty) (s.auxBlock i f) (s.eas i f true)
    s.leaveS (if f.lax then laxRange (s.eas i f true) c else c) i (.ldss f) (dataNames f)

/-- STSS. -/
def execStss (f : MF) (s : State) : Answer :=
  issue s f.ctl (some .stc) (dataNames f ++ addrNames f ++ [f.aux.toNat]) 0 fun s i =>
    s.leaveS (s.withData i f (s.checkScratch (MTy.bytes f.ty) (s.auxBlock i f) (s.eas i f true))) i (.stss f) []

/-! ## STN, REPARK, LOCATE, PARKQ (R205 to R210) -/

/-- Lanes whose reader word fails a check take trap(reader-set, ea) (R171, R206, R208). -/
def readerTraps (c : State × Checked) (bad : Acc → Bool) : State × Checked :=
  (c.1, { c.2 with ok := c.2.ok.filter fun a => !bad a, traps := c.2.traps ++ (c.2.ok.filter bad).map fun a => (a.lane, 0x18, a.ea) })

/-- An access takes its reader word from v(AUX) (R170). -/
def State.readersFor (s : State) (i : Iss) (f : MF) (a : Acc) : Acc :=
  let w := s.readV i.gid a.lane 3 f.aux.toNat
  { a with extra := w.zeroExtend 64, readers := if w.toNat / 2 ^ 29 = 0 then none else s.readerSet i.gid w }

/-- Whether a reader word of a kind other than 0b000 is at fault for a page (R171, R206). DESIGN CHOICE for REPARK (log entry 71). -/
def Acc.badReaders (a : Acc) : Bool :=
  decide (a.extra.toNat / 2 ^ 29 ≠ 0) && (match a.readers with
    | none => true
    | some m => leavesQuad a.kind m)

/-- STN: a plain store on an MS page or with no reader (R206). -/
def execStn (f : MF) (s : State) : Answer :=
  issue s f.ctl (some .stc) (dataNames f ++ addrNames f ++ [f.aux.toNat]) 0 fun s i =>
    let c := Checked.with (s.checkGlobal i .write (MTy.bytes f.ty) noCheck (s.eas i f true)) fun a => s.readersFor i f (s.dataFor i f a)
    State.leaveG (readerTraps c fun a => !a.plain && a.badReaders) i .write (.stn f) []

/-- REPARK (R208): DATA[0] is ADD. An MS page has no cached copy to park: the lane does nothing (R254; log entry 20). -/
def execRepark (f : MF) (s : State) : Answer :=
  issue s f.ctl (some .stc) (addrNames f ++ [f.aux.toNat]) 0 fun s i =>
    let c := Checked.with (s.checkGlobal i .write 1 noCheck (s.eas i f true)) (s.readersFor i f)
    State.leaveG (readerTraps c Acc.badReaders) i .write (.repark f) []

/-- LOCATE (R209). -/
def execLocate (f : MF) (s : State) : Answer :=
  issue s f.ctl (some .ldc) (addrNames f) 0 fun s i =>
    State.leaveG (s.checkGlobal i .read 1 noCheck (s.eas i f false)) i .read (.locate f) []

/-- PARKQ (R210): its width is 4 by TYPE. -/
def execParkq (f : MF) (s : State) : Answer :=
  issue s f.ctl (some .ldc) (f.data.toNat :: addrNames f) 1 fun s i =>
    State.leaveG (s.checkGlobal i .read 4 noCheck (s.eas i f false)) i .read (.parkq f) [f.data.toNat]

/-! ## RSTLD, PREF, FENCE (R211, R222, R228) -/

/-- The checks of RSTLD (R196, R211). -/
def rstldChecks (n : Nat) (eas : List (Nat × DWord)) : List Acc × List (Nat × Nat × DWord) :=
  eas.foldl (fun r x =>
    let off := x.2.toNat % 2 ^ 32
    if off % n ≠ 0 then (r.1, r.2 ++ [(x.1, 0x10, x.2)])
    else if 3072 < off + n then (r.1, r.2 ++ [(x.1, 0x18, BitVec.ofNat 64 off)])
    else (r.1 ++ [accS x.1 x.2 ⟨0, 0⟩ off], r.2)) ([], [])

/-- RSTLD. -/
def execRstld (f : MF) (s : State) : Answer :=
  issue s f.ctl (some .ldc) (dataNames f ++ addrNames f) (MTy.regs f.ty) fun s i =>
    s.leaveS (rstldChecks (MTy.bytes f.ty) (s.eas i f false)) i (.rstld f) (dataNames f)

/-- PREF (R228): DATA is LEVEL. -/
def execPref (f : MF) (s : State) : Answer :=
  issue s f.ctl none (addrNames f) 0 fun s i => (s.eas i f false).foldl (fun s x => s.prefLane i f.data.toNat x.2) s

/-- FENCE (R222): it performs behind its lanes' earlier accesses, and with `.ms` behind the group's earlier bank vector commands. -/
def execFence (f : MF) (s : State) : Answer :=
  issue s f.ctl (some .stc) [] 0 fun s i => s.leave i (.fence f) [] (i.lanes.map fun l => accG l 0 0 .shared)

/-! ## Full-empty bits (R212, R213) -/

/-- Whether LDFE has to wait for what its lanes' core holds: a fence, an acquire, or an access to its granule (R198, R199, R222). -/
def State.ldfeHeld (s : State) (f : MF) : Bool :=
  match s.cur with
  | none => false
  | some cx =>
    let i : Iss := ⟨cx, s.nextId, s.taking cx f.ctl⟩
    (s.eas i f true).any fun x =>
      s.loadWaits ⟨i, .ldfe f, [], [], [], [], 0⟩ (accS x.1 x.2 (s.group cx.gid).blk (x.2.toNat % 2 ^ 32))

/-- LDFE (R213): a lane whose granule reads empty parks; the others take it at once. CLR is AUX[0]. -/
def execLdfe (f : MF) (s : State) : Answer :=
  if s.ldfeHeld f then .next s.stall
  else issue s f.ctl (some .ldc) (dataNames f ++ addrNames f) (MTy.regs f.ty) fun s i =>
    let c := s.checkScratch (MTy.bytes f.ty) (s.ownBlock i) (s.eas i f true)
    let s1 := if c.1 = [] then s else s.bump i.gid .ldc
    -- every lane waits, then the granules that read full serve their readers
    let s2 := c.1.foldl (fun s a => s.park i.cx [a.lane] (.ldfe i.id a.lane a.off f.ty f.data.toNat (f.aux.getLsbD 0))) s1
    let s3 := c.1.foldl (fun s a =>
      ((s.ldfeWaits a.blk (a.off / 16)).filter fun w => w.lanes.getLsbD a.lane && w.gid == i.gid).foldl
        (fun s w => s.ldfeTake a.blk (a.off / 16) w) s) s2
    -- a lane that never waited needs no counter wait (R113)
    let s4 := s3.modGroup i.gid fun g => { g with hold := (s.group i.gid).hold }
    s4.sFail i c.2

/-- STFE (R213): the bytes and the bit, as one action, behind the lane's earlier accesses (R231). -/
def execStfe (f : MF) (s : State) : Answer :=
  issue s f.ctl (some .stc) (dataNames f ++ addrNames f) 0 fun s i =>
    s.leaveS (s.withData i f (s.checkScratch (MTy.bytes f.ty) (s.ownBlock i) (s.eas i f false))) i (.stfe f) []

/-- The checks of FESET, in its own order (R213): the count is v(DATA). -/
def State.fesetChecks (s : State) (i : Iss) (f : MF) : List Acc × List (Nat × Nat × DWord) :=
  let b := (s.group i.gid).blk
  (s.eas i f true).foldl (fun r x =>
    let off := x.2.toNat % 2 ^ 32
    let n := s.readV i.gid x.1 16 f.data.toNat
    if off % 16 ≠ 0 then (r.1, r.2 ++ [(x.1, 0x10, BitVec.ofNat 64 off)])
    else if s.scratchSize b < off + 16 * n.toNat then (r.1, r.2 ++ [(x.1, 0x11, BitVec.ofNat 64 off)])
    else (r.1 ++ [{ accS x.1 x.2 b off with extra := n.zeroExtend 64 }], r.2)) ([], [])

/-- FESET (R213): AUX[0] is FULL. -/
def execFeset (f : MF) (s : State) : Answer :=
  issue s f.ctl (some .stc) (f.data.toNat :: addrNames f) 0 fun s i => s.leaveS (s.fesetChecks i f) i (.feset f) []

/-! ## TST, RETRACT, COMMIT (R214, R215) -/

/-- TST: AUX is the result predicate. -/
def execTst (f : MF) (s : State) : Answer :=
  issue s f.ctl (some .stc) (dataNames f ++ addrNames f) 1 fun s i =>
    State.leaveG (Checked.with (s.checkGlobal i .write (MTy.bytes f.ty) noCheck (s.eas i f true)) (s.dataFor i f)) i .write (.tst f)
      [256 + f.aux.toNat]

/-- RETRACT: AUX is the result predicate. -/
def execRetract (f : MF) (s : State) : Answer :=
  issue s f.ctl (some .ldc) (addrNames f) 1 fun s i =>
    State.leaveG (s.checkGlobal i .write (MTy.bytes f.ty) noCheck (s.eas i f true)) i .write (.retract f) [256 + f.aux.toNat]

/-- COMMIT. -/
def execCommit (f : MF) (s : State) : Answer :=
  issue s f.ctl (some .stc) (addrNames f) 0 fun s i =>
    State.leaveG (s.checkGlobal i .write (MTy.bytes f.ty) noCheck (s.eas i f false)) i .write (.commit f) []

/-! ## ATOM, ATOMC, ATOMS, RED (R216 to R220) -/

/-- ATOM (R218): AUX[31:28] is the operation. -/
def execAtom (f : MF) (s : State) : Answer :=
  issue s f.ctl (some .ldc) (dataNames f ++ addrNames f) (MTy.regs f.ty) fun s i =>
    State.leaveG (Checked.with (s.checkGlobal i .atomic (MTy.bytes f.ty) noCheck (s.eas i f true)) (s.dataFor i f)) i .atomic (.atom f)
      (dataNames f)

/-- ATOMC (R218): AUX is the compare register. -/
def execAtomc (f : MF) (s : State) : Answer :=
  let w := MTy.bytes f.ty == 8
  issue s f.ctl (some .ldc) (dataNames f ++ addrNames f ++ vNames w f.aux) (MTy.regs f.ty) fun s i =>
    State.leaveG (Checked.with (s.checkGlobal i .atomic (MTy.bytes f.ty) noCheck (s.eas i f true)) fun a =>
      { s.dataFor i f a with extra := s.readVW i.gid a.lane 3 w f.aux.toNat }) i .atomic (.atomc f) (dataNames f)

/-- ATOMS (R218): in the scratchpad. -/
def execAtoms (f : MF) (s : State) : Answer :=
  issue s f.ctl (some .ldc) (dataNames f ++ addrNames f) (MTy.regs f.ty) fun s i =>
    s.leaveS (s.withData i f (s.checkScratch (MTy.bytes f.ty) (s.ownBlock i) (s.eas i f true))) i (.atoms f) (dataNames f)

/-- RED (R220): AUX[31:28] is the operation. -/
def execRed (f : MF) (s : State) : Answer :=
  issue s f.ctl (some .stc) (dataNames f ++ addrNames f) 0 fun s i =>
    State.leaveG (Checked.with (s.checkGlobal i .atomic (MTy.bytes f.ty) noCheck (s.eas i f true)) (s.dataFor i f)) i .atomic (.red f) []

end Sys2Proof.Machine
end

