-- ==== Sys2Proof/Machine/Issue.lean ====
section
/-! DEFINITION. What a step takes up: an event in flight, an access that a core holds, or the next word of a program counter that
an issue slot holds (R45 to R47, R62, R97 to R99, R105, R154, R375). -/
namespace Sys2Proof.Machine

/-- What a step does: it is over, or it runs an instruction in a state prepared for it. -/
inductive Turn where
  | over (s : State)
  | run (i : Instr) (s : State)

/-! ## Program counters of a group (R97, R99) -/

/-- The lanes that share a program counter: live, not parked, at one address and one place of a clause. -/
def Group.lanesAt (g : Group) (pc : DWord) (pos : Nat) : List Nat :=
  g.liveLanes.filter fun l => (g.lane l).park.isNone && (g.lane l).pc == pc && (g.lane l).pos == pos

/-- The distinct program counters of a group's lanes that are not parked. -/
def Group.pcs (g : Group) : List (DWord × Nat) :=
  ((g.liveLanes.filter fun l => (g.lane l).park.isNone).map fun l => ((g.lane l).pc, (g.lane l).pos)).eraseDups

/-- The 8 bytes at an address as instruction fetch finds them, without changing the state; none where it stops. -/
def State.fetch8 (s : State) (w : Walker) (va : DWord) : Option DWord :=
  if va.toNat % 8 ≠ 0 then none
  else match (s.xlate w va .fetch).2 with
    | .ok pa _ => some (BitVec.ofNat 64 (leNat (s.peek pa 8)))
    | .trap _ => none
    | .stop _ _ => none

/-- Whether a threshold admits a counter (R45). -/
def meets (t c : Nat) : Bool := t == 15 || decide (c ≤ t)
/-- The four thresholds (R45). -/
def thresholds (h : Header) (c : Counters) : Bool := meets h.wldc c.ldc && meets h.wstc c.stc && meets h.wxc c.xc && meets h.wmc c.mc

/-- What a lane that holds an open access may issue (R375). -/
def openMayIssue (w : DWord) : Bool :=
  let opc := opcodeOf w
  match opClass opc with
  | some 0 => true
  | some 3 => true
  | some 2 => decide (0x060 ≤ opc ∧ opc ≤ 0x064)
  | some _ => false
  | none => true

/-- Whether heat stops issue at clause boundaries: from state 3, or in quiet mode from state 2 (R449). -/
def State.tooHot (s : State) : Bool := decide (3 ≤ s.sys.power.state) || (s.sys.quiet && decide (2 ≤ s.sys.power.state))

/-- Whether the wait of a switch marker, or of lanes that resume, holds a group (R50, R112, R113). -/
def Group.waiting (g : Group) : Bool := g.hold && !g.cnt.zero

/-- Whether a program counter is ready (R50, R97, R329, R375, R377, R425, R449). -/
def State.ready (s : State) (gid : Nat) (pc : DWord) (pos : Nat) : Bool :=
  let g := s.group gid
  let open_ := (g.lanesAt pc pos).any fun l => s.laneOpen gid l
  !((g.lanesAt pc pos).any fun l => s.recordHolds gid l) && !g.waiting && (pos != 0 || (!g.stopping && !s.tooHot && !(isSysGid gid && s.eventReady (gid - 36864)))) &&
    (match s.fetch8 (s.laneWalker gid) pc with
    | none => !open_ || pos != 0
    | some w =>
      if pos = 0 then match readHeader w with
        | none => !open_
        | some h => thresholds h g.cnt && (!open_ || h.cls == 0 || h.cls == 3)
      else !open_ || openMayIssue w)

/-- The ready program counters of a group, the most populous first, ties to the lower address (R97). -/
def State.readyPcs (s : State) (gid : Nat) : List SlotPc :=
  let g := s.group gid
  let l := (g.pcs.filter fun x => s.ready gid x.1 x.2).map fun x => ((g.lanesAt x.1 x.2).length, x.1, x.2)
  let before (a b : Nat × DWord × Nat) : Bool := decide (b.1 < a.1) || (a.1 == b.1 && decide (a.2.1.toNat ≤ b.2.1.toNat))
  (sortBy before l).map fun x => ⟨gid, x.2.1, x.2.2⟩

/-! ## Issue slots of a unit (R97, R98) -/

/-- The units, and the groups of a unit, that have something to issue, are found from the groups' own places. -/
def State.unitGroups (s : State) (unit : Nat) : List (Nat × Group) := s.groups.filter fun x => subKey x.1 == unit

/-- The groups of a unit with a ready program counter that slot B does not hold, the one picked least recently first, ties to the
lower slot (R97). -/
def State.pickOrder (s : State) (unit : Nat) (b : Option SlotPc) : List Nat :=
  let l := ((s.unitGroups unit).filter fun x => (s.readyPcs x.1).any fun p => !(some p == b)).map fun x => (x.2.picked, x.1)
  (sortBy (fun (x y : Nat × Nat) => decide (x.1 < y.1) || (x.1 == y.1 && decide (x.2 ≤ y.2))) l).map fun x => x.2

/-- A slot keeps its program counter in mid-clause, and one that gave way in the clock before (R97, R145), while lanes stand there; a
group that waits for its counters leaves the slot to other groups meanwhile (R50). -/
def State.keepSlot (s : State) (late : Bool) (x : Option SlotPc) : Option SlotPc :=
  match x with
  | none => none
  | some p => if (p.pos ≠ 0 ∨ late = true) ∧ !((s.group p.gid).lanesAt p.pc p.pos).isEmpty ∧ !(s.group p.gid).waiting then some p else none

/-- The ready program counter of a group, other than slot A's, that has waited longest (R98). DESIGN CHOICE (log entry 68): where the
lanes of one issued last at different clocks, the longest of their times counts, and equal times go to the more populous. -/
def State.longest (s : State) (gid : Nat) (a : SlotPc) : Option SlotPc :=
  let age (p : SlotPc) : Nat := (((s.group gid).lanesAt p.pc p.pos).map fun l => s.clock - ((s.group gid).lane l).since).foldl Nat.max 0
  ((s.readyPcs gid).filter fun p => !(p == a)).foldl (fun o p => match o with
    | none => some p
    | some q => if age q < age p then some p else some q) none

/-- Slot B's program counter beside slot A's (R97, R98): the group's longest-waiting one where the guard acts, else the group's next,
else the most populous of the next group. -/
def State.assignB (s : State) (unit : Nat) (a : SlotPc) : State × Option SlotPc :=
  match (s.readyPcs a.gid).filter fun q => !(q == a) with
  | q :: _ =>
    if 64 ≤ s.clock - (s.group a.gid).guard then
      (s.modGroup a.gid fun g => { g with guard := s.clock }, s.longest a.gid a)
    else (s, some q)
  | [] => match (s.pickOrder unit none).filter fun g => !(g == a.gid) with
    | g :: _ => (s, (s.readyPcs g).head?)
    | [] => (s, none)

/-- Slot A's program counter where it is free (R97): the picked group's most populous one that slot B does not hold. -/
def State.assignA (s : State) (unit : Nat) (b : Option SlotPc) : State × Option SlotPc :=
  match s.pickOrder unit b with
  | [] => (s, none)
  | g :: _ => (s.modGroup g fun x => { x with picked := s.clock }, ((s.readyPcs g).filter fun p => !(some p == b)).head?)

/-- The slots of a unit as the clock finds them (R97). -/
def State.slotsOf (s : State) (unit : Nat) : SubCore := Map.get ⟨none, none, false⟩ s.subs unit
def State.setSlots (s : State) (unit : Nat) (k : SubCore) : State := { s with subs := Map.set ⟨none, none, false⟩ s.subs unit k }

/-- Assigns a unit's free slots (R97, R98). -/
def State.assign (s : State) (unit : Nat) : State :=
  let k := s.slotsOf unit
  let b0 := s.keepSlot k.late k.b
  let r := match s.keepSlot k.late k.a with
    | some p => (s, some p)
    | none => if k.late && b0.isSome then (s, none) else s.assignA unit b0
  match r.2, b0 with
  | some a, none =>
    let q := r.1.assignB unit a
    q.1.setSlots unit ⟨some a, q.2, k.late⟩
  | a, b => r.1.setSlots unit ⟨a, b, k.late⟩

/-- The word that a program counter issues next, as fetch finds it: past its header at a clause's start. -/
def State.nextWord (s : State) (p : SlotPc) : Option DWord := s.fetch8 (s.laneWalker p.gid) (if p.pos = 0 then p.pc + 8 else p.pc)

/-- Whether a program counter issues a special function or another instruction of class 1 next (R145). -/
def State.nextIs (s : State) (p : Option SlotPc) (f : Nat → Bool) : Bool :=
  match p with
  | none => false
  | some x => match s.nextWord x with
    | some w => f (opcodeOf w)
    | none => false

def isClass1 (opc : Nat) : Bool := opClass opc == some 1
def isExit (opc : Nat) : Bool := opc == 0x065
def isStend (opc : Nat) : Bool := opc == 0x0D8

/-- Whether slot B acts before slot A in a clock: with an exit (R154), or as the request of the lower group slot for an iteration (R349). -/
def State.bFirst (s : State) (k : SubCore) : Bool :=
  s.nextIs k.b isExit || (s.nextIs k.a isStend && s.nextIs k.b isStend && decide ((k.b.map fun p => p.gid).getD 0 < (k.a.map fun p => p.gid).getD 0))

/-- What a unit does in a clock: slot A, then slot B, but for `bFirst`. Of two class 1 instructions slot B's goes in
the next clock, in which slot A keeps its place (R145). -/
def State.unitItems (s : State) (unit : Nat) : State × List CycleItem :=
  let s1 := s.assign unit
  let k := s1.slotsOf unit
  let a := if k.a.isSome then [CycleItem.slot unit false] else []
  let b := if k.b.isSome then [CycleItem.slot unit true] else []
  if k.late && k.b.isSome then (s1.setSlots unit { k with late := false }, b)
  else if s1.nextIs k.a isClass1 && s1.nextIs k.b isClass1 then (s1.setSlots unit { k with late := true }, a)
  else (s1.setSlots unit { k with late := false }, if s1.bFirst k then b ++ a else a ++ b)

/-- The units that have groups, ascending (R154). -/
def State.units (s : State) : List Nat := sortBy (fun a b => decide (a ≤ b)) ((s.groups.map fun x => subKey x.1).eraseDups)

/-! ## The word at a program counter (R46, R47, R62) -/

/-- A trap of the word at a place, in all of its lanes. -/
def State.wordTrap (s : State) (cx : Cx) (cause : Nat) (info : DWord) : Turn := .over (s.trap cx.gid (lanesOf cx.mask) (cx.at_ cause info))

/-- Instruction fetch at an address: the bytes, or a word that stops (R46, R268; log entry 75). -/
def State.fetchWord (s : State) (cx : Cx) : State × Except Turn DWord :=
  match s.xlate (s.laneWalker cx.gid) cx.pc .fetch with
  | (s1, .trap c) => (s1, .error (s1.wordTrap cx c cx.pc))
  | (s1, .stop lv bad) => (s1, .error (.over (s1.pageStop cx (lanesOf cx.mask) cx.pc .fetch lv bad)))
  | (s1, .ok pa _) =>
    if s1.ms.bad.contains (lineOf pa) then (s1, .error ((s1.logError (lineOf pa) 2).wordTrap cx 0x19 cx.pc))
    else (s1, .ok (BitVec.ofNat 64 (leNat (s1.peek pa 8))))

/-- Fetches and decodes the word at a place inside a clause and hands it on to run (R46, R62). -/
def State.issueWord (s : State) (cx : Cx) : Turn :=
  match s.fetchWord cx with
  | (_, .error t) => t
  | (s1, .ok w) =>
    let cx1 : Cx := { cx with word := w }
    let opc := opcodeOf w
    let misplaced := (isTransfer opc && (decide (1 < cx.left) || (decide (0x0F0 ≤ opc) && cx.cls != 9)))
      || (opClass opc != some cx.cls && !isTransfer opc) || (isSysGid cx.gid && (cx.cls == 5 || cx.cls == 6))
    match decode w with
    | .error .illegalVersion => s1.wordTrap cx1 0x01 w
    | .error .unassignedOpcode => s1.wordTrap cx1 0x01 w
    | .error .reservedField => s1.wordTrap cx1 (if misplaced then 0x02 else 0x01) w
    | .ok i => if misplaced then s1.wordTrap cx1 0x02 w else .run i { s1 with cur := some cx1 }

/-- Enters a clause at its header, whose thresholds are met (R45, R47), and issues its first word. -/
def State.issueHeader (s : State) (cx : Cx) : Turn :=
  if cx.pc.toNat % 8 ≠ 0 then s.wordTrap cx 0x03 cx.pc
  else match s.fetchWord cx with
    | (_, .error t) => t
    | (s1, .ok w) =>
      match readHeader w with
      | none => s1.wordTrap cx 0x03 cx.pc
      | some h =>
        let s2 := eachLane s1 (lanesOf cx.mask) fun s l => s.modLane cx.gid l fun x =>
          { x with pc := cx.pc + 8, pos := 1, left := h.count, cls := h.cls }
        s2.issueWord { cx with pc := cx.pc + 8, pos := 1, left := h.count, cls := h.cls }

/-- Where a program counter stands once it has issued its next instruction: past a header and its first word, none at the clause's
end. -/
def State.placeAfter (s : State) (p : SlotPc) (x : Lane) : Option SlotPc :=
  let left := if p.pos = 0 then (match s.fetch8 (s.laneWalker p.gid) p.pc with
    | some w => match readHeader w with
      | some h => h.count
      | none => 0
    | none => 0) else x.left
  if left ≤ 1 then none
  else if p.pos = 0 then some ⟨p.gid, p.pc + 16, 2⟩ else some ⟨p.gid, p.pc + 8, p.pos + 1⟩

/-- Issues at the program counter that a slot holds; the slot goes on with it to the end of its clause (R97). -/
def State.issueAt (s : State) (unit : Nat) (isB : Bool) (p : SlotPc) : Turn :=
  let ls := (s.group p.gid).lanesAt p.pc p.pos
  let x := (s.group p.gid).lane (ls.headD 0)
  let s1 := ({ s with cycle := { s.cycle with slotB := isB } }.setSlot unit isB (s.placeAfter p x)).modGroup p.gid fun g => { g with hold := false }
  let cx : Cx := ⟨p.gid, maskOf ls, p.pc, p.pos, x.left, x.cls, 0⟩
  if p.pos = 0 then s1.issueHeader cx else s1.issueWord cx

/-- The program counter of a slot that can issue now. -/
def State.canIssue (s : State) (unit : Nat) (isB : Bool) : Option SlotPc :=
  match (if isB then (s.slotsOf unit).b else (s.slotsOf unit).a) with
  | none => none
  | some p => if !((s.group p.gid).lanesAt p.pc p.pos).isEmpty && s.ready p.gid p.pc p.pos then some p else none

/-! ## The choice of a step -/

/-- The rest of a clock: its first item that can act, those before it passed over. -/
def State.runItems : List CycleItem → State → Turn
  | [], s => .over { s with cycle := ⟨[], false, []⟩ }
  | .held a :: rest, s => .run (.heldArrival a) { s with cycle := { s.cycle with items := rest, slotB := false } }
  | .slot unit isB :: rest, s => match s.canIssue unit isB with
    | none => State.runItems rest s
    | some p => ({ s with cycle := { s.cycle with items := rest } } : State).issueAt unit isB p

/-- A held arrival in flight. -/
def heldOf : Instr → Option HeldArrival
  | .heldArrival a => some a
  | _ => none

/-- The units' items of a clock, ascending. -/
def State.allItems : List Nat → State → State × List CycleItem
  | [], s => (s, [])
  | u :: us, s =>
    let r := s.unitItems u
    let q := State.allItems us r.1
    (q.1, r.2 ++ q.2)

/-- A new clock: arrivals held for it come first (R105), then each unit's slots (R154). -/
def State.newClock (s : State) : Turn :=
  let s1 : State := ({ s with clock := s.clock + 1, due := s.due.filter fun i => (heldOf i).isNone } : State).completeDue
  let held := (s.due.filterMap heldOf).map CycleItem.held
  let r := State.allItems s1.units s1
  State.runItems (held ++ r.2) { r.1 with cycle := ⟨[], false, []⟩ }

/-- The events in flight that a step may take up, by their places. -/
def State.openEvents (s : State) : List Nat :=
  (List.range s.due.length).filter fun k => match s.due[k]? with
    | some i => (heldOf i).isNone
    | none => false

/-- The places of the held accesses that may leave their cores. -/
def State.readyJobs (s : State) : List Nat :=
  (List.range s.ms.jobs.length).filter fun k => match s.ms.jobs[k]? with
    | some j => s.jobReady j
    | none => false

/-- Takes up the event in flight at a place of the list. -/
def State.takeEvent (s : State) (n : Nat) : Turn :=
  match s.due[n]? with
  | some i => .run i { s with due := s.due.eraseIdx n }
  | none => .over s

/-- A held access leaves its core. -/
def State.takeJob (s : State) (n : Nat) : Turn :=
  match s.ms.jobs[n]? with
  | some j => .over ((s.dropJob n).newId.runJob j).fqDrain
  | none => .over s

/-- What a step takes up: what the clock in progress still has to do, else a free choice between the events in flight, the held
accesses that may leave, and the next clock (log entry 5). -/
def State.turn (s0 : State) : Turn :=
  let s : State := { s0 with free := s0.free + 1 }
  match s.cycle.items with
  | x :: xs => State.runItems (x :: xs) s
  | [] =>
    let s1 : State := { s with cycle := ⟨[], false, []⟩ }
    let ev := s1.openEvents
    let jobs := s1.readyJobs
    let k := s1.pick 1 (ev.length + jobs.length + 1)
    if k < ev.length then s1.takeEvent (nth ev k)
    else if k < ev.length + jobs.length then s1.takeJob (nth jobs (k - ev.length))
    else s1.newClock

/-! ## Placing a word -/

/-- The address at which `placeWord` puts its clause. -/
def wordBase : Nat := 0x10000

/-- A one-lane group that stands at `wordBase`, with its code in memory and a translation in its TLB: on core 0 of
partition 1, or on the system core of quadrant 0 for a class 9 word (log entry 3). -/
def State.placeWord (s : State) (w : Nat) : State :=
  let word := BitVec.ofNat 64 w
  let cls := match opClass (opcodeOf word) with
    | some k => k
    | none => 0
  let cls := if isTransfer (opcodeOf word) && cls != 9 then 2 else cls
  let gid := if cls = 9 then sysGid 0 else 0
  let hdr := packHeader ⟨cls, 1, 15, 15, 15, 15⟩
  let lane : Lane := { Lane.fresh with live := true, pc := BitVec.ofNat 64 wordBase }
  let g : Group := { Group.fresh with part := 1, sys := decide (cls = 9), lanes := [lane] }
  let e : TlbEntry := ⟨keyOf gid, 1, s.xlatSpace 1, wordBase, 2 ^ 16, wordBase, .shared, true, true, true, none, 0⟩
  let m := Memory.writeBytes s.mem (paddr 1 wordBase) (leBytes 8 hdr.toNat ++ leBytes 8 word.toNat)
  let tlb := s.ms.tlb.filter fun x => !(x.agent == keyOf gid && decide (x.va ≤ wordBase) && decide (wordBase < x.va + x.size))
  ({ s with cur := none, due := [], cycle := ⟨[], false, []⟩, groups := [(gid, g)], subs := [], mem := m, ms := { s.ms with tlb := tlb ++ [e], jobs := [] } } : State).setCsr
    (csrPart 1 0x06) (s.csr (csrPart 1 0x06) ||| 1)

end Sys2Proof.Machine
end

