-- ==== Sys2Proof/Machine/Aes.lean ====
section
/-! DEFINITION. AES-256 with GCM, which CPYDEC runs (R315) and SPDM sessions use (R440), and with XTS, through which the channels
write (R438): NIST FIPS 197, SP 800-38D and IEEE 1619 as the algorithms' names state them. -/
namespace Sys2Proof.Machine.Aes

/-- Multiplies by x in GF(2^8). -/
def xtime (a : BitVec 8) : BitVec 8 := if a.getLsbD 7 then (a <<< 1) ^^^ 0x1B else a <<< 1
/-- Multiplication in GF(2^8), the low `n` bits of `b`. -/
def gmul : Nat → BitVec 8 → BitVec 8 → BitVec 8
  | 0, _, _ => 0
  | n + 1, a, b => (if b.getLsbD 0 then a else 0) ^^^ gmul n (xtime a) (b >>> 1)
def mul8 (a b : BitVec 8) : BitVec 8 := gmul 8 a b
/-- The inverse, a^254; 0 for 0. -/
def inv8 (a : BitVec 8) : BitVec 8 :=
  let a2 := mul8 a a
  let a4 := mul8 a2 a2
  let a8 := mul8 a4 a4
  let a16 := mul8 a8 a8
  let a32 := mul8 a16 a16
  let a64 := mul8 a32 a32
  let a128 := mul8 a64 a64
  mul8 a128 (mul8 a64 (mul8 a32 (mul8 a16 (mul8 a8 (mul8 a4 a2)))))
/-- The S-box. -/
def sbox (a : BitVec 8) : BitVec 8 :=
  let b := inv8 a
  b ^^^ b.rotateLeft 1 ^^^ b.rotateLeft 2 ^^^ b.rotateLeft 3 ^^^ b.rotateLeft 4 ^^^ 0x63

/-- A byte of a list, 0 past its end. -/
def at8 (l : List (BitVec 8)) (i : Nat) : BitVec 8 := l.getD i 0
def xorL (a b : List (BitVec 8)) : List (BitVec 8) := (List.range a.length).map fun i => at8 a i ^^^ at8 b i

/-- The key schedule: 60 words of 4 bytes, from the 32 bytes of the key. -/
def expand : Nat → Nat → BitVec 8 → List (BitVec 8) → List (BitVec 8)
  | 0, _, _, l => l
  | n + 1, i, rc, l =>
    let prev := (List.range 4).map fun k => at8 l (4 * (i - 1) + k)
    let t := if i % 8 = 0 then
        (match ((List.range 4).map fun k => sbox (at8 prev ((k + 1) % 4))) with
          | x :: xs => (x ^^^ rc) :: xs
          | [] => [])
      else if i % 8 = 4 then prev.map sbox else prev
    let w := (List.range 4).map fun k => at8 l (4 * (i - 8) + k) ^^^ at8 t k
    expand n (i + 1) (if i % 8 = 0 then xtime rc else rc) (l ++ w)
def schedule (key : List (BitVec 8)) : List (BitVec 8) := expand 52 8 1 key

def shiftRows (s : List (BitVec 8)) : List (BitVec 8) := (List.range 16).map fun i => at8 s ((i + 4 * (i % 4)) % 16)
def mixColumns (s : List (BitVec 8)) : List (BitVec 8) :=
  (List.range 16).map fun i =>
    let c := i / 4 * 4
    let a (k : Nat) : BitVec 8 := at8 s (c + (i + k) % 4)
    xtime (a 0) ^^^ (xtime (a 1) ^^^ a 1) ^^^ a 2 ^^^ a 3

/-- Encrypts one block of 16 bytes. -/
def encrypt (ks blk : List (BitVec 8)) : List (BitVec 8) :=
  let rk (r : Nat) : List (BitVec 8) := (ks.drop (16 * r)).take 16
  let s := (List.range 13).foldl (fun s r => xorL (mixColumns (shiftRows (s.map sbox))) (rk (r + 1))) (xorL blk (rk 0))
  xorL (shiftRows (s.map sbox)) (rk 14)

/-- A block as the 128-bit string of SP 800-38D, its first bit highest. -/
def toBits (l : List (BitVec 8)) : BitVec 128 := (List.range 16).foldl (fun a i => (a <<< 8) ||| (at8 l i).zeroExtend 128) 0
def ofBits (x : BitVec 128) : List (BitVec 8) := (List.range 16).map fun i => x.extractLsb' (8 * (15 - i)) 8

/-- Multiplication in GF(2^128). -/
def gf : Nat → BitVec 128 → BitVec 128 → BitVec 128 → BitVec 128
  | 0, _, _, z => z
  | n + 1, x, v, z =>
    gf n (x <<< 1) (if v.getLsbD 0 then (v >>> 1) ^^^ ((0xE1 : BitVec 128) <<< 120) else v >>> 1) (if x.getLsbD 127 then z ^^^ v else z)
def mul128 (x y : BitVec 128) : BitVec 128 := gf 128 x y 0

/-- A list in blocks of 16 bytes. -/
def blocks (l : List (BitVec 8)) : List (List (BitVec 8)) := (List.range ((l.length + 15) / 16)).map fun i => (l.drop (16 * i)).take 16

/-- GHASH of additional data and ciphertext. -/
def ghash (h : BitVec 128) (aad c : List (BitVec 8)) : BitVec 128 :=
  let y := (blocks aad ++ blocks c).foldl (fun y b => mul128 (y ^^^ toBits b) h) 0
  mul128 (y ^^^ BitVec.ofNat 128 (2 ^ 64 * (8 * aad.length) + 8 * c.length)) h

/-- The counter block of a 96-bit initialisation vector. -/
def counter (iv : List (BitVec 8)) (n : Nat) : List (BitVec 8) := iv ++ (List.range 4).map fun k => BitVec.ofNat 8 (n / 2 ^ (8 * (3 - k)))

/-- A text under the key stream of AES-256 in counter mode from block 2: encrypts and decrypts. -/
def gcmStream (ks iv x : List (BitVec 8)) : List (BitVec 8) :=
  ((List.range ((x.length + 15) / 16)).zip (blocks x)).flatMap fun y => xorL y.2 (encrypt ks (counter iv (y.1 + 2)))

/-- The tag of additional data and ciphertext. -/
def gcmTag (ks iv aad c : List (BitVec 8)) : List (BitVec 8) :=
  ofBits (ghash (toBits (encrypt ks (List.replicate 16 0))) aad c ^^^ toBits (encrypt ks (counter iv 1)))

/-- AES-256-GCM decryption: the plaintext when the tag verifies. -/
def gcmDecrypt (key iv c tag : List (BitVec 8)) : Option (List (BitVec 8)) :=
  let ks := schedule key
  if gcmTag ks iv [] c = tag then some (gcmStream ks iv c) else none

/-- AES-256-GCM encryption: the ciphertext and its tag. -/
def gcmSeal (key iv aad p : List (BitVec 8)) : List (BitVec 8) × List (BitVec 8) :=
  let ks := schedule key
  let c := gcmStream ks iv p
  (c, gcmTag ks iv aad c)

/-- Multiplication of an XTS tweak by x: 16 bytes, the first lowest. -/
def tweakNext (t : List (BitVec 8)) : List (BitVec 8) :=
  (List.range 16).map fun i =>
    let low : BitVec 8 := if i = 0 then (if (at8 t 15).getLsbD 7 then 0x87 else 0) else (at8 t (i - 1)) >>> 7
    ((at8 t i) <<< 1) ^^^ low

/-- Encrypts blocks one after the other, each under its tweak. -/
def xtsBlocks (ks : List (BitVec 8)) : List (List (BitVec 8)) → List (BitVec 8) → List (BitVec 8)
  | [], _ => []
  | b :: bs, t => xorL (encrypt ks (xorL b t)) t ++ xtsBlocks ks bs (tweakNext t)

/-- AES-256-XTS encryption of a data unit of whole blocks, by its number. -/
def xtsEncrypt (key1 key2 : List (BitVec 8)) (unit : Nat) (p : List (BitVec 8)) : List (BitVec 8) :=
  let t := encrypt (schedule key2) ((List.range 16).map fun k => BitVec.ofNat 8 (unit / 2 ^ (8 * k)))
  xtsBlocks (schedule key1) (blocks p) t

end Sys2Proof.Machine.Aes
end

