-- ==== Sys2Proof/Machine/Stages.lean ====
section
/-! DEFINITION. Staged loops (R347 to R361): loop slots, stage counters, STLOOP, STEND, STAGE and WAITL, and their events. -/
namespace Sys2Proof.Machine

/-! ## Loop slots (R347 to R352) -/

def State.loopSlot (s : State) (lid span slot : Nat) : LoopSlot :=
  match s.sched.loops.find? fun x => x.lid == lid && x.span == span && x.slot == slot with
  | some x => x
  | none => ⟨lid, span, slot, none, [], none⟩
def State.setLoop (s : State) (x : LoopSlot) : State :=
  { s with sched := { s.sched with loops := s.sched.loops.filter (fun y => !(y.lid == x.lid && y.span == x.span && y.slot == x.slot)) ++ [x] } }
/-- The span that a group's block belongs to (R330). -/
def State.spanNo (s : State) (g : Group) : Nat := g.block / s.spanOf g.lid
/-- The loop slot of a group's place. -/
def State.placeSlot (s : State) (g : Group) (p : LoopPlace) : LoopSlot := s.loopSlot g.lid (s.spanNo g) p.slot
/-- The open loop that a group is joined to; none once it has closed (R349). -/
def State.openLoop (s : State) (g : Group) : Option (LoopSlot × LoopHdr) :=
  match g.loop with
  | none => none
  | some p => match (s.placeSlot g p).hdr with
    | some h => if h.uid = p.uid then some (s.placeSlot g p, h) else none
    | none => none

/-- The span's host core, as its placement or its restore set it (R347); none while it is saved. -/
def State.hostCore (s : State) (lid span : Nat) : Option Nat :=
  (s.sched.hosts.find? fun h => h.lid == lid && h.span == span).map fun h => h.core
/-- Ends a span's hold on its host core. -/
def State.dropHost (s : State) (lid span : Nat) : State :=
  { s with sched := { s.sched with hosts := s.sched.hosts.filter fun h => !(h.lid == lid && h.span == span) } }
/-- Sets a span's host core (R347, R362). -/
def State.setHost (s : State) (lid span core : Nat) : State :=
  let s1 := s.dropHost lid span
  { s1 with sched := { s1.sched with hosts := s1.sched.hosts ++ [⟨lid, span, core⟩] } }
/-- Free physical entries of a core's stage table (R347). -/
def State.freeEntries (s : State) (core : Nat) : Nat :=
  64 - (s.sched.loops.map fun x => match x.hdr with
    | some h => if s.hostCore x.lid x.span = some core then h.w + 1 else 0
    | none => 0).sum

/-- The logical entry of an iteration (R348). -/
def entryOf (h : LoopHdr) (i : Nat) : Nat := h.base + 1 + i % h.w

/-- The predecessor's counter as iteration i reads it; 0xFFFF is infinity (R350, R351). -/
def predOf (x : LoopSlot) (h : LoopHdr) (i : Nat) : Nat :=
  if i = 0 then 0xFFFF
  else match x.iters.lookup (entryOf h (i - 1)) with
    | some e => if e.iter = i - 1 then e.count else 0xFFFF
    | none => 0xFFFF

/-- A logical entry of a span as WAITC reads it (R352). -/
def State.stageCount (s : State) (lid span entry : Nat) : Nat :=
  match s.sched.loops.findSome? fun x => if x.lid = lid ∧ x.span = span then x.iters.lookup entry else none with
  | some e => e.count
  | none => 0

/-- The predecessor's counter of an iteration of the loop `uid` in a slot: infinity once the loop has closed (R349, R351). -/
def LoopSlot.pred (x : LoopSlot) (uid i : Nat) : Nat :=
  match x.hdr with
  | some h => if h.uid = uid then predOf x h i else 0xFFFF
  | none => 0xFFFF

/-- Releases the WAITL waiters of a loop whose predecessor now exceeds their value (R352, R360). -/
def State.stageWake (s : State) (lid span slot : Nat) : State :=
  s.waits.foldl (fun s w => match w.kind with
    | .waitl v it k uid =>
      let g := s.group w.gid
      if g.lid = lid ∧ s.spanNo g = span ∧ k = slot ∧ v < (s.loopSlot lid span slot).pred uid it then
        (s.wake w).acquireBy w.gid w.lanes .quad
      else s
    | _ => s) s

/-- LOW after every ended iteration above it (R349). `fuel` bounds the window. -/
def lowAfter (x : LoopSlot) (h : LoopHdr) : Nat → Nat → Nat
  | 0, low => low
  | fuel + 1, low =>
    if h.next ≤ low then low
    else match x.iters.lookup (entryOf h low) with
      | some e => if e.iter = low ∧ e.count = 0xFFFF then lowAfter x h fuel (low + 1) else if e.iter ≠ low then lowAfter x h fuel (low + 1) else low
      | none => low

/-- LOW advances; when it reaches N the loop closes (R349). -/
def State.advanceLow (s : State) (lid span slot : Nat) : State :=
  let x := s.loopSlot lid span slot
  match x.hdr with
  | none => s
  | some h =>
    let low := lowAfter x h 65 h.low
    if h.n ≤ low then s.setLoop { x with hdr := none, iters := [], closed := some h.tag }
    else s.setLoop { x with hdr := some { h with low := low } }

/-- Ends the iteration that a group holds (R350, R356): a release at `.quad`, infinity, its waiters, and LOW. -/
def State.endIter (s : State) (gid : Nat) : State :=
  let g := s.group gid
  match g.loop with
  | none => s
  | some p => match p.iter, s.openLoop g with
    | some i, some (_, h) =>
      let s1 := s.releaseBy gid (BitVec.allOnes 32)
      let x := s1.placeSlot g p
      let its := x.iters.map fun (e : Nat × StageIter) =>
        if e.1 = entryOf h i ∧ e.2.iter = i then (e.1, { e.2 with count := 0xFFFF, holder := none }) else e
      let s2 := s1.setLoop { x with iters := its }
      let s3 := s2.modGroup gid fun g => { g with loop := some { p with iter := none, cur := 0 } }
      (s3.stageWake g.lid (s.spanNo g) p.slot).advanceLow g.lid (s.spanNo g) p.slot
    | _, _ => s

/-- The group leaves its loop (R356). -/
def State.leaveLoop (s : State) (gid : Nat) : State := s.modGroup gid fun g => { g with loop := none }

/-- An iteration still held ends as `stend.quit` would end it, and is counted (R361). -/
def State.quitLoop (s : State) (gid : Nat) : State :=
  match (s.group gid).loop with
  | none => s
  | some p => ((if p.iter.isSome then s.count cntLoopEnd else s).endIter gid).leaveLoop gid

/-- A group takes the next iteration (R356): its number. -/
def State.takeIter (s : State) (gid : Nat) (x : LoopSlot) (h : LoopHdr) : State × Nat :=
  let r := h.next
  let e := entryOf h r
  let s1 := s.setLoop { x with hdr := some { h with next := r + 1 }, iters := x.iters.filter (fun y => !(y.1 == e)) ++ [(e, ⟨r, 0, some gid⟩)] }
  (s1.modGroup gid fun g => match g.loop with
    | some p => { g with loop := some { p with iter := some r, cur := 0 } }
    | none => g, r)

/-! ## STLOOP (R353, R354) -/

structure LoopDesc where
  n : Nat
  tag : Nat
  base : Nat
  w : Nat
  deriving DecidableEq, Repr

/-- The descriptor of R348. -/
def loopDesc (d : DWord) (w : Nat) : LoopDesc := ⟨bits d 31 0, bits d 47 32, bits d 53 48, w⟩

/-- STLOOP at the host core (R354): the state and the status. -/
def State.openOrJoin (s : State) (gid slot : Nat) (d : LoopDesc) : State × Nat :=
  let g := s.group gid
  let sp := s.spanNo g
  let x := s.loopSlot g.lid sp slot
  let join (s : State) (uid : Nat) : State := s.modGroup gid fun g => { g with loop := some ⟨slot, uid, none, 0⟩ }
  if g.loop.isSome then (s, 6)
  else match x.hdr with
    | some h => if h.n = d.n ∧ h.tag = d.tag ∧ h.base = d.base ∧ h.w = d.w then (join s h.uid, 1) else (s, 3)
    | none =>
      if x.closed = some d.tag then (s, 2)
      else if s.sched.loops.any fun y => y.lid == g.lid && y.span == sp && (match y.hdr with
          | some h => decide (h.base ≤ d.base + d.w) && decide (d.base ≤ h.base + h.w)
          | none => false) then (s, 5)
      else if s.freeEntries ((s.hostCore g.lid sp).getD 0) < d.w + 1 then (s, 4)
      else
        let uid := s.nextId
        let s1 := s.newId
        let hdr := if d.n = 0 then none else some ⟨uid, d.n, d.tag, d.base, d.w, 0, 0⟩
        (join (s1.setLoop { x with hdr := hdr, iters := [], closed := if d.n = 0 then some d.tag else none }) uid, 0)

/-- STLOOP (R354). -/
def execStloop (f : EF) (s : State) : Answer :=
  issue s f.ctl (some .mc) [f.a.toNat] 1 fun s i =>
    let d := loopDesc (s.readG i.gid f.b.toNat) f.imm8.toNat
    if d.n = 0xFFFFFFFF ∨ 63 < d.base + d.w then s.trapAll i 0x30 f.x.toNat
    else
      let r := s.openOrJoin i.gid f.x.toNat d
      r.1.later i.gid i.id .mc (i.lanes.map fun l => .v l f.a.toNat (BitVec.ofNat 32 r.2))

/-! ## STEND (R355, R356) -/

/-- Issues a word that releases what its group's lanes did: once no access of theirs is held in the core (R198, R375). -/
def issueAfterHeld (s : State) (c : Ctl) (ctr : Option Ctr) (names : List Nat) (writes : Nat) (body : State → Iss → State) : Answer :=
  match s.cur with
  | none => .fault .noIssuer
  | some cx =>
    if !(s.taking cx c).isEmpty && s.ms.jobs.any fun j => j.iss.gid == cx.gid then .next s.stall
    else issue s c ctr names writes body

/-- STEND (R356): a request outside the window, or behind another, waits for the hand-out (R349). -/
def execStend (f : EF) (s : State) : Answer :=
  issueAfterHeld s f.ctl none [f.a.toNat] 1 fun s i =>
    if (s.group i.gid).loop.isNone then s.trapAll i 0x31 0
    else
      let s1 := (s.endIter i.gid).modGroup i.gid fun g => { g with hold := true }
      let leave := (s1.leaveLoop i.gid).giveAll i f.a.toNat 0xFFFFFFFF
      if f.flags.getLsbD 0 then leave
      else match s1.openLoop (s1.group i.gid) with
        | none => leave
        | some (x, h) =>
          if h.n ≤ h.next then leave
          else
            let ahead := s1.waits.any fun w => (s1.group w.gid).loop.any (fun p => p.uid == h.uid) && (match w.kind with
              | .stend _ => true
              | _ => false)
            if h.next < h.low + h.w ∧ ahead = false then
              let r := s1.takeIter i.gid x h
              r.1.giveAll i f.a.toNat (BitVec.ofNat 32 r.2)
            else s1.parkFor i.cx i.lanes (.stend f.a.toNat) .iterationHandout

/-- Serves a request that waits in STEND (R349): no iteration is left, or the window admits the next one; none while it does not. -/
def State.handOut (s : State) (w : Wait) (reg : Nat) : Option State :=
  match s.openLoop (s.group w.gid) with
  | none => some (((s.wake w).leaveLoop w.gid).giveV w reg 0xFFFFFFFF)
  | some (x, h) =>
    if h.n ≤ h.next then some (((s.wake w).leaveLoop w.gid).giveV w reg 0xFFFFFFFF)
    else if h.next < h.low + h.w then
      let t := (s.wake w).takeIter w.gid x h
      some (t.1.giveV w reg (BitVec.ofNat 32 t.2))
    else none

/-- The clock in which the lanes of a wait issued their instruction. -/
def State.askedAt (s : State) (w : Wait) : Nat := (s.lane w.gid ((lanesOf w.lanes).headD 0)).since

/-- Whether another request for an iteration of the same loop is to be served first (R349): an earlier one, or of one clock that of the
lower core, sub-core and slot. -/
def State.handOutBehind (s : State) (w : Wait) : Bool :=
  s.waits.any fun v => ((s.group v.gid).loop.map fun p => p.uid) == ((s.group w.gid).loop.map fun p => p.uid) && (match v.kind with
    | .stend _ => decide (s.askedAt v < s.askedAt w) || (s.askedAt v == s.askedAt w && decide (v.gid < w.gid))
    | _ => false)

/-- ITERATION_HANDOUT (R349). -/
def execIterationHandout (r : WaitRef) (s : State) : Answer :=
  match s.wait r.id with
  | none => .next s
  | some w => match w.kind with
    | .stend reg =>
      if s.handOutBehind w then .next (s.send (.iterationHandout r))
      else match s.handOut w reg with
        | some s1 => .next s1
        | none => .next (s.send (.iterationHandout r))
    | _ => .next s

/-! ## STAGE (R357, R358) -/

/-- STAGE (R358). FLAGS: [1:0] MODE, [2] IMMF. Its release comes with the update (log entry 9). -/
def execStage (f : EF) (s : State) : Answer :=
  let mode := f.flags.toNat % 4
  let immf := f.flags.getLsbD 2
  issue s f.ctl none (if mode ≠ 0 && !immf then [f.a.toNat] else []) 0 fun s i =>
    let g := s.group i.gid
    match g.loop, s.openLoop g with
    | some p, some (_, _) => match p.iter with
      | none => s.trapAll i 0x31 0
      | some it =>
        let op := if immf then f.imm8.toNat else (s.readV i.gid i.low 1 f.a.toNat).toNat
        let n := if mode = 0 then p.cur + 1 else if mode = 1 then p.cur + op else op
        if n < p.cur then s.trapAll i 0x32 n
        else if 0xFFFE < n then s.trapAll i 0x33 n
        else
          let s1 := s.modGroup i.gid fun g => { g with loop := some { p with cur := n } }
          s1.send (.stageUpdateVisible ⟨g.lid, s.spanNo g, p.slot, it, n, i.gid, i.id, p.uid⟩)
    | _, _ => s.trapAll i 0x31 0

/-- A stage update of a loop that is still open becomes visible to its waiters (R350, R352). -/
def State.raiseCount (s : State) (u : StageUpdate) : State :=
  let x := s.loopSlot u.lid u.span u.slot
  match x.hdr with
  | none => s
  | some h => if h.uid ≠ u.uid then s else
    let its := x.iters.map fun (e : Nat × StageIter) =>
      if e.1 = entryOf h u.iter ∧ e.2.iter = u.iter ∧ e.2.count ≠ 0xFFFF ∧ e.2.count < u.count then (e.1, { e.2 with count := u.count }) else e
    (s.setLoop { x with iters := its }).stageWake u.lid u.span u.slot

/-- STAGE_UPDATE_VISIBLE (R358): once every access that a lane of the group issued before the STAGE has performed. Updates of one
iteration become visible in issue order. -/
def execStageUpdateVisible (u : StageUpdate) (s : State) : Answer :=
  if s.ms.jobs.any fun j => j.iss.gid == u.gid && decide (j.iss.id < u.id) then .next (s.send (.stageUpdateVisible u))
  else .next ((s.releaseBy u.gid (BitVec.allOnes 32)).raiseCount u)

/-! ## WAITL (R359, R360) -/

/-- WAITL (R360). FLAGS[0] is IMMF. -/
def execWaitl (f : EF) (s : State) : Answer :=
  let immf := f.flags.getLsbD 0
  issue s f.ctl none (if immf then [] else [f.a.toNat]) 0 fun s i =>
    let g := s.group i.gid
    match g.loop, s.openLoop g with
    | some p, some (x, h) => match p.iter with
      | none => s.trapAll i 0x31 0
      | some it =>
        let v := if immf then f.imm8.toNat else (s.readV i.gid i.low 1 f.a.toNat).toNat
        if 0xFFFE < v then s.trapAll i 0x33 v
        else if v < predOf x h it then (s.resumed i.gid).acquireBy i.gid (maskOf i.lanes) .quad
        else
          let s1 := s.park i.cx i.lanes (.waitl v it p.slot h.uid)
          if s.bto g.lid = 0 then s1 else s1.send (.stageWaitTimeOut ⟨i.gid, s.nextId⟩)
    | _, _ => s.trapAll i 0x31 0

/-- STAGE_WAIT_TIME_OUT (R360): the record lists the group that holds the predecessor. -/
def execStageWaitTimeOut (r : WaitRef) (s : State) : Answer :=
  match s.wait r.id with
  | none => .next s
  | some w => match w.kind with
    | .waitl v it k uid =>
      let g := s.group w.gid
      if s.tick - w.t0 < s.bto g.lid then .next (s.send (.stageWaitTimeOut r))
      else
        let info : DWord := BitVec.ofNat 32 it ++ BitVec.ofNat 32 v
        let x := s.loopSlot g.lid (s.spanNo g) k
        let hdr := x.hdr.filter fun h => h.uid == uid
        let holder := match hdr with
          | some h => match x.iters.lookup (entryOf h (it - 1)) with
            | some e => e.holder
            | none => none
          | none => none
        let out := match holder with
          | some gid => s.whereStand (s.group gid).blk fun k _ => k == gid
          | none => []
        let entry := match hdr with
          | some h => entryOf h it
          | none => 0
        let s1 := s.post g.part (s.recHead w.gid 3 0x34 w.cx.pc info) (diagBody (BitVec.ofNat 32 v) entry out) (.lanes w.gid w.lanes)
        .next (s1.timeOut [w] 0x34 info)
    | _ => .next s

end Sys2Proof.Machine
end

