-- ==== Sys2Proof/Machine/Waits.lean ====
section
/-! DEFINITION. WAITC (R223 to R225) with its watchers and time-out, and the range maintenance of CLEAN and INVAL (R226,
R227). -/
namespace Sys2Proof.Machine

/-! ## Conditions (R224) -/

/-- A descriptor's fields. -/
def condOf (d w : DWord) : Cond :=
  ⟨bits d 31 28, bits d 27 24, d.getLsbD 23, bits d 19 0, hi32 d, w, 0, .shared⟩

/-- Whether a descriptor passes its check (R225). -/
def condOk (d : DWord) : Bool :=
  let c := condOf d 0
  bits d 22 20 == 0 && decide (c.kind ≤ 4) && decide (c.cmp ≤ 5) && ((c.kind != 1 && c.kind != 2) || c.cmp == 0)
    && (c.kind == 0 || !c.signed)
    && (match c.kind with
      | 1 => decide (c.index < 16)
      | 3 => decide (c.index < 64)
      | 4 => decide (c.index < 16)
      | _ => c.index == 0)

/-- The memory word of a condition, read at its ordering point as a foreign load (R192, R224, R225); none on an uncorrectable error
(R268). -/
def State.watchedWord (s : State) (c : Cond) : State × Option Word :=
  let line := lineOf c.paddr
  let held := (s.parkOf line).isSome || s.ms.copies.any fun x => x.line == line && x.isLocal && isL2 x.site
  if !held && s.ms.bad.contains line then (s.logError line 1, none)
  else (s.observe c.paddr 4 none, some (BitVec.ofNat 32 (leNat (s.peek c.paddr 4))))

/-- Whether a condition holds now (R224) for a group of a block; none where its word cannot be read. -/
def State.condHolds (s : State) (b : Option Block) (g : Group) (c : Cond) : State × Option Bool :=
  let unsigned (x : Nat) : Bool := Alu.cmpInt c.cmp x c.value.toNat
  match c.kind with
  | 0 => match s.watchedWord c with
    | (s1, none) => (s1, none)
    | (s1, some x) => (s1, some (if c.signed then Alu.cmpInt c.cmp x.toInt c.value.toInt else unsigned x.toNat))
  | 1 =>
    let j := match b with
      | some x => x.joins.getD c.index Join.fresh
      | none => s.join g.blk c.index
    let d := (j.t - c.value).toNat
    (s, some (decide (1 ≤ d) && decide (d ≤ 2 ^ 31)))
  | 2 => (s, some ((match b with
    | some x => x.isFull (c.word1.toNat % 2 ^ 32 / 16)
    | none => false) == c.value.getLsbD 0))
  | 3 =>
    let n := s.stageCount g.lid (s.spanNo g) c.index
    (s, some (unsigned (if n = 0xFFFF then 2 ^ 32 else n)))
  | _ => (s, some (unsigned (match b with
    | some x => x.ccs.getD c.index Cc.fresh
    | none => Cc.fresh).count))

/-- The mask of the conditions that hold, condition 0 lowest, or the address of the first word that cannot be read. -/
def State.satMask (s : State) (b : Option Block) (g : Group) : List Cond → State × Except DWord Nat
  | [] => (s, .ok 0)
  | c :: cs => match s.condHolds b g c with
    | (s1, none) => (s1, .error c.word1)
    | (s1, some h) => match State.satMask s1 b g cs with
      | (s2, .ok m) => (s2, .ok ((if h then 1 else 0) + 2 * m))
      | (s2, .error a) => (s2, .error a)

/-- Whether a WAITC leaves with a mask. -/
def leaves (all : Bool) (n sat : Nat) : Bool := if all then sat == 2 ^ n - 1 else sat != 0

/-! ## Monitors (R225) -/

/-- The ordering-point unit of a word: a home slice, an L2 slice or a channel controller. -/
def State.pointOf (s : State) (c : Cond) : Nat :=
  let line := lineOf c.paddr
  match c.pkind with
  | .shared => s.homeSlice line
  | .local q => 1024 + 8 * q + l2Slice line
  | .ms => 2048 + s.homeSlice line

/-- Takes a monitor for a memory condition while its unit has one free. -/
def State.armMonitor (s : State) (id : Nat) (c : Cond) : State :=
  if c.kind = 0 ∧ (s.ms.monitors.countP fun m => m.1 == s.pointOf c) < 64 then
    { s with ms := { s.ms with monitors := s.ms.monitors ++ [(s.pointOf c, id)] } }
  else s
/-- Arms a wait's watchers: monitors, the reports of what is armed, polls for what has no monitor, and the time-out. -/
def State.armWait (s : State) (r : WaitRef) (conds : List Cond) (limit : Nat) : State :=
  let s1 := conds.foldl (fun s c => s.armMonitor r.id c) s
  let got := (s1.ms.monitors.filter fun m => m.2 == r.id).length
  let words := (conds.filter fun c => c.kind == 0).length
  let s2 := if 0 < got ∨ words < conds.length then s1.send (.watcherReport r) else s1
  let s3 := if got < words then s2.send (.monitorPoll r) else s2
  if limit = 0 then s3 else s3.send (.waitcTimeOut r)

def State.disarm (s : State) (id : Nat) : State :=
  { s with ms := { s.ms with monitors := s.ms.monitors.filter fun m => !(m.2 == id) } }

/-! ## WAITC (R225) -/

/-- The memory words of the conditions, aligned and translated in order (R196); none when one fails. -/
def State.placeConds (s : State) (i : Iss) : List Cond → State × Option (List Cond)
  | [] => (s, some [])
  | c :: cs =>
    if c.kind = 0 then
      if c.word1.toNat % 4 ≠ 0 then (s.trap i.gid i.lanes (i.cx.at_ 0x10 c.word1), none)
      else match s.checkOne i .read c.word1 with
        | (s1, none) => (s1, none)
        | (s1, some (pa, k)) => match State.placeConds s1 i cs with
          | (s2, some l) => (s2, some ({ c with paddr := pa, pkind := k } :: l))
          | (s2, none) => (s2, none)
    else if c.kind = 2 ∧ s.scratchSize (s.group i.gid).blk ≤ c.word1.toNat then (s.trap i.gid i.lanes (i.cx.at_ 0x11 c.word1), none)
    else match State.placeConds s i cs with
      | (s2, some l) => (s2, some (c :: l))
      | (s2, none) => (s2, none)

/-- The acquire of a WAITC that leaves (R225): at block scope where it waits on a join token and its scope is `.core` (R229). -/
def State.waitAcquire (s : State) (gid : Nat) (lanes : LaneMask) (conds : List Cond) (scope : Scope) : State :=
  if conds.any fun c => c.kind == 1 then s.barAcquire gid lanes (s.group gid).blk scope else s.acquireBy gid lanes scope

/-- A memory word on a parked line is recalled before its monitor is armed (R225). -/
def State.recallWords (s : State) (conds : List Cond) : State :=
  conds.foldl (fun s c => if c.kind = 0 then s.recall (lineOf c.paddr) else s) s

/-- WAITC's limit and descriptors, then its first evaluation (R225); a word that cannot be read is a data error of its lanes (R268).
While an earlier access of its lanes is open, the lanes park and the core holds the evaluation (R375). -/
def execWaitc (f : EF) (s : State) : Answer :=
  issue s f.ctl none [f.b.toNat] 1 fun s i =>
    let n := f.x.toNat
    let all := f.flags.getLsbD 0
    let scope := scopeOf f.sc
    let ds := (List.range n).map fun k => (s.readG i.gid (f.a.toNat + 2 * k), s.readG i.gid (f.a.toNat + 2 * k + 1))
    let limit := (s.readG i.gid f.c.toNat).toNat
    match ds.findIdx? fun d => !condOk d.1 with
    | some k => s.trapAll i 0x1B k
    | none => match s.placeConds i (ds.map fun d => condOf d.1 d.2) with
      | (s1, none) => s1
      | (s1, some conds) =>
        if i.lanes.any fun l => s1.heldBack i.gid l i.id then
          (s1.park i.cx i.lanes (.waitc conds all limit f.b.toNat scope)).send (.watcherReport ⟨i.gid, s1.nextId⟩)
        else
        let s2 := s1.recallWords conds
        let g := s2.group i.gid
        match s2.satMask (s2.block g.blk) g conds with
        | (s3, .error a) => s3.trapAll i 0x19 a.toNat
        | (s3, .ok m) =>
          if leaves all n m then (s3.waitAcquire i.gid (maskOf i.lanes) conds scope).giveAll i f.b.toNat (BitVec.ofNat 32 m)
          else (s3.park i.cx i.lanes (.waitc conds all limit f.b.toNat scope)).armWait ⟨i.gid, s3.nextId⟩ conds limit

/-- A parked WAITC leaves with a status. -/
def State.leaveWaitc (s : State) (w : Wait) (conds : List Cond) (reg : Nat) (scope : Scope) (status : Nat) : State :=
  (((s.wake w).disarm w.id).waitAcquire w.gid w.lanes conds scope).giveV w reg (BitVec.ofNat 32 status)

/-- A parked WAITC ends in a data error of its lanes, at its instruction (R268). -/
def State.failWaitc (s : State) (w : Wait) (a : DWord) : State :=
  ((s.wake w).disarm w.id).trap w.gid (lanesOf w.lanes) (w.cx.at_ 0x19 a)

/-- A saved block whose wait has this name. -/
def State.savedWait (s : State) (id : Nat) : Option (Saved × Wait) :=
  s.sched.saved.findSome? fun x => (x.waits.find? fun w => w.id == id).map fun w => (x, w)

/-- A saved span rejoins its list (R335, R337). -/
def State.rejoin (s : State) (b : BlockRef) : State :=
  let n := s.spanOf b.lid
  let l := s.sched.saved.map fun (x : Saved) =>
    if x.block.lid == b.lid && x.block.num / n == b.block / n then { x with onEvent := false } else x
  let s1 : State := { s with sched := { s.sched with saved := l } }
  s1.send (.blockRestore b)

/-- Whether nothing watches the conditions of a wait yet. -/
def State.unarmed (s : State) (r : WaitRef) : Bool :=
  !(s.ms.monitors.any fun m => m.2 == r.id) && !(s.due.any fun i => i == .monitorPoll r || i == .waitcTimeOut r)

/-- Evaluates a WAITC again, parked or saved; `limit` says that its time-out has passed. The core holds the evaluation while an
earlier access of its lanes is open (R375), and then arms its watchers. A saved one only sends its span back to its list (R337). -/
def State.reviewWaitc (s0 : State) (r : WaitRef) (expired : Bool) (again : Instr) : State :=
  match s0.wait r.id with
  | some w => match w.kind with
    | .waitc conds all limit reg scope =>
      if (lanesOf w.lanes).any fun l => s0.heldBack w.gid l w.id then s0.send again
      else
      let first := again == .watcherReport r && s0.unarmed r
      let s := if first then s0.recallWords conds else s0
      let g := s.group w.gid
      match s.satMask (s.block g.blk) g conds with
      | (s1, .error a) => s1.failWaitc w a
      | (s1, .ok m) =>
        if leaves all conds.length m then s1.leaveWaitc w conds reg scope m
        else if expired then s1.leaveWaitc w conds reg scope (m + 16)
        else if first then s1.armWait r conds limit
        else s1.send again
    | _ => s0
  | none => match s0.savedWait r.id with
    | none => s0
    | some (x, w) => match w.kind with
      | .waitc conds all _ _ _ =>
        let g := Map.get Group.fresh x.groups w.gid
        match s0.satMask (some x.block) g conds with
        | (s1, .error _) => s1.rejoin ⟨x.block.lid, x.block.num⟩
        | (s1, .ok m) => if leaves all conds.length m || expired then s1.rejoin ⟨x.block.lid, x.block.num⟩ else s1.send again
      | _ => s0

/-- The reference ticks since a WAITC was armed, with those it spent saved (R225). -/
def State.waited (s : State) (id : Nat) : Nat :=
  match s.wait id with
  | some w => s.tick - w.t0
  | none => match s.savedWait id with
    | some (_, w) => s.tick - w.t0
    | none => 0

/-- The time-out of a WAITC. -/
def State.limitOf (s : State) (id : Nat) : Nat :=
  let f (w : Wait) : Nat := match w.kind with
    | .waitc _ _ l _ _ => l
    | _ => 0
  match s.wait id with
  | some w => f w
  | none => match s.savedWait id with
    | some (_, w) => f w
    | none => 0

/-- WATCHER_REPORT (R225). -/
def execWatcherReport (r : WaitRef) (s : State) : Answer := .next (s.reviewWaitc r false (.watcherReport r))

/-- MONITOR_POLL (R225): a watcher without a monitor reads its word every 256 reference ticks. -/
def execMonitorPoll (r : WaitRef) (s : State) : Answer :=
  if s.waited r.id < 256 ∧ ((s.wait r.id).isSome ∨ (s.savedWait r.id).isSome) then .next (s.send (.monitorPoll r))
  else .next (s.reviewWaitc r false (.monitorPoll r))

/-- WAITC_TIME_OUT (R225). -/
def execWaitcTimeOut (r : WaitRef) (s : State) : Answer :=
  if s.waited r.id < s.limitOf r.id then .next (s.send (.waitcTimeOut r)) else .next (s.reviewWaitc r true (.waitcTimeOut r))

/-! ## CLEAN, INVAL (R226, R227) -/

/-- The lines of a translated range. -/
def linesOf (l : List (Nat × Nat × PageKind)) (stop_ : Nat) : List Nat :=
  l.flatMap fun x =>
    let n := Nat.min ((x.1 / 4096 + 1) * 4096) stop_ - x.1
    (List.range (lineOf (x.2.1 + n - 1) - lineOf x.2.1 + 1)).map fun k => lineOf x.2.1 + k

/-- The accesses by which each lane of CLEAN and INVAL waits for its earlier ones, and names the lines of the range. -/
def rangeAccs (lanes lines : List Nat) : List Acc :=
  lanes.flatMap fun l => accG l 0 0 .shared :: lines.map fun n => { accG l 0 (128 * n) .shared with extra := 1 }

/-- CLEAN or INVAL over [g(A), g(A) + g(B)): the core holds it while an earlier access of its lanes is open (R375). -/
def State.maintain (s : State) (i : Iss) (f : EF) (w : Instr) : State :=
  let a := (s.readG i.gid f.a.toNat).toNat
  let len := Nat.min (s.readG i.gid f.b.toNat).toNat (2 ^ 64 - a)
  if len = 0 then s.leave i w [] (rangeAccs i.lanes [])
  else match s.checkRange i .read a len with
    | (s1, none) => s1
    | (s1, some l) => s1.leave i w [] (rangeAccs i.lanes (linesOf l (a + len)))

/-- CLEAN (R227). -/
def execClean (f : EF) (s : State) : Answer := issue s f.ctl (some .stc) [] 0 fun s i => s.maintain i f (.clean f)
/-- INVAL (R227): as CLEAN, then every copy is dropped. -/
def execInval (f : EF) (s : State) : Answer := issue s f.ctl (some .stc) [] 0 fun s i => s.maintain i f (.inval f)

end Sys2Proof.Machine
end

