-- ==== Sys2Proof/Machine/BankVec.lean ====
section
/-! DEFINITION. Bank vector commands (R261 to R267): MVEC and MVWAIT. -/
namespace Sys2Proof.Machine

/-- A rounding mode of R65 by code. -/
def rmOf (n : Nat) : Rm :=
  match Rm.ofCode n with
  | some m => m
  | none => .rne

/-- MVEC's fields (R261). -/
structure Mvec where
  ty : Ty
  tag : Nat
  op : Nat
  sat : Bool
  rm : Rm
  deriving DecidableEq, Repr

def mvecOf (f : EF) : Mvec :=
  ⟨Ty.ofCode (f.imm8.toNat / 16), f.imm8.toNat / 4 % 4, f.flags.toNat / 16, f.flags.getLsbD 3,
    rmOf (f.flags.toNat % 8)⟩

/-- The source registers in use. -/
def Mvec.sources (m : Mvec) (f : EF) : List Nat :=
  if m.op ≤ 7 then [f.b.toNat, f.c.toNat] else if m.op = 8 then [f.b.toNat] else []

/-- The tag states of a group (R265, R266): 0 while a command runs, and its status afterwards. -/
def Group.tag (g : Group) (t : Nat) : Nat := g.tags.getD t 1
def Group.setTag (g : Group) (t v : Nat) : Group := { g with tags := g.tags.set t v }

/-- Whether two ranges overlap without the same start (R262). -/
def badOverlap (dst src len : Nat) : Bool := decide (dst < src + len) && decide (src < dst + len) && dst != src

/-- The checks of R262: the ranges in place, destination first, or none after a trap. -/
def State.mvecCheck (s : State) (i : Iss) (f : EF) : State × Option (List (List (Nat × Nat × PageKind))) :=
  let m := mvecOf f
  let len := (s.readG i.gid f.x.toNat).toNat
  let dst := (s.readG i.gid f.a.toNat).toNat
  let srcs := (m.sources f).map fun r => (s.readG i.gid r).toNat
  if len = 0 then (s, some [])
  else if len % 32 ≠ 0 ∨ 2 ^ 32 < len ∨ ((dst :: srcs).any fun a => decide (a % 32 ≠ 0)) = true
      ∨ (srcs.any fun a => decide (a % 4096 ≠ dst % 4096)) = true ∨ (srcs.any fun a => badOverlap dst a len) = true then
    (s.trapAll i 0x1C len, none)
  else
    let first := s.checkRange i .engineWrite dst len
    match first.2 with
    | none => (first.1, none)
    | some d => srcs.foldl (fun r a => match r.2 with
      | none => r
      | some l => match r.1.checkRange i .engineRead a len with
        | (s1, some x) => (s1, some (l ++ [x]))
        | (s1, none) => (s1, none)) (first.1, some [d])

/-- The granule steps of a range in place (R263). -/
def stepsOf (stop_ : Nat) (d a b : List (Nat × Nat × PageKind)) : List BankStep :=
  (List.range d.length).map fun k =>
    let x := d.getD k (0, 0, .shared)
    let pa (l : List (Nat × Nat × PageKind)) : Nat := (l.getD k (0, x.2.1, .shared)).2.1
    ⟨k, Nat.min ((x.1 / 4096 + 1) * 4096) stop_ - x.1, x.2.1, pa a, pa b, x.2.2⟩

/-- The channel of a physical address (R250). -/
def State.channel (s : State) (pa : Nat) : Nat := s.homeSlice (lineOf pa)

/-- The placement check (R262): a step's operands are homed on one channel. -/
def State.placed (s : State) (m : Mvec) (st : BankStep) : Bool :=
  (decide (8 < m.op) || s.channel st.a == s.channel st.dst) && (decide (7 < m.op) || s.channel st.b == s.channel st.dst)

/-- MVEC after its checks (R262). -/
def State.mvecGo (s : State) (i : Iss) (f : EF) (ranges : List (List (Nat × Nat × PageKind))) : State :=
  let m := mvecOf f
  let len := (s.readG i.gid f.x.toNat).toNat
  let dst := (s.readG i.gid f.a.toNat).toNat
  let at_ (k : Nat) : List (Nat × Nat × PageKind) := ranges.getD k []
  let steps := stepsOf (dst + len) (at_ 0) (at_ 1) (at_ 2)
  let s1 := s.later i.gid i.id .mc []
  if len = 0 then s1.modGroup i.gid fun g => g.setTag m.tag 1
  else if (steps.any fun st => !s.placed m st) = true then s1.modGroup i.gid fun g => g.setTag m.tag 3
  else
    let cmd : BankCmd := ⟨i.id, i.gid, m.tag, m.op, m.ty, m.rm, m.sat, s.readG i.gid f.c.toNat, steps, false, (s.group i.gid).lid⟩
    let s2 := s1.modGroup i.gid fun g => g.setTag m.tag 0
    let s3 : State := { s2 with ms := { s2.ms with bank := s2.ms.bank ++ [cmd] } }
    steps.foldl (fun s st => s.send (.granuleStep i.id st.num)) s3

/-- MVEC (R262): once its checks pass, issue holds while its tag's previous command runs. -/
def execMvec (f : EF) (s : State) : Answer :=
  match s.cur with
  | none => .fault .noIssuer
  | some cx =>
    let ls := s.taking cx f.ctl
    let i : Iss := ⟨cx, s.nextId, ls⟩
    if !ls.isEmpty && (s.group cx.gid).tag (mvecOf f).tag == 0 && (s.mvecCheck i f).2.isSome then .next s.stall
    else issue s f.ctl (some .mc) [] 0 fun s i => match s.mvecCheck i f with
      | (s1, none) => s1
      | (s1, some l) => s1.mvecGo i f l

/-! ## MVWAIT (R265) -/

/-- The status a wait on a tag, or on every tag, returns; none while a command runs. -/
def Group.mvStatus (g : Group) (tag : Option Nat) : Option Nat :=
  let l := match tag with
    | some t => [g.tag t]
    | none => (List.range 4).map g.tag
  if l.contains 0 then none else some (l.foldl Nat.lor 0)

/-- Releases the MVWAITs of a group whose commands have completed. -/
def State.mvWake (s : State) (gid : Nat) : State :=
  s.waits.foldl (fun s w => match w.kind with
    | .mvwait tag reg scope =>
      if w.gid = gid then match (s.group gid).mvStatus tag with
        | some st => ((s.wake w).acquireBy gid w.lanes scope).giveV w reg (BitVec.ofNat 32 st)
        | none => s
      else s
    | _ => s) s

/-- MVWAIT (R265). -/
def execMvwait (f : EF) (s : State) : Answer :=
  issue s f.ctl none [f.a.toNat] 1 fun s i =>
    let tag := if f.flags.getLsbD 0 then none else some f.x.toNat
    match (s.group i.gid).mvStatus tag with
    | some st => ((s.resumed i.gid).acquireBy i.gid (maskOf i.lanes) (scopeOf f.sc)).giveAll i f.a.toNat (BitVec.ofNat 32 st)
    | none => s.park i.cx i.lanes (.mvwait tag f.a.toNat (scopeOf f.sc))

end Sys2Proof.Machine
end

