-- ==== Sys2Proof/Machine/Tensor.lean ====
section
/-! DEFINITION. Tensor identifier entries (R273 to R276): their fields, their validity, where an element lies; TIDLD and
TIDINV (R277, R278). -/
namespace Sys2Proof.Machine

/-- An entry's fields (R273). -/
structure Tensor where
  base : Nat
  rscale : Nat
  cscale : Nat
  dims : List Nat
  strides : List Nat
  ctrl : Nat
  deriving DecidableEq, Repr

def tensorOf (bs : List Byte) : Tensor :=
  ⟨fieldAt bs 0 8, fieldAt bs 8 8, fieldAt bs 16 8, (List.range 5).map fun k => fieldAt bs (24 + 4 * k) 4,
    (List.range 4).map fun k => fieldAt bs (44 + 4 * k) 4, fieldAt bs 60 4⟩

def Tensor.fmt (t : Tensor) : Nat := t.ctrl % 16
def Tensor.ndim (t : Tensor) : Nat := t.ctrl / 16 % 8
def Tensor.scratch (t : Tensor) : Bool := t.ctrl / 128 % 2 == 1
def Tensor.swz (t : Tensor) : Nat := t.ctrl / 256 % 8
def Tensor.dim (t : Tensor) (k : Nat) : Nat := t.dims.getD k 0
/-- STRIDEk, k from 1. -/
def Tensor.stride (t : Tensor) (k : Nat) : Nat := t.strides.getD (k - 1) 0

/-- A valid entry (R274). -/
def Tensor.valid (t : Tensor) : Bool :=
  decide (t.fmt ≤ 6) && decide (1 ≤ t.ndim) && decide (t.ndim ≤ 5) && decide (t.swz ≤ 2) && t.ctrl / 2 ^ 11 == 0
    && ((List.range 5).all fun k => if k < t.ndim then decide (1 ≤ t.dim k) else t.dim k == 0)
    && ((List.range 4).all fun k => decide (k + 1 < t.ndim) || t.stride (k + 1) == 0)
    && (!t.scratch || (decide (t.base < 2 ^ 32) && decide (t.rscale < 2 ^ 32) && decide (t.cscale < 2 ^ 32)))
    && (t.swz == 0 || (decide (2 ≤ t.ndim) && t.stride 1 % 128 == 0))
    && (t.fmt != 5 || t.dim 0 % 32 == 0)

/-- An entry as a launch holds it: its bytes when valid, else none. -/
def entryOfBytes (bs : List Byte) : TensorEntry := if (tensorOf bs).valid then some bs else none

/-- Bits of an element in memory. -/
def Tensor.bits (t : Tensor) : Nat :=
  match t.fmt with
  | 0 => 32 | 1 => 16 | 2 => 16 | 5 => 4 | _ => 8

/-- Whether an element lies within the dimensions (R275). -/
def Tensor.inside (t : Tensor) (c : List Nat) : Bool := (List.range t.ndim).all fun k => decide (c.getD k 0 < t.dim k)

/-- An element's byte offset from BASE (R275). -/
def Tensor.off (t : Tensor) (c : List Nat) : Nat :=
  let off := c.getD 0 0 * t.bits / 8 + ((List.range 4).map fun k => c.getD (k + 1) 0 * t.stride (k + 1)).sum
  match t.swz with
  | 1 => Nat.xor off (c.getD 1 0 % 8 * 16)
  | 2 => Nat.xor off (c.getD 1 0 % 4 * 16)
  | _ => off
/-- An element's address, a scratchpad offset when SPACE is 1. -/
def Tensor.addr (t : Tensor) (c : List Nat) : Nat := t.base + t.off c

/-- An entry of a launch's table (R273). -/
def State.tensor (s : State) (lid id : Nat) : TensorEntry :=
  match s.launch lid with
  | some x => match x.tids.lookup id with
    | some e => e
    | none => none
  | none => none
/-- The entries that a copy taken now may use (R277): the one that stands, or one whose TIDLD or TIDINV is on its way. -/
def State.tensorCopy (s : State) (lid id : Nat) : TensorEntry :=
  let l := s.tensor lid id :: s.after.filterMap fun x => match x.kind with
    | .tid lid' k e => if lid' = lid ∧ k = id then some e else none
    | .sent _ _ | .place _ _ | .inv _ _ _ _ _ _ | .sync _ => none
  l.getD (s.pick (6291456 + id) l.length) none
def State.setTensor (s : State) (lid id : Nat) (e : TensorEntry) : State :=
  s.modLaunch lid fun x => { x with tids := x.tids.filter (fun y => !(y.1 == id)) ++ [(id, e)] }

/-- An effect that the return of an instruction's result completes. -/
def State.whenDone (s : State) (id : Nat) (k : AfterKind) : State := { s with after := s.after ++ [⟨id, k⟩] }

/-- TIDLD (R277, R278): the entry changes when the word completes; an entry that cannot be read is invalid. -/
def execTidld (f : EF) (s : State) : Answer :=
  issue s f.ctl (some .mc) [] 0 fun s i =>
    let a := s.readG i.gid f.a.toNat
    if a.toNat % 64 ≠ 0 then s.trap i.gid i.lanes (i.cx.at_ 0x10 a)
    else match s.checkOne i .read a with
      | (s1, none) => s1
      | (s1, some (pa, k)) =>
        let r := s1.engineRead (lineOf pa) (pa % 128) 64 k
        let e := match r.2 with
          | some d => entryOfBytes (bytesOf d (pa % 128) 64)
          | none => none
        (r.1.whenDone i.id (.tid (s.group i.gid).lid f.imm8.toNat e)).later i.gid i.id .mc []

/-- TIDINV (R278). -/
def execTidinv (f : EF) (s : State) : Answer :=
  issue s f.ctl (some .mc) [] 0 fun s i => (s.whenDone i.id (.tid (s.group i.gid).lid f.imm8.toNat none)).later i.gid i.id .mc []

end Sys2Proof.Machine
end

