-- ==== Sys2Proof/Machine/MatVal.lean ====
section
/-! DEFINITION. What the matrix engine computes (R84 to R88, R279 to R282, R294, R297): operand images, the chunk sum and
the output conversion. -/
namespace Sys2Proof.Machine.Mat

/-- Registers of the 32 lanes as an operation read them: at 256·lane + register. -/
abbrev Regs := List (Nat × Word)
def reg (m : Regs) (lane r : Nat) : Nat := ((m.lookup (256 * lane + r)).getD 0).toNat

/-- Element `k` of `w` bits of a 2,048-byte image at vN (R279). -/
def elem (m : Regs) (n w k : Nat) : Nat :=
  let bit := w * k
  let byte := bit / 8
  reg m (byte / 64) (n + byte % 64 / 4) / 2 ^ (byte % 4 * 8 + bit % 8) % 2 ^ w
/-- Byte `k` of the 128-byte image at vN (R279). -/
def scaleByte (m : Regs) (n k : Nat) : Nat := reg m (k / 4) n / 2 ^ (k % 4 * 8) % 256

/-- ETYPE (R293): the formats of A and B, the bits of an element and K. -/
structure EType where
  a : Fmt
  b : Fmt
  bits : Nat
  k : Nat
  deriving DecidableEq, Repr

def etype : Nat → EType
  | 0 => ⟨.e4m3, .e4m3, 8, 32⟩
  | 1 => ⟨.e4m3, .e5m2, 8, 32⟩
  | 2 => ⟨.e5m2, .e4m3, 8, 32⟩
  | 3 => ⟨.e5m2, .e5m2, 8, 32⟩
  | 4 => ⟨.bf16, .bf16, 16, 16⟩
  | 5 => ⟨.f16, .f16, 16, 16⟩
  | 6 => ⟨.e4m3, .e4m3, 8, 32⟩
  | _ => ⟨.e2m1, .e2m1, 4, 64⟩

/-- The FMT that B's tensor must have (R287). -/
def bFmt : Nat → Nat
  | 0 => 3 | 1 => 4 | 2 => 3 | 3 => 4 | 4 => 1 | 5 => 2 | 6 => 6 | _ => 5

/-- MMA's fields (R293). -/
structure Mma where
  a : Nat
  b : Nat
  handle : Nat
  join : Nat
  tid : Nat
  ks : Bool
  bsrc : Bool
  tb : Bool
  ta : Bool
  ety : Nat
  deriving DecidableEq, Repr

def mmaOf (f : EF) : Mma :=
  ⟨f.a.toNat, f.b.toNat, f.c.toNat % 16, f.x.toNat % 16, f.imm8.toNat, f.flags.getLsbD 6, f.flags.getLsbD 5, f.flags.getLsbD 4,
    f.flags.getLsbD 3, f.flags.toNat % 8⟩

/-- The k-scale register (R281). -/
def Mma.kReg (m : Mma) : Nat := m.a + (if m.ety = 7 then 17 else 16)

/-- The registers an MMA reads, with the bits of their elements (R280, R281, R289). -/
def Mma.regs (m : Mma) : List (Nat × Nat) :=
  let w := (etype m.ety).bits
  ((List.range 16).map fun k => (m.a + k, w)) ++ (if m.ety = 7 then [(m.a + 16, 8)] else [])
    ++ (if m.ks then [(m.kReg, 8)] else [])
    ++ (if m.bsrc then [] else ((List.range 16).map fun k => (m.b + k, w)) ++ (if m.ety = 7 then [(m.b + 16, 8)] else []))

/-- Element (k, j) of B as the tensor's coordinates (R282). -/
def Mma.bAt (m : Mma) (s0 s1 k j : Nat) : List Nat := if m.tb then [s0 + k, s1 + j] else [s0 + j, s1 + k]

/-- The scratchpad offset of B's row scale for k, none for 2^0 (R282). -/
def Mma.rowScaleAt (m : Mma) (t : Tensor) (s0 s1 k : Nat) : Option Nat :=
  if !m.ks || m.ety == 7 then none
  else if m.tb then (if t.cscale ≠ 0 ∧ s0 + k < t.dim 0 then some (t.cscale + (s0 + k)) else none)
  else (if t.rscale ≠ 0 ∧ s1 + k < t.dim 1 then some (t.rscale + (s1 + k)) else none)
/-- The scratchpad offset of block scale b of column j, none for 2^0 (R276, R282). -/
def Mma.blockScaleAt (m : Mma) (t : Tensor) (s0 s1 b j : Nat) : Option Nat :=
  if m.ety = 7 ∧ t.cscale ≠ 0 ∧ s1 + j < t.dim 1 ∧ s0 + 32 * b < t.dim 0 then
    some (t.cscale + (s1 + j) * (t.dim 0 / 32) + (s0 / 32 + b)) else none

/-- The elements of a tensor operand B that lie in the scratchpad, as offset and length in bytes (R282, R287). -/
def Mma.tileRead (m : Mma) (t : Tensor) (s0 s1 : Nat) : List (Nat × Nat) :=
  (List.range (etype m.ety).k).flatMap fun k => (List.range 64).filterMap fun j =>
    let c := m.bAt s0 s1 k j
    if t.inside c then some (t.addr c, Nat.max 1 (t.bits / 8)) else none
/-- Its scale bytes (R276, R282, R287). -/
def Mma.scaleRead (m : Mma) (t : Tensor) (s0 s1 : Nat) : List (Nat × Nat) :=
  let n := (etype m.ety).k
  ((List.range n).filterMap fun k => (m.rowScaleAt t s0 s1 k).map fun o => (o, 1))
    ++ ((List.range (n / 32)).flatMap fun b => (List.range 64).filterMap fun j => (m.blockScaleAt t s0 s1 b j).map fun o => (o, 1))

/-- Where B comes from: the register image, or a tensor in a scratchpad that reads as `rd`. -/
structure BSrc where
  t : Option Tensor
  s0 : Nat
  s1 : Nat
  rd : Nat → Nat

/-- Bits of A(i, k) and B(k, j) (R280, R282). -/
def Mma.aBits (m : Mma) (r : Regs) (i k : Nat) : Nat :=
  let e := etype m.ety
  elem r m.a e.bits (if m.ta then k * 64 + i else i * e.k + k)
def Mma.bBits (m : Mma) (r : Regs) (b : BSrc) (k j : Nat) : Nat :=
  let e := etype m.ety
  match b.t with
  | none => elem r m.b e.bits (if m.tb then j * e.k + k else k * 64 + j)
  | some t =>
    let c := m.bAt b.s0 b.s1 k j
    if !t.inside c then 0
    else
      let a := t.addr c
      if e.bits = 16 then b.rd a + 256 * b.rd (a + 1)
      else if e.bits = 4 then b.rd a / 2 ^ (4 * (c.getD 0 0 % 2)) % 16
      else b.rd a

/-- The reduction-index scale of index k (R84, R85, R281, R282). -/
def Mma.kScale (m : Mma) (r : Regs) (b : BSrc) (k : Nat) : Fl :=
  let x := if m.ks then scaleByte r m.kReg k else 127
  let y := match b.t with
    | none => if m.ks then scaleByte r m.kReg (64 + k) else 127
    | some t => match m.rowScaleAt t b.s0 b.s1 k with
      | some o => b.rd o
      | none => 127
  Fl.mul (Fl.ofScale x) (Fl.ofScale y)
/-- The block scales of MXFP4 (R281, R282). -/
def Mma.blockScale (m : Mma) (r : Regs) (b : BSrc) (i k j : Nat) : Fl :=
  if m.ety ≠ 7 then Fl.ofScale 127
  else
    let x := scaleByte r (m.a + 16) (2 * i + k / 32)
    let y := match b.t with
      | none => scaleByte r (m.b + 16) (2 * j + k / 32)
      | some t => match m.blockScaleAt t b.s0 b.s1 (k / 32) j with
        | some o => b.rd o
        | none => 127
    Fl.mul (Fl.ofScale x) (Fl.ofScale y)

/-- floor(log2 |p|) of a nonzero finite product. -/
def expOf : Fl → Option Int
  | .fin _ m e => if m = 0 then none else some (e + (Nat.log2 m : Nat))
  | .nan => none
  | .inf _ => none

/-- The truncated product as a multiple of 2^q (R87). -/
def truncTo (q : Int) : Fl → Int
  | .fin n m e =>
    let k : Int := if q ≤ e then (m : Int) * 2 ^ (e - q).toNat else ((m / 2 ^ (q - e).toNat : Nat) : Int)
    if n then -k else k
  | .nan => 0
  | .inf _ => 0

/-- The chunk sum s of R87. -/
def chunkSum (ps : List Fl) : Fl :=
  let infs := ps.filter fun p => match p with
    | .inf _ => true
    | .nan => false
    | .fin _ _ _ => false
  if ps.any Fl.isNan then .nan
  else if (infs.any fun p => p.sign) && (infs.any fun p => !p.sign) then .nan
  else match infs with
    | p :: _ => p
    | [] => match ps.filterMap expOf with
      | [] => Fl.zero (ps.all fun p => p.sign)
      | x :: xs =>
        let q := xs.foldl (fun a b => if a < b then b else a) x - 34
        let z := (ps.map (truncTo q)).foldl (fun a b => a + b) 0
        if z = 0 then Fl.zero false else .fin (decide (z < 0)) z.natAbs q

/-- One output element after an MMA (R86 to R88, R294). -/
def Mma.out (m : Mma) (r : Regs) (b : BSrc) (acc : Word) (i j : Nat) : Word :=
  let e := etype m.ety
  if m.ety = 6 then
    let s8 (x : Nat) : Int := (BitVec.ofNat 8 x).toInt
    let sum := ((List.range e.k).map fun k => s8 (m.aBits r i k) * s8 (m.bBits r b k j)).foldl (fun x y => x + y) 0
    BitVec.ofInt 32 (acc.toInt + sum)
  else
    let p (k : Nat) : Fl :=
      Fl.mul (Fl.mul (Fl.ofBits e.a (m.aBits r i k)) (Fl.ofBits e.b (m.bBits r b k j))) (Fl.mul (m.kScale r b k) (m.blockScale r b i k j))
    let chunk := if m.ety = 4 ∨ m.ety = 5 then 16 else 32
    (List.range (e.k / chunk)).foldl (fun acc c =>
      let s := chunkSum ((List.range chunk).map fun k => p (chunk * c + k))
      BitVec.ofNat 32 (Fl.place .f32 .rne false (Fl.add .rne (Fl.ofBits .f32 acc.toNat) s))) acc

/-- The output conversion of R297: `os` is the outer-scale register. -/
structure Conv where
  ty : Ty
  rm : Rm
  sat : Bool
  os : Option Nat
  deriving DecidableEq, Repr

def Conv.out (c : Conv) (r : Regs) (i32 : Bool) (acc : Word) (i j : Nat) : Nat :=
  if i32 then
    if c.ty == .i8 then
      let x := acc.toInt
      (BitVec.ofInt 8 (if c.sat then Alu.clampInt .i8 x else x)).toNat
    else acc.toNat
  else
    let x := match c.os with
      | some n => Fl.mul (Fl.ofScale (scaleByte r n i)) (Fl.ofScale (scaleByte r n (64 + j)))
      | none => Fl.ofScale 127
    Fl.place (Ty.fmt c.ty) c.rm c.sat (Fl.mul (Fl.ofBits .f32 acc.toNat) x)

/-- The types that R298 admits for a kind. -/
def admits (i32 : Bool) (t : Ty) : Bool :=
  if i32 then t == .i32 || t == .i8 else t == .f32 || t == .bf16 || t == .f16 || t == .e4m3 || t == .e5m2

/-- The output type of a tensor's FMT (R301); none for `mxfp4`. -/
def fmtTy : Nat → Option Ty
  | 0 => some .f32 | 1 => some .bf16 | 2 => some .f16 | 3 => some .e4m3 | 4 => some .e5m2 | 6 => some .i8 | _ => none

end Sys2Proof.Machine.Mat
end

