-- ==== Sys2Proof/Machine/Matrix.lean ====
section
/-! DEFINITION. The matrix engine's instructions and events (R271 to R305): accumulators, signing, operations, MWAIT and the
tile queue. -/
namespace Sys2Proof.Machine
open Sys2Proof.Machine.Mat

/-! ## Accumulators (R283 to R285) -/

/-- The slot bound to a handle of a group. -/
def Group.slotOf (g : Group) (h : Nat) : Option Nat :=
  match Map.get 0 g.acc h with
  | 0 => none
  | n + 1 => some n
def State.accSlot (s : State) (sub slot : Nat) : AccSlot :=
  match s.eng.accs.find? fun a => a.sub == sub && a.slot == slot with
  | some a => a
  | none => ⟨sub, slot, false, false, []⟩
def State.setAcc (s : State) (a : AccSlot) : State :=
  { s with eng := { s.eng with accs := s.eng.accs.filter (fun b => !(b.sub == a.sub && b.slot == a.slot)) ++ [a] } }

/-- Whether a handle can be bound or written with a kind: the trap of R283 or R284 otherwise. -/
def State.bindTrap (s : State) (gid h : Nat) (i32 : Bool) : Option (Nat × Nat) :=
  match (s.group gid).slotOf h with
  | some k => if (s.accSlot (subKey gid) k).i32 = i32 then none else some (0x21, h)
  | none => if (List.range 8).all fun k => (s.accSlot (subKey gid) k).bound then some (0x23, h) else none

/-- Binds a handle to the lowest free slot where it is not bound (R283): the state and the slot. -/
def State.bindAcc (s : State) (gid h : Nat) (i32 : Bool) : State × Nat :=
  match (s.group gid).slotOf h with
  | some k => (s, k)
  | none =>
    let k := ((List.range 8).filter fun k => !(s.accSlot (subKey gid) k).bound).headD 0
    ((s.setAcc ⟨subKey gid, k, true, i32, []⟩).modGroup gid fun g => { g with acc := Map.set 0 g.acc h (k + 1) }, k)

/-- The open phases of a sub-core's blocks. -/
def State.phases (s : State) : List Phase := s.blocks.flatMap fun b => b.joins.filterMap fun j => j.phase

/-- Slots of a group's sub-core that no handle names and no operation or phase uses rejoin the free list (R284, R285); where some
block waits for a place, a placement pass follows (R333). -/
def State.freeSlots (s : State) (gid : Nat) : State :=
  let sub := subKey gid
  let held (k : Nat) : Bool :=
    (s.groups.any fun x => subKey x.1 == sub && x.2.acc.any fun h => h.2 == k + 1)
      || (s.eng.mat.any fun o => o.sub == sub && o.slot == k) || (s.phases.any fun p => subKey p.gid == sub && p.slot == k)
  let l := s.eng.accs.map fun (a : AccSlot) => if a.sub == sub && !held a.slot then { a with bound := false } else a
  let s1 : State := { s with eng := { s.eng with accs := l } }
  if l = s.eng.accs ∨ (s.sched.waiting = [] ∧ s.sched.saved = []) then s1 else s1.send (.blockRetire (s.group gid).blk)

def ef4 (f : EF) : Nat := f.c.toNat % 16

/-- ACCREL (R285). -/
def execAccrel (f : EF) (s : State) : Answer :=
  issue s f.ctl none [] 0 fun s i =>
    (s.modGroup i.gid fun g => { g with acc := Map.set 0 g.acc (ef4 f) 0 }).freeSlots i.gid

/-! ## Register operands (R288, R289) -/

/-- The registers an operation reads, with the bits of their elements. -/
def MatKind.regs : MatKind → List (Nat × Nat)
  | .mma w _ _ _ => (mmaOf w).regs
  | .accz _ => []
  | .accld w => (List.range 16).map fun k => (w.a.toNat + k, 32)
  | .accmv w => if w.x.getLsbD 0 then [(w.b.toNat, 8)] else []
  | .accst w _ _ _ _ => if w.x.getLsbD 0 then [(w.b.toNat, 8)] else []
  | .mmq w _ => if w.x.getLsbD 0 then [(w.b.toNat, 8)] else []

/-- A lane's registers as the engine may read them now, under the keys of `snap`: its own reads, or what it supplies as a helper
(R103, R288). -/
def State.snapLane (s : State) (gid lane : Nat) (own : Bool) (regs : List (Nat × Nat)) : List (Nat × Word) :=
  regs.map fun r => (256 * lane + r.1, if own then s.readV gid lane 3 r.1 else s.helperV gid lane 3 r.1)

/-- One register as the engine reads it: each element of `w` bits as one of the values that the register held in the window. -/
def State.mixReg (s : State) (key w : Nat) (vals : List Word) : Word :=
  (List.range (32 / w)).foldl (fun a e =>
    mixWord w (fun k => k == e) a (vals.getD (s.pick (4194304 + 8 * key + e) vals.length) 0)) 0

/-- The values that a register of a lane has held since a number (R289): those that later writes replaced, the one it holds, and
those that outstanding results will leave. A helper with an open access shows none of them (R375). -/
def State.valuesSince (s : State) (o : MatOp) (lane r : Nat) : List Word :=
  if !o.own.getLsbD lane && s.laneOpen o.gid lane then []
  else
    let x := s.lane o.gid lane
    let from_ := (o.opened.lookup lane).getD 0
    (x.olds.filterMap fun y => if from_ ≤ y.1 ∧ y.2.1 = r then some y.2.2 else none) ++ x.vReg r :: (s.pendingV o.gid lane r).map fun y => y.2

/-- The registers of an operation at the end of its fetch. -/
def State.fetchRegs (s : State) (o : MatOp) : List (Nat × Word) :=
  (MatKind.regs o.kind).flatMap fun r => (List.range 32).map fun l =>
    let key := 256 * l + r.1
    (key, s.mixReg key r.2 ((o.snap.lookup key).toList ++ s.valuesSince o l r.1))

/-! ## Tensor operands in the scratchpad (R290) -/

/-- Scratchpad bytes before a write. -/
def Former.undo (f : Former) (off : Nat) (bs : List Byte) : List Byte :=
  ((List.range bs.length).zip bs).map fun x => if f.off ≤ off + x.1 then f.bytes.getD (off + x.1 - f.off) x.2 else x.2

/-- Whether an OPFENCE orders a write before a fetch (R290; log entry 22): the fencing lane's own, and one that its writer had released
when the fencing lane last acquired. -/
def Former.ordered (gid : Nat) (seen : List Fence) (f : Former) : Bool :=
  seen.any fun x => (f.who == some (gid, x.lane) && decide (f.num < x.own)) || (match f.rel with
    | some r => decide (r ≤ x.acq)
    | none => false)

/-- The bytes that a read by a group's operation may find (R290): those that stand, and those before each write, latest first, that no
OPFENCE of a lane that signed orders before it. -/
def Block.versions (b : Block) (gid : Nat) (seen : List Fence) (off n : Nat) : List (List Byte) :=
  (b.former.foldl (fun (r : List Byte × List (List Byte)) f =>
    if f.ordered gid seen = true ∨ off + n ≤ f.off ∨ f.off + f.bytes.length ≤ off then r else (f.undo off r.1, r.2 ++ [f.undo off r.1]))
    (b.readB off n, [b.readB off n])).2

/-- One element of a tensor operand, whole: a version of its bytes, for a 4-bit format of each nibble. -/
def State.fetchElem (s : State) (o : MatOp) (nibbles : Bool) (x : Nat × Nat) : List (Nat × Word) :=
  let vs := match s.block o.blk with
    | some b => b.versions o.gid o.seen x.1 x.2
    | none => []
  let at_ (e : Nat) : List Byte := vs.getD (s.pick (2 ^ 33 + 2 * x.1 + e) vs.length) []
  (List.range x.2).map fun k =>
    let lo := (at_ 0).getD k 0
    (8192 + x.1 + k, (if nibbles then (lo &&& 0x0F) ||| ((at_ 1).getD k 0 &&& 0xF0) else lo).zeroExtend 32)

/-- The scratchpad bytes of a tensor operand at the end of the fetch (R290). -/
def State.fetchTensor (s : State) (o : MatOp) : List (Nat × Word) :=
  match o.kind with
  | .mma w (some bs) s0 s1 =>
    let m := mmaOf w
    ((m.tileRead (tensorOf bs) s0 s1).flatMap fun x => s.fetchElem o (m.ety == 7) x)
      ++ (m.scaleRead (tensorOf bs) s0 s1).flatMap fun x => s.fetchElem o false x
  | .mma _ none _ _ | .accz _ | .accld _ | .accmv _ | .accst _ _ _ _ _ | .mmq _ _ => []

/-! ## Starting operations (R272) -/

def State.matOp (s : State) (id : Nat) : Option MatOp := s.eng.mat.find? fun o => o.id == id
def State.modOp (s : State) (id : Nat) (f : MatOp → MatOp) : State :=
  { s with eng := { s.eng with mat := s.eng.mat.map fun o => if o.id == id then f o else o } }

/-- A group-wide operation becomes ready at issue (R272). -/
def State.startOp (s : State) (i : Iss) (h slot : Nat) (kind : MatKind) (mc : Bool) : State :=
  (if mc then s.bump i.gid .mc else s).queueOp
    { id := i.id, sub := subKey i.gid, gid := i.gid, handle := h, slot := slot, kind := kind, ready := s.clock,
      slotB := s.cycle.slotB, started := false, fetched := false, snap := [], mc := mc, signers := i.cx.mask, own := maskOf i.lanes, opened := [], seen := [], blk := (s.group i.gid).blk }

/-- Whether the engine of an operation is still held by an earlier one, or has one to start before it (R272). DESIGN CHOICE (log entry
74): the occupancy of an operation ends at some moment after its operand fetch, at its completion or before. -/
def State.engineHeld (s : State) (o : MatOp) : Bool :=
  (s.eng.mat.takeWhile fun x => x.id != o.id).any fun x => x.sub == o.sub && !x.fetched

/-- MATRIX_OP_START (R272, R288): the next ready operation of a free engine; its window opens for every lane that has not
signed. -/
def execMatrixOpStart (op : Nat) (s : State) : Answer :=
  match s.matOp op with
  | none => .next s
  | some o =>
    if s.engineHeld o then .next (s.send (.matrixOpStart op))
    else
      let new := (List.range 32).filter fun l => (o.opened.lookup l).isNone
      let snap := new.flatMap fun l => s.snapLane o.gid l (o.own.getLsbD l) (MatKind.regs o.kind)
      .next (((s.newId).modOp op fun o => { o with started := true, snap := o.snap ++ snap, opened := o.opened ++ new.map fun l => (l, s.nextId + 1) }).send
        (.operandFetchEnd op))

/-! ## MWAIT (R292) -/

/-- Whether an operation that a lane waits on is still outstanding. -/
def State.opOutstanding (s : State) (acc : Bool) (id : Nat) : Bool :=
  (s.phases.any fun p => p.op == id) || s.eng.mat.any fun o => o.id == id && (acc || !o.fetched)

/-- Releases the MWAITs whose operations are done. -/
def State.mwaitWake (s : State) : State :=
  s.waits.foldl (fun s w => match w.kind with
    | .mwait ops acc scope =>
      if ops.any fun o => s.opOutstanding acc o then s
      else if acc then (s.wake w).acquireBy w.gid w.lanes scope
      else s.wake w
    | _ => s) s

/-- MWAIT's fields (R291). -/
def mwaitScope (f : EF) : Scope := scopeOf (f.flags.extractLsb' 2 3)

/-- The open phases of a block's join registers, by register. -/
def State.openPhases (s : State) (b : BlockRef) : List (Nat × Phase) :=
  (List.range 16).filterMap fun j => (s.join b j).phase.map fun p => (j, p)

/-- The operations a lane waits on (R292). -/
def State.waitsOn (s : State) (gid lane : Nat) (f : EF) : List Nat :=
  let all := f.flags.getLsbD 1
  let ps := (s.openPhases (s.group gid).blk).filter fun x =>
    x.2.gid == gid && x.2.signers.getLsbD lane && (all || x.2.word.c.toNat % 16 == ef4 f)
  let ops := s.eng.mat.filter fun o => o.gid == gid && o.signers.getLsbD lane && (all || o.handle == ef4 f)
  (ps.map fun x => x.2.op) ++ ops.map fun o => o.id

/-- The first open phase among the operations that a lane waits on, with its join register (R292). -/
def State.openOf (s : State) (gid : Nat) (ops : List Nat) : Option (Nat × Phase) :=
  (s.openPhases (s.group gid).blk).find? fun x => x.2.gid == gid && ops.contains x.2.op

/-- MWAIT of one lane: on a handle that is not bound it does nothing (R283). -/
def State.mwaitLane (s : State) (i : Iss) (f : EF) (lane : Nat) : State :=
  let acc := f.flags.getLsbD 0
  let ops := (s.waitsOn i.gid lane f).filter fun o => s.opOutstanding acc o
  if !f.flags.getLsbD 1 && ((s.group i.gid).slotOf (ef4 f)).isNone then s
  else if ops = [] then
    let s1 := s.resumed i.gid
    if acc then s1.acquireBy i.gid (maskOf i.lanes) (mwaitScope f) else s1
  else
    let s1 := s.park i.cx [lane] (.mwait ops acc (mwaitScope f))
    if (s.openOf i.gid ops).isSome ∧ s.bto (s.group i.gid).lid ≠ 0 then s1.send (.matrixSignTimeOut ⟨i.gid, s.nextId⟩) else s1

/-- MWAIT (R292). -/
def execMwait (f : EF) (s : State) : Answer :=
  issue s f.ctl none [] 0 fun s i => eachLane s i.lanes fun s l => s.mwaitLane i f l

/-- MATRIX_SIGN_TIME_OUT (R292): while a phase that the lane signed is open. Of several, the trap and its record name the one of
the lowest join register (DESIGN CHOICE, log entry 74). -/
def execMatrixSignTimeOut (r : WaitRef) (s : State) : Answer :=
  match s.wait r.id with
  | none => .next s
  | some w => match w.kind with
    | .mwait ops _ _ =>
      let g := s.group w.gid
      match s.openOf w.gid ops with
      | none => .next s
      | some (j, p) =>
        if s.tick - w.t0 < s.bto g.lid then .next (s.send (.matrixSignTimeOut r))
        else
          let out := s.whereStand g.blk fun gid l => gid == p.gid && !p.signers.getLsbD l
          let s1 := s.post g.part (s.recHead w.gid 3 0x25 w.cx.pc (BitVec.ofNat 64 j)) (diagBody (s.join g.blk j).t j out) (.lanes w.gid w.lanes)
          .next (s1.timeOut [w] 0x25 (BitVec.ofNat 64 j))
    | _ => .next s

/-! ## MMA (R286, R287, R293, R294) -/

/-- The first register of an image that a group may not name (R287). -/
def State.imageTrap (s : State) (gid : Nat) (m : Mma) : Option (Nat × Nat) :=
  (m.regs.find? fun r => decide (s.regsOf (s.group gid) ≤ r.1) || ((s.group gid).bound r.1).isSome).map fun r => (0x05, r.1)

/-- The tensor's corner in a g register (R282). -/
def corner (x : DWord) : Nat × Nat := ((lo32 x).toNat, (hi32 x).toNat)

/-- The check of a tensor operand B (R282, R287). Of several bytes outside the scratchpad, the offset of the first element in
the engine's order is reported (DESIGN CHOICE, log entry 74). -/
def State.tensorTrap (s : State) (gid : Nat) (m : Mma) (e : TensorEntry) : Option (Nat × Nat) :=
  match e with
  | none => some (0x20, m.tid)
  | some bs =>
    let t := tensorOf bs
    let c := corner (s.readG gid m.b)
    if !t.scratch || decide (t.ndim < 2) || t.fmt != bFmt m.ety || (m.ety == 7 && (!m.tb || c.1 % 32 != 0)) then some (0x20, m.tid)
    else match (m.tileRead t c.1 c.2 ++ m.scaleRead t c.1 c.2).find? fun x => decide (s.scratchSize (s.group gid).blk < x.1 + x.2) with
      | some x => some (0x11, x.1)
      | none => none

/-- The operand checks of a lane that would open a phase (R287 step 4). -/
def State.openTrap (s : State) (gid : Nat) (m : Mma) (e : TensorEntry) : Option (Nat × Nat) :=
  match s.imageTrap gid m with
  | some x => some x
  | none => match (if m.bsrc then s.tensorTrap gid m e else none) with
    | some x => some x
    | none => s.bindTrap gid m.handle (decide (m.ety = 6))

/-- One lane's checks, in order (R287). -/
def State.signTrap (s : State) (gid lane : Nat) (f : EF) : Option (Nat × Nat) :=
  let m := mmaOf f
  let g := s.group gid
  let x := s.join g.blk m.join
  if !x.mode then some (0x0B, m.join)
  else if x.e = 0 ∨ 32 < x.e then some (0x0C, m.join)
  else match x.phase with
    | some p =>
      if p.gid = gid ∧ ({ p.word with ctl := f.ctl } : EF) = f ∧ p.signers.getLsbD lane = false then none else some (0x24, m.join)
    | none => s.openTrap gid m (s.tensorCopy g.lid m.tid)

/-- A lane's signature (R286, R289). `n` names the phase it may open. -/
def State.sign (s : State) (gid lane : Nat) (f : EF) : State :=
  let m := mmaOf f
  let g := s.group gid
  let s1 : State := match (s.join g.blk m.join).phase with
    | some _ => s
    | none =>
      let b := s.bindAcc gid m.handle (decide (m.ety = 6))
      let x := b.1.join g.blk m.join
      let c := corner (s.readG gid m.b)
      let p : Phase := ⟨b.1.nextId, gid, f, 0, if m.bsrc then s.tensorCopy g.lid m.tid else none, c.1, c.2, b.2, [], [], []⟩
      ((b.1.newId).setJoin g.blk m.join { x with phase := some p }).bump gid .mc
  let x := s1.join g.blk m.join
  let ph := x.phase.map fun (p : Phase) =>
    { p with signers := p.signers ||| ((1 : LaneMask) <<< lane), snap := p.snap ++ s1.snapLane gid lane true m.regs,
             opened := p.opened ++ [(lane, s1.nextId)],
             seen := p.seen ++ [⟨lane, (s1.lane gid lane).fenced.1, (s1.lane gid lane).fenced.2⟩] }
  (s1.setJoin g.blk m.join { x with a := x.a + 1, phase := ph }).checkPhase g.blk m.join

/-- The lanes sign one after the other, ascending; a lane that fails a check is listed with its trap (R287). -/
def State.signAll (s : State) (gid : Nat) (f : EF) (lanes : List Nat) : State × List (Nat × Nat × DWord) :=
  lanes.foldl (fun (x : State × List (Nat × Nat × DWord)) l => match x.1.signTrap gid l f with
    | some t => (x.1, x.2 ++ [(l, t.1, BitVec.ofNat 64 t.2)])
    | none => (x.1.sign gid l f, x.2)) (s, [])

/-- Whether an MMA would open phases beyond what MC can count (R45, R286). -/
def State.mcShort (s : State) (cx : Cx) (f : EF) : Bool :=
  decide (63 < ((s.signAll cx.gid f (s.taking cx f.ctl)).1.group cx.gid).cnt.mc)

/-- MMA (R287): each lane signs, or traps where it stands. It holds issue while MC cannot count the phases that it would open (R45). -/
def execMma (f : EF) (s : State) : Answer :=
  match s.cur with
  | none => .fault .noIssuer
  | some cx =>
    if s.mcShort cx f then .next s.stall
    else issue s f.ctl (some .mc) [] 0 fun s i =>
      let r := s.signAll i.gid f i.lanes
      State.trapEach (r.2.length + 1) r.1 i.cx r.2

/-! ## ACCZ, ACCLD, ACCMV, ACCST, MMQ (R295 to R303) -/

/-- ACCZ and ACCLD at issue (R283, R284). -/
def State.accWrite (s : State) (i : Iss) (f : EF) (kind : MatKind) : State :=
  let i32 := f.flags.getLsbD 0
  match s.bindTrap i.gid (ef4 f) i32 with
  | some t => s.trapAll i t.1 t.2
  | none =>
    let b := s.bindAcc i.gid (ef4 f) i32
    b.1.startOp i (ef4 f) b.2 kind true

/-- ACCZ (R296). -/
def execAccz (f : EF) (s : State) : Answer :=
  issue s f.ctl (some .mc) [] 0 fun s i => s.accWrite i f (.accz (f.flags.getLsbD 0))
/-- ACCLD (R296). -/
def execAccld (f : EF) (s : State) : Answer :=
  issue s f.ctl (some .mc) ((List.range 16).map fun k => f.a.toNat + k) 0 fun s i => s.accWrite i f (.accld f)

/-- The output conversion that a word names (R297). On a kind I slot `Conv.out` ignores OS and RM (DESIGN CHOICE, log entry 74). -/
def convOf (f : EF) (ty : Ty) : Conv := ⟨ty, rmOf (f.flags.toNat / 16 % 8), f.flags.getLsbD 7, if f.x.getLsbD 0 then some f.b.toNat else none⟩
def osNames (f : EF) : List Nat := if f.x.getLsbD 0 then [f.b.toNat] else []

/-- The trap of an instruction that reads a slot: an unbound handle, or a type that its kind does not allow (R283, R298). -/
def State.readTrap (s : State) (gid h : Nat) (ok : Bool → Bool) (cause info : Nat) : Option (Nat × Nat) :=
  match (s.group gid).slotOf h with
  | none => some (0x22, h)
  | some k => if ok (s.accSlot (subKey gid) k).i32 then none else some (cause, info)

/-- ACCMV (R299). -/
def execAccmv (f : EF) (s : State) : Answer :=
  issue s f.ctl (some .mc) (((List.range 16).map fun k => f.a.toNat + k) ++ osNames f) 16 fun s i =>
    match s.readTrap i.gid (ef4 f) (fun i32 => admits i32 (Ty.ofCode (f.flags.toNat % 16))) 0x21 (ef4 f) with
    | some t => s.trapAll i t.1 t.2
    | none => s.startOp i (ef4 f) (((s.group i.gid).slotOf (ef4 f)).getD 0) (.accmv f) true

/-- Element (i, j) of the tile as the tensor's coordinates (R301). -/
def tileAt (f : EF) (s0 s1 i j : Nat) : List Nat := if f.x.getLsbD 1 then [s0 + i, s1 + j] else [s0 + j, s1 + i]
/-- The elements of the tile that are in bounds: row, column, address. -/
def tileElems (f : EF) (t : Tensor) (s0 s1 : Nat) : List (Nat × Nat × Nat) :=
  (List.range 64).flatMap fun i => (List.range 64).filterMap fun j =>
    let c := tileAt f s0 s1 i j
    if t.inside c then some (i, j, t.addr c) else none

/-- Translates the granules that the bytes of a tile's elements touch, in ascending order (R301). -/
def State.tilePages (s : State) (i : Iss) (w : Nat) (starts : List Nat) : State × Option (List (Nat × Nat × PageKind)) :=
  let addrs := starts.flatMap fun a => (List.range w).map fun k => a + k
  let grans := sortBy (fun (a b : Nat) => decide (a ≤ b)) ((addrs.map fun a => a / 4096).eraseDups)
  grans.foldl (fun r g => match r.2 with
    | none => r
    | some l =>
      let a := ((addrs.filter fun a => a / 4096 == g).foldl Nat.min (4096 * g + 4095))
      match r.1.checkOne i .engineWrite (BitVec.ofNat 64 a) with
      | (s1, some (pa, k)) => (s1, some (l ++ [(a, pa, k)]))
      | (s1, none) => (s1, none)) (s, some [])

/-- ACCST (R301). A tensor whose FMT the slot's kind does not allow takes the tensor-id fault of R301 (DESIGN CHOICE, log entry
74), and of several bytes outside the scratchpad the first element's in row order is reported. -/
def execAccst (f : EF) (s : State) : Answer :=
  issue s f.ctl (some .mc) (osNames f) 0 fun s i =>
    let c := corner (s.readG i.gid f.a.toNat)
    let e := s.tensorCopy (s.group i.gid).lid f.imm8.toNat
    let tid := f.imm8.toNat
    match (s.group i.gid).slotOf (ef4 f) with
    | none => s.trapAll i 0x22 (ef4 f)
    | some slot => match e with
      | none => s.trapAll i 0x20 tid
      | some bs =>
        let t := tensorOf bs
        match fmtTy t.fmt with
        | none => s.trapAll i 0x20 tid
        | some ty =>
          if t.ndim < 2 ∨ admits (s.accSlot (subKey i.gid) slot).i32 ty = false then s.trapAll i 0x20 tid
          else
            let el := tileElems f t c.1 c.2
            let w := t.bits / 8
            if t.scratch then match el.find? fun x => decide (s.scratchSize (s.group i.gid).blk < x.2.2 + w) with
              | some x => s.trapAll i 0x11 x.2.2
              | none => s.startOp i (ef4 f) slot (.accst f e c.1 c.2 []) true
            else match s.tilePages i w (el.map fun x => x.2.2) with
              | (s1, none) => s1
              | (s1, some pages) => s1.startOp i (ef4 f) slot (.accst f e c.1 c.2 pages) true

/-- The tile-queue slots of a core in use (R303). -/
def State.tilesOf (s : State) (core : Nat) : List Tile := s.eng.tiles.filter fun t => t.core == core

/-- The traps of MMQ at issue (R283, R303). -/
def State.mmqTrap (s : State) (gid : Nat) (f : EF) : Option (Nat × Nat) :=
  match s.readTrap gid (ef4 f) (fun i32 => admits i32 (Ty.ofCode (f.flags.toNat % 16))) 0x21 (ef4 f) with
  | some t => some t
  | none => if s.holdsDie (s.group gid).part (dieOf (coreOf gid)) then none else some (0x26, 0)

/-- MMQ (R302, R303): it holds the lanes until the core's tile queue has a free slot. -/
def execMmq (f : EF) (s : State) : Answer :=
  match s.cur with
  | none => .fault .noIssuer
  | some cx =>
    if !(s.taking cx f.ctl).isEmpty && (s.nameTrap cx.gid (osNames f)).isNone && (s.mmqTrap cx.gid f).isNone
        && decide (2 ≤ (s.tilesOf (coreOf cx.gid)).length) then .next s.stall
    else issue s f.ctl none (osNames f) 0 fun s i => match s.mmqTrap i.gid f with
      | some t => s.trapAll i t.1 t.2
      | none =>
        let core := coreOf i.gid
        let seq := Map.get 0 s.eng.tileSeq core
        let t : Tile := ⟨i.id, core, f.imm8.toNat, f.flags.toNat % 16, seq, subOf i.gid, slotOf i.gid, false, []⟩
        let s1 : State := { s with eng := { s.eng with tiles := s.eng.tiles ++ [t], tileSeq := Map.set 0 s.eng.tileSeq core ((seq + 1) % 2 ^ 16) } }
        s1.startOp i (ef4 f) (((s.group i.gid).slotOf (ef4 f)).getD 0) (.mmq f i.id) false

/-- Whether an instruction writes the scratchpad. -/
def writesScratch : Instr → Bool
  | .sts _ | .stss _ | .stfe _ | .atoms _ => true
  | _ => false

/-- OPFENCE (R290): it holds the lanes while their cores hold scratchpad writes or acquires of theirs; the writes that happen before it
are ordered before the fetch of a phase that the lane signs later (log entry 22). -/
def execOpfence (f : EF) (s : State) : Answer :=
  match s.cur with
  | none => .fault .noIssuer
  | some cx =>
    if s.ms.jobs.any fun j => j.iss.gid == cx.gid && (writesScratch j.instr || acquires j.instr)
        && j.accs.any fun a => (s.taking cx f.ctl).contains a.lane then .next s.stall
    else issue s f.ctl none [] 0 fun s i => eachLane s i.lanes fun s l =>
      s.modLane i.gid l fun x => { x with fenced := (s.nextId, Map.get 0 s.ms.acqs (32 * i.gid + l)) }

/-! ## The end of an operation's fetch and of the operation (R289, R294, R296 to R303) -/

/-- An element of an accumulator slot. -/
def AccSlot.at_ (a : AccSlot) (i j : Nat) : Word := Map.get 0 a.elems (64 * i + j)

/-- A 64-column tile's rows as bytes of a type, row-major. -/
def tileBytes (c : Conv) (r : Regs) (a : AccSlot) (row rows : Nat) : List Byte :=
  (List.range rows).flatMap fun i => (List.range 64).flatMap fun j => leBytes (c.ty.width / 8) (c.out r a.i32 (a.at_ (row + i) j) (row + i) j)

/-- ACCMV's register writes (R299): the slab as an image, in the lanes that have not exited. -/
def slabWrites (g : Group) (f : EF) (r : Regs) (a : AccSlot) : List RegWrite :=
  let ty := Ty.ofCode (f.flags.toNat % 16)
  let rows := 8 * 32 / ty.width
  let bs := tileBytes (convOf f ty) r a (rows * (f.imm8.toNat % 8)) rows
  g.liveLanes.flatMap fun l => (List.range 16).map fun k => .v l (f.a.toNat + k) (BitVec.ofNat 32 (fieldAt bs (64 * l + 4 * k) 4))

/-- A register that a lane wrote since the operation started keeps the lane's value or takes the result's, each element (R289). -/
def State.accmvWrites (s : State) (o : MatOp) (f : EF) (r : Regs) (a : AccSlot) : List RegWrite :=
  (slabWrites (s.group o.gid) f r a).map fun w => match w with
    | .v l k val =>
      if (s.lane o.gid l).olds.any fun y => decide ((o.opened.lookup l).getD 0 ≤ y.1) && y.2.1 == k then
        .v l k (mixWord (s.elemBits o.id) (fun e => s.coin (2 ^ 34 + 8192 * e + 256 * l + k)) ((s.lane o.gid l).vReg k) val)
      else w
    | .p _ _ _ => w

/-- ACCST's elements by address. -/
def accstElems (f : EF) (bs : List Byte) (s0 s1 : Nat) (r : Regs) (a : AccSlot) : List (Nat × List Byte) :=
  let t := tensorOf bs
  let c := convOf f ((fmtTy t.fmt).getD .f32)
  (tileElems f t s0 s1).map fun x => (x.2.2, leBytes (t.bits / 8) (c.out r a.i32 (a.at_ x.1 x.2.1) x.1 x.2.1))

/-- The bytes of elements by address. -/
def elemBytes (l : List (Nat × List Byte)) : List (Nat × Byte) :=
  l.flatMap fun x => ((List.range x.2.length).zip x.2).map fun y => (x.1 + y.1, y.2)

/-- Sends one store-like write for each line that an engine writes (R14, R301). -/
def State.sendLines (s : State) (ag : Agent) (id : Nat) (bytes : List (Nat × Byte × PageKind)) : State :=
  let lines := (bytes.map fun x => lineOf x.1).eraseDups
  lines.foldl (fun s l =>
    let mine := bytes.filter fun x => lineOf x.1 == l
    let kind := match mine with
      | x :: _ => x.2.2
      | [] => .shared
    s.send (.homeWriteAccept ⟨ag, 64 * id, none, l, kind, false, mine.map fun x => ⟨x.1 % 128, x.2.1, 0⟩, none, false, none, false⟩)) s

/-- What leaves the engine when its operands are read: ACCMV's results and ACCST's writes (R289, R301). -/
def State.emit (s : State) (o : MatOp) (r : Regs) : State :=
  let a := s.accSlot o.sub o.slot
  match o.kind with
  | .accmv f => s.send (.resultReturn ⟨o.id, o.gid, none, 0, s.accmvWrites o f r a, []⟩)
  | .accst f (some bs) s0 s1 pages =>
    let l := accstElems f bs s0 s1 r a
    if (tensorOf bs).scratch then l.foldl (fun s x => s.writeS o.blk x.1 x.2) s
    else s.sendLines (.matrix (o.sub / 12) (o.sub % 12)) o.id ((elemBytes l).filterMap fun x => (rangeAt pages x.1).map fun p => (p.1, x.2, p.2))
  | .accst _ none _ _ _ | .mma _ _ _ _ | .accz _ | .accld _ | .mmq _ _ => s

/-- The former values that no operation of a group can read any more are forgotten (R289). -/
def State.closeWindows (s : State) (gid : Nat) : State :=
  if s.windowOn gid then s
  else s.modGroup gid fun g => { g with lanes := g.lanes.map fun x => { x with olds := [] } }

/-- Whether an operation has to see what an earlier one has yet to leave (R272): in its accumulator slot, or in registers of its
group. -/
def State.behindOp (s : State) (o : MatOp) : Bool :=
  (s.eng.mat.takeWhile fun x => x.id != o.id).any fun x => x.sub == o.sub && (x.slot == o.slot || (x.gid == o.gid && (match x.kind with
    | .accmv _ => true
    | .mma _ _ _ _ | .accz _ | .accld _ | .accst _ _ _ _ _ | .mmq _ _ => false)))

/-- OPERAND_FETCH_END (R289, R292): the window closes, and the lanes parked in MWAIT `.op` go on. -/
def execOperandFetchEnd (op : Nat) (s : State) : Answer :=
  match s.matOp op with
  | none => .next s
  | some o =>
    if s.behindOp o then .next (s.send (.operandFetchEnd op))
    else
    let r := s.fetchRegs o ++ s.fetchTensor o
    let s1 := (s.modOp op fun o => { o with fetched := true, snap := r }).emit o r
    .next (((s1.closeWindows o.gid).mwaitWake).send (.matrixOpComplete op))

/-- Whether results of an operation are still on their way: ACCMV's registers, ACCST's lines. -/
def State.emitted (s : State) (o : MatOp) : Bool :=
  s.due.any fun i => match i with
    | .resultReturn r => r.id == o.id && r.gid == o.gid
    | .homeWriteAccept w => w.agent == .matrix (o.sub / 12) (o.sub % 12)
    | _ => false

/-- What an operation leaves in the slot or the tile queue (R294, R296, R303). -/
def State.effect (s : State) (o : MatOp) : State :=
  let a := s.accSlot o.sub o.slot
  let put (f : Nat → Nat → Word) : State :=
    s.setAcc { a with elems := (List.range 64).foldl (fun m i => (List.range 64).foldl (fun m j => Map.set 0 m (64 * i + j) (f i j)) m) [] }
  match o.kind with
  | .mma f e s0 s1 =>
    let m := mmaOf f
    let b : BSrc := ⟨e.map tensorOf, s0, s1, fun off => ((o.snap.lookup (8192 + off)).getD 0).toNat⟩
    put fun i j => m.out o.snap b (a.at_ i j) i j
  | .accz i32 => s.setAcc { a with i32 := i32, elems := [] }
  | .accld f =>
    let sl := f.imm8.toNat % 8
    put fun i j => if i / 8 = sl then BitVec.ofNat 32 (Mat.elem o.snap f.a.toNat 32 (64 * (i % 8) + j)) else a.at_ i j
  | .mmq f t =>
    let bs := tileBytes (convOf f (Ty.ofCode (f.flags.toNat % 16))) o.snap a 0 64
    let l := s.eng.tiles.map fun (x : Tile) => if x.id == t then { x with complete := true, data := bs } else x
    { s with eng := { s.eng with tiles := l } }
  | .accmv _ | .accst _ _ _ _ _ => s

/-- A later operation's reads see the registers an earlier one wrote (R272). -/
def State.reread (s : State) (o : MatOp) : State :=
  match o.kind with
  | .accmv f =>
    let fix (m : List (Nat × Word)) : List (Nat × Word) := m.map fun x =>
      if f.a.toNat ≤ x.1 % 256 ∧ x.1 % 256 < f.a.toNat + 16 then (x.1, (s.lane o.gid (x.1 / 256)).vReg (x.1 % 256)) else x
    let mats := s.eng.mat.map fun (p : MatOp) => if p.gid == o.gid && !p.fetched then { p with snap := fix p.snap } else p
    let blocks := s.blocks.map fun (b : Block) => { b with joins := b.joins.map fun (j : Join) =>
      { j with phase := j.phase.map fun (p : Phase) => if p.gid == o.gid then { p with snap := fix p.snap } else p } }
    let s1 : State := { s with eng := { s.eng with mat := mats }, blocks := blocks }
    s1.modGroup o.gid fun g => { g with lanes := g.lanes.map fun x =>
      { x with olds := x.olds.filter fun y => !(decide (f.a.toNat ≤ y.2.1) && decide (y.2.1 < f.a.toNat + 16)) } }
  | .mma _ _ _ _ | .accz _ | .accld _ | .accst _ _ _ _ _ | .mmq _ _ => s

/-- MATRIX_OP_COMPLETE (R294): the results stand, MC falls, and the waiting lanes go on. -/
def execMatrixOpComplete (op : Nat) (s : State) : Answer :=
  match s.matOp op with
  | none => .next s
  | some o =>
    if s.emitted o then .next (s.send (.matrixOpComplete op))
    else
      let s1 := (s.effect o).reread o
      let s2 : State := { s1 with eng := { s1.eng with mat := s1.eng.mat.filter fun x => !(x.id == op) } }
      let s3 := if o.mc then s2.fallCtr o.gid .mc else s2
      .next ((s3.mwaitWake.freeSlots o.gid).settle o.gid)

end Sys2Proof.Machine
end

