-- ==== Sys2Proof/Machine/Copy.lean ====
section
/-! DEFINITION. The copy engine and register-mapped streams (R307 to R321). -/
namespace Sys2Proof.Machine

/-! ## Issue of a copy command (R307, R308, R310) -/

/-- The commands queued at a core, oldest first (R308). -/
def State.copiesOf (s : State) (core : Nat) : List CopyCmd := s.eng.copies.filter fun c => c.core == core

def State.cc (s : State) (b : BlockRef) (k : Nat) : Cc :=
  match s.block b with
  | some x => x.ccs.getD k Cc.fresh
  | none => Cc.fresh
def State.setCc (s : State) (b : BlockRef) (k : Nat) (c : Cc) : State := s.modBlock b fun x => { x with ccs := x.ccs.set k c }

/-- Whether a copy instruction holds issue: a full queue, or a counter at 65,535 (R307, R308). -/
def State.copyHolds (s : State) (gid k : Nat) : Bool :=
  decide (16 ≤ (s.copiesOf (coreOf gid)).length) || decide (65535 ≤ (s.cc (s.group gid).blk k).count)

/-- Issues a copy instruction on counter `k`. -/
def issueCopy (s : State) (c : Ctl) (k : Nat) (names : List Nat) (body : State → Iss → State) : Answer :=
  match s.cur with
  | none => .fault .noIssuer
  | some cx =>
    if !(s.taking cx c).isEmpty && s.copyHolds cx.gid k then .next s.stall
    else issue s c none names 0 body

/-- A place that an address translates to: none on another quadrant's page (R309). -/
abbrev Place := Option (Nat × PageKind)

/-- Translates the granules that a command touches: for each its place (R310). DESIGN CHOICE (log entry 84): ascending by address, for
CPYG and CPYS too, so that the first failing page is the lowest. -/
def State.copyPlaces (s : State) (i : Iss) (acc : Access) (addrs : List Nat) : State × Option (List (Nat × Place)) :=
  let grans := sortBy (fun (a b : Nat) => decide (a ≤ b)) ((addrs.map fun a => a / 4096).eraseDups)
  grans.foldl (fun r g => match r.2 with
    | none => r
    | some l =>
      let a := (addrs.filter fun a => a / 4096 == g).foldl Nat.min (4096 * g + 4095)
      match r.1.xlate (r.1.laneWalker i.gid) (BitVec.ofNat 64 a) acc with
      | (s1, .ok pa k) => (s1, some (l ++ [(g, some (pa / 4096 * 4096, k))]))
      | (s1, .trap 0x14) => (s1, some (l ++ [(g, none)]))
      | (s1, .trap c) => (s1.trap i.gid i.lanes (i.cx.at_ c (BitVec.ofNat 64 a)), none)
      | (s1, .stop lv bad) => (s1.pageStop i.cx i.lanes (BitVec.ofNat 64 a) acc lv bad, none)) (s, some [])

/-- One byte that a command moves: its lane, its global address and its scratchpad or buffer offset. -/
structure Move where
  lane : Nat
  addr : Nat
  off : Nat
  deriving DecidableEq, Repr

/-- The pieces of a command (R309), one for each line of each lane, and the bytes whose page belongs to another quadrant. -/
def piecesOf (places : List (Nat × Place)) (moves : List Move) : List Piece × List Move :=
  let at_ (m : Move) : Place := match places.lookup (m.addr / 4096) with
    | some (some p) => some (p.1 + m.addr % 4096, p.2)
    | some none => none
    | none => none
  let good := moves.filterMap fun m => (at_ m).map fun p => (m.lane, lineOf p.1, p.2, p.1 % 128, m.off)
  let keys := (good.map fun x => (x.1, x.2.1)).eraseDups
  (((List.range keys.length).zip keys).map fun x =>
      let mine := good.filter fun y => y.1 == x.2.1 && y.2.1 == x.2.2
      let kind := match mine with
        | y :: _ => y.2.2.1
        | [] => .shared
      ⟨x.1, some (128 * x.2.2, kind), x.2.1, mine.map fun y => (y.2.2.2.1, y.2.2.2.2)⟩,
    moves.filter fun m => (at_ m).isNone)

/-- A command enters its core's queue, and its counter rises (R307, R308). -/
def State.queueCopy (s : State) (i : Iss) (cc : Nat) (kind : CopyKind) (pieces : List Piece) (away : List Move) (slot : Option Nat) : State :=
  let b := (s.group i.gid).blk
  let c := s.cc b cc
  let cmd : CopyCmd := ⟨i.id, coreOf i.gid, b, cc, kind, pieces, [], [], (away.map fun m => (m.lane, m.off / 16)).eraseDups, false, false,
    !away.isEmpty, slot⟩
  let s1 := s.setCc b cc { c with count := c.count + 1 }
  let s2 : State := { s1 with eng := { s1.eng with copies := s1.eng.copies ++ [cmd] } }
  (pieces.foldl (fun s p => s.send (.copyLineArrival i.id p.num)) s2).send (.copyCommandComplete i.id)

/-! ## CPY (R311, R312) -/

/-- The bytes of a box that lie in bounds, and the scratchpad offsets of those that do not. -/
def boxMoves (t : Tensor) (s0 s1 off e0 e1 : Nat) : List Move × List Nat :=
  let row := e0 * t.bits / 8
  let all := (List.range e1).flatMap fun y => (List.range row).map fun p =>
    let e := if t.bits < 8 then 2 * p else p / (t.bits / 8)
    let c := [s0 + e, s1 + y]
    (t.inside c, t.addr c + (if t.bits < 8 then 0 else p % (t.bits / 8)), off + y * row + p)
  ((all.filter fun x => x.1).map fun x => ⟨0, x.2.1, x.2.2⟩, (all.filter fun x => !x.1).map fun x => x.2.2)

/-- CPY (R312): FLAGS[0] is DIR. -/
def execCpy (f : EF) (s : State) : Answer :=
  issueCopy s f.ctl f.x.toNat [] fun s i =>
    let c := corner (s.readG i.gid f.a.toNat)
    let g := s.readG i.gid f.b.toNat
    let off := bits g 31 0
    let e0 := bits g 47 32
    let e1 := bits g 63 48
    match s.tensorCopy (s.group i.gid).lid f.imm8.toNat with
    | none => s.trapAll i 0x20 f.imm8.toNat
    | some bs =>
      let t := tensorOf bs
      if t.scratch ∨ t.ndim < 2 ∨ (t.fmt = 5 ∧ (c.1 % 32 ≠ 0 ∨ e0 % 32 ≠ 0)) then s.trapAll i 0x20 f.imm8.toNat
      else if e0 = 0 ∨ e1 = 0 ∨ off % 16 ≠ 0 ∨ e0 * t.bits % 128 ≠ 0 then s.trapAll i 0x10 off
      else if s.scratchSize (s.group i.gid).blk < off + e1 * (e0 * t.bits / 8) then s.trapAll i 0x11 off
      else
        let m := boxMoves t c.1 c.2 off e0 e1
        let out := f.flags.getLsbD 0
        match s.copyPlaces i (if out then .engineWrite else .engineRead) (m.1.map fun x => x.addr) with
        | (s1, none) => s1
        | (s1, some pl) =>
          let p := piecesOf pl m.1
          let zero : List Piece := if out ∨ m.2 = [] then [] else [⟨p.1.length, none, 0, m.2.map fun o => (0, o)⟩]
          s1.queueCopy i f.x.toNat (if out then .fromScratch else .toScratch) (p.1 ++ zero) p.2 none

/-! ## CPYG, CPYS (R313) -/

/-- The lanes' ranges, or the first trap (R313). -/
def State.gather (s : State) (i : Iss) (f : EF) : Except (Nat × Nat) (List Move) :=
  let n := 16 * f.imm8.toNat
  let ask := i.lanes.map fun l => (l, (s.readVW i.gid l 1 true f.a.toNat).toNat, (s.readV i.gid l 2 f.b.toNat).toNat)
  match ask.findSome? fun x =>
    if x.2.1 % 16 ≠ 0 then some (0x10, x.2.1) else if x.2.2 % 16 ≠ 0 then some (0x10, x.2.2)
    else if s.scratchSize (s.group i.gid).blk < x.2.2 + n then some (0x11, x.2.2) else none with
  | some t => .error t
  | none => .ok (ask.flatMap fun x => (List.range n).map fun k => ⟨x.1, x.2.1 + k, x.2.2 + k⟩)

/-- CPYG and CPYS after their checks. -/
def State.byLane (s : State) (i : Iss) (f : EF) (acc : Access) (kind : CopyKind) : State :=
  match s.gather i f with
  | .error t => s.trapAll i t.1 t.2
  | .ok m => match s.copyPlaces i acc (m.map fun x => x.addr) with
    | (s1, none) => s1
    | (s1, some pl) =>
      let p := piecesOf pl m
      s1.queueCopy i f.x.toNat kind p.1 p.2 none

/-- CPYG (R313). -/
def execCpyg (f : EF) (s : State) : Answer :=
  issueCopy s f.ctl f.x.toNat (vNames true f.a ++ [f.b.toNat]) fun s i => s.byLane i f .engineRead .toScratch
/-- CPYS (R313). -/
def execCpys (f : EF) (s : State) : Answer :=
  issueCopy s f.ctl f.x.toNat (vNames true f.a ++ [f.b.toNat]) fun s i => s.byLane i f .engineWrite .fromScratch

/-! ## CPYDEC (R314, R315) -/

/-- The key that a partition holds in a slot (R439). -/
def State.keyAt (s : State) (p slot : Nat) : Option KeySlot := s.sys.keys.find? fun k => k.slot == slot && k.part == p

/-- CPYDEC (R315): the key is read at issue (R439). -/
def execCpydec (f : EF) (s : State) : Answer :=
  let cc := f.imm8.toNat % 16
  issueCopy s f.ctl cc [] fun s i =>
    let a := (s.readG i.gid f.a.toNat).toNat
    let off := (s.readG i.gid f.b.toNat).toNat
    let len := (s.readG i.gid f.c.toNat).toNat
    if len % 16 ≠ 0 ∨ len < 16 ∨ 65536 < len then s.trap i.gid i.lanes (i.cx.at_ 0x01 i.cx.word)
    else match s.keyAt (s.group i.gid).part f.x.toNat with
      | none => s.trapAll i 0x28 f.x.toNat
      | some k =>
        if a % 16 ≠ 0 then s.trapAll i 0x10 a
        else if off % 16 ≠ 0 then s.trapAll i 0x10 off
        else if s.scratchSize (s.group i.gid).blk < off + len then s.trapAll i 0x11 off
        else
          let m : List Move := (List.range (len + 32)).map fun n => ⟨0, a + n, n⟩
          match s.copyPlaces i .engineRead (m.map fun x => x.addr) with
          | (s1, none) => s1
          | (s1, some pl) =>
            let p := piecesOf pl m
            s1.queueCopy i cc (.decrypt off len k.key) p.1 p.2 (some f.x.toNat)

/-! ## A command's lines and its completion (R308, R309) -/

def State.modCopy (s : State) (id : Nat) (f : CopyCmd → CopyCmd) : State :=
  { s with eng := { s.eng with copies := s.eng.copies.map fun c => if c.id == id then f c else c } }

/-- Whether a command is the oldest of its core (R308). -/
def State.copyFirst (s : State) (c : CopyCmd) : Bool := ((s.copiesOf c.core).head?.map fun x => x.id) == some c.id

/-- Granules turn full when the last byte that a command writes there has landed (R189, R309): no piece is left that touches them, and
some lane has written them without a gap. -/
def State.fillDone (s : State) (id : Nat) (b : BlockRef) (grans : List Nat) : State :=
  match s.eng.copies.find? fun c => c.id == id with
  | none => s
  | some c => grans.foldl (fun s g =>
    if (c.wrote.any fun x => x.2 == g && !c.lost.contains x) && !(c.pieces.any fun p => p.moves.any fun m => m.2 / 16 == g)
    then s.fillGran b g else s) s

/-- Bytes by offset as runs of adjacent ones. -/
def runsOf : List (Nat × Byte) → List (Nat × List Byte)
  | [] => []
  | x :: xs => match runsOf xs with
    | (o, bs) :: rs => if o = x.1 + 1 then (x.1, x.2 :: bs) :: rs else (x.1, [x.2]) :: (o, bs) :: rs
    | [] => [(x.1, [x.2])]

/-- A piece's bytes land in the scratchpad, adjacent ones in one write, so that no element is torn (R290). -/
def State.landBytes (s : State) (b : BlockRef) (l : List (Nat × Byte)) : State :=
  (runsOf l).foldl (fun s x => s.writeS b x.1 x.2) s

/-- The first byte and the length of the part of a line that moves touch. -/
def spanOfMoves (l : List (Nat × Nat)) : Nat × Nat :=
  let lo := l.foldl (fun a m => Nat.min a m.1) 127
  (lo, l.foldl (fun a m => Nat.max a m.1) 0 + 1 - lo)

/-- A line of a command moves. -/
def State.movePiece (s : State) (c : CopyCmd) (p : Piece) : State :=
  let grans := (p.moves.map fun m => m.2 / 16).eraseDups
  let mine := grans.map fun g => (p.lane, g)
  let take (s : State) : State := s.modCopy c.id fun c => { c with pieces := c.pieces.filter fun q => !(q.num == p.num) }
  let done (s : State) : State := ((take s).modCopy c.id fun c => { c with wrote := c.wrote ++ mine }).fillDone c.id c.blk grans
  let bad (s : State) : State := take (s.modCopy c.id fun c => { c with dataerr := true, lost := c.lost ++ mine })
  let sp := spanOfMoves p.moves
  match c.kind, p.src with
  | .toScratch, none => done (s.landBytes c.blk (p.moves.map fun m => (m.2, 0)))
  | .toScratch, some (pa, k) =>
    match s.engineRead (lineOf pa) sp.1 sp.2 k with
    | (s1, none) => (bad s1).fillDone c.id c.blk grans
    | (s1, some d) => done (s1.landBytes c.blk (p.moves.map fun m => (m.2, byteOf d m.1)))
  | .fromScratch, some (pa, k) =>
    let bs : List StoreByte := p.moves.map fun m => ⟨m.1, (s.readS c.blk m.2 1).headD 0, 0⟩
    (take s).send (.homeWriteAccept ⟨.copy c.core, 4096 * c.id + p.num, none, lineOf pa, k, false, bs, none, false, none, false⟩)
  | .decrypt _ _ _, some (pa, k) =>
    match s.engineRead (lineOf pa) sp.1 sp.2 k with
    | (s1, none) => bad s1
    | (s1, some d) => take (s1.modCopy c.id fun c => { c with got := c.got ++ p.moves.map fun m => (m.2, byteOf d m.1) })
  | .fromScratch, none => take s
  | .decrypt _ _ _, none => take s

/-- COPY_LINE_ARRIVAL (R308, R309, R313): lines of the core's oldest command, lower lanes first. -/
def execCopyLineArrival (cmd piece : Nat) (s : State) : Answer :=
  match s.eng.copies.find? fun c => c.id == cmd with
  | none => .next s
  | some c => match c.pieces.find? fun p => p.num == piece with
    | none => .next s
    | some p =>
      if !s.copyFirst c || c.pieces.any fun q => decide (q.lane < p.lane) then .next (s.send (.copyLineArrival cmd piece))
      else .next (s.movePiece c p)

/-- The status that CPYWAIT returns (R316). -/
def Cc.status (c : Cc) : Word :=
  BitVec.ofNat 32 (c.count + (if c.dataerr then 2 ^ 16 else 0) + (if c.auth then 2 ^ 17 else 0) + (if c.locality then 2 ^ 18 else 0))
def Cc.cleared (c : Cc) : Cc := { c with dataerr := false, auth := false, locality := false }

/-- Releases the CPYWAITs of a block whose counter has fallen far enough (R316). Those that one completion releases
read and clear the counter's status one at a time, in the order of R154 (R307; DEDUCED, log entry 84). -/
def State.cpyWake (s : State) (b : BlockRef) : State :=
  (inSlotOrder s.waits).foldl (fun s w => match w.kind with
    | .cpywait k thr clr reg scope =>
      let c := s.cc b k
      if (s.group w.gid).blk = b ∧ c.count ≤ thr then
        (((if clr then s.setCc b k c.cleared else s).wake w).acquireBy w.gid w.lanes scope).giveV w reg c.status
      else s
    | _ => s) s

/-- A decryption's end (R315): the plaintext when the tag verifies; the command's AUTH status otherwise. -/
def State.decryptEnd (s : State) (c : CopyCmd) (off len : Nat) (key : BitVec 256) : State × Bool :=
  if c.dataerr || c.locality then (s, false)
  else
    let rec_ := (List.range (len + 32)).map fun k => (c.got.lookup k).getD 0
    match Aes.gcmDecrypt ((List.range 32).map fun k => key.extractLsb' (8 * k) 8) (rec_.take 12) ((rec_.drop 16).take len)
      (rec_.drop (16 + len)) with
    | none => (s, true)
    | some pt => ((granules off len).foldl (fun s g => s.fillGran c.blk g) (s.writeS c.blk off pt), false)

/-- COPY_COMMAND_COMPLETE (R307, R309): the last write has performed, and the counter falls. -/
def execCopyCommandComplete (cmd : Nat) (s : State) : Answer :=
  match s.eng.copies.find? fun c => c.id == cmd with
  | none => .next s
  | some c =>
    let writing := s.due.any fun i => match i with
      | .homeWriteAccept w => w.agent == .copy c.core
      | _ => false
    if !s.copyFirst c || !c.pieces.isEmpty || writing then .next (s.send (.copyCommandComplete cmd))
    else
      let r := match c.kind with
        | .decrypt off len key => s.decryptEnd c off len key
        | .toScratch => (s, false)
        | .fromScratch => (s, false)
      let s1 : State := { r.1 with eng := { r.1.eng with copies := r.1.eng.copies.filter fun x => !(x.id == cmd) } }
      let k := s1.cc c.blk c.cc
      let k1 : Cc := { k with count := k.count - 1, dataerr := k.dataerr || c.dataerr, auth := k.auth || r.2, locality := k.locality || c.locality }
      .next ((s1.setCc c.blk c.cc k1).cpyWake c.blk)

/-- CPYWAIT (R316). FLAGS: [4] CLR, [3:1] SC. -/
def execCpywait (f : EF) (s : State) : Answer :=
  issue s f.ctl none [f.a.toNat] 1 fun s i =>
    let b := (s.group i.gid).blk
    let k := f.x.toNat
    let c := s.cc b k
    let clr := f.flags.getLsbD 4
    if c.count ≤ f.imm8.toNat then
      (((if clr then s.setCc b k c.cleared else s).resumed i.gid).acquireBy i.gid (maskOf i.lanes) (scopeOf f.sc)).giveAll i f.a.toNat c.status
    else s.park i.cx i.lanes (.cpywait k f.imm8.toNat clr f.a.toNat (scopeOf f.sc))

/-! ## Streams (R319 to R321) -/

/-- STRMB (R319). FLAGS: [0] DIR, [1] SPAN. DESIGN CHOICE (log entry 83): of its two causes stream-bound comes first. -/
def execStrmb (f : EF) (s : State) : Answer :=
  issue s f.ctl none [] 0 fun s i =>
    let g := s.readG i.gid f.b.toNat
    let own := (s.group i.gid).blk
    let r := f.a.toNat
    let blk := if f.flags.getLsbD 1 then s.selBlock own (bits g 35 32) else some own
    let off := bits g 31 0
    let okRing := match blk with
      | some b => off % 16 == 0 && (s.ring b off).isSome
      | none => false
    if ((s.group i.gid).bound r).isSome then s.trapAll i 0x2A r
    else match blk with
      | some b =>
        if okRing then s.modGroup i.gid fun g => { g with streams := g.streams ++ [⟨r, f.flags.getLsbD 0, b.block, off⟩] }
        else s.trapAll i 0x29 r
      | none => s.trapAll i 0x29 r

/-- STRMU (R319): FLAGS[0] is ALL. -/
def execStrmu (f : EF) (s : State) : Answer :=
  issue s f.ctl none [] 0 fun s i =>
    s.modGroup i.gid fun g => { g with streams := if f.flags.getLsbD 0 then [] else g.streams.filter fun x => !(x.reg == f.a.toNat) }

/-- STRMQ (R321). -/
def execStrmq (f : EF) (s : State) : Answer :=
  issue s f.ctl none [f.a.toNat] 1 fun s i =>
    let r := f.b.toNat
    match (s.group i.gid).bound r with
    | none => s.trapAll i 0x2B r
    | some k =>
      let c := s.readS ⟨(s.group i.gid).lid, k.block⟩ k.off 12
      let held := BitVec.ofNat 32 (fieldAt c 4 4) - BitVec.ofNat 32 (fieldAt c 0 4)
      s.giveAll i f.a.toNat (if k.out then BitVec.ofNat 32 (fieldAt c 8 4) - held else held)

/-- The ring of a bound register for parked lanes; none when the register is unbound, and `none` inside when its control
granule is invalid. -/
def State.ringFor (s : State) (gid r : Nat) : Option (Option Ring) := ((s.group gid).bound r).map fun k => s.ringOf gid k

/-- STREAM_POP_RESUME (R320). DESIGN CHOICE (log entry 83): a register that another program counter has unbound traps as an invalid
ring. -/
def execStreamPopResume (r : WaitRef) (s : State) : Answer :=
  match s.wait r.id with
  | none => .next s
  | some w => match w.kind with
    | .streamPop word got => match laneOpOf word with
      | none => .next s
      | some op =>
        let i : Iss := ⟨w.cx, w.id, lanesOf w.lanes⟩
        match (s.inputs w.gid op)[got.length]? with
        | none => .next ((s.wake w).laneGo 5 i word op got)
        | some (_, reg) => match s.ringFor w.gid reg with
          | some (some q) =>
            if i.lanes.length ≤ q.held then .next ((s.wake w).laneGo 5 i word op got) else .next (s.send (.streamPopResume r))
          | _ => .next ((s.wake w).trapAll i 0x29 reg)
    | _ => .next s

/-- STREAM_PUSH_RESUME (R320); an unbound register as above (log entry 83). -/
def execStreamPushResume (r : WaitRef) (s : State) : Answer :=
  match s.wait r.id with
  | none => .next s
  | some w => match w.kind with
    | .streamPush reg vals =>
      let i : Iss := ⟨w.cx, w.id, lanesOf w.lanes⟩
      match s.ringFor w.gid reg with
      | some (some q) =>
        if vals.length ≤ q.cap - q.held then .next ((s.wake w).ringPush q (vals.map fun x => x.2)) else .next (s.send (.streamPushResume r))
      | _ => .next ((s.wake w).trapAll i 0x29 reg)
    | _ => .next s

end Sys2Proof.Machine
end

