-- ==== Sys2Proof/Machine/Graph.lean ====
section
/-! DEFINITION. Collective graphs: nodes, their validity, chunks and the arithmetic of nodes (R384 to R386, R391, R393 to
R395). -/
namespace Sys2Proof.Machine

/-- A node (R384). -/
structure Node where
  aoff : Nat
  boff : Nat
  doff : Nat
  len : Nat
  dep : Nat
  s0 : Nat
  s1 : Nat
  op : Nat
  ty : Nat
  rm : Nat
  rop : Nat
  resid : Bool
  spa : Bool
  km1 : Nat
  port : Nat
  chan : Nat
  ab : Nat
  bb : Nat
  db : Nat
  /-- Every reserved bit reads 0. -/
  clean : Bool
  deriving DecidableEq, Repr

def nodeOf (bs : List Byte) : Node :=
  let mode := fieldAt bs 21 1
  let km := fieldAt bs 22 1
  let port := fieldAt bs 23 1
  let bases := fieldAt bs 25 1
  let db := fieldAt bs 26 1
  let dep := fieldAt bs 14 2
  let s0 := fieldAt bs 16 2
  let s1 := fieldAt bs 18 2
  let clean := decide (dep < 4096) && s0 / 4096 % 8 == 0 && s1 / 4096 % 8 == 0 && decide (mode < 128) && decide (km < 64)
    && decide (port < 4) && decide (bases < 64) && decide (db < 8) && fieldAt bs 27 5 == 0
  ⟨fieldAt bs 0 4, fieldAt bs 4 4, fieldAt bs 8 4, fieldAt bs 12 2, dep, s0, s1, fieldAt bs 20 1 % 16, fieldAt bs 20 1 / 16,
    mode % 8, mode / 8 % 4, mode / 32 % 2 == 1, mode / 64 % 2 == 1, km % 64, port % 4, fieldAt bs 24 1, bases % 8, bases / 8 % 8,
    db % 8, clean⟩

/-- The valid successor fields of a node. -/
def Node.succs (n : Node) : List Nat := ([n.s0, n.s1].filter fun x => decide (32768 ≤ x)).map fun x => x % 4096
def Node.isSend (n : Node) : Bool := n.op == 0 || n.op == 4
def Node.isRecv (n : Node) : Bool := n.op == 1 || n.op == 5
/-- A port node (R385). -/
def Node.isPort (n : Node) : Bool := n.isSend || n.isRecv
def Node.usesA (n : Node) : Bool := n.op == 0 || n.op == 2 || n.op == 3 || n.op == 4
def Node.usesB (n : Node) : Bool := n.op == 2
def Node.usesD (n : Node) : Bool := n.op == 1 || n.op == 2 || n.op == 3 || n.op == 5
/-- Bytes of an element (R275). -/
def Node.es (n : Node) : Nat := if n.ty = 0xB ∨ n.ty = 0xC then 2 else 4
def Node.isFloat (n : Node) : Bool := [0xA, 0xB, 0xC].contains n.ty
/-- Bytes of the dense operand. -/
def Node.bytes (n : Node) : Nat := 32 * n.len
def Node.count (n : Node) : Nat := n.bytes / n.es

/-- The TYPE codes that an operation accepts (R385). -/
def nodeTypes (op : Nat) : List Nat :=
  if op = 2 then [0x2, 0x6, 0xA, 0xB, 0xC] else if op = 4 ∨ op = 5 then [0xA, 0xB, 0xC] else [0x2, 0x6, 0x8, 0xA, 0xB, 0xC]

/-- A node's own fields (R385, R386): accepted values, and 0 in every field that its operation does not use. -/
def Node.ok (n : Node) : Bool :=
  n.clean && decide (n.op ≤ 5) && (nodeTypes n.op).contains n.ty && decide (n.rm ≤ 4) && decide (n.rop ≤ 2)
    && (n.rm == 0 || (n.isFloat && (n.op == 2 || n.op == 5)))
    && (n.rop == 0 || n.op == 2)
    && (!n.spa || ((n.op == 0 || n.op == 3) && n.aoff / 2 ^ 9 % 2 ^ 7 == 0 && n.aoff / 2 ^ 24 == 0 && n.ab == 0))
    && (!n.resid || n.op == 4)
    && (n.km1 == 0 || n.op == 4 || n.op == 5)
    && (decide (1 ≤ n.len) || n.op == 3)
    && (!(n.op == 4 || n.op == 5) || n.bytes % (256 * n.es) == 0)
    && (n.usesA || (n.aoff == 0 && n.ab == 0))
    && (n.usesB || (n.boff == 0 && n.bb == 0))
    && (n.usesD || (n.doff == 0 && n.db == 0))
    && (n.isPort || (n.port == 0 && n.chan == 0))

/-- The nodes that a set of nodes reaches, with that set; `fuel` bounds the edges followed. -/
def reachFrom (succ : Nat → List Nat) : Nat → List Nat → List Nat → List Nat
  | 0, _, seen => seen
  | _ + 1, [], seen => seen
  | fuel + 1, x :: todo, seen =>
    if seen.contains x then reachFrom succ fuel todo seen else reachFrom succ fuel (todo ++ succ x) (x :: seen)

/-- The nodes that a node reaches through one or more edges. -/
def reaches (nodes : List Node) (m : Nat) : List Nat :=
  let succ (i : Nat) : List Nat := match nodes[i]? with
    | some n => n.succs.filter fun x => decide (x < nodes.length)
    | none => []
  reachFrom succ (2 * nodes.length + 4) (succ m) []

/-- Whether node `m` fails (R386). -/
def nodeFails (nodes : List Node) (m : Nat) (n : Node) : Bool :=
  let into := (nodes.flatMap Node.succs).countP fun x => x == m
  let clash := (List.range m).any fun j => match nodes[j]? with
    | some k => k.port == n.port && k.chan == n.chan && ((k.isSend && n.isSend) || (k.isRecv && n.isRecv))
        && !(reaches nodes j).contains m && !(reaches nodes m).contains j
    | none => false
  !n.ok || n.dep != into || n.succs.any (fun x => decide (nodes.length ≤ x)) || (reaches nodes m).contains m || clash

/-- A graph's nodes. -/
def nodesOf (bs : List Byte) (n : Nat) : List Node := (List.range n).map fun i => nodeOf ((bs.drop (32 * i)).take 32)

/-- The lowest-numbered node that fails (R386). -/
def failingNode (nodes : List Node) : Option Nat :=
  (((List.range nodes.length).zip nodes).find? fun x => nodeFails nodes x.1 x.2).map fun x => x.1

/-- An operand's address (R384). -/
def opAddr (bases : List DWord) (off base : Nat) : DWord := bases.getD base 0 + BitVec.ofNat 64 off
/-- The operand addresses that a node uses, in order (R389). -/
def Node.addrs (n : Node) (bases : List DWord) : List DWord :=
  (if n.usesA && !n.spa then [opAddr bases n.aoff n.ab] else []) ++ (if n.usesB then [opAddr bases n.boff n.bb] else [])
    ++ (if n.usesD then [opAddr bases n.doff n.db] else [])

/-! ## Element arithmetic (R385, R395) -/

def rmOfCode (c : Nat) : Rm :=
  match c with
  | 1 => .rz | 2 => .rdn | 3 => .rup | 4 => .rna | _ => .rne

/-- One element of REDUCE: A op B (R385). -/
def Node.combine (n : Node) (a b : Nat) : Nat :=
  let m : Alu.Mode := ⟨Ty.ofCode n.ty, rmOfCode n.rm, false⟩
  let x := BitVec.ofNat 64 a
  let y := BitVec.ofNat 64 b
  (match n.rop with
    | 0 => Alu.add m x y
    | 1 => Alu.min m x y
    | _ => Alu.max m x y).toNat

/-- Elements in ascending order, each reading A and B before it writes D (R385): `mem` gives a byte as it stands at an
address, and each result stands over it for the elements that follow. -/
def runElems (es : Nat) (f : Nat → Nat → Nat) (mem : Nat → Byte) (a b : Nat → Nat) (d : Nat → Nat) :
    List Nat → List (Nat × Byte) → List (Nat × Byte)
  | [], out => out
  | e :: rest, out =>
    let rd (at_ : Nat → Nat) : Nat := leNat ((List.range es).map fun k => match out.lookup (at_ (e * es + k)) with
      | some x => x
      | none => mem (at_ (e * es + k)))
    let v := f (rd a) (rd b)
    let new := (List.range es).map fun k => (d (e * es + k), BitVec.ofNat 8 (v / 2 ^ (8 * k)))
    runElems es f mem a b d rest (new.reverse ++ out)

/-! ## Sparse chunks (R394, R395) -/

/-- An element's rank by magnitude (R394): NaN above infinity above finite values. -/
def magLeq (ty a b : Nat) : Bool :=
  let f (x : Nat) : Fl := match Alu.flt (Ty.ofCode ty) (BitVec.ofNat 64 x) with
    | .nan => .nan
    | .inf _ => .inf false
    | .fin _ m e => .fin false m e
  match f a, f b with
  | .nan, .nan => true
  | .nan, _ => false
  | _, .nan => true
  | x, y => !Fl.lt y x

/-- The k highest-ranked indices of a block, ascending; of equal rank the lower index (R394). -/
def topK (ty k : Nat) (block : List Nat) : List Nat :=
  let ranked := sortBy (fun (a b : Nat × Nat) => !(magLeq ty a.2 b.2 && !magLeq ty b.2 a.2)) ((List.range block.length).zip block)
  sortBy (fun (a b : Nat) => decide (a ≤ b)) ((ranked.take k).map fun x => x.1)

/-- Zero bytes up to a multiple of 32. -/
def pad32 (l : List Byte) : List Byte := l ++ List.replicate ((32 - l.length % 32) % 32) 0

/-- A block as SPARSE_SEND sends it (R394). -/
def sparseBlock (es k ty : Nat) (block : List Nat) : List Byte × List Nat :=
  let s := topK ty k block
  let mask := (List.range 32).map fun i => BitVec.ofNat 8 (((List.range 8).map fun j => if s.contains (8 * i + j) then 2 ^ j else 0).sum)
  (mask ++ pad32 (s.flatMap fun i => leBytes es (block.getD i 0)), s)

/-- The bytes of one block of a sparse chunk (R394). -/
def sparseSize (es k : Nat) : Nat := 32 + (k * es + 31) / 32 * 32

/-- The elements that a sparse chunk holds: index in the operand and raw bits (R395). -/
def sparseElems (es k blocks : Nat) (bs : List Byte) : List (Nat × Nat) :=
  (List.range blocks).flatMap fun b =>
    let x := bs.drop (b * sparseSize es k)
    let idx := (List.range 256).filter fun i => (x.getD (i / 8) 0).getLsbD (i % 8)
    ((List.range idx.length).zip idx).map fun p => (256 * b + p.2, fieldAt x (32 + p.1 * es) es)

/-! ## A receive node's check of its chunk (R393) -/

/-- MKIND of the first difference, 0 when there is none. -/
def mkindOf (n : Node) (ghash : Word) (epoch : BitVec 16) (c : Chunk) : Nat :=
  if c.ghash ≠ ghash then 1 else if c.epoch ≠ epoch then 2 else if c.op ≠ (if n.op = 1 then 0 else 4) then 3
  else if c.ty ≠ n.ty then 4 else if c.count ≠ n.count then 5 else if n.op = 5 ∧ c.k ≠ n.km1 + 1 then 6 else 0

end Sys2Proof.Machine
end

