-- ==== Sys2Proof/Machine/Link.lean ====
section
/-! DEFINITION. Optical ports: the registers of ports and domains (R406 to R409, R420, R421) and the link layer that carries operations
in flits (R412, R413). -/
namespace Sys2Proof.Machine

/-! ## Registers of ports and domains -/

def portcfgKey (p : Nat) : Nat := csrKey 0x20 p
def domctlKey (d : Nat) : Nat := csrKey 0x21 d
def genKey (d : Nat) : Nat := csrKey 0x22 d
def lnkKey (p : Nat) : Nat := csrKey 0x23 p
def optCntKey (p : Nat) : Nat := csrKey 0x24 p

/-- Replaces a field of a register. -/
def putField (x : DWord) (lo n v : Nat) : DWord :=
  (x &&& ~~~(BitVec.ofNat 64 ((2 ^ n - 1) * 2 ^ lo))) ||| BitVec.ofNat 64 (v % 2 ^ n * 2 ^ lo)
/-- Adds 1 to a field that stops at its largest value (R421). -/
def satField (x : DWord) (lo n : Nat) : DWord :=
  let v := x.toNat / 2 ^ lo % 2 ^ n
  putField x lo n (if v = 2 ^ n - 1 then v else v + 1)

/-- Counts in OPT_CNT, and in the lifetime total of the field (R421, R447). -/
def State.optCount (s : State) (p lo n : Nat) : State :=
  (s.setCsr (optCntKey p) (satField (s.csr (optCntKey p)) lo n)).count (cntOpt lo p)

/-- The domain of a port whose EN is 1 (R406). -/
def State.portDom (s : State) (p : Nat) : Option Nat :=
  let x := s.csr (portcfgKey p)
  if x.getLsbD 0 then some (x.toNat / 2 ^ 8 % 32) else none
def State.swport (s : State) (p : Nat) : Nat := (s.csr (portcfgKey p)).toNat / 2 ^ 48
def State.domEn (s : State) (d : Nat) : Bool := (s.csr (domctlKey d)).getLsbD 0
/-- The partition that owns an enabled domain (R406). -/
def State.domOwner (s : State) (d : Nat) : Option Nat :=
  if s.domEn d then some (s.ownerOf ((s.csr (domctlKey d)).toNat / 8 % 32)) else none
/-- The ports of a domain. -/
def State.portsOf (s : State) (d : Nat) : List Nat := (List.range 32).filter fun p => s.portDom p == some d
def State.gen (s : State) (d : Nat) : Word := lo32 (s.csr (genKey d))
def State.winOpen (s : State) (d : Nat) : Bool := (s.csr (genKey d)).getLsbD 32
/-- The generation check (R410). -/
def State.genOk (s : State) (d : Nat) (g : Word) : Bool := !s.winOpen d && s.gen d == g

/-- Link states (R420). -/
def lnkDown : Nat := 0
def lnkTraining : Nat := 1
def lnkUp : Nat := 2
def State.lnk (s : State) (p : Nat) : Nat := (s.csr (lnkKey p)).toNat / 2 ^ 62
def State.setLnk (s : State) (p st : Nat) : State := s.setCsr (lnkKey p) (putField (s.csr (lnkKey p)) 62 2 st)
def State.isUp (s : State) (p : Nat) : Bool := s.lnk p == lnkUp

/-- A port's link layer as a training leaves it, with the peer's first credits. -/
def Link.fresh (p : Nat) : Link :=
  { port := p, expect := 0, next := 0, acked := 0, resends := 0, dead := false, lastFlit := 0, sent := [], reqQ := [], rspQ := [],
    creditReq := Config.linkCredits 0, creditRsp := Config.linkCredits 1, rxReq := 0, rxRsp := 0, retReq := 0, retRsp := 0,
    partReq := none, partRsp := none, ackDue := false, nakDue := false }
def State.link (s : State) (p : Nat) : Link :=
  match s.fab.links.find? fun x => x.port == p with
  | some x => x
  | none => Link.fresh p
def State.setLink (s : State) (x : Link) : State :=
  { s with fab := { s.fab with links := s.fab.links.filter (fun y => !(y.port == x.port)) ++ [x] } }
def State.modLink (s : State) (p : Nat) (f : Link → Link) : State := s.setLink (f (s.link p))

/-- Something leaves the part for the outside. -/
def State.emitOut (s : State) (o : Out) : State := { s with sys := { s.sys with outbox := s.sys.outbox ++ [o] } }

/-! ## Flits (R412) -/

/-- CRC-32 of a byte string (R412): the reflected form of 0x04C11DB7. -/
def crcStep (c : BitVec 32) : BitVec 32 := if c.getLsbD 0 then (c >>> 1) ^^^ 0xEDB88320 else c >>> 1
def crcByte (c : BitVec 32) (b : Byte) : BitVec 32 := (List.range 8).foldl (fun c _ => crcStep c) (c ^^^ b.zeroExtend 32)
def crc32 (bs : List Byte) : BitVec 32 := bs.foldl crcByte 0xFFFFFFFF ^^^ 0xFFFFFFFF

/-- A flit's bytes (R412), with the next number expected from the peer. -/
def SentFlit.bytes (f : SentFlit) (ack : Nat) : List Byte :=
  let b := f.body
  let head := leBytes 1 b.ty ++ leBytes 1 b.flags ++ leBytes 2 f.seq ++ leBytes 2 ack ++ leBytes 1 f.cred ++ leBytes 1 b.chan
  let bs := head ++ (b.payload ++ List.replicate 244 0).take 244
  bs ++ leBytes 4 (crc32 bs).toNat

/-- The physical lane that carries active lane `w`: its own, or the spare in place of one that failed (R405, R420). -/
def physLane (wlmap w : Nat) : Nat := if wlmap.testBit w then w else 8
/-- A flit's bytes by physical lane (R412). -/
def laneShares (wlmap : Nat) (bs : List Byte) : List (Nat × List Byte) :=
  (List.range 8).map fun w => (physLane wlmap w, (bs.drop (32 * w)).take 32)

/-- Cuts bytes into pieces of `n`; `fuel` bounds the pieces. -/
def cutBytes : Nat → Nat → List Byte → List (List Byte)
  | 0, _, _ => []
  | fuel + 1, n, bs => if bs.length ≤ n then [bs] else bs.take n :: cutBytes fuel n (bs.drop n)

/-- The flits that carry an operation (R412). -/
def flitBodies (ty chan : Nat) (bs : List Byte) (node : Option NodeRef) : List FlitBody :=
  let parts := cutBytes (bs.length / 244 + 1) 244 bs
  ((List.range parts.length).zip parts).map fun x =>
    let last := x.1 + 1 == parts.length
    ⟨ty, (if x.1 = 0 then 1 else 0) + (if last then 2 else 0), chan, x.2, if last then node else none⟩

/-! The headers that open an operation's payload: their fields are the spec's (R391, R412), their places a DESIGN CHOICE (log entry 41). -/

def chunkBytes (c : Chunk) : List Byte :=
  leBytes 4 c.count ++ leBytes 1 c.ty ++ leBytes 1 c.op ++ leBytes 2 c.k ++ leBytes 4 c.ghash.toNat ++ leBytes 2 c.epoch.toNat ++ leBytes 2 0
    ++ leBytes 4 c.payload.length ++ c.payload
def chunkOfBytes (chan : Nat) (bs : List Byte) : Chunk :=
  ⟨chan, fieldAt bs 0 4, fieldAt bs 4 1, fieldAt bs 5 1, fieldAt bs 6 2, BitVec.ofNat 32 (fieldAt bs 8 4), BitVec.ofNat 16 (fieldAt bs 12 2),
    (bs.drop 20).take (fieldAt bs 16 4)⟩
def requestBytes (addr : DWord) (len tag : Nat) (data : List Byte) : List Byte := leBytes 8 addr.toNat ++ leBytes 4 len ++ leBytes 4 tag ++ data
def requestOfBytes (port : Nat) (put : Bool) (bs : List Byte) : RemoteReq :=
  let len := fieldAt bs 8 4
  ⟨port, put, BitVec.ofNat 64 (fieldAt bs 0 8), len, if put then (bs.drop 16).take len else [], fieldAt bs 12 4⟩
def answerBytes (tag status : Nat) (data : List Byte) : List Byte := leBytes 4 tag ++ leBytes 4 status ++ leBytes 4 data.length ++ data
def answerOfBytes (bs : List Byte) : RemoteDone := ⟨fieldAt bs 0 4, fieldAt bs 4 4, (bs.drop 12).take (fieldAt bs 8 4)⟩

/-! ## Sending (R413) -/

/-- Flits of an operation. -/
def flitsFor (bytes : Nat) : Nat := bytes / 244 + if bytes % 244 = 0 ∧ bytes ≠ 0 then 0 else 1
/-- Flits of the peer's requests that a port still keeps: operations that wait, and the one that is arriving (R392). -/
def State.flitsKept (s : State) (p : Nat) : Nat :=
  let of (i : Instr) : Nat := match i with
    | .chunkArrival _ c => flitsFor (chunkBytes c).length
    | .remoteRequest r => flitsFor (requestBytes r.addr r.len r.tag r.data).length
    | _ => 0
  ((s.fab.waiting.filter fun x => x.1 == p).map fun x => of x.2).sum + (match (s.link p).partReq with
    | some bs => bs.length / 244
    | none => 0)

/-- The credits that a port can return: requests and responses. -/
def State.owed (s : State) (p : Nat) : Nat × Nat :=
  let x := s.link p
  (x.rxReq - x.retReq - s.flitsKept p, x.rxRsp - x.retRsp)

/-- Whether the window takes one more flit. -/
def Link.room (x : Link) : Bool := decide ((x.next + 4096 - x.acked) % 4096 < 512)

/-- A flit goes out on the lanes in use. -/
def State.onWire (s : State) (p : Nat) (f : SentFlit) : State :=
  let x := (laneShares ((s.csr (lnkKey p)).toNat / 2 ^ 53 % 2 ^ 9) (f.bytes (s.link p).expect))
  { s with fab := { s.fab with wire := s.fab.wire ++ [(p, x)] } }

/-- Sends one flit, with the acknowledgement and the credits that are due. -/
def State.sendFlit (s : State) (p : Nat) (b : FlitBody) : State :=
  let x := s.link p
  let cq := Nat.min 15 (s.owed p).1
  let cr := Nat.min 15 (s.owed p).2
  let f : SentFlit := ⟨x.next, cq + 16 * cr, b⟩
  (s.setLink { x with next := (x.next + 1) % 4096, sent := x.sent ++ [f], retReq := x.retReq + cq, retRsp := x.retRsp + cr,
                      ackDue := false, nakDue := false }).onWire p f

/-- The next flit that may be sent: a NAK, then responses, requests, and an idle flit where an acknowledgement or credits are due. -/
def State.nextFlit (s : State) (p : Nat) : Option (FlitBody × Link) :=
  let x := s.link p
  if x.nakDue then some (⟨5, 4, 0, [], none⟩, x)
  else match x.rspQ, x.reqQ with
    | b :: l, _ => if 0 < x.creditRsp then some (b, { x with rspQ := l, creditRsp := x.creditRsp - 1 }) else other x
    | [], _ => other x
where
  other (x : Link) : Option (FlitBody × Link) :=
    match x.reqQ with
    | b :: l => if 0 < x.creditReq then some (b, { x with reqQ := l, creditReq := x.creditReq - 1 }) else idle x
    | [] => idle x
  idle (x : Link) : Option (FlitBody × Link) := if x.ackDue || s.owed p != (0, 0) then some (⟨0, 0, 0, [], none⟩, x) else none

/-- Sends what a port that is UP may send. `fuel` bounds the flits. -/
def State.pumpFlits : Nat → State → Nat → State
  | 0, s, _ => s
  | fuel + 1, s, p =>
    if !s.isUp p || !(s.link p).room then s
    else match s.nextFlit p with
      | none => s
      | some (b, x) => State.pumpFlits fuel ((s.setLink x).sendFlit p b) p
def State.pumpLink (s : State) (p : Nat) : State :=
  s.pumpFlits ((s.link p).reqQ.length + (s.link p).rspQ.length + ((s.owed p).1 + (s.owed p).2) / 15 + 3) p

/-- An operation goes to a port, which sends it in flits (R412): requests and responses have credits of their own. -/
def State.sendOp (s : State) (p : Nat) (response : Bool) (l : List FlitBody) : State :=
  (s.modLink p fun x => if response then { x with rspQ := x.rspQ ++ l } else { x with reqQ := x.reqQ ++ l }).pumpLink p

/-- A chunk, an RPUT or RGET request, or an answer leaves the part. -/
def State.sendChunkOut (s : State) (p : Nat) (c : Chunk) (n : NodeRef) : State :=
  (s.emitOut (.chunk p c)).sendOp p false (flitBodies 1 c.chan (chunkBytes c) (some n))
def State.sendRequestOut (s : State) (p : Nat) (put : Bool) (id : Nat) (addr : DWord) (len : Nat) (data : List Byte) : State :=
  (s.emitOut (.remote p put id addr len data)).sendOp p false (flitBodies (if put then 2 else 3) 0 (requestBytes addr len id data) none)
def State.sendAnswerOut (s : State) (p tag status : Nat) (data : List Byte) : State :=
  (s.emitOut (.remoteAnswer p tag status data)).sendOp p true (flitBodies 4 0 (answerBytes tag status data) none)

/-- Every flit that the peer has not acknowledged goes out again, in order (R413); a NAK among them is not repeated. -/
def State.resendAll (s : State) (p : Nat) : State :=
  (s.link p).sent.foldl (fun s f => s.onWire p (if f.body.ty = 5 then { f with body := { f.body with flags := 0 } } else f)) s

/-- A NAK of the port (R413). -/
def State.nak (s : State) (p : Nat) : State :=
  ((s.emitOut (.linkControl p true (s.link p).expect)).modLink p fun x => { x with nakDue := true }).pumpLink p

/-- The peer's ACK (R413): the link without the flits that it acknowledges, and the nodes whose chunks end with one of them. -/
def Link.ackTo (x : Link) (a : Nat) : Link × List NodeRef :=
  let n := (a + 4096 - x.acked) % 4096
  if n = 0 ∨ x.sent.length < n then (x, [])
  else ({ x with acked := a, resends := 0, sent := x.sent.drop n }, (x.sent.take n).filterMap fun f => f.body.node)

/-- An accepted flit's part in its operation (R412): the link, and the whole payload where the operation ends with it. A flit that
continues no operation is dropped. -/
def Link.gather (x : Link) (response : Bool) (flags : Nat) (payload : List Byte) : Link × Option (List Byte) :=
  let old := if flags.testBit 0 then some [] else if response then x.partRsp else x.partReq
  let x1 : Link := { x with ackDue := true, rxReq := if response then x.rxReq else x.rxReq + 1, rxRsp := if response then x.rxRsp + 1 else x.rxRsp }
  let put (o : Option (List Byte)) : Link := if response then { x1 with partRsp := o } else { x1 with partReq := o }
  match old with
  | none => (x1, none)
  | some bs => if flags.testBit 1 then (put none, some (bs ++ payload)) else (put (some (bs ++ payload)), none)

end Sys2Proof.Machine
end

