-- ==== Sys2Proof/Machine/Fabric.lean ====
section
/-! DEFINITION. What the collective engines and the optical ports share: the ends of runs and transfers (R390, R392, R414), links that
leave UP, and reconfiguration windows (R416, R419). -/
namespace Sys2Proof.Machine

/-! ## Graph slots and runs (R381, R390, R392, R398) -/

def State.graph (s : State) (die slot : Nat) : GraphSlot :=
  match s.fab.graphs.find? fun x => x.die == die && x.slot == slot with
  | some x => x
  | none => ⟨die, slot, [], 0, 0, none, 1, none⟩
def State.setGraph (s : State) (x : GraphSlot) : State :=
  { s with fab := { s.fab with graphs := s.fab.graphs.filter (fun y => !(y.die == x.die && y.slot == x.slot)) ++ [x] } }
def State.modRun (s : State) (die slot : Nat) (f : Run → Run) : State :=
  let g := s.graph die slot
  s.setGraph { g with run := g.run.map f }
def GraphSlot.nodes (g : GraphSlot) : List Node := nodesOf g.bytes g.n
def GraphSlot.node (g : GraphSlot) (m : Nat) : Node := nodeOf ((g.bytes.drop (32 * m)).take 32)

/-- The status word without RUN and DONE (R398). -/
def Run.word (r : Run) : Nat := r.node * 2 ^ 16 + r.mkind * 2 ^ 8 + r.conds.toNat
/-- The status word as COLQ reads it (R398). -/
def GraphSlot.statusWord (g : GraphSlot) : Word :=
  match g.run with
  | some r => BitVec.ofNat 32 (2 ^ 31 + r.word)
  | none => g.status

/-- The slots a COLWAIT waits on. -/
def colSlots (slot : Option Nat) : List Nat :=
  match slot with
  | some k => [k]
  | none => [0, 1]
/-- What a COLWAIT returns once no run is in progress on its slots (R399). -/
def State.colDone (s : State) (die : Nat) (slot : Option Nat) : Option Word :=
  let gs := (colSlots slot).map fun k => s.graph die k
  if gs.any fun g => g.run.isSome then none else some (gs.foldl (fun a g => a ||| g.status) 0)
/-- The die of a group. -/
def dieOfGid (gid : Nat) : Nat := quadOfGid gid / 4

/-- Releases the COLWAITs of a die whose runs have ended (R399). -/
def State.colWake (s : State) (die : Nat) : State :=
  s.waits.foldl (fun s w => match w.kind with
    | .colwait slot reg scope =>
      if dieOfGid w.gid = die then match s.colDone die slot with
        | some x => ((s.wake w).acquireBy w.gid w.lanes scope).giveV w reg x
        | none => s
      else s
    | _ => s) s

/-- Whether a chunk belongs to a run that was the last to end on some slot of its die (R392). -/
def State.isStaleChunk (s : State) (a : Arrived) : Bool :=
  [0, 1].any fun k => (s.graph (a.port / 4) k).last == some (a.chunk.ghash, a.chunk.epoch)

/-- Discards the held chunks of a run that has just ended, each counted (R392). -/
def State.purgeStaging (s : State) (die : Nat) : State :=
  let old := s.fab.staging.filter fun a => a.port / 4 == die && s.isStaleChunk a
  old.foldl (fun s _ => s.count cntChunkDropped)
    { s with fab := { s.fab with staging := s.fab.staging.filter fun a => !(a.port / 4 == die && s.isStaleChunk a) } }

/-- Ends a run once nothing of it is in flight and it is complete or stopped (R390). -/
def State.checkRun (s : State) (die slot : Nat) : State :=
  let g := s.graph die slot
  match g.run with
  | none => s
  | some r =>
    if r.started.all (fun m => r.completed.contains m) && (r.stopped || r.completed.length == g.n) then
      ((s.setGraph { g with run := none, status := BitVec.ofNat 32 (r.word + 1), last := some (g.ghash, r.epoch) }).purgeStaging
        die).colWake die
    else s

/-- The run that a node belongs to, while it is in progress (R390). -/
def State.runOf (s : State) (n : NodeRef) : Option Run :=
  match (s.graph n.die n.slot).run with
  | some r => if r.order = n.run then some r else none
  | none => none

/-- A node meets an end condition: bit `c` of the status word (R390, R398). -/
def State.failNode (s : State) (n : NodeRef) (c mk : Nat) : State :=
  if (s.runOf n).isNone then s
  else (s.modRun n.die n.slot fun r =>
    { r with conds := r.conds ||| BitVec.ofNat 7 (2 ^ c), node := if r.conds = 0 then n.node else r.node,
             mkind := if r.mkind = 0 then mk else r.mkind, stopped := true,
             completed := if r.started.contains n.node then r.completed ++ [n.node] else r.completed }).checkRun n.die n.slot

/-- A port node ends with abort status, which is counted (R414, R421). -/
def State.abortNode (s : State) (n : NodeRef) : State := (s.count cntAbort).failNode n 2 0

/-- A node completes: each valid successor's counter falls, and those that reach 0 become ready (R390). -/
def State.nodeDone (s : State) (n : NodeRef) : State :=
  let g := s.graph n.die n.slot
  match s.runOf n with
  | none => s
  | some r =>
    let deps := (g.node n.node).succs.foldl (fun (d : List Nat) m => d.set m (d.getD m 0 - 1)) r.deps
    let new := (g.node n.node).succs.eraseDups.filter fun m => deps.getD m 1 == 0
    let s1 := s.setGraph { g with run := some { r with deps := deps, completed := r.completed ++ [n.node] } }
    (new.foldl (fun s m => s.send (.nodeStart ⟨n.die, n.slot, m, n.run⟩)) s1).checkRun n.die n.slot

/-- The started port nodes of runs that have not completed and whose port a test picks (R411). -/
def State.flyingNodes (s : State) (f : Nat → Bool) : List NodeRef :=
  s.fab.graphs.flatMap fun g => match g.run with
    | none => []
    | some r => (r.started.filter fun m =>
        !r.completed.contains m && (g.node m).isPort && f (4 * g.die + (g.node m).port)).map fun m => ⟨g.die, g.slot, m, r.order⟩

/-! ## Transfers (R401, R414) -/

/-- Bytes written by an engine, line by line (R309). -/
def State.engineStore (s : State) (ag : Agent) (bytes : List (Nat × Byte × PageKind)) : State :=
  let lines := (bytes.map fun x => lineOf x.1).eraseDups
  lines.foldl (fun s l =>
    let mine := bytes.filter fun x => lineOf x.1 == l
    let kind := match mine with
      | x :: _ => x.2.2
      | [] => .shared
    s.engineWrite ag kind l (mine.map fun x => ⟨x.1 % 128, x.2.1, 0⟩)) s

/-- An RPUT or RGET ends with a status in every lane that took part (R401). -/
def State.endTransfer (s : State) (t : Transfer) (st : Nat) : State :=
  ({ s with fab := { s.fab with transfers := s.fab.transfers.filter fun x => !(x.id == t.id) } }).send
    (.resultReturn ⟨t.id, t.gid, some .mc, 0, (lanesOf t.lanes).map fun l => .v l t.reg (BitVec.ofNat 32 st), []⟩)

/-- What an aborted RGET leaves at its destination (R414): all, some or none of its bytes are written, a free choice, and the value
of one that is written is the peer's, which the part does not know. -/
def State.partGet (s : State) (t : Transfer) : State :=
  let tag (k : Nat) : Nat := 2 ^ 32 + 2 ^ 24 * t.id + k
  if t.put then s
  else s.engineStore (.collective (t.port / 4)) (((List.range t.len).filter fun k => s.coin (tag k)).filterMap fun k =>
    (rangeAt t.pages (t.va.toNat + k)).map fun p => (p.1, BitVec.ofNat 8 (Config.freeValue s.free (tag k)), p.2))

/-- Whether the chunk of a receive node has arrived whole: a link that leaves UP does not end the node (R422). -/
def State.chunkHere (s : State) (n : NodeRef) : Bool :=
  match s.runOf n with
  | some r => r.taken.any fun t => t.1 == n.node
  | none => false

/-- Every operation in flight on a port that still needs flits from its link ends with abort status (R414, R422), and is counted
(R421). -/
def State.abortPort (s : State) (p : Nat) : State :=
  let quiet (f : SentFlit) : SentFlit := { f with body := { f.body with node := none } }
  let s0 : State := (({ s with fab := { s.fab with unacked := s.fab.unacked.filter fun u => !(u.port == p) } } : State).modLink p fun x =>
    { x with reqQ := [], sent := x.sent.map quiet })
  let s1 := (s0.fab.transfers.filter fun t => t.port == p).foldl (fun s t => ((s.count cntAbort).partGet t).endTransfer t 1) s0
  ((s1.flyingNodes fun q => q == p).filter fun n => !s1.chunkHere n).foldl (fun s n => s.abortNode n) s1

/-- A link takes a state other than UP (R414): what was in flight on its port ends, what was partly received is discarded, and so
are the requests of the old circuit that wait here or behind credits (R242). -/
def State.leaveUp (s : State) (p st : Nat) : State :=
  if s.isUp p then
    let s2 := ((s.setLnk p st).optCount p 8 8).modLink p fun x => { x with partReq := none, partRsp := none, sent := [], reqQ := [], rspQ := [] }
    let s3 : State := { s2 with fab := { s2.fab with inbox := s2.fab.inbox.filter fun x => !(x.req.port == p),
                                                     waiting := s2.fab.waiting.filter fun x => !(x.1 == p) } }
    s3.abortPort p
  else s.setLnk p st

/-! ## Frames of the circuit control port (R417 to R419) -/

/-- A number's bytes in network order. -/
def beBytes (n x : Nat) : List Byte := (leBytes n x).reverse

/-- The ones' complement sum of 16-bit words. -/
def onesSum : List Byte → Nat
  | a :: b :: rest => a.toNat * 256 + b.toNat + onesSum rest
  | [a] => a.toNat * 256
  | [] => 0
def fold16 (x : Nat) : Nat := let y := x % 65536 + x / 65536; let z := y % 65536 + y / 65536; z % 65536 + z / 65536
/-- A UDP checksum over IPv6 (R418). -/
def udpSum (src dst : BitVec 128) (udp : List Byte) : Nat :=
  let pseudo := beBytes 16 src.toNat ++ beBytes 16 dst.toNat ++ beBytes 4 udp.length ++ beBytes 4 17
  let c := 65535 - fold16 (onesSum (pseudo ++ udp))
  if c = 0 then 65535 else c

/-- The frame that carries a UDP payload to the controller (R417, R418). -/
def controlFrame (c : PortSettings) (mac : BitVec 48) (payload : List Byte) : List Byte :=
  let len := payload.length + 8
  let head := beBytes 2 c.udp ++ beBytes 2 c.udpPeer ++ beBytes 2 len
  let udp := head ++ beBytes 2 (udpSum c.addr c.controller (head ++ beBytes 2 0 ++ payload)) ++ payload
  let ip := [0x60, 0, 0, 0] ++ beBytes 2 len ++ [17, 64] ++ beBytes 16 c.addr.toNat ++ beBytes 16 c.controller.toNat
  let tag := match c.vlan with
    | some v => beBytes 2 0x8100 ++ beBytes 2 v
    | none => []
  beBytes 6 mac.toNat ++ beBytes 6 c.mac.toNat ++ tag ++ beBytes 2 0x86DD ++ ip ++ udp

/-- A request's payload (R419). -/
def State.requestOf (s : State) (w : Window) (reqId : Nat) : List Byte :=
  beBytes 4 0x57435251 ++ beBytes 4 reqId ++ beBytes 8 s.sys.settings.partId.toNat ++ beBytes 1 w.dom ++ beBytes 1 w.map.length
    ++ beBytes 2 0 ++ beBytes 4 (s.gen w.dom).toNat ++ w.map.flatMap fun x => beBytes 2 (s.swport x.1) ++ beBytes 2 x.2

/-! ## Reconfiguration windows (R416) -/

def State.modWindow (s : State) (id : Nat) (f : Window → Window) : State :=
  { s with fab := { s.fab with windows := s.fab.windows.map fun w => if w.id == id then f w else w } }

/-- Sends a window's request: to the controller's link address when it is known, else the solicitation that asks for it
(R418, R419). -/
def State.sendRequest (s : State) (w : Window) (reqId : Nat) : State :=
  match s.sys.settings.controllerMac with
  | some mac => (s.modWindow w.id fun w => { w with left := true }).emitOut (.frame (controlFrame s.sys.settings mac (s.requestOf w reqId)))
  | none => s.emitOut (.solicitation s.sys.settings.controller)

/-- The controller's link address is known: the requests that waited for it leave, in the order of their windows (R418, R419). -/
def State.learnMac (s : State) (mac : BitVec 48) : State :=
  let s1 : State := { s with sys := { s.sys with settings := { s.sys.settings with controllerMac := some mac } } }
  s1.fab.windows.foldl (fun s w => match w.req with
    | some id => if w.left || w.answer.isSome then s else (s.modWindow w.id fun w => { w with lastSent := s.tick }).sendRequest w id
    | none => s) s1
/-- The ports whose cross-connects a window asks for. -/
def Window.wanted (w : Window) : List Nat := w.map.map fun x => x.1

/-- Whether something is in flight on the ports of a domain (R411). -/
def State.domBusy (s : State) (d : Nat) : Bool :=
  let on (p : Nat) : Bool := s.portDom p == some d
  s.fab.transfers.any (fun t => on t.port) || !(s.flyingNodes on).isEmpty

/-- RECIRC's result in its lanes (R416). -/
def recircWrites (lanes : List Nat) (reg st : Nat) (g : Word) : List RegWrite :=
  lanes.flatMap fun l => [.v l reg (BitVec.ofNat 32 st), .v l (reg + 1) g]

/-- A window closes (R416): the generation rises, the held COLQ reads return it, and the result goes back. -/
def State.closeWindow (s : State) (w : Window) (st : Nat) : State :=
  let g := s.gen w.dom + 1
  let s1 := s.setCsr (genKey w.dom) (g.zeroExtend 64)
  let s2 := s1.releaseBy w.gid w.lanes
  let held := s2.fab.genQueries.filter fun q => q.1 == w.dom
  let fab : Fabric := { s2.fab with windows := s2.fab.windows.filter (fun x => !(x.id == w.id)),
                                    genQueries := s2.fab.genQueries.filter fun q => !(q.1 == w.dom) }
  let s3 := (({ s2 with fab := fab } : State)).send (.resultReturn ⟨w.access, w.gid, some .mc, 0, recircWrites (lanesOf w.lanes) w.reg st g, []⟩)
  held.foldl (fun s q => s.send (.resultReturn ⟨q.2.1, q.2.2.1, some .mc, 0, (lanesOf q.2.2.2.1).map fun l => .v l q.2.2.2.2 g, []⟩)) s3

/-- The drain of a window has ended: its links go down, and its time-out can end it (R416); an empty map closes it. -/
def State.afterDrain (s : State) (w : Window) : State :=
  if w.map = [] then (s.modWindow w.id fun w => { w with drained := true }).closeWindow w 0
  else ((w.wanted.foldl (fun s p => s.leaveUp p lnkDown) s).modWindow w.id fun w => { w with drained := true }).send
    (.reconfigurationTimeOut w.dom w.id)

/-- The request of a drained window leaves (R419). -/
def State.askSwitch (s : State) (w : Window) : State :=
  let id := s.fab.reqCount
  let s1 : State := { s with fab := { s.fab with reqCount := (id + 1) % 2 ^ 32 } }
  ((s1.modWindow w.id fun w => { w with req := some id, lastSent := s1.tick }).sendRequest w id).send (.requestResend w.dom w.id)

/-- Whether every port of a window is UP. -/
def State.allUp (s : State) (w : Window) : Bool := w.wanted.all fun p => s.isUp p

/-- The end of a window's drain, where nothing is in flight any more. -/
def State.pumpDrain (s : State) (id : Nat) : State :=
  match s.fab.windows.find? fun w => w.id == id with
  | none => s
  | some w => if w.drained || (s.domBusy w.dom && !w.cut) then s else s.afterDrain w

/-- A drained window's request, once those of the windows that opened before have left (R419). -/
def State.pumpAsk (s : State) (id : Nat) : State :=
  match s.fab.windows.find? fun w => w.id == id with
  | none => s
  | some w =>
    let earlier := s.fab.windows.takeWhile fun x => !(x.id == id)
    if !w.drained || w.req.isSome || w.map == [] || earlier.any (fun x => x.map != [] && x.req.isNone) then s else s.askSwitch w

/-- The close of a window whose request was answered and whose ports are all UP. -/
def State.pumpClose (s : State) (id : Nat) : State :=
  match s.fab.windows.find? fun w => w.id == id with
  | none => s
  | some w => match w.answer with
    | none => s
    | some a => if w.drained && s.allUp w then s.closeWindow w a else s

/-- Moves one window on: the end of its drain, its request, its close (R416). -/
def State.pumpOne (s : State) (id : Nat) : State := ((s.pumpDrain id).pumpAsk id).pumpClose id

/-- Moves every window on, oldest first. -/
def State.pumpWindows (s : State) : State := (s.fab.windows.map fun w => w.id).foldl State.pumpOne s

/-- A port's EN goes from 1 to 0 (R407): its operations end, its link goes DOWN, and its domain's generation rises, at the
close of a window that is open. -/
def State.portOff (s : State) (p d : Nat) : State :=
  let s1 := s.leaveUp p lnkDown
  let s2 := s1.abortPort p
  (if s2.winOpen d then s2 else s2.setCsr (genKey d) ((s2.gen d + 1).zeroExtend 64)).pumpWindows

end Sys2Proof.Machine
end

