-- ==== Sys2Proof/Machine/Collective.lean ====
section
/-! DEFINITION. The collective engine (R381 to R404): COLLOAD, COLRUN, COLWAIT, COLQ, RPUT, RGET, the nodes of a run, the
chunks that arrive and a peer's one-sided requests. -/
namespace Sys2Proof.Machine

/-! ## Issue (R383) -/

/-- Issues an instruction of the collective engine of the issuing die (R383). -/
def issueCol (s : State) (c : Ctl) (ctr : Option Ctr) (names : List Nat) (writes : Nat) (body : State → Iss → Nat → State) : Answer :=
  issue s c ctr names writes fun s i =>
    let die := dieOfGid i.gid
    if s.holdsDie (s.group i.gid).part die then body s i die else s.trapAll i 0x13 (quadOfGid i.gid)

/-- One result for every lane that takes part, counted in MC. -/
def State.mcResult (s : State) (i : Iss) (reg : Nat) (x : Word) : State := s.later i.gid i.id .mc (i.lanes.map fun l => .v l reg x)

/-- A stale-topology trap: the current generation stands in %xinfoh (R379, R410). -/
def State.staleTrap (s : State) (i : Iss) (d : Nat) (g : Word) : State := s.trap i.gid i.lanes (i.cx.at_ 0x38 (s.gen d ++ g))

/-- Bytes read by an engine over translated pages (R309), each line once; none on an uncorrectable error. -/
def State.engineBytes (s : State) (pages : List (Nat × Nat × PageKind)) (va n : Nat) : State × Option (List Byte) :=
  let at_ (k : Nat) : Nat × PageKind := (rangeAt pages (va + k)).getD (0, .shared)
  let lines := ((List.range n).map fun k => (lineOf (at_ k).1, (at_ k).2)).eraseDups
  let part (line : Nat) : Nat × Nat :=
    let offs := (List.range n).filterMap fun k => if lineOf (at_ k).1 = line then some ((at_ k).1 % 128) else none
    (offs.foldl Nat.min 127, offs.foldl Nat.max 0 + 1 - offs.foldl Nat.min 127)
  let r := lines.foldl (fun (r : State × List (Nat × BitVec 1024) × Bool) x => match r.1.engineRead x.1 (part x.1).1 (part x.1).2 x.2 with
    | (s1, some d) => (s1, r.2.1 ++ [(x.1, d)], r.2.2)
    | (s1, none) => (s1, r.2.1, false)) (s, [], true)
  if r.2.2 then (r.1, some ((List.range n).map fun k => byteOf ((r.2.1.lookup (lineOf (at_ k).1)).getD 0) ((at_ k).1 % 128))) else (r.1, none)

/-- The walker of a collective operation of a group: its engine reaches the quadrant-local pages of its die (R160). -/
def State.colWalker (s : State) (gid die : Nat) : Walker := { s.laneWalker gid with die := some die }

/-! ## COLLOAD (R387) -/

def execColload (f : EF) (s : State) : Answer :=
  issueCol s f.ctl (some .mc) [f.a.toNat] 0 fun s i die =>
    let a := (s.readG i.gid f.b.toNat).toNat
    let c := s.readG i.gid f.c.toNat
    let n := bits c 12 0
    let slot := f.x.toNat
    if a % 128 ≠ 0 then s.trapAll i 0x10 a
    else match s.checkRange i .engineRead a (32 * n) with
      | (s1, none) => s1
      | (s1, some pages) =>
        let g := s1.graph die slot
        if g.run.isSome then s1.mcResult i f.a.toNat 1
        else if n = 0 ∨ 4096 < n ∨ bits c 31 13 ≠ 0 then (s1.setGraph { g with bytes := [], n := 0, ghash := 0, status := 1 }).mcResult i f.a.toNat 2
        else
          let r := s1.engineBytes pages a (32 * n)
          let empty : GraphSlot := { g with bytes := [], n := 0, ghash := 0, status := 1 }
          match r.2 with
          | none => (r.1.setGraph empty).mcResult i f.a.toNat 3
          | some bs => match failingNode (nodesOf bs n) with
            | some m => (r.1.setGraph empty).mcResult i f.a.toNat (BitVec.ofNat 32 (2 + m * 2 ^ 16))
            | none => (r.1.setGraph { g with bytes := bs, n := n, ghash := hi32 c, status := 1 }).mcResult i f.a.toNat 0

/-! ## Matching chunks (R392) -/

/-- The earliest receive node on a port and channel that has not taken a chunk (R392). -/
def GraphSlot.openRecv (g : GraphSlot) (port chan : Nat) : Option Nat :=
  match g.run with
  | none => none
  | some r =>
    let nodes := g.nodes
    let cands := (List.range nodes.length).filter fun m =>
      let n := g.node m
      n.isRecv && n.port == port && n.chan == chan && !(r.taken.any fun t => t.1 == m) && !r.completed.contains m
    cands.find? fun m => cands.all fun j => j == m || (reaches nodes m).contains j

/-- The run that takes a chunk: its slot and node (R392). -/
def State.matchChunk (s : State) (a : Arrived) : Option (Nat × Nat) :=
  let die := a.port / 4
  let fit (k : Nat) : Option Nat := (s.graph die k).openRecv (a.port % 4) a.chunk.chan
  let own (k : Nat) : Bool := match (s.graph die k).run with
    | some r => (s.graph die k).ghash == a.chunk.ghash && r.epoch == a.chunk.epoch
    | none => false
  let order (k : Nat) : Nat := match (s.graph die k).run with
    | some r => r.order
    | none => 0
  match fit 0, fit 1 with
  | none, none => none
  | some m, none => some (0, m)
  | none, some m => some (1, m)
  | some m0, some m1 =>
    if own 0 && !own 1 then some (0, m0) else if own 1 && !own 0 then some (1, m1)
    else if order 0 ≤ order 1 then some (0, m0) else some (1, m1)

def State.takeChunk (s : State) (a : Arrived) (slot node : Nat) : State :=
  s.modRun (a.port / 4) slot fun r => { r with taken := r.taken ++ [(node, a)] }

/-- The held chunks of a die are matched in arrival order (R392). -/
def State.matchHeld (s : State) (die : Nat) : State :=
  s.fab.staging.foldl (fun s a =>
    if a.port / 4 = die then match s.matchChunk a with
      | some x => ({ s with fab := { s.fab with staging := s.fab.staging.filter fun b => !(b.num == a.num) } } : State).takeChunk a x.1 x.2
      | none => s
    else s) s

/-- Bytes of receive staging (R382). -/
def stagingBytes : Nat := 256000
/-- Staging in use on a die. -/
def State.staged (s : State) (die : Nat) : Nat := ((s.fab.staging.filter fun a => a.port / 4 == die).map fun a => a.chunk.payload.length).sum

/-- A chunk arrives: it is matched, discarded or staged (R392); none while staging is full. -/
def State.chunkIn (s : State) (port : Nat) (c : Chunk) : Option State :=
  let a : Arrived := ⟨s.nextId, port, c⟩
  let s1 := s.newId
  match s.matchChunk a with
  | some x => some (s1.takeChunk a x.1 x.2)
  | none =>
    if s.isStaleChunk a then some (s.count cntChunkDropped)
    else if stagingBytes < s.staged (port / 4) + c.payload.length then none
    else some { s1 with fab := { s1.fab with staging := s1.fab.staging ++ [a] } }

/-- What a peer sent arrives at its port; none where it stays behind withheld credits (R392, R413). -/
def State.portIn (s : State) : Instr → Option State
  | .chunkArrival port c => s.chunkIn port c
  | .remoteRequest r => some { s.newId with fab := { s.fab with inbox := s.fab.inbox ++ [⟨s.nextId, r, false⟩] } }
  | _ => some s

/-- Takes what waits at a port in the order in which it was sent, until something has to wait (R392). `fuel` bounds it. -/
def State.admitPort : Nat → State → Nat → State
  | 0, s, _ => s
  | fuel + 1, s, p =>
    match s.fab.waiting.findIdx? fun x => x.1 == p with
    | none => s
    | some k => match s.fab.waiting[k]? with
      | none => s
      | some x => match ({ s with fab := { s.fab with waiting := s.fab.waiting.eraseIdx k } } : State).portIn x.2 with
        | none => s
        | some s1 => State.admitPort fuel s1 p
def State.takeIn (s : State) : State :=
  (s.fab.waiting.map fun x => x.1).eraseDups.foldl (fun s p => s.admitPort (s.fab.waiting.length + 1) p) s

/-! ## COLRUN (R388, R389) -/

/-- Starts a run (R389 step 6, R390). -/
def State.startRun (s : State) (i : Iss) (die : Nat) (g : GraphSlot) (bases : List DWord) (c : DWord) : State :=
  let w := s.laneWalker i.gid
  let epoch := c.extractLsb' 48 16
  let r : Run := ⟨(s.group i.gid).lid, bases, lo32 c, bits c 36 32, epoch, g.nodes.map fun n => n.dep, [], [], [], 0, 0, 0, false, i.id,
    w.part, w.space, w.root⟩
  let clear (x : GraphSlot) : GraphSlot := if x.die = die ∧ x.last = some (g.ghash, epoch) then { x with last := none } else x
  let s1 := s.setGraph { g with run := some r }
  let s2 : State := { s1 with fab := { s1.fab with graphs := s1.fab.graphs.map clear } }
  let s3 := s2.matchHeld die
  ((List.range g.n).filter fun m => (g.node m).dep == 0).foldl (fun s m => s.send (.nodeStart ⟨die, g.slot, m, i.id⟩)) s3

def execColrun (f : EF) (s : State) : Answer :=
  issueCol s f.ctl (some .mc) [f.a.toNat] 0 fun s0 i die =>
    let s := s0.releaseBy i.gid (maskOf i.lanes)
    let c := s.readG i.gid f.c.toNat
    let g := s.graph die f.x.toNat
    let bases := (List.range 8).map fun k => s.readG i.gid (f.b.toNat + k)
    let d := bits c 36 32
    let ports := (g.nodes.filter Node.isPort).map fun n => 4 * die + n.port
    let give (x : Word) : State := s.mcResult i f.a.toNat x
    if g.n = 0 ∨ bits c 47 37 ≠ 0 then give 2
    else if g.run.isSome then give 1
    else if ports ≠ [] ∧ (s.domOwner d ≠ some (s.group i.gid).part
        ∨ (ports.any fun p => match s.portDom p with
            | some e => !s.domEn e
            | none => true) = true) then s.trapAll i 0x13 d
    else if ports ≠ [] ∧ s.genOk d (lo32 c) = false then s.staleTrap i d (lo32 c)
    else if (ports.any fun p => s.portDom p != some d) then give 3
    else match (g.nodes.flatMap fun n => n.addrs bases).find? fun a => a.toNat % 32 != 0 with
      | some a => s.trapAll i 0x10 a.toNat
      | none => (s.startRun i die g bases c).mcResult i f.a.toNat 0

/-! ## COLWAIT, COLQ (R399) -/

/-- FLAGS: [3:1] SC, [0] ALL. -/
def execColwait (f : EF) (s : State) : Answer :=
  issueCol s f.ctl none [f.a.toNat] 1 fun s i die =>
    let slot := if f.flags.getLsbD 0 then none else some f.x.toNat
    match s.colDone die slot with
    | some x => ((s.resumed i.gid).acquireBy i.gid (maskOf i.lanes) (scopeOf f.sc)).giveAll i f.a.toNat x
    | none => s.park i.cx i.lanes (.colwait slot f.a.toNat (scopeOf f.sc))

/-- FLAGS: [0] KIND. -/
def execColq (f : EF) (s : State) : Answer :=
  issueCol s f.ctl (some .mc) [f.a.toNat] 0 fun s i die =>
    if f.flags.getLsbD 0 then
      let d := bits (s.readG i.gid f.b.toNat) 4 0
      if s.domOwner d ≠ some (s.group i.gid).part then s.trapAll i 0x13 d
      else if s.winOpen d then
        let s1 := s.bump i.gid .mc
        { s1 with fab := { s1.fab with genQueries := s1.fab.genQueries ++ [(d, i.id, i.gid, maskOf i.lanes, f.a.toNat)] } }
      else s.mcResult i f.a.toNat (s.gen d)
    else s.mcResult i f.a.toNat (s.graph die f.x.toNat).statusWord

/-! ## RPUT, RGET (R400, R401) -/

/-- RPUT and RGET; `put` tells them apart. -/
def remoteOp (f : EF) (put : Bool) (s : State) : Answer :=
  issueCol s f.ctl (some .mc) [f.a.toNat] 0 fun s0 i die =>
    let s := s0.releaseBy i.gid (maskOf i.lanes)
    let x := s.readG i.gid f.x.toNat
    let len := bits x 23 0
    let va := (s.readG i.gid f.b.toNat)
    let rem := (s.readG i.gid f.c.toNat)
    let stop := va + BitVec.ofNat 64 len
    let port := 4 * die + f.imm8.toNat % 4
    let dom := (s.csr (portcfgKey port)).toNat / 2 ^ 8 % 32
    if bits x 31 24 ≠ 0 then s.trapAll i 0x10 stop.toNat
    else if len = 0 then s.mcResult i f.a.toNat 0
    else if va.toNat % 32 ≠ 0 then s.trapAll i 0x10 va.toNat
    else if stop.toNat % 32 ≠ 0 then s.trapAll i 0x10 stop.toNat
    else if rem.toNat % 32 ≠ 0 then s.trapAll i 0x10 rem.toNat
    else if s.portDom port = none ∨ s.domOwner dom ≠ some (s.group i.gid).part then s.trapAll i 0x13 dom
    else if s.genOk dom (hi32 x) = false then s.staleTrap i dom (hi32 x)
    else match s.checkRangeBy (s.colWalker i.gid die) i (if put then .engineRead else .engineWrite) va.toNat len with
      | (s1, none) => s1
      | (s1, some pages) =>
        if !s1.isUp port then (s1.count cntAbort).mcResult i f.a.toNat 1
        else
          let t : Transfer := ⟨i.id, port, put, i.gid, (s1.group i.gid).part, va, len, maskOf i.lanes, f.a.toNat, (s1.group i.gid).lid, pages⟩
          let fly (s : State) : State :=
            let s2 := s.bump i.gid .mc
            { s2 with fab := { s2.fab with transfers := s2.fab.transfers ++ [t] } }
          if put then match s1.engineBytes pages va.toNat len with
            | (s2, none) => s2.mcResult i f.a.toNat 3
            | (s2, some bs) => (fly s2).sendRequestOut port true i.id rem len bs
          else (fly s1).sendRequestOut port false i.id rem len []

def execRput (f : EF) (s : State) : Answer := remoteOp f true s
def execRget (f : EF) (s : State) : Answer := remoteOp f false s

/-- The peer's answer to an RPUT or RGET (R401). RGET's bytes are written before its status returns. -/
def State.remoteAnswered (s : State) (d : RemoteDone) : State :=
  match s.fab.transfers.find? fun t => t.id == d.xfer with
  | none => s
  | some t =>
    let s1 := if t.put || d.status != 0 then s
      else s.engineStore (.collective (t.port / 4)) ((List.range t.len).filterMap fun k =>
        (rangeAt t.pages (t.va.toNat + k)).map fun p => (p.1, d.data.getD k 0, p.2))
    (s1.endTransfer t d.status).pumpWindows

/-- REMOTE_TRANSFER_COMPLETE (R401). -/
def execRemoteTransferComplete (d : RemoteDone) (s : State) : Answer := .next (s.remoteAnswered d)

/-! ## A peer's requests (R401, R404) -/

/-- Whether something that writes was delivered on a port before `num` and has not written yet (R404): a peer's RPUT, a chunk that
no node has taken (log entry 56), or the chunk of a receive node that still writes: one that has not started in a run that has stopped
never does (R390). -/
def State.writesBefore (s : State) (port num : Nat) : Bool :=
  (s.fab.inbox.any fun x => x.req.port == port && x.req.put && decide (x.num < num))
    || (s.fab.staging.any fun a => a.port == port && decide (a.num < num))
    || s.fab.graphs.any fun g => match g.run with
      | none => false
      | some r => r.taken.any fun t => t.2.port == port && decide (t.2.num < num) && !r.completed.contains t.1
        && (!r.stopped || r.started.contains t.1)

/-- An engine's walk stopped after issue (R374): its operation is held, and the record is on its way. -/
def State.engineStop (s : State) (part gid agent lid : Nat) (held : Option Instr) (va : Nat) (acc : Access) (lv : Nat) (bad : Bool) : State :=
  let id := s.ms.nextPark
  let s1 : State := { s with ms := { s.ms with nextPark := id + 1, parked := s.ms.parked ++ [⟨id, part, gid, agent, lid, false, held⟩] } }
  s1.send (.pageFault ⟨gid, 0, BitVec.ofNat 64 va, acc, lv, bad, agent, id⟩)

/-- One delivered request (R401): a failed check is refused before any byte is written. -/
def State.serveOne (s : State) (x : Inbound) : State :=
  let r := x.req
  let p := s.ownerOf r.port
  let w := s.kernelWalker (424 + r.port) p none
  let acc : Access := if r.put then .engineWrite else .engineRead
  let drop (s : State) : State := { s with fab := { s.fab with inbox := s.fab.inbox.filter fun y => !(y.num == x.num) } }
  let answer (s : State) (st : Nat) (bs : List Byte) : State := (drop s).sendAnswerOut r.port r.tag st bs
  match s.xlateRange { w with die := some (r.port / 4) } acc (r.len / 4096 + 2) r.addr.toNat (r.addr.toNat + r.len) with
  | (s1, .error (a, .stop lv bad)) =>
    let hold : State := { s1 with fab := { s1.fab with inbox := s1.fab.inbox.map fun y => if y.num == x.num then { y with held := true } else y } }
    hold.engineStop p 0 (424 + r.port) 0 none a acc lv bad
  | (s1, .error _) => answer s1 2 []
  | (s1, .ok pages) =>
    if r.put then
      answer (s1.engineStore (.collective (r.port / 4)) ((List.range r.len).filterMap fun k =>
        (rangeAt pages (r.addr.toNat + k)).map fun q => (q.1, r.data.getD k 0, q.2))) 0 []
    else match s1.engineBytes pages r.addr.toNat r.len with
      | (s2, none) => answer s2 3 []
      | (s2, some bs) => answer s2 0 bs

/-- Serves the delivered requests, each RPUT once what was delivered before it has been written (R404). `fuel` bounds them. -/
def State.serveInbox : Nat → State → State
  | 0, s => s
  | fuel + 1, s =>
    match s.fab.inbox.find? fun x => !x.held && !(x.req.put && s.writesBefore x.req.port x.num) with
    | none => s
    | some x => State.serveInbox fuel (s.serveOne x)

/-- What waits at the ports goes on as far as it can. -/
def State.servePorts (s : State) : State :=
  let s1 := s.takeIn
  State.serveInbox (s1.fab.inbox.length + 1) s1

/-- What a port's peer sent reaches the part on a link that is UP, behind what waits there (R404, R414). -/
def State.delivered (s : State) (port : Nat) (i : Instr) : State :=
  if s.isUp port then ({ s with fab := { s.fab with waiting := s.fab.waiting ++ [(port, i)] } } : State).servePorts else s

/-- CHUNK_ARRIVAL (R392): a chunk of a port's peer. -/
def execChunkArrival (port : Nat) (c : Chunk) (s : State) : Answer := .next (s.delivered port (.chunkArrival port c))

/-- REMOTE_REQUEST (R401): a peer's RPUT or RGET. -/
def execRemoteRequest (r : RemoteReq) (s : State) : Answer := .next (s.delivered r.port (.remoteRequest r))

/-! ## Nodes (R390, R396, R397) -/

/-- NODE_START (R390, R396, R397): a ready node starts, in ascending index, or meets an end condition. -/
def execNodeStart (n : NodeRef) (s : State) : Answer :=
  let g := s.graph n.die n.slot
  match s.runOf n with
  | none => .next s
  | some r =>
    let ready (m : Nat) : Bool := r.deps.getD m 1 == 0 && !r.started.contains m
    let nd := g.node n.node
    if r.stopped || !ready n.node then .next s
    else if (List.range n.node).any ready then .next (s.send (.nodeStart n))
    else if nd.isPort && !s.genOk r.dom r.gen then .next (s.failNode n 1 0).pumpWindows.servePorts
    else
      let s1 := s.modRun n.die n.slot fun r => { r with started := r.started ++ [n.node] }
      if nd.spa && dieOf (nd.aoff % 512) != n.die then .next (s1.failNode n 4 0).pumpWindows.servePorts
      else .next (s1.send (.nodeComplete n))

/-- What one operand of a node found: its granules' places. -/
inductive Found where
  | ok (s : State) (pages : List (Nat × Nat × PageKind))
  | fail (s : State)
  | hold (s : State)
  deriving DecidableEq, Repr

/-- Translates the granules that a node touches through the engine's TLB (R390); a missing translation holds the node, any
other failure, a locked gate among them (R432), ends the run with ACCESS. -/
def State.nodePages (s : State) (n : NodeRef) (r : Run) (acc : Access) (addrs : List Nat) : Found :=
  let w : Walker := ⟨416 + n.die, r.part, r.space, r.root, true, none, some n.die, []⟩
  let grans := sortBy (fun (a b : Nat) => decide (a ≤ b)) ((addrs.map fun a => a / 4096).eraseDups)
  grans.foldl (fun (o : Found) g => match o with
    | .ok s l =>
      let a := (addrs.filter fun a => a / 4096 == g).foldl Nat.min (4096 * g + 4095)
      (match s.xlate w (BitVec.ofNat 64 a) acc with
      | (s1, .ok pa k) => if s1.gateStops (4 * n.die) (s1.servedBy k pa) then .fail s1 else .ok s1 (l ++ [(a, pa, k)])
      | (s1, .trap _) => .fail s1
      | (s1, .stop lv bad) => .hold (s1.engineStop r.part 0 (416 + n.die) r.lid (some (.nodeComplete n)) a acc lv bad))
    | x => x) (.ok s [])

/-- The addresses from `a` upward. -/
def spanFrom (a : DWord) (n : Nat) : List Nat := (List.range n).map fun k => (a + BitVec.ofNat 64 k).toNat

/-- The oldest pushed slot of a tile queue, in SEQ order (R396). -/
def State.oldestTile (s : State) (core : Nat) : Option Tile := (s.tilesOf core).head?

/-- Runs a continuation on the granules of an operand. -/
def Found.andThen (o : Found) (fail : State → State) (k : State → List (Nat × Nat × PageKind) → State) : State :=
  match o with
  | .ok s l => k s l
  | .fail s => fail s
  | .hold s => s

/-- Sends a node's chunk, which completes when the peer has acknowledged it (R422), or ends its run with ABORT where the link
is not UP (R391, R414). -/
def State.sendChunk (s : State) (n : NodeRef) (nd : Node) (g : GraphSlot) (r : Run) (payload : List Byte) : State :=
  let port := 4 * n.die + nd.port
  if s.isUp port then
    let c : Chunk := ⟨nd.chan, nd.count, nd.ty, nd.op, if nd.op = 4 then nd.km1 + 1 else 0, g.ghash, r.epoch, payload⟩
    ({ s with fab := { s.fab with unacked := s.fab.unacked ++ [⟨port, n⟩] } } : State).sendChunkOut port c n
  else s.abortNode n

/-- Writes a node's bytes over translated granules; the node completes when they have performed (R390). -/
def State.nodeWrite (s : State) (n : NodeRef) (pages : List (Nat × Nat × PageKind)) (bytes : List (Nat × Byte)) : State :=
  s.engineStore (.collective n.die) (bytes.filterMap fun x => (rangeAt pages x.1).map fun p => (p.1, x.2, p.2))

/-- A node whose operand A is a tile-queue slot (R396). -/
def State.tileNode (s : State) (n : NodeRef) (nd : Node) (g : GraphSlot) (r : Run) : State :=
  let core := nd.aoff % 512
  match s.oldestTile core with
  | none => s.send (.nodeComplete n)
  | some t =>
    if !t.complete then s.send (.nodeComplete n)
    else if t.tag ≠ nd.aoff / 2 ^ 16 % 256 ∨ t.ty ≠ nd.ty ∨ 4096 * nd.es < nd.bytes then s.failNode n 6 0
    else
      let free (s : State) : State := { s with eng := { s.eng with tiles := s.eng.tiles.filter fun x => !(x.id == t.id) } }
      let data := t.data.take nd.bytes
      if nd.op = 0 then (free s).sendChunk n nd g r data
      else
        let at_ := spanFrom (opAddr r.bases nd.doff nd.db) nd.bytes
        (s.nodePages n r .engineWrite at_).andThen (fun s => s.failNode n 4 0) fun s pages => ((free s).nodeWrite n pages (at_.zip data)).nodeDone n

/-- Reads operand bytes or ends the run with DATAERR (R390). -/
def State.nodeRead (s : State) (n : NodeRef) (pages : List (Nat × Nat × PageKind)) (va : Nat) (len : Nat) (k : State → List Byte → State) : State :=
  match s.engineBytes pages va len with
  | (s1, none) => s1.failNode n 5 0
  | (s1, some bs) => k s1 bs

/-- REDUCE and COPY (R385). -/
def State.elemNode (s : State) (n : NodeRef) (nd : Node) (r : Run) : State :=
  let a := opAddr r.bases nd.aoff nd.ab
  let b := if nd.usesB then opAddr r.bases nd.boff nd.bb else a
  let d := opAddr r.bases nd.doff nd.db
  let access (s : State) : State := s.failNode n 4 0
  (s.nodePages n r .engineRead (spanFrom a nd.bytes)).andThen access fun s pa =>
    (s.nodePages n r .engineRead (spanFrom b nd.bytes)).andThen access fun s pb =>
      (s.nodePages n r .engineWrite (spanFrom d nd.bytes)).andThen access fun s pd =>
        s.nodeRead n pa a.toNat nd.bytes fun s _ => s.nodeRead n pb b.toNat nd.bytes fun s _ =>
          let place (pages : List (Nat × Nat × PageKind)) (va : DWord) (k : Nat) : Nat :=
            match rangeAt pages (va + BitVec.ofNat 64 k).toNat with
            | some x => x.1
            | none => 0
          let mem (q : Nat) : Byte := byteOf (s.current (lineOf q)) (q % 128)
          let out := runElems nd.es (fun x y => if nd.op = 3 then x else nd.combine x y) mem (place pa a) (place pb b) (place pd d)
            (List.range nd.count) []
          let bytes := (spanFrom d nd.bytes).filterMap fun va => match rangeAt pd va with
            | some x => (out.lookup x.1).map fun v => (va, v)
            | none => none
          (s.nodeWrite n pd bytes).nodeDone n

/-- SEND and SPARSE_SEND (R385, R394). -/
def State.sendNode (s : State) (n : NodeRef) (nd : Node) (g : GraphSlot) (r : Run) : State :=
  let a := opAddr r.bases nd.aoff nd.ab
  let at_ := spanFrom a nd.bytes
  let access (s : State) : State := s.failNode n 4 0
  (s.nodePages n r .engineRead at_).andThen access fun s pa =>
    (if nd.resid then s.nodePages n r .engineWrite at_ else .ok s pa).andThen access fun s pw =>
      s.nodeRead n pa a.toNat nd.bytes fun s bs =>
        if nd.op = 0 then s.sendChunk n nd g r bs
        else
          let blocks := (List.range (nd.count / 256)).map fun b => (b, sparseBlock nd.es (nd.km1 + 1) nd.ty
            ((List.range 256).map fun i => fieldAt bs ((256 * b + i) * nd.es) nd.es))
          let zero := blocks.flatMap fun x => x.2.2.flatMap fun i => (List.range nd.es).map fun k =>
            ((a + BitVec.ofNat 64 ((256 * x.1 + i) * nd.es + k)).toNat, (0 : Byte))
          let payload := blocks.flatMap fun x => x.2.1
          if s.isUp (4 * n.die + nd.port) then ((if nd.resid then s.nodeWrite n pw zero else s).sendChunk n nd g r payload)
          else s.abortNode n

/-- RECV and SCATTER_ADD, once the node has its chunk (R385, R393, R395). -/
def State.recvNode (s : State) (n : NodeRef) (nd : Node) (g : GraphSlot) (r : Run) (c : Chunk) : State :=
  let d := opAddr r.bases nd.doff nd.db
  let mk := mkindOf nd g.ghash r.epoch c
  let access (s : State) : State := s.failNode n 4 0
  if mk ≠ 0 then s.failNode n 3 mk
  else if nd.op = 1 then
    let at_ := spanFrom d nd.bytes
    (s.nodePages n r .engineWrite at_).andThen access fun s pd => (s.nodeWrite n pd (at_.zip (c.payload.take nd.bytes))).nodeDone n
  else
    let el := sparseElems nd.es (nd.km1 + 1) (nd.count / 256) c.payload
    let where_ (i k : Nat) : Nat := (d + BitVec.ofNat 64 (i * nd.es + k)).toNat
    let at_ := el.flatMap fun x => (List.range nd.es).map fun k => where_ x.1 k
    (s.nodePages n r .engineRead at_).andThen access fun s _ =>
      (s.nodePages n r .engineWrite at_).andThen access fun s pd =>
        -- each touched element is one read
        let read := el.foldl (fun (q : State × Bool) x => if !q.2 then q else
          let p := (rangeAt pd (where_ x.1 0)).getD (0, .shared)
          match q.1.engineRead (lineOf p.1) (p.1 % 128) nd.es p.2 with
          | (s1, some _) => (s1, true)
          | (s1, none) => (s1, false)) (s, true)
        if !read.2 then read.1.failNode n 5 0
        else
          let s := read.1
          let byteAt (va : Nat) : Byte := match rangeAt pd va with
            | some p => byteOf (s.current (lineOf p.1)) (p.1 % 128)
            | none => 0
          let bytes := el.flatMap fun x =>
            let old := leNat ((List.range nd.es).map fun k => byteAt (where_ x.1 k))
            let v := nd.combine old x.2
            (List.range nd.es).map fun k => (where_ x.1 k, BitVec.ofNat 8 (v / 2 ^ (8 * k)))
          (s.nodeWrite n pd bytes).nodeDone n

/-- NODE_COMPLETE (R390): a started node's data moves and it completes, waits, or meets an end condition. -/
def execNodeComplete (n : NodeRef) (s : State) : Answer :=
  let g := s.graph n.die n.slot
  match s.runOf n with
  | none => .next s
  | some r =>
    let nd := g.node n.node
    let port := 4 * n.die + nd.port
    if !r.started.contains n.node || r.completed.contains n.node then .next s
    else
      let s1 : State :=
        if nd.spa then s.tileNode n nd g r
        else if nd.isSend then s.sendNode n nd g r
        else if nd.isRecv then match r.taken.lookup n.node with
          | some a => if s.writesBefore port a.num then s.send (.nodeComplete n) else s.recvNode n nd g r a.chunk
          | none => if s.isUp port then s.send (.nodeComplete n) else s.abortNode n
        else s.elemNode n nd r
      .next s1.pumpWindows.servePorts

end Sys2Proof.Machine
end

