-- ==== Sys2Proof/Machine/Optics.lean ====
section
/-! DEFINITION. Optical ports and circuit reconfiguration (R405 to R421): RECIRC, the events of windows, links, flits and the
circuit control port, and the writes of OPT_PORTCFG and OPT_DOMCTL. -/
namespace Sys2Proof.Machine

/-! ## RECIRC (R415, R416) -/

/-- The map's words that ask for a cross-connect: port and PEER. -/
def mapWords (bs : List Byte) : List (Nat × Nat) :=
  (List.range 32).filterMap fun p =>
    let w := fieldAt bs (4 * p) 4
    if 2 ^ 31 ≤ w then some (p, w % 2 ^ 16) else none

/-- The map's checks (R416); `c` is g(C). -/
def State.mapOk (s : State) (d : Nat) (c : DWord) (bs : List Byte) : Bool :=
  let words := mapWords bs
  let own := ((List.range 32).filter fun p => (s.csr (portcfgKey p)).getLsbD 0).map fun p => s.swport p
  (List.range 32).all (fun p => fieldAt bs (4 * p) 4 / 2 ^ 16 % 2 ^ 15 == 0) && bits c 31 5 == 0
    && words.all (fun x => s.portDom x.1 == some d && !own.contains x.2)
    && (words.map fun x => x.2).eraseDups.length == words.length

/-- Opens a window on a domain (R416): under `.abort` what is in flight ends at once, else it drains. -/
def State.openWindow (s : State) (i : Iss) (d reg : Nat) (abort : Bool) (map : List (Nat × Nat)) : State :=
  let s1 := (s.setCsr (genKey d) (s.csr (genKey d) ||| 0x100000000)).bump i.gid .mc
  let w : Window := ⟨i.id, d, s1.tick, false, abort, map, none, none, i.gid, i.id, reg, maskOf i.lanes, 0, false⟩
  let s2 : State := { s1 with fab := { s1.fab with windows := s1.fab.windows ++ [w] } }
  let s3 := if abort then (s2.portsOf d).foldl State.abortPort s2 else s2.send (.drainTimeOut d i.id)
  s3.pumpWindows

/-- RECIRC (R416). A map that an uncorrectable error spoils reads as free values. FLAGS: [0] ABT. -/
def execRecirc (f : EF) (s : State) : Answer :=
  issue s f.ctl (some .mc) (vNames true f.a) 0 fun s i =>
    let a := s.readG i.gid f.b.toNat
    let c := s.readG i.gid f.c.toNat
    let d := bits c 4 0
    let reg := f.a.toNat
    if a.toNat % 128 ≠ 0 then s.trapAll i 0x10 a.toNat
    else if s.domOwner d ≠ some (s.group i.gid).part then s.trapAll i 0x13 d
    else match s.checkOne i .read a with
      | (s1, none) => s1
      | (s1, some (pa, k)) =>
        let r := s1.engineRead (lineOf pa) 0 128 k
        let s2 := r.1
        let bs := match r.2 with
          | some l => bytesOf l 0 128
          | none => (List.range 128).map fun n => BitVec.ofNat 8 (Config.freeValue s2.free (1024 + n))
        let refuse (st : Nat) : State := s2.later i.gid i.id .mc (recircWrites i.lanes reg st (s2.gen d))
        if s2.winOpen d then refuse 5
        else if s2.gen d ≠ hi32 c then refuse 4
        else if !s2.mapOk d c bs then refuse 3
        else s2.openWindow i d reg (f.flags.getLsbD 0) (mapWords bs)

/-! ## The events of a window (R416, R419) -/

def State.window (s : State) (id : Nat) : Option Window := s.fab.windows.find? fun w => w.id == id
def State.dto (s : State) (d : Nat) : Nat := (s.csr (domctlKey d)).toNat / 2 ^ 40
def State.rto (s : State) (d : Nat) : Nat := (s.csr (domctlKey d)).toNat / 2 ^ 8 % 2 ^ 32

/-- DRAIN_TIME_OUT (R416): what still runs DTO ticks after the window opened ends with abort status. -/
def execDrainTimeOut (dom win : Nat) (s : State) : Answer :=
  match s.window win with
  | none => .next s
  | some w =>
    if w.drained then .next s
    else if s.tick < w.t0 + s.dto dom then .next (s.send (.drainTimeOut dom win))
    else .next (((s.portsOf dom).foldl State.abortPort s).modWindow win fun w => { w with cut := true }).pumpWindows.servePorts

/-- RECONFIGURATION_TIME_OUT (R416): ports that are not UP go on training. -/
def execReconfigurationTimeOut (dom win : Nat) (s : State) : Answer :=
  match s.window win with
  | none => .next s
  | some w =>
    if s.tick < w.t0 + s.rto dom then .next (s.send (.reconfigurationTimeOut dom win))
    else
      let s1 := w.wanted.foldl (fun (s : State) p => if s.isUp p || (s.portDom p).isNone then s else s.setLnk p lnkTraining) s
      .next (s1.closeWindow w 2).pumpWindows

/-- REQUEST_RESEND (R416, R419): 100,000 ticks have passed without a reply. -/
def execRequestResend (dom win : Nat) (s : State) : Answer :=
  match s.window win with
  | none => .next s
  | some w => match w.req, w.answer with
    | some id, none =>
      if s.tick < w.lastSent + 100000 then .next (s.send (.requestResend dom win))
      else .next (((s.modWindow win fun w => { w with lastSent := s.tick }).sendRequest w id).send (.requestResend dom win))
    | _, _ => .next s

/-- A reply's payload (R419): the ports of the window train on "applied" and "rejected"; "in progress" restarts the resend
interval; anything else is ignored and counted. -/
def State.takeReply (s : State) (bs : List Byte) : State :=
  let be (at_ n : Nat) : Nat := leNat ((bs.drop at_).take n).reverse
  let ignored := s.count cntIgnoredReply
  if bs.length ≠ 12 ∨ be 0 4 ≠ 0x57435250 then ignored
  else match s.fab.windows.find? fun w => w.req == some (be 4 4) with
    | none => ignored
    | some w =>
      if w.answer.isSome then ignored
      else match be 8 1 with
        | 2 => s.modWindow w.id fun w => { w with lastSent := s.tick }
        | 0 | 1 =>
          let s1 := s.modWindow w.id fun w => { w with answer := some (be 8 1) }
          (w.wanted.foldl (fun (s : State) p => if (s.portDom p).isSome then s.leaveUp p lnkTraining else s) s1).pumpWindows
        | _ => ignored

/-- CONTROLLER_REPLY (R419). -/
def execControllerReply (payload : List Byte) (s : State) : Answer := .next (s.takeReply payload)

/-! ## The circuit control port's receiver (R417, R418) -/

/-- Whether a frame passes the receiver's checks (R417, R418). -/
def State.frameOk (s : State) (f : ControlFrame) : Bool :=
  let c := s.sys.settings
  let multicast := f.dst.getLsbD 40
  f.fcsGood && (f.dst == c.mac || multicast) && (f.vlan == none || f.vlan == c.vlan)
    && decide (f.length ≤ if f.vlan.isSome then 1522 else 1518) && ((f.ipv6Udp && f.udpPort == c.udp) || f.advert.isSome)
    && !f.extensionOrFragment && f.dstAddr == c.addr && f.checksumGood

/-- CONTROL_FRAME_RECEIVE (R417, R418): a frame that fails a check is dropped. An advertisement of the controller answers the port's
solicitation; a datagram carries a reply (R419). -/
def execControlFrameReceive (f : ControlFrame) (s : State) : Answer :=
  .next (if !s.frameOk f then s
    else match f.advert with
      | some (target, mac) => if target = s.sys.settings.controller then s.learnMac mac else s
      | none => s.takeReply f.payload)

/-- NEIGHBOUR_SOLICITATION (R418): for its own address the port answers with an advertisement. A solicitation of the
controller also gives the controller's link address (log entry 40). -/
def execNeighbourSolicitation (n : Solicit) (s : State) : Answer :=
  if n.target ≠ s.sys.settings.addr then .next s
  else
    let s1 := s.emitOut (.advertisement n.senderMac s.sys.settings.addr)
    .next (if n.sender = s.sys.settings.controller then s1.learnMac n.senderMac else s1)

/-! ## Links (R405, R412 to R414) -/

/-- A link leaves UP and starts training while its own EN is 1 (R414). -/
def State.retrain (s : State) (p : Nat) : State :=
  (s.leaveUp p (if (s.portDom p).isSome then lnkTraining else lnkDown)).pumpWindows.servePorts

/-- LINK_DOWN (R413, R414): a link fails. -/
def execLinkDown (port : Nat) (s : State) : Answer := .next (s.leaveUp port lnkDown).pumpWindows.servePorts

/-- PEER_SILENCE (R414): loss of signal, or no valid flit for 100 reference ticks, on a link that is UP. -/
def execPeerSilence (x : Silence) (s : State) : Answer :=
  if s.isUp x.port ∧ (x.noSignal = true ∨ (s.link x.port).lastFlit + 100 ≤ s.tick) then .next (s.retrain x.port) else .next s

/-- The lanes in use after a training, none when two lanes failed (R405). -/
def activeLanes (ok : BitVec 9) : Option (BitVec 9) :=
  let bad := (List.range 9).filter fun l => !ok.getLsbD l
  match bad with
  | [] => some 0xFF
  | [l] => some (if l = 8 then 0xFF else 0x1FF &&& ~~~((1 : BitVec 9) <<< l))
  | _ => none

/-- LINK_TRAINED (R405, R414, R420): a training ends. Both ends are enabled; the link comes UP with its peer recorded, or stays
DOWN for good, with a replace request, when two lanes failed. -/
def execLinkTrained (t : Training) (s : State) : Answer :=
  let p := t.port
  if s.lnk p ≠ lnkTraining ∨ s.portDom p = none then .next s
  else
    let x := s.link p
    let s0 := (s.setCsr (optCntKey p) (putField (s.csr (optCntKey p)) 0 8 t.margin)).count (cntMargin p (t.margin % 256))
    match (if x.dead then none else activeLanes t.lanesOk) with
    | none =>
      let s1 := (s0.setLnk p lnkDown).modLink p fun x => { x with dead := true }
      .next (s1.replaceUnit [s.ownerOf p] 3 p)
    | some m =>
      let r := putField (putField (putField (s0.csr (lnkKey p)) 53 9 m.toNat) 48 5 t.peerPort) 16 32 t.peerPart.toNat
      let s1 := ((s0.setCsr (lnkKey p) r).setLnk p lnkUp).modLink p fun _ => { Link.fresh p with lastFlit := s.tick }
      .next s1.pumpWindows

/-- The nodes whose chunks the peer has acknowledged to their last flit complete (R422). -/
def State.ackNodes (s : State) (p : Nat) (l : List NodeRef) : State :=
  let s1 : State := { s with fab := { s.fab with unacked := s.fab.unacked.filter fun u => !(u.port == p && l.contains u.node) } }
  (l.foldl (fun s n => s.nodeDone n) s1).pumpWindows.servePorts

/-- A NAK (R413): the flits from the expected number onward are sent again; once 16 resends have passed without progress, the link goes
DOWN. -/
def State.resend (s : State) (p : Nat) : State :=
  if 16 ≤ (s.link p).resends then (s.leaveUp p lnkDown).pumpWindows.servePorts
  else ((s.optCount p 32 16).modLink p fun x => { x with resends := x.resends + 1 }).resendAll p

/-- A flit that fails its check is counted, with the codewords that could not be corrected, and answered with a NAK (R412, R413, R421). -/
def State.badFlit (s : State) (p uncorr : Nat) : State :=
  ((List.range uncorr).foldl (fun s _ => s.optCount p 16 16) (s.optCount p 48 16)).nak p

/-- An operation of the peer has arrived whole (R412): a chunk, a request, or the answer to a request of this part. -/
def State.opIn (s : State) (p ty chan : Nat) (bs : List Byte) : State :=
  match ty with
  | 1 => s.delivered p (.chunkArrival p (chunkOfBytes chan bs))
  | 2 => s.delivered p (.remoteRequest (requestOfBytes p true bs))
  | 3 => s.delivered p (.remoteRequest (requestOfBytes p false bs))
  | _ => s.remoteAnswered (answerOfBytes bs)

/-- An accepted flit of the types that carry operations joins its operation (R412). -/
def State.opFlit (s : State) (p : Nat) (flit : List Byte) : State :=
  let ty := fieldAt flit 0 1 % 16
  let r := (s.link p).gather (ty == 4) (fieldAt flit 1 1) ((flit.drop 8).take 244)
  let s1 := s.setLink r.1
  match r.2 with
  | some bs => s1.opIn p ty (fieldAt flit 7 1) bs
  | none => s1

/-- What an accepted flit's type asks for (R412, R413): types 7 to 15 are discarded and counted. -/
def State.flitType (s : State) (p : Nat) (flit : List Byte) : State :=
  let ty := fieldAt flit 0 1 % 16
  if 7 ≤ ty then s.count cntFlitDropped
  else if ty = 5 then (if (fieldAt flit 1 1).testBit 2 then s.resend p else s)
  else if ty = 0 then s
  else s.opFlit p flit

/-- FLIT_RECEIVE (R412 to R414, R422): the receiver takes the flit of the number it expects, with its acknowledgement and credits, and
answers any other. Operations also arrive by events of their own (log entry 41). -/
def execFlitReceive (port : Nat) (f : FlitIn) (s : State) : Answer :=
  let flit := f.bytes
  let ty := fieldAt flit 0 1 % 16
  let seq := fieldAt flit 2 2 % 4096
  let x := s.link port
  let good := flit.length == 256 && BitVec.ofNat 32 (fieldAt flit 252 4) == crc32 (flit.take 252) && f.uncorr == 0
  if (s.portDom port).isNone then .next s
  else if !good then .next (if s.isUp port then s.badFlit port f.uncorr else s)
  else if ty = 6 then .next (if s.isUp port then s.retrain port else s)
  else if !s.isUp port then .next s
  else if seq ≠ x.expect then .next ((s.modLink port fun x => { x with lastFlit := s.tick }).nak port)
  else
    let r := x.ackTo (fieldAt flit 4 2 % 4096)
    let cred := fieldAt flit 6 1
    let s1 := s.setLink { r.1 with expect := (seq + 1) % 4096, lastFlit := s.tick, creditReq := r.1.creditReq + cred % 16,
                                   creditRsp := r.1.creditRsp + cred / 16 }
    let s2 := if r.2 = [] then s1 else s1.ackNodes port r.2
    .next ((s2.flitType port flit).pumpLink port)

/-! ## Writes of OPT_PORTCFG and OPT_DOMCTL (R406 to R408) -/

/-- What a register write does: it is made, or the CSRW traps with a cause and its information (R427). -/
inductive WriteRes where
  | ok (s : State)
  | trap (cause info : Nat)
  deriving DecidableEq, Repr

/-- The cause of a nonzero write into an RZ field; its information is the instruction word. -/
def WriteRes.illegal : WriteRes := .trap 0x01 0

/-- OPT_PORTCFG (R407). -/
def State.writePortcfg (s : State) (w : CsrWrite) : WriteRes :=
  let old := s.csr (portcfgKey w.inst)
  let was := s.portDom w.inst
  let en := w.val.getLsbD 0
  let d := bits w.val 12 8
  let changed := bits old 12 8 != d || bits old 63 48 != bits w.val 63 48
  if bits w.val 47 13 ≠ 0 ∨ bits w.val 7 1 ≠ 0 then WriteRes.illegal
  else if was.isSome ∧ en ∧ changed then WriteRes.illegal
  else if en ∧ (s.domOwner d).isSome ∧ (s.domOwner d ≠ some (s.ownerOf w.inst) ∨ s.holdsDie (s.ownerOf w.inst) (w.inst / 4) = false) then
    .trap 0x13 d
  else match was with
    | some e =>
      if en then .ok (s.setCsr (portcfgKey w.inst) w.val)
      else
        -- the aborts see the port in its domain
        .ok ((s.abortPort w.inst).setCsr (portcfgKey w.inst) w.val |>.portOff w.inst e).servePorts
    | none =>
      let s1 := s.setCsr (portcfgKey w.inst) w.val
      .ok (if en then s1.setLnk w.inst lnkTraining else s1)

/-- OPT_DOMCTL (R406, R408). -/
def State.writeDomctl (s : State) (w : CsrWrite) : WriteRes :=
  let d := w.inst
  let en := w.val.getLsbD 0
  let q := (s.quadsOf w.part).headD 0
  let foreign := (s.portsOf d).any fun p => s.ownerOf p != w.part || !s.holdsDie w.part (p / 4)
  if bits w.val 2 1 ≠ 0 then WriteRes.illegal
  else if (s.domOwner d).isSome ∧ s.domOwner d ≠ some w.part then .trap 0x13 d
  else if en ∧ !s.domEn d ∧ foreign then .trap 0x13 d
  else .ok (s.setCsr (domctlKey d) (putField w.val 3 5 (if en then q else 0)))

/-- A register write that no instruction waits for: a refused one changes nothing. -/
def WriteRes.orKeep (r : WriteRes) (s : State) : State :=
  match r with
  | .ok t => t
  | .trap _ _ => s

/-- OPT_PORTCFG_WRITE (R407). -/
def execOptPortcfgWrite (w : CsrWrite) (s : State) : Answer := .next ((s.writePortcfg w).orKeep s)
/-- OPT_DOMCTL_WRITE (R406). -/
def execOptDomctlWrite (w : CsrWrite) (s : State) : Answer := .next ((s.writeDomctl w).orKeep s)

end Sys2Proof.Machine
end

