-- ==== Sys2Proof/Machine/Tlb.lean ====
section
/-! DEFINITION. The TLB instructions (R369 to R373): TLBINV, TLBSYNC, TLBLOCK, TLBUNLK and TLBPRE. -/
namespace Sys2Proof.Machine

/-! ## TLBINV, TLBSYNC -/

/-- Whether an entry overlaps [a, a + n). -/
def TlbEntry.overlaps (e : TlbEntry) (a n : Nat) : Bool := decide (e.va < a + n) && decide (a < e.va + e.size)

/-- The entries that a TLBINV names, locked ones included. -/
def invDrops (part mode : Nat) (space : BitVec 16) (base len : Nat) (e : TlbEntry) : Bool :=
  e.part == part && (mode == 3 || (e.space == space && (mode == 2 || (len != 0 && e.overlaps base len))))

/-- The agents of a partition drop entries (R373). -/
def State.dropTlb (s : State) (key : Nat) (f : TlbEntry → Bool) : State :=
  let out := (s.ms.tlb.filter f).map fun e => (key, e)
  { s with ms := { s.ms with tlb := s.ms.tlb.filter (fun e => !f e), dropped := s.ms.dropped ++ out } }

/-- TLBINV (R373). FLAGS: [1:0] MODE. Until it completes, an entry that it names may still be used: the agents drop theirs at once
or at the completion, which the spec leaves open. -/
def execTlbinv (f : EF) (s : State) : Answer :=
  issuePriv s f.ctl (some .mc) [] 0 fun s0 i =>
    let s := s0.releaseBy i.gid (maskOf i.lanes)
    let p := (s.group i.gid).part
    let mode := f.flags.toNat % 4
    let space := if mode = 0 then s.xlatSpace p else (s.readG i.gid f.c.toNat).extractLsb' 0 16
    let a := (s.readG i.gid f.a.toNat).toNat
    let n := (s.readG i.gid f.b.toNat).toNat
    let s1 := if s.coin 11 then s.dropTlb (keyOf i.gid) (invDrops p mode space a n) else s
    (s1.whenDone i.id (.inv (keyOf i.gid) p mode space a n)).later i.gid i.id .mc []

/-- Whether a physical address lies in what an entry maps. -/
def TlbEntry.maps (e : TlbEntry) (pa : Nat) : Bool := decide (paddr e.part e.off ≤ pa) && decide (pa < paddr e.part e.off + e.size)

/-- Whether pages that something translated for itself meet what an entry maps: start, place and kind of each granule. -/
def TlbEntry.mapsAny (e : TlbEntry) (l : List (Nat × Nat × PageKind)) : Bool := l.any fun x => e.maps x.2.1

/-- The TLB that translated for the sender of packets (R369). -/
def tlbOf : Agent → Nat
  | .lanes c | .copy c | .matrix c _ => c
  | .sysCore q => 384 + q
  | .collective d => 416 + d
  | .memSide | .host _ => 1000
  | .storage => 456

/-- Whether an access that an agent translated by an entry has yet to perform (R373): packets, accesses held in a core, words at
rest, commands, accumulator stores and transfers. -/
def State.entryUsed (s : State) (e : TlbEntry) : Bool :=
  let line (n : Nat) : Bool := e.maps (128 * n)
  (s.due.any fun i => match i with
      | .homeWriteAccept w => tlbOf w.agent == e.agent && line w.line
      | .parkNotice n => n.core == e.agent && line n.line
      | .flushedReductionApply r => r.core == e.agent && line r.line
      | _ => false)
    || (s.ms.jobs.any fun j => keyOf j.iss.gid == e.agent && isGlobal j.instr && j.accs.any fun a => e.maps a.pa)
    || (s.ms.curd.any fun w => w.core == e.agent && e.maps w.addr)
    || (s.ms.bank.any fun c => keyOf c.gid == e.agent && c.steps.any fun b => e.maps b.dst || e.maps b.a || e.maps b.b)
    || (s.eng.copies.any fun c => c.core == e.agent && c.pieces.any fun p => match p.src with
      | some x => e.maps x.1
      | none => false)
    || (s.eng.mat.any fun o => keyOf o.gid == e.agent && (match o.kind with
      | .accst _ _ _ _ pages => e.mapsAny pages
      | .mma _ _ _ _ | .accz _ | .accld _ | .accmv _ | .mmq _ _ => false))
    || s.fab.transfers.any fun t => keyOf t.gid == e.agent && e.mapsAny t.pages

/-- Whether the TLBSYNC of a system core has to wait: an earlier TLBINV of it has not completed, or an access translated by an
entry that they dropped has yet to perform (R373; log entry 43). -/
def State.syncWaits (s : State) (key id : Nat) : Bool :=
  (s.after.any fun x => match x.kind with
    | .inv k _ _ _ _ _ => k == key && decide (x.id < id)
    | .tid _ _ _ | .sent _ _ | .place _ _ | .sync _ => false)
    || s.ms.dropped.any fun x => x.1 == key && s.entryUsed x.2

/-- TLBSYNC (R373): its result waits. -/
def execTlbsync (f : EF) (s : State) : Answer :=
  issuePriv s f.ctl (some .mc) [] 0 fun s i => (s.whenDone i.id (.sync (keyOf i.gid))).later i.gid i.id .mc []

/-! ## Locked regions -/

/-- The leaves that cover [base, base + len), each once, in ascending order, and whether every page has one (R373). `fuel` bounds
the pages. -/
def State.leavesOf (s : State) (w : Walker) : Nat → Nat → Nat → State × List Leaf × Bool
  | 0, _, _ => (s, [], true)
  | fuel + 1, va, stop =>
    if stop ≤ va then (s, [], true)
    else if va / 2 ^ 48 ≠ 0 ∨ w.en = false then (s, [], false)
    else match s.walkFrom w.part va 3 w.root with
      | (s1, .error _) =>
        let r := State.leavesOf s1 w fuel (va + 2 ^ 16) stop
        (r.1, r.2.1, false)
      | (s1, .ok l) =>
        let r := State.leavesOf s1 w fuel (l.va + l.size) stop
        (r.1, l :: r.2.1, r.2.2)

def regionLeaves (s : State) (w : Walker) (base len : Nat) : State × List Leaf × Bool :=
  s.leavesOf w (len / 2 ^ 16 + 2) (base / 2 ^ 16 * 2 ^ 16) (base + len)

/-- Free lockable entries of a core (R369). -/
def State.lockable (s : State) (core : Nat) : Nat := 32 - s.ms.tlb.countP fun e => e.agent == core && e.locked.isSome

/-- Locks leaves in the TLB of one core for a region of a block (R371). -/
def State.lockOn (s : State) (w : Walker) (b : BlockRef) (base : Nat) (leaves : List Leaf) (core : Nat) : State :=
  leaves.foldl (fun s l =>
    let same (e : TlbEntry) : Bool := e.agent == core && e.part == w.part && e.space == w.space && e.va == l.va && e.size == l.size && e.locked == none
    (s.setTlb (s.ms.tlb.filter fun e => !same e)).tlbInstall { w with agent := core } l (some (b, base))) s

/-- Locks a region's translations on every core of a block. -/
def State.lockCores (s : State) (w : Walker) (b : BlockRef) (base : Nat) (leaves : List Leaf) (cores : List Nat) : State :=
  cores.foldl (fun s c => s.lockOn w b base leaves c) s

/-- A save drops the locked entries of its block (R371). -/
def State.dropLocks (s : State) (b : BlockRef) : State :=
  s.setTlb (s.ms.tlb.filter fun e => match e.locked with
    | some k => !(k.1 == b)
    | none => true)

/-- The entries that a test on their lock picks become ordinary (R371, R373). -/
def State.unlock (s : State) (f : BlockRef × Nat → Bool) : State :=
  s.setTlb (s.ms.tlb.map fun e => match e.locked with
    | some k => if f k then { e with locked := none } else e
    | none => e)

/-- TLBLOCK (R373). A system core has no lockable entries (R369). -/
def execTlblock (f : EF) (s : State) : Answer :=
  issue s f.ctl (some .mc) [f.a.toNat] 0 fun s i =>
    let base := (s.readG i.gid f.b.toNat).toNat
    let len := (s.readG i.gid f.c.toNat).toNat
    let w := s.laneWalker i.gid
    let b := (s.group i.gid).blk
    let blk := s.block b
    let cores := match blk with
      | some x => x.cores
      | none => []
    let give (s : State) (x : Nat) : State := s.later i.gid i.id .mc (i.lanes.map fun l => .v l f.a.toNat (BitVec.ofNat 32 x))
    if len = 0 then give s 0
    else match regionLeaves s w base len with
      | (s, _, false) => give s 0x200
      | (s, ls, true) =>
        let full := match blk with
          | some x => decide (4 ≤ x.regions.length)
          | none => true
        if full || cores.any fun c => decide (s.lockable c < ls.length) then give s 0x100
        else
          let s1 := s.lockCores w b base ls cores
          give (s1.modBlock b fun x => { x with regions := x.regions ++ [⟨BitVec.ofNat 64 base, BitVec.ofNat 64 len⟩] }) ls.length

/-- TLBUNLK (R373). FLAGS: [0] ALL. -/
def execTlbunlk (f : EF) (s : State) : Answer :=
  issue s f.ctl none [] 0 fun s i =>
    let b := (s.group i.gid).blk
    let base := s.readG i.gid f.a.toNat
    if f.flags.getLsbD 0 then (s.unlock fun k => k.1 == b).modBlock b fun x => { x with regions := [] }
    else (s.unlock fun k => k == (b, base.toNat)).modBlock b fun x => { x with regions := x.regions.filter fun r => !(r.base == base) }

/-- TLBPRE (R373): a page that stops a walk or fails a check is skipped. -/
def execTlbpre (f : EF) (s : State) : Answer :=
  issue s f.ctl (some .mc) [] 0 fun s i =>
    let a := (s.readG i.gid f.a.toNat).toNat
    let n := (s.readG i.gid f.b.toNat).toNat
    let w := s.laneWalker i.gid
    let pages := (List.range (Nat.min 64 ((a + n + 65535) / 65536 - a / 65536))).map fun k => (a / 65536 + k) * 65536
    let s1 := if n = 0 then s else pages.foldl (fun (s : State) va =>
      if va / 2 ^ 48 ≠ 0 ∨ w.en = false ∨ (s.tlbFind w va).isSome then s
      else match s.walkFrom w.part va 3 w.root with
        | (s, .error _) => s
        | (s, .ok l) => match s.xcheck w va .read l with
          | .ok _ _ => s.tlbInstall w l none
          | .trap _ | .stop _ _ => s) s
    s1.later i.gid i.id .mc []

end Sys2Proof.Machine
end

