-- ==== Sys2Proof/Machine/Save.lean ====
section
/-! DEFINITION. Save areas in memory (R338 to R340, R362, R363): the sections of R339, how a save writes them into its pages of the
save pool, and how a restore reads them back. -/
namespace Sys2Proof.Machine

/-! ## Ranges of memory that a distributor writes and reads -/

/-- Writes bytes line by line from a line's start upward, as far as the places translate (log entry 28). `fuel` bounds the lines. -/
def State.writeLines : Nat → State → Walker → Nat → List Byte → State
  | 0, s, _, _, _ => s
  | fuel + 1, s, w, va, bs =>
    if bs = [] then s
    else match s.xlate w (BitVec.ofNat 64 va) .engineWrite with
      | (s1, .ok pa k) => State.writeLines fuel (s1.poke .memSide k pa (bs.take 128)) w (va + 128) (bs.drop 128)
      | (s1, _) => s1

/-- Reads lines from a line's start upward; none where one cannot be read. -/
def State.readLines : Nat → State → Walker → Nat → State × Option (List Byte)
  | 0, s, _, _ => (s, some [])
  | n + 1, s, w, va =>
    match s.xlate w (BitVec.ofNat 64 va) .engineRead with
    | (s1, .ok pa k) => match s1.engineRead (lineOf pa) 0 128 k with
      | (s2, none) => (s2, none)
      | (s2, some d) => match State.readLines n s2 w (va + 128) with
        | (s3, some rest) => (s3, some (bytesOf d 0 128 ++ rest))
        | (s3, none) => (s3, none)
    | (s1, _) => (s1, none)

/-- Writes bytes into pages of 64 KiB, one after another. -/
def State.writePages (s : State) (w : Walker) : List Nat → List Byte → State
  | [], _ => s
  | a :: l, bs => State.writePages (State.writeLines 512 s w a (bs.take 65536)) w l (bs.drop 65536)

/-- Reads `n` lines from pages, one after another; none where one cannot be read. -/
def State.readPages (s : State) (w : Walker) : List Nat → Nat → State × Option (List Byte)
  | [], _ => (s, some [])
  | a :: l, n => match State.readLines (Nat.min n 512) s w a with
    | (s1, none) => (s1, none)
    | (s1, some bs) => match State.readPages s1 w l (n - 512) with
      | (s2, none) => (s2, none)
      | (s2, some rest) => (s2, some (bs ++ rest))

/-- Zeros up to a multiple of 128. -/
def pad128 (bs : List Byte) : List Byte := bs ++ List.replicate ((128 - bs.length % 128) % 128) 0

/-! ## Lane records (R339, R363) -/

/-- The state of a lane in its record: 0 running, 1 parked on a blocking instruction, 2 parked on a page fault, 3 exited, 4 waiting
to pop. -/
def laneState (x : Lane) (w : Option Wait) : Nat :=
  if x.exited then 3
  else match w with
    | none => 0
    | some w => (match w.kind with
      | .pageFault _ => 2
      | .pop => 4
      | _ => 1)

/-- The scope of a code, or one that stands. -/
def scopeAt (old : Scope) (n : Nat) : Scope := (Scope.ofCode n).getD old

/-- A mask of join registers, as a number: those whose open phases are among operations. -/
def phaseMask (joins : List Join) (ops : List Nat) : Nat :=
  ((List.range 16).map fun j => if ((joins[j]?).bind fun x => x.phase).any (fun p => ops.contains p.op) then 2 ^ j else 0).sum
/-- The operations of the open phases of a mask of join registers. -/
def phaseOps (joins : List Join) (mask : Nat) : List Nat :=
  (List.range 16).filterMap fun j => if mask.testBit j then ((joins[j]?).bind fun x => x.phase).map fun p => p.op else none

/-- Eight bytes that say what a lane awaits: three, a code of the instruction, and a word. -/
def await8 (code a b c word : Nat) : List Byte := leBytes 1 a ++ leBytes 1 b ++ leBytes 1 c ++ leBytes 1 code ++ leBytes 4 word

/-- Bytes 64 to 71: what a parked lane awaits (R339), for WAITL and STEND as R363 lays it out. The layout of the others, whose byte 67
is their code, is a DESIGN CHOICE (log entry 28). -/
def awaitBytes (g : Group) (joins : List Join) (w : Option Wait) : List Byte :=
  let bit (b : Bool) (n : Nat) : Nat := if b then n else 0
  match w.map fun x => x.kind with
  | none => List.replicate 8 0
  | some k => match k with
    | .waitl s iter _ _ => leBytes 4 s ++ leBytes 4 (iter - 1)
    | .stend _ => leBytes 4 0xFFFFFFFF ++ leBytes 4 ((g.loop.map fun p => p.slot).getD 0)
    | .bar j token scope st => await8 1 (j + bit st.isSome 16) scope.code.toNat (st.getD 0).toNat token.toNat
    | .lwait lid reg scope => await8 2 reg scope.code.toNat 0 lid
    | .mwait ops acc scope => await8 3 (bit acc 1) scope.code.toNat 0 (phaseMask joins ops)
    | .mvwait tag reg scope => await8 4 reg scope.code.toNat (tag.getD 4) 0
    | .cpywait cc thr clr reg scope => await8 5 reg (scope.code.toNat + bit clr 8) cc thr
    | .colwait slot reg scope => await8 6 reg scope.code.toNat 0 (slot.getD 0xFFFFFFFF)
    | .ldfe _ _ off ty reg clr => await8 7 reg (MTy.bytes ty + bit clr 128) 0 off
    | .waitc _ _ _ reg scope => await8 8 reg scope.code.toNat 0 0
    | .reconv m => await8 9 m 0 0 0
    | .streamPop _ got => await8 10 got.length 0 0 0
    | .streamPush reg vals => await8 11 reg 0 0 (vals.headD (0, 0)).2.toNat
    | .pageFault id => await8 12 0 0 0 id
    | .taskEnd => await8 13 0 0 0 0
    | .yield _ _ => await8 14 0 0 0 0
    | .pop | .held | .preempt _ _ _ _ | .halt => List.replicate 8 0

/-- What a parked lane awaits as its record gives it, in place of what it awaited when it was saved. -/
def WaitKind.ofAwait (joins : List Join) (r : List Byte) (k : WaitKind) : WaitKind :=
  let a := fieldAt r 64 1
  let b := fieldAt r 65 1
  let c := fieldAt r 66 1
  let word := fieldAt r 68 4
  match k with
  | .waitl _ _ slot uid => .waitl (fieldAt r 64 4) (word + 1) slot uid
  | .bar _ _ scope _ => .bar (a % 16) (BitVec.ofNat 32 word) (scopeAt scope b) (if a.testBit 4 then some (BitVec.ofNat 8 c) else none)
  | .lwait _ _ scope => .lwait word a (scopeAt scope b)
  | .mwait _ _ scope => .mwait (phaseOps joins word) (a.testBit 0) (scopeAt scope b)
  | .mvwait _ _ scope => .mvwait (if c < 4 then some c else none) a (scopeAt scope b)
  | .cpywait _ _ _ _ scope => .cpywait (c % 16) word (b.testBit 3) a (scopeAt scope (b % 8))
  | .colwait _ _ scope => .colwait (if word = 0xFFFFFFFF then none else some word) a (scopeAt scope b)
  | .ldfe acc lane _ ty _ _ => .ldfe acc lane word ty a (b.testBit 7)
  | .waitc conds all limit _ scope => .waitc conds all limit a (scopeAt scope b)
  | .reconv _ => .reconv (a % 8)
  | .pageFault _ => .pageFault word
  | k => k

/-- A frame as memory holds it (R94). -/
def Frame.bytes (f : Frame) : List Byte := leBytes 8 ((f.addr &&& ~~~7).toNat + (if f.trap then 1 else 0))

/-- The elements that a lane popped and still holds (R320). -/
def poppedBytes (w : Option Wait) (lane : Nat) : List Byte :=
  let l : List Word := match w with
    | some w => (match w.kind with
      | .streamPop _ got => got.filterMap fun x => x.lookup lane
      | _ => [])
    | none => []
  ((l.flatMap fun (x : Word) => leBytes 4 x.toNat) ++ List.replicate 12 0).take 12

/-- A lane record. The places within bytes 72 to 95 are a DESIGN CHOICE (log entry 28). -/
def laneRecord (g : Group) (joins : List Join) (l : Nat) (w : Option Wait) : List Byte :=
  let x := g.lane l
  let trap := x.stack.find? fun f => f.trap
  let t : Nat × Nat × Nat := match trap with
    | some f => (f.cls, f.left, f.pos)
    | none => (0, 0, 0)
  leBytes 8 x.pc.toNat ++ leBytes 8 x.xpc.toNat ++ leBytes 8 x.xinfo.toNat ++ leBytes 4 x.xcause.toNat ++ leBytes 1 x.xidx.toNat
    ++ leBytes 1 x.stack.length ++ leBytes 1 x.p.toNat ++ leBytes 1 (laneState x w)
    ++ (((x.stack.take 4).flatMap Frame.bytes) ++ List.replicate 32 0).take 32
    ++ awaitBytes g joins w ++ leBytes 2 x.pos ++ leBytes 2 x.left ++ leBytes 4 x.cls
    ++ leBytes 4 t.1 ++ leBytes 4 t.2.1 ++ leBytes 8 t.2.2 ++ poppedBytes w l ++ List.replicate 20 0

/-- A stack of a depth, from the former one: the frames below the top four stay where they are, counted from the bottom, and frames
that no stack had are 0. -/
def stackOf (old : List Frame) (depth : Nat) : List Frame :=
  let deep := old.drop 4
  List.replicate (depth - deep.length) ⟨0, false, 0, 0, 0⟩ ++ deep.drop (deep.length - (depth - 4))

/-- A lane as its record gives it; what the record does not hold stays. -/
def Lane.ofRecord (x : Lane) (r : List Byte) : Lane :=
  let d (at_ : Nat) : DWord := BitVec.ofNat 64 (fieldAt r at_ 8)
  let stack := stackOf x.stack (Nat.min 64 (fieldAt r 29 1))
  let top := ((List.range stack.length).zip stack).map fun y =>
    if y.1 < 4 then { y.2 with addr := d (32 + 8 * y.1) &&& ~~~7, trap := (d (32 + 8 * y.1)).getLsbD 0 } else y.2
  let frames := top.map fun y => if y.trap then { y with cls := fieldAt r 80 4, left := fieldAt r 84 4, pos := fieldAt r 88 8 } else y
  let st := fieldAt r 31 1
  { x with live := st != 3, exited := st == 3, park := if st = 0 ∨ st = 3 then none else x.park, pc := d 0, xpc := d 8, xinfo := d 16, xcause := BitVec.ofNat 32 (fieldAt r 24 4), xidx := BitVec.ofNat 32 (fieldAt r 28 1),
           p := BitVec.ofNat 7 (fieldAt r 30 1), stack := frames, pos := fieldAt r 72 2, left := fieldAt r 74 2, cls := fieldAt r 76 4 }

/-- A wait as the records of its lanes give it (R339, R363): a lane that runs or has exited waits no more, and what the lanes await
and the elements of a stream are the records'. `rec_` gives a lane's record. -/
def Wait.ofRecords (w : Wait) (joins : List Join) (rec_ : Nat → List Byte) : Wait :=
  let ls := lanesOf w.lanes
  let on := ls.filter fun l => fieldAt (rec_ l) 31 1 != 0 && fieldAt (rec_ l) 31 1 != 3
  let r := rec_ (ls.headD 0)
  let kind := match w.kind with
    | .streamPop i got => .streamPop i (((List.range got.length).zip got).map fun (x : Nat × List (Nat × Word)) =>
        if x.1 < 3 then x.2.map fun y => (y.1, BitVec.ofNat 32 (fieldAt (rec_ y.1) (96 + 4 * x.1) 4)) else x.2)
    | .streamPush reg vals => .streamPush reg (vals.map fun y => (y.1, BitVec.ofNat 32 (fieldAt (rec_ y.1) 68 4)))
    | k => k.ofAwait joins r
  { w with lanes := maskOf on, kind := kind }

/-! ## Groups: vector registers and group state -/

/-- Vector registers, register by register, lane by lane. -/
def vecBytes (regs : Nat) (g : Group) : List Byte :=
  (List.range regs).flatMap fun r => (List.range 32).flatMap fun l => leBytes 4 ((g.lane l).vReg r).toNat

/-- Group state, with MC's count of open phases (R305). The places of its parts are a DESIGN CHOICE (log entry 28). -/
def groupBytes (kinds : Nat → Bool) (g : Group) : List Byte :=
  let gs := (List.range 64).flatMap fun r => leBytes 8 (g.gReg r).toNat
  let ms := (List.range 8).flatMap fun k =>
    let m := g.m.getD k ⟨0, 0⟩
    leBytes 8 m.mask.toNat ++ leBytes 8 m.addr.toNat
  let accs := (List.range 16).flatMap fun h =>
    let n := Map.get 0 g.acc h
    leBytes 1 n ++ leBytes 1 (if n ≠ 0 ∧ kinds (n - 1) = true then 1 else 0)
  let tail := leBytes 8 g.guard ++ ((List.range 4).flatMap fun t => leBytes 1 (g.tags.getD t 0)) ++ leBytes 4 g.cnt.mc
  let streams := (List.range 8).flatMap fun k => match g.streams.find? fun x => x.reg == 248 + k with
    | some x => leBytes 1 (if x.out then 3 else 1) ++ leBytes 1 0 ++ leBytes 2 x.block ++ leBytes 4 x.off
    | none => List.replicate 8 0
  (gs ++ ms ++ accs ++ tail ++ streams ++ List.replicate 1024 0).take 1024

/-- The stream bindings that a group state holds (R319). -/
def streamsOf (state : List Byte) : List StreamBind :=
  (List.range 8).filterMap fun k =>
    let at_ := 688 + 8 * k
    let f := fieldAt state at_ 1
    if f.testBit 0 then some ⟨248 + k, f.testBit 1, fieldAt state (at_ + 2) 2, fieldAt state (at_ + 4) 4⟩ else none

/-- The handles that a group state binds to saved slots, as in the group (R305). -/
def handlesOf (slots : List Nat) (state : List Byte) : List (Nat × Nat) :=
  (List.range 16).foldl (fun m h =>
    let n := fieldAt state (640 + 2 * h) 1
    if n ≠ 0 ∧ slots.contains (n - 1) = true then Map.set 0 m h n else m) []

/-- The kind that a group state gives a slot, by a handle that names it. -/
def kindOf (state : List Byte) (slot : Nat) : Option Bool :=
  ((List.range 16).find? fun h => fieldAt state (640 + 2 * h) 1 == slot + 1).map fun h => fieldAt state (641 + 2 * h) 1 == 1

/-- The joined slot of a group of which a lane is parked in STEND, as its record gives it (R363). -/
def stendSlot (recs : List Byte) : Option Nat :=
  ((List.range 32).find? fun l => fieldAt recs (128 * l + 31) 1 == 1 && fieldAt recs (128 * l + 64) 4 == 0xFFFFFFFF).map fun l =>
    fieldAt recs (128 * l + 68) 4

/-- A group as its sections give it: the records of its lanes, its vector registers and its state. `slots` are its saved accumulator
slots. -/
def Group.ofBytes (regs : Nat) (slots : List Nat) (recs vecs state : List Byte) (g : Group) : Group :=
  let lane (l : Nat) (x : Lane) : Lane :=
    let x1 := x.ofRecord ((recs.drop (128 * l)).take 128)
    { x1 with v := (List.range regs).foldl (fun m r => Map.set 0 m r (BitVec.ofNat 32 (fieldAt vecs (128 * r + 4 * l) 4))) x1.v }
  { g with lanes := ((List.range g.lanes.length).zip g.lanes).map fun y => lane y.1 y.2,
           g := (List.range 64).foldl (fun m r => Map.set 0 m r (BitVec.ofNat 64 (fieldAt state (8 * r) 8))) g.g,
           m := (List.range 8).map fun k => ⟨BitVec.ofNat 32 (fieldAt state (512 + 16 * k) 4), BitVec.ofNat 64 (fieldAt state (520 + 16 * k) 8)⟩,
           guard := fieldAt state 672 8, acc := handlesOf slots state, streams := streamsOf state, cnt := { g.cnt with mc := fieldAt state 684 4 },
           tags := (List.range 4).map fun t => fieldAt state (680 + t) 1,
           loop := match stendSlot recs, g.loop with
             | some k, some p => some { p with slot := k }
             | _, x => x }

/-! ## Accumulators, scratchpad, join registers and completion counters -/

def accBytes (a : AccSlot) : List Byte := (List.range 4096).flatMap fun k => leBytes 4 (Map.get 0 a.elems k).toNat
def AccSlot.ofBytes (state bs : List Byte) (a : AccSlot) : AccSlot :=
  { a with i32 := (kindOf state a.slot).getD a.i32, elems := (List.range 4096).foldl (fun m k => Map.set 0 m k (BitVec.ofNat 32 (fieldAt bs (4 * k) 4))) [] }

/-- Bytes of the scratchpad section: SCRATCH up to whole 4 KiB, then a bit for each granule. -/
def scratchLen (scratch : Nat) : Nat := (scratch + 4095) / 4096 * 4096
def scratchSection (scratch : Nat) (b : Block) : List Byte :=
  let n := scratchLen scratch
  b.readB 0 n ++ (List.range (n / 128)).map fun k =>
    BitVec.ofNat 8 ((List.range 8).foldl (fun a j => a + if b.isFull (8 * k + j) then 2 ^ j else 0) 0)
def Block.ofScratch (scratch : Nat) (bs : List Byte) (b : Block) : Block :=
  let n := scratchLen scratch
  { b with scratch := (List.range n).foldl (fun m k => Map.set 0 m k (bs.getD k 0)) b.scratch,
           full := (List.range (n / 16)).foldl (fun m k => Map.set false m k ((bs.getD (n + k / 8) 0).getLsbD (k % 8))) b.full }

/-- Bits [47:0] of a word, and a word's fields from them. -/
def efBits (f : EF) : Nat := (f.a ++ (f.b ++ (f.c ++ (f.x ++ (f.imm8 ++ f.flags))))).toNat
def efOf (ctl : Ctl) (n : Nat) : EF :=
  let w : DWord := BitVec.ofNat 64 n
  { ctl := ctl, a := w.extractLsb' 40 8, b := w.extractLsb' 32 8, c := w.extractLsb' 24 8, x := w.extractLsb' 16 8,
    imm8 := w.extractLsb' 8 8, flags := w.extractLsb' 0 8 }

/-- A join register with its open phase: the phase's group, word, signer set, corner, slot and tensor copy (R154, R305). The places
are a DESIGN CHOICE (log entry 28). `num` gives a group's %group. -/
def joinBytes (num : Nat → Nat) (j : Join) : List Byte :=
  let ph : List Byte := match j.phase with
    | some p => leBytes 1 (if p.tensor.isSome then 3 else 1) ++ leBytes 2 (num p.gid) ++ leBytes 4 p.signers.toNat ++ leBytes 4 p.slot
        ++ leBytes 8 (efBits p.word) ++ leBytes 4 p.s0 ++ leBytes 4 p.s1 ++ (p.tensor.getD [])
    | none => []
  (leBytes 4 j.e ++ leBytes 4 j.a ++ leBytes 4 j.t.toNat ++ leBytes 1 (if j.mode then 1 else 0) ++ ph ++ List.replicate 128 0).take 128

/-- The open phase that a join register's bytes give; what they do not hold is that of the former phase, or new under the name `op`.
`gidOf` gives the group of a %group. -/
def Phase.ofBytes (op : Nat) (gidOf : Nat → Option Nat) (bs : List Byte) (old : Option Phase) : Option Phase :=
  let f := fieldAt bs 13 1
  if f.testBit 0 then (gidOf (fieldAt bs 14 2)).map fun gid =>
    let p : Phase := old.getD ⟨op, gid, efOf ⟨false, false, false, 0⟩ 0, 0, none, 0, 0, 0, [], [], []⟩
    { p with gid := gid, word := efOf p.word.ctl (fieldAt bs 24 8), signers := BitVec.ofNat 32 (fieldAt bs 16 4), slot := fieldAt bs 20 4,
             s0 := fieldAt bs 32 4, s1 := fieldAt bs 36 4, tensor := if f.testBit 1 then some ((bs.drop 40).take 64) else none }
  else none

def Join.ofBytes (op : Nat) (gidOf : Nat → Option Nat) (bs : List Byte) (j : Join) : Join :=
  { j with e := fieldAt bs 0 4, a := fieldAt bs 4 4, t := BitVec.ofNat 32 (fieldAt bs 8 4), mode := fieldAt bs 12 1 == 1,
           phase := Phase.ofBytes op gidOf bs j.phase }

def ccBytes (c : Cc) : List Byte :=
  leBytes 4 (c.count + (if c.dataerr then 2 ^ 16 else 0) + (if c.auth then 2 ^ 17 else 0) + (if c.locality then 2 ^ 18 else 0))
def ccOf (x : Nat) : Cc := ⟨x % 2 ^ 16, x / 2 ^ 16 % 2 == 1, x / 2 ^ 17 % 2 == 1, x / 2 ^ 18 % 2 == 1⟩

/-! ## Stage records (R363) -/

/-- The slot record of a span: TAG and flags of its eight slots. -/
def slotRecord (slots : List LoopSlot) : List Byte :=
  let one (k : Nat) : List Byte := match slots.find? fun x => x.slot == k with
    | none => [0, 0, 0]
    | some x => match x.hdr, x.closed with
      | some h, _ => leBytes 2 h.tag ++ [1]
      | none, some t => leBytes 2 t ++ [2]
      | none, none => [0, 0, 0]
  [4, 0, 0, 0] ++ ((List.range 8).flatMap one) ++ List.replicate 4 0

/-- An allocated logical entry with its record: a header, or an iteration that runs or has ended. `who` gives a holder's %group and
%blkinspan. -/
def stageRecords (who : Nat → Nat × Nat) (x : LoopSlot) : List (Nat × List Byte) :=
  match x.hdr with
  | none => []
  | some h =>
    let head : List Byte := [1] ++ leBytes 1 h.base ++ leBytes 1 x.slot ++ leBytes 1 h.w ++ leBytes 4 h.n ++ leBytes 4 h.next ++ leBytes 4 h.low
      ++ leBytes 2 h.tag ++ List.replicate 14 0
    (h.base, head) :: x.iters.map fun e =>
      let p := match e.2.holder with
        | some g => who g
        | none => (0, 0)
      (e.1, [if e.2.holder.isSome then 2 else 3] ++ leBytes 1 e.1 ++ leBytes 1 x.slot ++ [0] ++ leBytes 4 e.2.iter ++ leBytes 2 e.2.count
        ++ leBytes 2 p.1 ++ leBytes 1 p.2 ++ List.replicate 19 0)

/-- The stage section: the slot record, then each allocated logical entry in ascending order. -/
def stageSection (who : Nat → Nat × Nat) (slots : List LoopSlot) : List Byte :=
  slotRecord slots ++ (sortBy (fun (a b : Nat × List Byte) => decide (a.1 ≤ b.1)) (slots.flatMap (stageRecords who))).flatMap fun x => x.2

/-- A loop slot as the stage section gives it (R363): the OPEN and DONE flags and the TAG of the slot record, and the header and the
iterations of an open loop. `who` names the group that a record's holding %group and %blkinspan stand for, and `uid` a loop that the
slot did not hold. -/
def LoopSlot.ofBytes (uid : Nat) (who : Nat → Nat → Option Nat) (bs : List Byte) (x : LoopSlot) : LoopSlot :=
  let recs := (List.range (bs.length / 32 - 1)).map fun k => (bs.drop (32 + 32 * k)).take 32
  let mine (kinds : List Nat) : List (List Byte) := recs.filter fun r => kinds.contains (fieldAt r 0 1) && fieldAt r 2 1 == x.slot
  let flags := fieldAt bs (6 + 3 * x.slot) 1
  match (if flags.testBit 0 then (mine [1]).head? else none) with
  | some r =>
    { x with
      hdr := some ⟨(x.hdr.map fun h => h.uid).getD uid, fieldAt r 4 4, fieldAt r 16 2, fieldAt r 1 1, fieldAt r 3 1, fieldAt r 12 4, fieldAt r 8 4⟩
      iters := (mine [2, 3]).map fun e => (fieldAt e 1 1, ⟨fieldAt e 4 4, fieldAt e 8 2,
        if fieldAt e 0 1 = 2 then who (fieldAt e 10 2) (fieldAt e 12 1) else none⟩)
      closed := none }
  | none => { x with hdr := none, iters := [], closed := if flags.testBit 1 then some (fieldAt bs (4 + 3 * x.slot) 2) else none }

/-! ## A whole save area -/

/-- What a save writes beside the structured copy: its launch's register count and scratchpad bytes, and the stage section of its
span where it holds it. -/
structure SaveCtx where
  regs : Nat
  scratch : Nat
  stage : List Byte
  deriving DecidableEq, Repr

/-- The header: LID, block number, cores left, group count, SCRATCH, REGS, and the locked regions in bytes 64 to 127 (R371). The
places of the first six are a DESIGN CHOICE (log entry 28). -/
def headerBytes (c : SaveCtx) (v : Saved) : List Byte :=
  let head := leBytes 4 v.block.lid ++ leBytes 4 v.block.num ++ ((v.block.cores.flatMap fun k => leBytes 2 k) ++ List.replicate 8 0xFF).take 8
    ++ leBytes 4 v.groups.length ++ leBytes 4 c.scratch ++ leBytes 4 c.regs
  (head ++ List.replicate 64 0).take 64
    ++ (((v.block.regions.flatMap fun (r : Region) => leBytes 8 r.base.toNat ++ leBytes 8 r.len.toNat)) ++ List.replicate 64 0).take 64

/-- The wait of a lane of a saved group. -/
def Saved.waitOf (v : Saved) (gid l : Nat) : Option Wait := v.waits.find? fun w => w.gid == gid && w.lanes.getLsbD l

/-- The WAITC of a group that its section holds; that of another program counter of the group stands in the copy alone (log entry 28). -/
def Saved.waitcOf (v : Saved) (gid : Nat) : Option Wait :=
  v.waits.find? fun w => w.gid == gid && (match w.kind with
    | .waitc _ _ _ _ _ => true
    | _ => false)

/-- The groups of a saved block that wait in WAITC. -/
def Saved.waiters (v : Saved) : List Nat := (v.groups.map fun x => x.1).filter fun g => (v.waitcOf g).isSome

/-- The WAITC section's entry of a group: elapsed ticks, time-out, and the conditions; its places are a DESIGN CHOICE (log entry 28). -/
def waitcBytes (now : Nat) (w : Wait) : List Byte :=
  match w.kind with
  | .waitc conds all limit _ _ =>
    (leBytes 8 (now - w.t0) ++ leBytes 4 limit ++ leBytes 1 conds.length ++ leBytes 3 (if all then 1 else 0) ++ (conds.flatMap fun (c : Cond) =>
      leBytes 1 c.kind ++ leBytes 1 (c.cmp + if c.signed then 128 else 0) ++ leBytes 2 c.index ++ leBytes 4 c.value.toNat
        ++ leBytes 8 c.word1.toNat) ++ List.replicate 128 0).take 128
  | _ => []

/-- The place of a word that has none: no partition has it. -/
def noPlace : Nat := 2 ^ 63

/-- A WAITC as its section gives it: the elapsed ticks as of the save, and the conditions, a word with the place that the wait had for
it. -/
def Wait.ofWaitc (savedAt : Nat) (bs : List Byte) (w : Wait) : Wait :=
  match w.kind with
  | .waitc conds _ _ reg scope =>
    let cond (k : Nat) : Cond :=
      let at_ := 16 + 16 * k
      let word1 : DWord := BitVec.ofNat 64 (fieldAt bs (at_ + 8) 8)
      let old := conds.find? fun c => c.kind == 0 && c.word1 == word1
      ⟨fieldAt bs at_ 1, fieldAt bs (at_ + 1) 1 % 128, (fieldAt bs (at_ + 1) 1).testBit 7, fieldAt bs (at_ + 2) 2,
        BitVec.ofNat 32 (fieldAt bs (at_ + 4) 4), word1, (old.map fun c => c.paddr).getD noPlace, (old.map fun c => c.pkind).getD .shared⟩
    { w with t0 := savedAt - fieldAt bs 0 8,
             kind := .waitc ((List.range (Nat.min 7 (fieldAt bs 12 1))).map cond) (fieldAt bs 13 1 == 1) (fieldAt bs 8 4) reg scope }
  | _ => w

/-- The %group of a saved group, and the saved group of a %group. -/
def Saved.numOf (v : Saved) (gid : Nat) : Nat := (Map.get Group.fresh v.groups gid).num
def Saved.gidOf (v : Saved) (num : Nat) : Option Nat := (v.groups.find? fun x => x.2.num == num).map fun x => x.1

/-- The bytes of a save area (R339). -/
def Saved.bytes (c : SaveCtx) (v : Saved) : List Byte :=
  let lanes := v.groups.flatMap fun x => (List.range 32).flatMap fun l => laneRecord x.2 v.block.joins l (v.waitOf x.1 l)
  let vecs := v.groups.flatMap fun x => vecBytes c.regs x.2
  let groups := v.groups.flatMap fun x => groupBytes (fun slot => v.accs.any fun a => a.1 == x.1 && a.2.slot == slot && a.2.i32) x.2
  let accs := v.accs.flatMap fun a => accBytes a.2
  headerBytes c v ++ lanes ++ vecs ++ groups ++ accs ++ pad128 (scratchSection c.scratch v.block)
    ++ pad128 ((v.block.joins.flatMap (joinBytes v.numOf)) ++ v.block.ccs.flatMap ccBytes) ++ pad128 c.stage
    ++ v.waiters.flatMap fun g => ((v.waitcOf g).map (waitcBytes v.savedAt)).getD []

/-- Where the sections of a save area begin: vector registers, group state, accumulators, scratchpad, join registers, stage
section, WAITC. -/
structure Places where
  vecs : Nat
  groups : Nat
  accs : Nat
  scratch : Nat
  joins : Nat
  stage : Nat
  waitc : Nat
  deriving DecidableEq, Repr

def Saved.places (c : SaveCtx) (v : Saved) : Places :=
  let n := v.groups.length
  let p0 := 128 + 128 * 32 * n
  let p1 := p0 + 128 * c.regs * n
  let p2 := p1 + 1024 * n
  let p3 := p2 + 16384 * v.accs.length
  let sp := scratchLen c.scratch
  let p4 := p3 + (sp + sp / 128 + 127) / 128 * 128
  ⟨p0, p1, p2, p3, p4, p4 + 2176, p4 + 2176 + (c.stage.length + 127) / 128 * 128⟩

/-- A saved block as its save area gives it (R340): what the kernel wrote there is restored as written. A phase that the block did not
have takes a name from `fresh` on. -/
def Saved.ofBytes (c : SaveCtx) (fresh : Nat) (v : Saved) (bs : List Byte) : Saved :=
  let p := v.places c
  let cut (at_ n : Nat) : List Byte := (bs.drop at_).take n
  let stateOf (gid : Nat) : List Byte := match v.groups.findIdx? fun g => g.1 == gid with
    | some k => cut (p.groups + 1024 * k) 1024
    | none => []
  let slotsOf (gid : Nat) : List Nat := (v.accs.filter fun a => a.1 == gid).map fun a => a.2.slot
  let groups := ((List.range v.groups.length).zip v.groups).map fun x =>
    (x.2.1, x.2.2.ofBytes c.regs (slotsOf x.2.1) (cut (128 + 4096 * x.1) 4096) (cut (p.vecs + 128 * c.regs * x.1) (128 * c.regs)) (stateOf x.2.1))
  let accs := ((List.range v.accs.length).zip v.accs).map fun x => (x.2.1, x.2.2.ofBytes (stateOf x.2.1) (cut (p.accs + 16384 * x.1) 16384))
  let regions : List Region := (List.range v.block.regions.length).map fun k =>
    ⟨BitVec.ofNat 64 (fieldAt bs (64 + 16 * k) 8), BitVec.ofNat 64 (fieldAt bs (72 + 16 * k) 8)⟩
  let joins := ((List.range v.block.joins.length).zip v.block.joins).map fun x =>
    x.2.ofBytes (fresh + x.1) v.gidOf (cut (p.joins + 128 * x.1) 128)
  let ccs := (List.range v.block.ccs.length).map fun k => ccOf (fieldAt bs (p.joins + 2048 + 4 * k) 4)
  let b : Block := { v.block.ofScratch c.scratch (cut p.scratch (p.joins - p.scratch)) with regions := regions, joins := joins, ccs := ccs }
  let record (gid l : Nat) : List Byte := match v.groups.findIdx? fun g => g.1 == gid with
    | some k => cut (128 + 4096 * k + 128 * l) 128
    | none => []
  let held (w : Wait) : Wait := match v.waiters.findIdx? fun g => g == w.gid with
    | some k => if (v.waitcOf w.gid).map (fun x => x.id) = some w.id then w.ofWaitc v.savedAt (cut (p.waitc + 128 * k) 128) else w
    | none => w
  let waits := (v.waits.map fun w => (held w).ofRecords joins (record w.gid)).filter fun w => w.lanes != 0
  { v with block := b, groups := groups, accs := accs, waits := waits }

/-- The bytes of a save area in lines. -/
def Saved.lines (c : SaveCtx) (v : Saved) : Nat := (v.places c).waitc / 128 + v.waiters.length

/-! ## The pool (R340) -/

def poolKey (p : Nat) : Nat := csrPart p 0x05
/-- The save pool's pages of a partition. -/
def State.poolPages (s : State) (p : Nat) : Nat := (s.csr (poolKey p)).toNat % 65536
/-- The address of a page of the pool. -/
def State.pageVa (s : State) (p page : Nat) : Nat := (s.csr (poolKey p)).toNat / 65536 * 65536 + 65536 * page

/-- The saved blocks of a partition. -/
def State.savedIn (s : State) (p : Nat) : List Saved :=
  s.sched.saved.filter fun v => match s.launch v.block.lid with
    | some x => x.part == p
    | none => false

/-- The pool's free pages, ascending. -/
def State.poolFree (s : State) (p : Nat) : List Nat :=
  let used := (s.savedIn p).flatMap fun v => v.pages
  (List.range (s.poolPages p)).filter fun k => !used.contains k

/-- The agent that writes and reads save areas: the quadrant's distributor (R338). -/
def State.saveWalker (s : State) (q : Nat) : Walker := s.kernelWalker (384 + q) (s.ownerOf q) (some q)

/-- The address of a byte of a save area. -/
def State.areaVa (s : State) (v : Saved) (off : Nat) : Nat :=
  s.pageVa (s.ownerOf v.block.quad) (v.pages.getD (off / 65536) 0) + off % 65536

/-- Where a save area has the state of a tag of its k-th group. Its vector registers are as many as its launch's. -/
def State.tagAt (s : State) (v : Saved) (k tag : Nat) : Nat :=
  let regs := match s.launch v.block.lid with
    | some x => x.record.regs
    | none => 256
  (v.places ⟨regs, 0, []⟩).groups + 1024 * k + 680 + tag

/-- Bytes of a save area that lie in one line, as they stand; none where they cannot be read. -/
def State.areaPeek (s : State) (v : Saved) (off n : Nat) : Option (List Byte) :=
  match (s.xlate (s.saveWalker v.block.quad) (BitVec.ofNat 64 (s.areaVa v off)) .engineRead).2 with
  | .ok pa _ => some (s.peek pa n)
  | .trap _ => none
  | .stop _ _ => none

/-- Writes bytes of a save area that lie in one line, where they can be written. -/
def State.areaPoke (s : State) (v : Saved) (off : Nat) (bs : List Byte) : State :=
  match s.xlate (s.saveWalker v.block.quad) (BitVec.ofNat 64 (s.areaVa v off)) .engineWrite with
  | (s1, .ok pa k) => s1.poke .memSide k pa bs
  | (s1, _) => s1

/-- The cores that a saved block left, as its header gives them (R336, R339). -/
def State.coresLeft (s : State) (v : Saved) : List Nat :=
  match s.areaPeek v 8 8 with
  | none => v.block.cores
  | some bs =>
    let l := ((List.range 4).map fun k => fieldAt bs (2 * k) 2).filter fun c => decide (c < 384)
    if l = [] then v.block.cores else l

end Sys2Proof.Machine
end

