-- ==== Sys2Proof/Machine/Place.lean ====
section
/-! DEFINITION. Placement, pre-emption, saves and restores (R330 to R340, R362, R365). -/
namespace Sys2Proof.Machine

/-! ## Resources (R331) -/

/-- The least power of two at or above `n`, from `p` upward; `fuel` bounds the doublings. -/
def powTwo : Nat → Nat → Nat → Nat
  | 0, p, _ => p
  | fuel + 1, p, n => if n ≤ p then p else powTwo fuel (2 * p) n

/-- Slabs of a group (R331). -/
def slabsOf (regs : Nat) : Nat := powTwo 6 8 regs / 8
/-- Scratchpad granules of 4 KiB of a block (R331). -/
def granulesOf (scratch : Nat) : Nat := if scratch = 0 then 0 else powTwo 7 1 ((scratch + 4095) / 4096)

/-- The accumulator slots of a group: those its handles name, and those its open phases use. -/
def State.slotsHeld (s : State) (gid : Nat) : List Nat :=
  (((s.group gid).acc.map fun (h : Nat × Nat) => h.2 - 1)
    ++ ((s.phases.filter fun (p : Phase) => p.gid == gid).map fun (p : Phase) => p.slot)).eraseDups

/-- What is taken: group slots with their slabs, granules by core, accumulator slots by sub-core, and stage entries by core. -/
structure Use where
  groups : List (Nat × Nat)
  grans : List (Nat × Nat)
  accs : List Nat
  entries : List (Nat × Nat)
  deriving DecidableEq, Repr

/-- The lowest core of a block. -/
def Block.low (b : Block) : Nat := b.cores.foldl Nat.min (b.cores.headD 0)

/-- What a set of blocks gives back counts as free: `gone` picks them. -/
def State.use (s : State) (gone : BlockRef → Bool) : Use :=
  let groups := s.groups.filter fun x => !x.2.sys && !gone x.2.blk
  let blocks := s.blocks.filter fun b => !gone ⟨b.lid, b.num⟩
  let left (sub slot : Nat) : Bool := s.groups.any fun x => gone x.2.blk && subKey x.1 == sub && (s.slotsHeld x.1).contains slot
  ⟨groups.map fun x => (x.1, slabsOf (s.regsOf x.2)),
   blocks.map fun b => (b.low, match s.launch b.lid with
     | some x => granulesOf x.record.scratch
     | none => 0),
   ((s.eng.accs.filter fun a => a.bound && !left a.sub a.slot).map fun a => a.sub),
   s.sched.loops.filterMap fun x => match x.hdr, s.hostCore x.lid x.span with
     | some h, some c =>
       let out := s.blocks.any fun b => b.lid == x.lid && b.num / s.spanOf x.lid == x.span && gone ⟨b.lid, b.num⟩
       if out then none else some (c, h.w + 1)
     | _, _ => none⟩

def Use.slots (u : Use) (sub : Nat) : List Nat := (u.groups.filter fun x => x.1 / 8 == sub).map fun x => x.1 % 8
def Use.slabs (u : Use) (sub : Nat) : Nat := 64 - ((u.groups.filter fun x => x.1 / 8 == sub).map fun x => x.2).sum
def Use.granules (u : Use) (core : Nat) : Nat := 64 - ((u.grans.filter fun x => x.1 == core).map fun x => x.2).sum
def Use.accFree (u : Use) (sub : Nat) : Nat := 8 - u.accs.countP fun x => x == sub
def Use.entryFree (u : Use) (core : Nat) : Nat := 64 - ((u.entries.filter fun x => x.1 == core).map fun x => x.2).sum
/-- Free slabs and group slots of a core. -/
def Use.coreSlabs (u : Use) (core : Nat) : Nat := ((List.range 12).map fun k => u.slabs (12 * core + k)).sum
def Use.coreSlots (u : Use) (core : Nat) : Nat := ((List.range 12).map fun k => 8 - (u.slots (12 * core + k)).length).sum

/-- A block that asks for a place: its groups' bound accumulator slots, its cores when it is pinned, and the stage entries of
its span when it is the first of the span's blocks that remain. -/
structure Need where
  ref : BlockRef
  accs : List Nat
  slabs : Nat
  grans : Nat
  k : Nat
  pinned : Option (List Nat)
  entries : Nat
  deriving DecidableEq, Repr

/-- The fewest cores that can hold a block (R332); none beyond four (R324). -/
def coresFor (groups slabs : Nat) : Option Nat :=
  [1, 2, 3, 4].find? fun k => decide ((groups + k - 1) / k ≤ 12 * Nat.min 8 (64 / slabs))

/-! ## Seating groups (R333) -/

/-- Seats one group in a sub-core, where it has room: its slot. -/
def Use.seat (u : Use) (sub slabs accs : Nat) : Option Nat :=
  if u.slabs sub < slabs ∨ u.accFree sub < accs then none
  else (List.range 8).find? fun k => !(u.slots sub).contains k

/-- Seats groups round-robin over a core's sub-cores from `next` on. -/
def Use.seatAll (u : Use) (core slabs : Nat) : Nat → List Nat → Option (Use × List Nat)
  | _, [] => some (u, [])
  | next, a :: rest =>
    match ((List.range 12).map fun k => (next + k) % 12).findSome? fun k => (u.seat (12 * core + k) slabs a).map fun sl => (k, sl) with
    | none => none
    | some (k, sl) =>
      let sub := 12 * core + k
      let u1 : Use := { u with groups := u.groups ++ [(8 * sub + sl, slabs)], accs := u.accs ++ List.replicate a sub }
      match Use.seatAll u1 core slabs (k + 1) rest with
      | some (u2, l) => some (u2, (8 * sub + sl) :: l)
      | none => none

/-- The sub-core with the most free slabs, ties to the lower number. -/
def Use.startSub (u : Use) (core : Nat) : Nat :=
  (List.range 12).foldl (fun b k => if u.slabs (12 * core + b) < u.slabs (12 * core + k) then k else b) 0

/-- Seats a block's groups on its cores: the first take one more (R332). -/
def Use.seatCores (u : Use) (slabs : Nat) : List (Nat × List Nat) → Option (Use × List Nat)
  | [] => some (u, [])
  | (core, accs) :: rest =>
    match u.seatAll core slabs (u.startSub core) accs with
    | none => none
    | some (u1, l) => match Use.seatCores u1 slabs rest with
      | some (u2, l2) => some (u2, l ++ l2)
      | none => none

/-- Deals a block's groups to its cores, in ascending order. -/
def dealGroups (cores : List Nat) (accs : List Nat) : List (Nat × List Nat) :=
  let g := accs.length
  let k := cores.length
  let size (j : Nat) : Nat := g / k + (if j < g % k then 1 else 0)
  ((List.range k).zip cores).map fun x => (x.2, (accs.drop (((List.range x.1).map size).sum)).take (size x.1))

/-- Fits a block on given cores. -/
def Use.fitOn (u : Use) (n : Need) (cores : List Nat) : Option (Use × List Nat) :=
  let low := cores.headD 0
  if u.granules low < n.grans ∨ u.entryFree low < n.entries then none
  else match u.seatCores n.slabs (dealGroups cores n.accs) with
    | none => none
    | some (u1, gids) => some ({ u1 with grans := u1.grans ++ [(low, n.grans)], entries := u1.entries ++ [(low, n.entries)] }, gids)

/-- The candidate placements of a block in a quadrant, ascending; none includes a core mapped out (R332, R335, R336, R444). -/
def State.runs (s : State) (q : Nat) (n : Need) : List (List Nat) :=
  (match n.pinned with
  | some l => [l]
  | none => (List.range (13 - n.k)).map fun c => (List.range n.k).map fun j => 12 * q + c + j).filter fun l =>
      l.all fun c => !s.sys.mappedOut.contains c

/-- A fit of one block. -/
structure Fit where
  ref : BlockRef
  cores : List Nat
  gids : List Nat
  deriving DecidableEq, Repr

/-- Whether a fit's cores are preferred to another's in a refill (R333). -/
def Use.better (u : Use) (a b : List Nat) : Bool :=
  let key (l : List Nat) : Nat × Nat × Nat := (u.granules (l.headD 0), (l.map u.coreSlabs).sum, (l.map u.coreSlots).sum)
  let x := key a
  let y := key b
  decide (y.1 < x.1) || (x.1 == y.1 && (decide (y.2.1 < x.2.1) || (x.2.1 == y.2.1 && decide (y.2.2 < x.2.2))))

/-- Places one block by the rule of R333: the lowest run that fits, or in a refill the emptiest. -/
def State.fitBlock (s : State) (u : Use) (q : Nat) (refill : Bool) (n : Need) : Option (Use × Fit) :=
  let ok := (s.runs q n).filterMap fun l => (u.fitOn n l).map fun r => (l, r)
  let best := ok.foldl (fun (o : Option (List Nat × Use × List Nat)) x => match o with
    | none => some x
    | some y => if refill && u.better x.1 y.1 then some x else some y) none
  best.map fun x => (x.2.1, ⟨n.ref, x.1, x.2.2⟩)

/-- Fits every block of a unit, in ascending order (R332). -/
def State.fitUnit (s : State) (q : Nat) (refill : Bool) : Use → List Need → Option (Use × List Fit)
  | u, [] => some (u, [])
  | u, n :: rest => match s.fitBlock u q refill n with
    | none => none
    | some (u1, f) => match State.fitUnit s q refill u1 rest with
      | some (u2, l) => some (u2, f :: l)
      | none => none

/-! ## Waiting units (R330, R333, R335) -/

/-- A span that waits for a place in a quadrant: new, or saved. -/
structure Unit_ where
  lid : Nat
  span : Nat
  saved : Bool
  deriving DecidableEq, Repr

/-- The blocks of a span. -/
def Launch.blocksIn (x : Launch) (span : Nat) : List Nat :=
  let n := Nat.max 1 x.record.span
  (List.range (Nat.min n (x.record.blocks - n * span))).map fun k => n * span + k

/-- Whether the result of the LAUNCH that a launch came from is still on its way: none of its blocks is placed yet (R364). -/
def State.launching (s : State) (lid : Nat) : Bool := s.after.any fun x => match x.kind with
  | .place l _ => l == lid
  | .tid _ _ _ | .sent _ _ | .inv _ _ _ _ _ _ | .sync _ => false

/-- The units that wait in a quadrant, in the order of service (R333). -/
def State.waitingUnits (s : State) (q : Nat) : List Unit_ :=
  let fresh := s.sched.waiting.filterMap fun w => if w.quad = q then some ⟨w.lid, w.span, false⟩ else none
  let back := (s.sched.saved.filterMap fun x =>
    if x.block.quad = q ∧ !x.onEvent then some (x.block.lid, x.block.num / s.spanOf x.block.lid) else none).eraseDups
  let all := fresh ++ back.map fun x => ⟨x.1, x.2, true⟩
  let keyed := all.filterMap fun u => match s.launch u.lid with
    | some x => if x.held || x.ending || s.launching u.lid then none else some (3 - x.record.prio, x.order, u.span, u)
    | none => none
  let before (a b : Nat × Nat × Nat × Unit_) : Bool :=
    decide (a.1 < b.1) || (a.1 == b.1 && (decide (a.2.1 < b.2.1) || (a.2.1 == b.2.1 && decide (a.2.2.1 ≤ b.2.2.1))))
  (sortBy before keyed).map fun x => x.2.2.2

/-- A saved span's blocks, ascending. -/
def State.savedOf (s : State) (lid span : Nat) : List Saved :=
  sortBy (fun (a b : Saved) => decide (a.block.num ≤ b.block.num))
    (s.sched.saved.filter fun x => x.block.lid == lid && x.block.num / s.spanOf lid == span)

/-- Stage entries that a span holds (R362). -/
def State.spanEntries (s : State) (lid span : Nat) : Nat :=
  (s.sched.loops.map fun x => if x.lid = lid ∧ x.span = span then (match x.hdr with
    | some h => h.w + 1
    | none => 0) else 0).sum

/-- What a unit's blocks ask for. -/
def State.needs (s : State) (u : Unit_) : List Need :=
  match s.launch u.lid with
  | none => []
  | some x =>
    let slabs := slabsOf x.record.regs
    let k := (coresFor (x.record.lanes / 32) slabs).getD 4
    let l := s.savedOf u.lid u.span
    let first := (l.map fun v => v.block.num).headD 0
    if u.saved then l.map fun v =>
      ⟨⟨u.lid, v.block.num⟩, v.groups.map fun g => v.accs.countP fun a => a.1 == g.1, slabs, granulesOf x.record.scratch, k,
        if x.record.pin then some (s.coresLeft v) else none, if v.block.num = first then s.spanEntries u.lid u.span else 0⟩
    else (x.blocksIn u.span).map fun b =>
      ⟨⟨u.lid, b⟩, List.replicate (x.record.lanes / 32) 0, slabs, granulesOf x.record.scratch, k, none, 0⟩

/-! ## Runs of slabs and granules (R331, R334) -/

/-- The lowest free run of `n` units, a power of two, among `total`; `taken` lists runs as start and length. -/
def freeRun (total n : Nat) (taken : List (Nat × Nat)) : Option Nat :=
  ((List.range (total / n)).map fun k => k * n).find? fun a => taken.all fun t => decide (a + n ≤ t.1) || decide (t.1 + t.2 ≤ a)

/-- The compactor's moves, old start to new start: it packs runs from 0 upward, the longest first (R334; log entry 28). -/
def packRuns (runs : List (Nat × Nat)) : List (Nat × Nat) :=
  let l := sortBy (fun (a b : Nat × Nat) => decide (b.2 < a.2) || (a.2 == b.2 && decide (a.1 ≤ b.1))) runs
  (l.foldl (fun (r : Nat × List (Nat × Nat)) x => (r.1 + x.2, r.2 ++ [(x.1, r.1)])) (0, [])).2

/-- The slabs that the groups of a sub-core hold. -/
def State.slabRuns (s : State) (sub : Nat) : List (Nat × Nat) :=
  (s.groups.filter fun x => !x.2.sys && subKey x.1 == sub).map fun x => (x.2.slab, slabsOf (s.regsOf x.2))

/-- Takes a group's slabs: the lowest free run, or after compaction (R331, R334). -/
def State.takeSlabs (s : State) (gid n : Nat) : State × Nat :=
  let sub := subKey gid
  match freeRun 64 n (s.slabRuns sub) with
  | some a => (s, a)
  | none =>
    let m := packRuns (s.slabRuns sub)
    let move (x : Nat × Group) : Nat × Group :=
      if !x.2.sys && subKey x.1 == sub then (x.1, { x.2 with slab := (m.lookup x.2.slab).getD x.2.slab }) else x
    let s1 : State := { s with groups := s.groups.map move }
    (s1, (freeRun 64 n (s1.slabRuns sub)).getD 0)

/-- The scratchpad granules that the blocks of a core hold. -/
def State.granRuns (s : State) (core : Nat) : List (Nat × Nat) :=
  (s.blocks.filter fun b => b.low == core).filterMap fun b => match s.launch b.lid with
    | some x => if x.record.scratch = 0 then none else some (b.gran, granulesOf x.record.scratch)
    | none => none

/-- Takes a block's scratchpad granules (R331, R334): scratchpad offsets are relative to the block, so no byte moves in it. -/
def State.takeGranules (s : State) (core n : Nat) : State × Nat :=
  if n = 0 then (s, 0)
  else match freeRun 64 n (s.granRuns core) with
  | some a => (s, a)
  | none =>
    let m := packRuns (s.granRuns core)
    let move (b : Block) : Block := if b.low == core then { b with gran := (m.lookup b.gran).getD b.gran } else b
    let s1 : State := { s with blocks := s.blocks.map move }
    (s1, (freeRun 64 n (s1.granRuns core)).getD 0)

/-- A group takes its slot and its slabs. -/
def State.seatGroup (s : State) (gid : Nat) (g : Group) : State :=
  let r := s.takeSlabs gid (slabsOf (s.regsOf g))
  r.1.setGroup gid { g with slab := r.2 }

/-- A block takes its scratchpad on its lowest core; the first block of its span that is placed sets the host core (R347). Its
cores count among those of its launch. -/
def State.seatBlock (s : State) (b : Block) : State :=
  let n := match s.launch b.lid with
    | some x => granulesOf x.record.scratch
    | none => 0
  let r := s.takeGranules b.low n
  let span := b.num / s.spanOf b.lid
  let s1 : State := { r.1 with blocks := r.1.blocks ++ [{ b with gran := r.2 }], sched := { r.1.sched with stamp := r.1.sched.stamp + 1 } }
  let s2 := if (s1.hostCore b.lid span).isSome then s1 else s1.setHost b.lid span b.low
  s2.modLaunch b.lid fun x => { x with cores := (x.cores ++ b.cores).eraseDups }

/-! ## Placing a new block (R95, R330) -/

/-- A new block starts: its lanes stand at ENTRY. -/
def State.startBlock (s : State) (x : Launch) (q : Nat) (f : Fit) : State :=
  let lane : Lane := { Lane.fresh with live := true, pc := x.record.entry, since := s.clock }
  let mk (num : Nat) : Group := { Group.fresh with lid := x.lid, block := f.ref.block, num := num, part := x.part, lanes := List.replicate 32 lane,
                                                   guard := s.clock }
  let b : Block := { lid := x.lid, num := f.ref.block, quad := q, cores := f.cores, gids := f.gids, gran := 0, scratch := [], former := [],
                     full := [], joins := List.replicate 16 Join.fresh, ccs := List.replicate 16 Cc.fresh, regions := [],
                     placedAt := s.sched.stamp }
  ((List.range f.gids.length).zip f.gids).foldl (fun s y => s.seatGroup y.2 (mk y.1)) (s.seatBlock b)

/-! ## Restoring a saved block (R305, R336, R338, R362, R371) -/

/-- Chooses free accumulator slots of a sub-core for a group's old ones: old to new. -/
def State.rebind (s : State) (sub : Nat) (old : List Nat) : List (Nat × Nat) :=
  old.zip ((List.range 8).filter fun k => !(s.accSlot sub k).bound)

/-- Names a parked wait's group anew. -/
def Wait.rename (w : Wait) (gid : Nat) : Wait := { w with gid := gid, cx := { w.cx with gid := gid } }

/-- What LWAIT answers for an identifier without waiting; none while the launch runs (R328). -/
def State.lwaitStatus (s : State) (part own id : Nat) : Option Word :=
  if id = own ∧ own ≠ 0 then some 6
  else match s.launch id with
    | some x => if x.part = part then none else some 5
    | none => match s.sched.ended.lookup id with
      | some st => if s.ownerOf (id / 2 ^ 26) = part then some (BitVec.ofNat 32 st) else some 5
      | none => some 5

/-- Releases the LWAITs whose launch has ended (R328, R329). -/
def State.lwaitWake (s : State) : State :=
  s.waits.foldl (fun s w => match w.kind with
    | .lwait id reg scope => match s.lwaitStatus (s.group w.gid).part (s.group w.gid).lid id with
      | some x => ((s.wake w).acquireBy w.gid w.lanes scope).giveV w reg x
      | none => s
    | _ => s) s

/-- Translates the words of conditions that have no place yet: those that a save area gave anew (R340). -/
def State.placeWords (s : State) (gid : Nat) (conds : List Cond) : State × List Cond :=
  conds.foldl (fun r c =>
    if c.kind = 0 ∧ c.paddr = noPlace then match r.1.xlate (r.1.laneWalker gid) c.word1 .read with
      | (s1, .ok pa k) => (s1, r.2 ++ [{ c with paddr := pa, pkind := k }])
      | (s1, _) => (s1, r.2 ++ [c])
    else (r.1, r.2 ++ [c])) (s, [])

/-- A restored WAITC is armed again and evaluated before its lanes park (R225): the watchers that stayed armed while it was saved
give way. -/
def State.rearmWaitc (s00 : State) (w : Wait) : State :=
  match w.kind with
  | .waitc conds0 all limit reg scope =>
    let (s, conds) := s00.placeWords w.gid conds0
    let stale (i : Instr) : Bool := match i with
      | .watcherReport r | .monitorPoll r | .waitcTimeOut r => r.id == w.id
      | _ => false
    let s0 := s.disarm w.id
    let s1 := ({ s0 with due := s0.due.filter fun i => !stale i } : State).recallWords conds
    let g := s1.group w.gid
    match s1.satMask (s1.block g.blk) g conds with
    | (s2, .error a) => s2.failWaitc w a
    | (s2, .ok m) =>
      if leaves all conds.length m then s2.leaveWaitc w conds reg scope m else s2.armWait ⟨w.gid, w.id⟩ conds limit
  | _ => s00

/-- Re-arms what a restored wait awaits, or evaluates it again before its lanes park (R225, R338, R362, R365). A YIELD is over
(R150). -/
def State.rearm (s : State) (w : Wait) : State :=
  let r : WaitRef := ⟨w.gid, w.id⟩
  let bto := s.bto (s.group w.gid).lid
  match w.kind with
  | .bar _ _ _ _ => if bto = 0 then s else s.send (.barrierTimeOut r)
  | .yield _ _ => s.wake w
  | .waitc _ _ _ _ _ => s.rearmWaitc w
  | .streamPop _ _ => s.send (.streamPopResume r)
  | .streamPush _ _ => s.send (.streamPushResume r)
  | .waitl _ _ _ _ => if bto = 0 then s else s.send (.stageWaitTimeOut r)
  | .stend _ => s.send (.iterationHandout r)
  | .mwait ops _ _ => if (s.openOf w.gid ops).isSome && bto != 0 then s.send (.matrixSignTimeOut r) else s
  | .pop => s.send (.taskPop w.gid)
  | .taskEnd => s.send (.taskComplete w.gid)
  | .lwait _ _ _ | .held | .reconv _ | .mvwait _ _ _ | .ldfe _ _ _ _ _ _ | .cpywait _ _ _ _ _ | .colwait _ _ _ | .preempt _ _ _ _ | .pageFault _ | .halt => s

/-- What is done with each frame below the top four of the lanes of a group (R94): lane and depth above the bottom. -/
def State.deepFrames (s : State) (gid : Nat) (f : State → Nat → Nat → Nat → State) : State :=
  (List.range 32).foldl (fun s l => (List.range ((s.lane gid l).stack.length - 4)).foldl (fun s d => f s gid l d) s) s

/-- The frames of a group that is saved leave the region with it (R94, R430; log entry 28). -/
def State.fillDeep (s : State) (gid : Nat) : State := s.deepFrames gid State.fillFrame
/-- The frames of a restored group go to the region's places for its new slot (R94, R430). -/
def State.spillDeep (s : State) (gid : Nat) : State := s.deepFrames gid State.spillFrame

/-- Puts one saved group back under its new name. Its guard counter goes on from what was saved (R339). -/
def State.restoreGroup (s : State) (v : Saved) (old new : Nat) (g : Group) : State :=
  let mine := (v.accs.filter fun a => a.1 == old).map fun a => a.2
  let r := s.rebind (subKey new) (mine.map fun a => a.slot)
  let slots := mine.map fun a => (a, (r.lookup a.slot).getD 0)
  let s1 := slots.foldl (fun (s : State) a => s.setAcc { a.1 with sub := subKey new, slot := a.2, bound := true }) s
  let g1 : Group := { g with acc := g.acc.map fun (h : Nat × Nat) => (h.1, (r.lookup (h.2 - 1)).getD 0 + 1), stopping := false, hold := true,
                             guard := s.clock - g.guard }
  let holder (e : Nat × StageIter) : Nat × StageIter := if e.2.holder = some old then (e.1, { e.2 with holder := some new }) else e
  let loops := s1.sched.loops.map fun (x : LoopSlot) => { x with iters := x.iters.map holder }
  let parked := s1.ms.parked.map fun (p : Parked) => if p.gid = old ∧ p.agent = 0 then { p with gid := new } else p
  let bank := s1.ms.bank.map fun (c : BankCmd) => if c.gid = old then { c with gid := new } else c
  let joins (b : Block) : Block := { b with joins := b.joins.map fun (j : Join) => { j with phase := j.phase.map fun (p : Phase) =>
    if p.gid = old then { p with gid := new, slot := (r.lookup p.slot).getD p.slot } else p } }
  let blocks := s1.blocks.map fun b => if b.lid == g.lid && b.num == g.block then joins b else b
  let s2 : State := { s1 with sched := { s1.sched with loops := loops }, ms := { s1.ms with parked := parked, bank := bank }, blocks := blocks }
  (s2.seatGroup new g1).spillDeep new

/-- A restored group's waits: a RESUME that came while it was saved takes effect (R374). -/
def State.restoreWaits (s : State) (v : Saved) (old new : Nat) : State :=
  (v.waits.filter fun w => w.gid == old).foldl (fun (s : State) w =>
    let t0 := match w.kind with
      | .waitc _ _ _ _ _ => w.t0
      | _ => s.tick - w.t0
    let w1 : Wait := { w.rename new with t0 := t0 }
    let s1 : State := { s with waits := s.waits ++ [w1] }
    match w.kind with
    | .pageFault id => match s1.ms.parked.find? fun p => p.id == id with
      | some p => if p.ready then ({ s1 with ms := { s1.ms with parked := s1.ms.parked.filter fun x => !(x.id == id) } } : State).wake w1 else s1
      | none => s1
    | _ => s1.rearm w1) s

/-- A block's locked regions are walked again, and what is mapped is locked where the cores have room (R371). -/
def State.relock (s : State) (b : Block) : State :=
  let w : Walker := { s.laneWalker (b.gids.headD 0) with regions := [] }
  b.regions.foldl (fun (s : State) r =>
    let x := regionLeaves s w r.base.toNat r.len.toNat
    x.1.lockCores w ⟨b.lid, b.num⟩ r.base.toNat x.2.1 (b.cores.filter fun c => decide (x.2.1.length ≤ x.1.lockable c))) s

/-! ## Save areas of a block and its span (R339, R340, R363) -/

/-- A group by its name, resident or saved. -/
def State.groupAny (s : State) (gid : Nat) : Group :=
  if s.hasGroup gid then s.group gid
  else match s.sched.saved.findSome? fun v => v.groups.lookup gid with
    | some g => g
    | none => Group.fresh

/-- The group of a span with this %group in the block with this %blkinspan. -/
def State.groupNamed (s : State) (lid span num blk : Nat) : Option Nat :=
  let b := span * s.spanOf lid + blk
  let is (x : Nat × Group) : Bool := x.2.lid == lid && x.2.block == b && x.2.num == num
  match (s.groups ++ s.sched.saved.flatMap fun v => v.groups).find? is with
  | some x => some x.1
  | none => none

/-- The loops of a span. -/
def State.loopsOf (s : State) (lid span : Nat) : List LoopSlot := s.sched.loops.filter fun x => x.lid == lid && x.span == span

/-- What goes into the save area of a block beside the block. Block 0 of a span has the stage section. -/
def State.saveCtx (s : State) (lid num : Nat) : SaveCtx :=
  let n := s.spanOf lid
  let loops := s.loopsOf lid (num / n)
  let who (gid : Nat) : Nat × Nat := ((s.groupAny gid).num, (s.groupAny gid).block % n)
  let r := match s.launch lid with
    | some x => (x.record.regs, x.record.scratch)
    | none => (256, 0)
  ⟨r.1, r.2, if num % n = 0 ∧ loops ≠ [] then stageSection who loops else []⟩

/-- Writes a save area into its pages. -/
def State.writeArea (s : State) (v : Saved) : State :=
  let c := s.saveCtx v.block.lid v.block.num
  let bs := v.bytes c
  s.writePages (s.saveWalker v.block.quad) (v.pages.map (s.pageVa (s.ownerOf v.block.quad))) bs

/-- The stage section of a span as memory gives it (R363). -/
def State.readStage (s : State) (lid span : Nat) (bs : List Byte) : State :=
  let who (num blk : Nat) : Option Nat := s.groupNamed lid span num blk
  let slots := ((List.range 8).map fun k => (s.loopSlot lid span k).ofBytes (s.nextId + k) who bs).filter fun x => x.hdr.isSome || x.closed.isSome
  { s with nextId := s.nextId + 8, sched := { s.sched with loops := (s.sched.loops.filter fun x => !(x.lid == lid && x.span == span)) ++ slots } }

/-- A group's place in a loop as its span's stage section gives it: the iteration that names the group as its holder (R363), and
otherwise none, in the slot where its lanes wait. `was` is its place when it was saved. -/
def State.loopBack (s : State) (gid : Nat) (was : Option LoopPlace) (g : Group) : Option LoopPlace :=
  let held := (s.loopsOf g.lid (s.spanNo g)).findSome? fun x => match x.hdr, x.iters.find? fun e => e.2.holder == some gid with
    | some h, some e => some (⟨x.slot, h.uid, some e.2.iter, e.2.count⟩ : LoopPlace)
    | _, _ => none
  match held with
  | some p => some p
  | none => g.loop.map fun p =>
    let now := ((s.loopSlot g.lid (s.spanNo g) p.slot).hdr.map fun h => h.uid).getD p.uid
    { p with iter := none, cur := 0, uid := if (was.map fun q => q.slot) = some p.slot then p.uid else now }

/-- Reads a save area back (R340); where it cannot be read, what was saved returns (log entry 28). -/
def State.readArea (s : State) (v : Saved) : State × Saved :=
  let c := s.saveCtx v.block.lid v.block.num
  match s.readPages (s.saveWalker v.block.quad) (v.pages.map (s.pageVa (s.ownerOf v.block.quad))) (v.lines c) with
  | (s1, none) => (s1, v)
  | (s1, some bs) =>
    let s2 := if c.stage = [] then s1
      else s1.readStage v.block.lid (v.block.num / s.spanOf v.block.lid) ((bs.drop (v.places c).stage).take c.stage.length)
    let v1 := v.ofBytes c s2.nextId bs
    let place (x : Nat × Group) : Nat × Group := (x.1, { x.2 with loop := s2.loopBack x.1 (Map.get Group.fresh v.groups x.1).loop x.2 })
    ({ s2 with nextId := s2.nextId + 16 }, { v1 with groups := v1.groups.map place })

/-- A saved block returns (R338): its new cores keep no older copy for it (R230), and what can end a wait of its groups is looked
at again before they issue (R365). A group whose work has all completed while it was saved gives its slot back (R266). -/
def State.restoreBlock (s : State) (q : Nat) (f : Fit) : State :=
  match s.sched.saved.find? fun v => v.block.lid == f.ref.lid && v.block.num == f.ref.block with
  | none => s
  | some v0 =>
    let (s0, v) := s.readArea v0
    let names := v.groups.zip f.gids
    let b : Block := { v.block with quad := q, cores := f.cores, gids := f.gids, former := [], placedAt := s0.sched.stamp }
    let saved := s0.sched.saved.filter fun x => !(x.block.lid == f.ref.lid && x.block.num == f.ref.block)
    let s1 := ({ s0 with sched := { s0.sched with saved := saved } } : State).seatBlock b
    let s2 := names.foldl (fun s x => s.restoreGroup v x.1.1 x.2 x.1.2) s1
    let s3 := f.cores.foldl (fun s c => s.acquire c q .quad) s2
    let s4 := names.foldl (fun s x => s.restoreWaits v x.1.1 x.2) (s3.relock b)
    let s5 := f.gids.foldl State.mvWake s4.mwaitWake.lwaitWake
    let s6 := (List.range 8).foldl State.colWake s5
    let span := f.ref.block / s6.spanOf f.ref.lid
    f.gids.foldl State.settle ((List.range 8).foldl (fun s k => s.stageWake f.ref.lid span k) s6)

/-! ## Victims (R335, R337) -/

/-- What a lane waits for that lets its block be saved for any priority, and whether an event of R337 ends it. -/
def idleWait : WaitKind → Option Bool
  | .lwait _ _ _ | .waitc _ _ _ _ _ | .pop => some true
  | .waitl _ _ _ _ | .stend _ => some false
  | _ => none

/-- The waits of a block's live lanes; none where a lane is not parked. -/
def State.blockWaits (s : State) (b : Block) : List (Option WaitKind) :=
  b.gids.flatMap fun gid =>
    let g := s.group gid
    g.liveLanes.map fun l => match (g.lane l).park with
      | some id => (s.wait id).map fun w => w.kind
      | none => none

/-- What the live lanes of a span wait for, each as `idleWait` gives it. -/
def State.spanIdles (s : State) (lid span : Nat) : List (Option Bool) :=
  ((s.blocks.filter fun b => b.lid == lid && b.num / s.spanOf lid == span).flatMap s.blockWaits).map fun k => k.bind idleWait

/-- Whether every live lane of a span is parked in such a wait (R337, R362; log entry 46). -/
def State.idleSpan (s : State) (lid span : Nat) : Bool :=
  let us := s.spanIdles lid span
  !us.isEmpty && us.all fun u => u.isSome

/-- A task queue (R343). -/
def State.queue (s : State) (quad prio : Nat) : List (List Byte) :=
  match s.sched.queues.find? fun x => x.quad == quad && x.prio == prio with
  | some x => x.records
  | none => []

/-- Whether a span that is saved idle waits for an event of R337 that has not yet occurred (log entry 46): some lane awaits one, and
none that waits to pop finds a record in its queue. -/
def State.awaitsEvent (s : State) (lid span : Nat) : Bool :=
  let bs := s.blocks.filter fun b => b.lid == lid && b.num / s.spanOf lid == span
  let ready := bs.any fun b => (s.blockWaits b).contains (some .pop) && !(match s.launch lid with
    | some x => (s.queue b.quad x.record.prio).isEmpty
    | none => true)
  (s.spanIdles lid span).contains (some true) && !ready

/-- Whether a block is on its way out, its save under way. -/
def State.leaving (s : State) (b : BlockRef) : Bool := s.due.any fun i => i == .blockSave b

/-- The blocks of a block's span. -/
def State.spanMates (s : State) (b : Block) : List Block :=
  s.blocks.filter fun x => x.lid == b.lid && x.num / s.spanOf b.lid == b.num / s.spanOf b.lid

/-- The candidate victims of a list of priority `p`, in the order in which they are taken (R335, R337). -/
def State.victimOrder (s : State) (q p : Nat) : List Block :=
  let prio (b : Block) : Nat := match s.launch b.lid with
    | some x => x.record.prio
    | none => 3
  let idle (b : Block) : Bool := s.idleSpan b.lid (b.num / s.spanOf b.lid)
  let cands := s.blocks.filter fun b => b.quad == q && !s.isEnding b.lid && !s.leaving ⟨b.lid, b.num⟩ && (idle b || decide (prio b < p))
  let key (b : Block) : Nat := if idle b then 0 else 1 + prio b
  sortBy (fun (a b : Block) => decide (key a < key b) || (key a == key b && decide (b.placedAt ≤ a.placedAt))) cands

/-- Takes victims of a run of cores until a block fits: the new victims and the fit. -/
def State.victimsFor (s : State) (u : List BlockRef → Use) (n : Need) (run : List Nat) :
    List Block → List BlockRef → Option (List BlockRef × Use × Fit)
  | cands, taken => match (u taken).fitOn n run with
    | some (u1, gids) => some (taken, u1, ⟨n.ref, run, gids⟩)
    | none => match cands with
      | [] => none
      | b :: rest => State.victimsFor s u n run rest (if taken.contains ⟨b.lid, b.num⟩ then taken else
          (taken ++ (s.spanMates b).map fun (x : Block) => (⟨x.lid, x.num⟩ : BlockRef)).eraseDups)

/-- Chooses victims for a unit's blocks, in ascending order (R335). `base` gives what is free once a set is gone, and `held`
what the blocks fitted so far take. -/
def State.victimsUnit (s : State) (q p : Nat) (leaving : List BlockRef) : List Need → List BlockRef → List (Need × Fit) → Option (List BlockRef)
  | [], gone, _ => some gone
  | n :: rest, gone, fits =>
    let u (v : List BlockRef) : Use :=
      let base := s.use fun b => v.contains b || leaving.contains b
      let add (u : Use) (f : Need × Fit) : Use := match u.seatCores f.1.slabs (dealGroups f.2.cores f.1.accs) with
        | some (u1, _) => { u1 with grans := u1.grans ++ [(f.2.cores.headD 0, f.1.grans)], entries := u1.entries ++ [(f.2.cores.headD 0, f.1.entries)] }
        | none => u
      fits.foldl add base
    let tries := (s.runs q n).filterMap fun run =>
      s.victimsFor u n run ((s.victimOrder q p).filter fun b => b.cores.any fun c => run.contains c) gone
    let best := tries.foldl (fun (o : Option (List BlockRef × Use × Fit)) x => match o with
      | none => some x
      | some y => if x.1.length < y.1.length then some x else some y) none
    match best with
    | none => none
    | some x => State.victimsUnit s q p leaving rest x.1 (fits ++ [(n, x.2.2)])

/-- A block's groups stop at their next clause boundaries, to be saved (R338). -/
def State.beginSave (s : State) (b : BlockRef) : State :=
  let s1 : State := { s with groups := s.groups.map fun (x : Nat × Group) => if x.2.blk == b then (x.1, { x.2 with stopping := true }) else x }
  s1.send (.blockSave b)

/-- Makes room for a unit, where victims can (R335). -/
def State.preempt (s : State) (q : Nat) (u : Unit_) : State :=
  match s.launch u.lid with
  | none => s
  | some x =>
    if s.poolPages x.part = 0 then s
    else
      let leaving := (s.blocks.filter fun b => s.leaving ⟨b.lid, b.num⟩).map fun b => (⟨b.lid, b.num⟩ : BlockRef)
      match s.victimsUnit q x.record.prio leaving (s.needs u) [] [] with
      | some gone => gone.foldl State.beginSave s
      | none => s

/-! ## A placement pass (R333) -/

/-- Whether every core of a quadrant is idle: no group and no block holds anything of it. -/
def State.quadIdle (s : State) (q : Nat) : Bool :=
  (s.groups.all fun x => isSysGid x.1 || quadOf (coreOf x.1) != q) && s.blocks.all fun b => b.quad != q

/-- A placed unit leaves its list; a launch's next span of the quadrant takes its place (R330). -/
def State.unlist (s : State) (u : Unit_) (q : Nat) : State :=
  match s.launch u.lid with
  | none => s
  | some x =>
    let n := popCount32 x.record.qmask
    let spans := (x.record.blocks + x.record.span - 1) / Nat.max 1 x.record.span
    let l := s.sched.waiting.filterMap fun w =>
      if w.lid = u.lid ∧ w.quad = q then (if w.span + n < spans then some { w with span := w.span + n } else none) else some w
    { s with sched := { s.sched with waiting := l } }
where
  popCount32 (m : BitVec 32) : Nat := (List.range 32).countP fun k => m.getLsbD k

/-- Serves the waiting units of a quadrant until one does not fit; for that one, victims are sought. `fuel` bounds them. -/
def State.placeFrom : Nat → State → Nat → State
  | 0, s, _ => s
  | fuel + 1, s, q =>
    match s.waitingUnits q with
    | [] => s
    | u :: _ =>
      let refill := s.sched.refill.contains q
      match s.fitUnit q refill (s.use fun _ => false) (s.needs u) with
      | none => s.preempt q u
      | some (_, fits) =>
        if u.saved then State.placeFrom fuel (fits.foldl (fun s f => s.restoreBlock q f) s) q
        else match s.launch u.lid with
          | none => s
          | some x => State.placeFrom fuel ((fits.foldl (fun s f => s.startBlock x q f) s).unlist u q) q

/-- A placement pass of a quadrant (R333). A quadrant whose cores are all idle returns to the first-placement rule. -/
def State.placePass (s : State) (q : Nat) : State :=
  let s1 : State := if s.quadIdle q then { s with sched := { s.sched with refill := s.sched.refill.filter fun x => x != q } } else s
  State.placeFrom 1200 s1 q

/-! ## Saving (R338, R339) -/

/-- Whether a lane is held at an MMQ, in mid-clause, for want of a tile-queue slot (R303, R305). -/
def State.atMmq (s : State) (gid l : Nat) : Bool :=
  let x := s.lane gid l
  x.pos != 0 && decide (2 ≤ (s.tilesOf (coreOf gid)).length) && (match s.nextWord ⟨gid, x.pc, x.pos⟩ with
    | some w => w >>> 52 == 0x0AE
    | none => false)

/-- Whether nothing of a group is in flight and its program counters stand at clause boundaries, are parked or are held at an MMQ
(R305, R338). The count that an open signing phase keeps is left out (R305). -/
def State.groupQuiet (s : State) (gid : Nat) : Bool :=
  let g := s.group gid
  let open_ := s.phases.countP fun p => p.gid == gid
  let heldWait := s.waits.any fun w => w.gid == gid && w.kind == .held
  let stopped := s.due.any fun i => match i with
    | .pageFault f => f.gid == gid && f.agent == 0
    | _ => false
  let record := s.sys.pendingFq.any fun r => match r.who with
    | .lanes x _ => x == gid
    | .distributor _ | .other => false
  !stopped && !record && g.stopping && (g.liveLanes.all fun l => (g.lane l).park.isSome || (g.lane l).pos == 0 || s.atMmq gid l)
    && g.cnt.ldc == 0 && g.cnt.stc == 0 && g.cnt.xc == 0
    && g.cnt.mc ≤ open_ && !heldWait && (g.liveLanes.all fun l => !s.laneOpen gid l) && !(s.eng.mat.any fun o => o.gid == gid)

/-- Whether a block can be saved or discarded (R305, R308, R338, R362). -/
def State.blockQuiet (s : State) (b : Block) : Bool :=
  (b.gids.all fun gid => s.groupQuiet gid) && !(s.eng.copies.any fun c => c.blk == ⟨b.lid, b.num⟩)
    && !(s.due.any fun i => match i with
      | .stageUpdateVisible u => u.lid == b.lid && u.span == b.num / s.spanOf b.lid
      | .heldArrival a => a.blk == ⟨b.lid, b.num⟩
      | _ => false)

/-- The pages of a block's save area (R339). -/
def State.savePages (s : State) (b : Block) : Nat :=
  let (regs, scratch) := match s.launch b.lid with
    | some x => (x.record.regs, x.record.scratch)
    | none => (256, 0)
  let n := b.gids.length
  let bound := (b.gids.map fun gid => (s.slotsHeld gid).length).sum
  let pad (x : Nat) : Nat := (x + 127) / 128 * 128
  let sp := (scratch + 4095) / 4096 * 4096
  let span := b.num / s.spanOf b.lid
  let first := b.num == span * s.spanOf b.lid
  let staged := first && s.sched.loops.any fun x => x.lid == b.lid && x.span == span
  let waiting := b.gids.countP fun gid => s.waits.any fun w => w.gid == gid && (match w.kind with
    | .waitc _ _ _ _ _ => true
    | _ => false)
  let bytes := 128 + 128 * 32 * n + 128 * regs * n + 1024 * n + 16384 * bound + pad (sp + sp / 128) + pad (16 * 128 + 64)
    + (if staged then pad (32 * (1 + s.spanEntries b.lid span)) else 0) + 128 * waiting
  (bytes + 65535) / 65536

/-- The names of a saved block's groups. -/
def savedGid : Nat := 65536

/-- Saves one block into free pages of the pool: what the block had leaves the core (R338). What rests in the curd buffers of its
cores is accepted at home first, so that its lanes, on other cores, find it performed (R232, R241). -/
def State.saveBlock (s0 : State) (b : Block) (onEvent : Bool) : State :=
  let s := b.gids.foldl State.fillDeep ((b.cores.foldl State.release s0).dropLocks ⟨b.lid, b.num⟩)
  let names := ((List.range b.gids.length).zip b.gids).map fun x => (x.2, savedGid + s.nextId + x.1)
  let nameOf (gid : Nat) : Nat := (names.lookup gid).getD gid
  let groups := names.map fun x => (x.2, { s.group x.1 with guard := s.clock - (s.group x.1).guard })
  let mine (sub slot : Nat) : Option Nat := names.findSome? fun x =>
    if subKey x.1 = sub ∧ (s.slotsHeld x.1).contains slot = true then some x.2 else none
  let accs := s.eng.accs.filterMap fun a => (mine a.sub a.slot).map fun v => (v, a)
  let ws := (s.waits.filter fun w => b.gids.contains w.gid).map fun w =>
    { w.rename (nameOf w.gid) with t0 := match w.kind with
        | .waitc _ _ _ _ _ => w.t0
        | _ => s.tick - w.t0 }
  let phases (j : Join) : Join := { j with phase := j.phase.map fun (p : Phase) => { p with gid := nameOf p.gid } }
  let pages := (s.poolFree (s.ownerOf b.quad)).take (s.savePages b)
  let v : Saved := ⟨{ b with joins := b.joins.map phases, gids := b.gids.map nameOf, former := [] }, groups, accs, ws, pages, onEvent, s.tick⟩
  let loops := s.sched.loops.map fun (x : LoopSlot) => { x with iters := x.iters.map fun (e : Nat × StageIter) => (e.1, { e.2 with holder := e.2.holder.map nameOf }) }
  let parked := s.ms.parked.map fun (p : Parked) => if p.agent = 0 ∧ b.gids.contains p.gid then { p with gid := nameOf p.gid } else p
  let bank := s.ms.bank.map fun (c : BankCmd) => { c with gid := nameOf c.gid }
  let s1 := s.dropHost b.lid (b.num / s.spanOf b.lid)
  ({ s1 with
    nextId := s1.nextId + b.gids.length
    groups := s1.groups.filter fun x => !b.gids.contains x.1
    waits := s1.waits.filter fun w => !b.gids.contains w.gid
    blocks := s1.blocks.filter fun x => !(x.lid == b.lid && x.num == b.num)
    sched := { s1.sched with saved := s1.sched.saved ++ [v], loops := loops }
    ms := { s1.ms with parked := parked, bank := bank }
    eng := { s1.eng with accs := s1.eng.accs.map fun (a : AccSlot) => if (mine a.sub a.slot).isSome then { a with bound := false, elems := [] } else a } } : State).writeArea v

/-- A block that is not saved runs on. -/
def State.runOn (s : State) (b : Block) : State :=
  { s with groups := s.groups.map fun (x : Nat × Group) => if b.gids.contains x.1 then (x.1, { x.2 with stopping := false }) else x }

/-- Whether a save of a block of a launch is under way. -/
def State.saving (s : State) (lid : Nat) : Bool := s.due.any fun i => match i with
  | .blockSave b => b.lid == lid
  | _ => false

/-- Notes in the PREEMPTs of a launch what a save did (R429): blocks saved, or the pool ran short. -/
def State.preemptNote (s : State) (lid saved : Nat) (short : Bool) : State :=
  { s with waits := s.waits.map fun (w : Wait) => match w.kind with
    | .preempt x reg n sh => if x = lid then { w with kind := .preempt x reg (n + saved) (sh || short) } else w
    | _ => w }

/-- What PREEMPT returns (R429). -/
def preemptStatus (saved : Nat) (short : Bool) : Word := BitVec.ofNat 32 (saved % 2 ^ 31 + if short then 2 ^ 31 else 0)

/-- Releases the PREEMPTs of a launch once its saves have ended (R429). -/
def State.preemptWake (s : State) (lid : Nat) : State :=
  if s.saving lid then s
  else s.waits.foldl (fun s w => match w.kind with
    | .preempt x reg n sh => if x = lid then (s.wake w).giveV w reg (preemptStatus n sh) else s
    | _ => s) s

/-- A span's blocks are saved together once they are quiet; when the pool lacks the pages they run on (R338). -/
def State.trySave (s : State) (b : BlockRef) (k : Block) : State :=
  let mates := s.spanMates k
  if s.isEnding b.lid || k.gids.any (fun g => !(s.group g).stopping) then s
  else if mates.any fun x => !s.blockQuiet x then s.send (.blockSave b)
  else
    let need := (mates.map fun x => s.savePages x).sum
    if (s.poolFree (s.ownerOf k.quad)).length < need then ((mates.foldl State.runOn s).count cntNoPages).preemptNote b.lid 0 true
    else
      let span := k.num / s.spanOf b.lid
      let idle := s.idleSpan b.lid span && s.awaitsEvent b.lid span
      let held := match s.launch b.lid with
        | some x => x.held
        | none => false
      ((mates.foldl (fun s x => s.saveBlock x (idle && !held)) s).preemptNote b.lid mates.length false).placePass k.quad

/-- BLOCK_SAVE (R338). -/
def execBlockSave (b : BlockRef) (s : State) : Answer :=
  .next ((match s.block b with
    | none => s
    | some k => s.trySave b k).preemptWake b.lid)

/-- BLOCK_RESTORE (R333, R365): a saved span's list is served. -/
def execBlockRestore (b : BlockRef) (s : State) : Answer :=
  match s.sched.saved.find? fun v => v.block.lid == b.lid && v.block.num == b.block with
  | none => .next s
  | some v => .next (s.placePass v.block.quad)

end Sys2Proof.Machine
end

