-- ==== Sys2Proof/Machine/Launch.lean ====
section
/-! DEFINITION. Launches (R322 to R330): records and their checks, launch queues and the mailbox, LAUNCH and LWAIT, the end
of blocks and of launches. -/
namespace Sys2Proof.Machine

/-! ## Reading as a distributor (R326) -/

/-- The walker of a quadrant's distributor (log entry 47). -/
def State.distWalker (s : State) (q : Nat) : Walker := s.kernelWalker (384 + q) (s.ownerOf q) (some q)

/-- Reads a range as a distributor, at `.sys`; none where it cannot be read (R324, R326). -/
def State.distRead (s : State) (q : Nat) (va : DWord) (n : Nat) : State × Option (List Byte) :=
  match s.xlateRange (s.distWalker q) .engineRead (n / 4096 + 2) va.toNat (va.toNat + n) with
  | (s1, .ok pages) => s1.engineBytes pages va.toNat n
  | (s1, .error _) => (s1, none)

/-- Writes bytes of a record; false where they cannot be written. -/
def State.distWrite (s : State) (q : Nat) (va : DWord) (bs : List Byte) : State × Bool :=
  match s.xlate (s.distWalker q) va .engineWrite with
  | (s1, .ok pa k) => (s1.poke .memSide k pa bs, true)
  | (s1, _) => (s1, false)

/-! ## Records (R322, R324) -/

def recordOf (bs : List Byte) : Record :=
  let d (at_ : Nat) : DWord := BitVec.ofNat 64 (fieldAt bs at_ 8)
  let mode := fieldAt bs 53 1
  { entry := d 0, args := d 8, handler := d 16, tidtab := d 24, rstab := d 32, blocks := fieldAt bs 40 4, scratch := fieldAt bs 44 4,
    lanes := fieldAt bs 48 2, regs := fieldAt bs 50 2, span := fieldAt bs 52 1, prio := mode % 4, fetch := mode / 4 % 2 == 1,
    pin := mode / 8 % 2 == 1, bto := fieldAt bs 56 4, qmask := BitVec.ofNat 32 (fieldAt bs 60 4) }

/-- Code 2 of R324: the ranges and zeros of R322. -/
def recordBad (bs : List Byte) : Bool :=
  let r := recordOf bs
  r.blocks == 0 || decide (262144 < r.scratch) || decide (r.lanes < 32) || decide (12288 < r.lanes) || r.lanes % 32 != 0
    || r.regs == 0 || decide (256 < r.regs) || r.span == 0 || decide (12 < r.span) || fieldAt bs 53 1 / 16 != 0 || fieldAt bs 54 2 != 0

/-- The tensor identifier entries that a table defines, by identifier (R273, R274). -/
def tidsOf (bs : List Byte) : List (Nat × List Byte) :=
  (List.range 256).filterMap fun k =>
    let e := (bs.drop (64 * k)).take 64
    if e.all fun b => b == 0 then none else some (k, e)

/-- The table bytes that are not 0, by place. -/
def sparseBytes (bs : List Byte) : List (Nat × Byte) := ((List.range bs.length).zip bs).filter fun x => x.2 != 0

/-- The checks of a record in their order (R324): the code of the first that fails, or the record and its tables. Bytes 0 to 63
are read (R322). -/
def State.checkRecord (s : State) (q : Nat) (a : DWord) : State × Except Nat (Record × List (Nat × TensorEntry) × List (Nat × Byte)) :=
  let p := s.ownerOf q
  let stk := (s.csr (csrPart p 0x0C)).getLsbD 0
  match s.distRead q a 64 with
  | (s1, none) => (s1, .error 1)
  | (s1, some bs) =>
    let r := recordOf bs
    match (if r.tidtab = 0 then (s1, some []) else s1.distRead q r.tidtab 16384) with
    | (s2, none) => (s2, .error 1)
    | (s2, some tb) => match (if r.rstab = 0 then (s2, some []) else s2.distRead q r.rstab 3072) with
      | (s3, none) => (s3, .error 1)
      | (s3, some rb) =>
        let tids := tidsOf tb
        let outside := (List.range 32).any fun k => r.qmask.getLsbD k && !s3.holds p k
        if !stk then (s3, .error 1)
        else if recordBad bs then (s3, .error 2)
        else if tids.any fun t => !(tensorOf t.2).valid then (s3, .error 3)
        else if outside then (s3, .error 4)
        else if (coresFor (r.lanes / 32) (slabsOf r.regs)).isNone then (s3, .error 5)
        else (s3, .ok (r, tids.map fun t => (t.1, some t.2), sparseBytes rb))

/-- The quadrants of a mask, ascending. -/
def quadsOfMask (m : BitVec 32) : List Nat := (List.range 32).filter fun k => m.getLsbD k

/-- Accepts a record (R324, R330, R366): its identifier, and the quadrants whose distributors then make a placement pass (R333). -/
def State.accept (s : State) (q : Nat) (a : DWord) (r0 : Record) (tids : List (Nat × TensorEntry)) (readers : List (Nat × Byte)) :
    State × Nat × List Nat :=
  let p := s.ownerOf q
  let r : Record := { r0 with qmask := if r0.qmask = 0 then (1 : BitVec 32) <<< q else r0.qmask }
  let seq := Map.get 0 s.sched.seqs q + 1
  let lid := q * 2 ^ 26 + seq
  let x : Launch := { lid := lid, part := p, quad := q, addr := a, record := r, space := s.xlatSpace p, root := s.xlatRoot p, tids := tids,
                      readers := readers, status := 1, cores := [], held := false, ending := false, blocksEnded := 0, order := s.sched.stamp }
  let quads := quadsOfMask r.qmask
  let spans := (r.blocks + r.span - 1) / r.span
  let ws := (((List.range quads.length).zip quads).filter fun w => decide (w.1 < spans)).map fun w => (⟨lid, w.1, w.2⟩ : Waiting)
  let sched : Sched := { s.sched with seqs := Map.set 0 s.sched.seqs q (if seq = 2 ^ 26 - 1 then 0 else seq),
                                      waiting := s.sched.waiting ++ ws, stamp := s.sched.stamp + 1 }
  let s1 : State := { s with launches := s.launches ++ [x], sched := sched }
  let s2 := (s1.distWrite q (a + 64) (leBytes 4 lid)).1
  let s3 := (s2.distWrite q (a + 68) (leBytes 4 1)).1
  (s3, lid, quads)

/-- A distributor takes a record (R324): the identifier and the quadrants to place in, or the rejection code and whether STATUS
could be written. -/
def State.submit (s : State) (q : Nat) (a : DWord) : State × Except (Nat × Bool) (Nat × List Nat) :=
  match s.checkRecord q a with
  | (s1, .ok (r, tids, readers)) => match s1.accept q a r tids readers with
    | (s2, x) => (s2, .ok x)
  | (s1, .error c) => match s1.distWrite q (a + 68) (leBytes 4 (2 ^ 31 + c)) with
    | (s2, done) => (s2, .error (c, done))

/-! ## Launch queues (R325, R326) -/

def lqbaseKey (q : Nat) : Nat := csrKey 0x01 q
def mboxKey (q : Nat) : Nat := csrKey 0x02 q

/-- A launch-entry record (R326, R378): the entry's address and value, the reason, and the rejection code. -/
def State.entryRecord (s : State) (q at_ value reason code : Nat) : State :=
  s.post (s.ownerOf q) (plainHead 5 0x48) (leBytes 8 at_ ++ leBytes 8 value ++ leBytes 1 reason ++ leBytes 3 0 ++ leBytes 4 code) (.distributor q)

/-- Takes one entry of a quadrant's ring (R326). -/
def State.takeEntry (s : State) (q : Nat) : State :=
  let base := (s.csr (lqbaseKey q)).toNat
  let m := (s.csr (mboxKey q)).toNat
  let head := m / 2 ^ 32
  let size := 16 * 2 ^ (base % 16)
  let at_ := base / 2 ^ 12 * 2 ^ 12 + 8 * (head % size)
  let s0 := s.setCsr (mboxKey q) (BitVec.ofNat 64 ((head + 1) % 2 ^ 32 * 2 ^ 32 + m % 2 ^ 32))
  match s0.distRead q (BitVec.ofNat 64 at_) 8 with
  | (s1, none) => s1.entryRecord q at_ 0 1 0
  | (s1, some bs) =>
    let a := fieldAt bs 0 8
    if a % 128 ≠ 0 then s1.entryRecord q at_ a 2 0
    else match s1.submit q (BitVec.ofNat 64 a) with
      | (s2, .ok (_, quads)) => quads.foldl State.placePass s2
      | (s2, .error (c, done)) => if done then s2 else s2.entryRecord q at_ a 3 c

/-- Whether a distributor reads its ring: EN, the partition's key is set (R326, R438), and no record of it waits for space in the
fault queue (R377). -/
def State.ringLive (s : State) (q : Nat) : Bool :=
  (s.csr (lqbaseKey q)).getLsbD 4 && !(s.sys.pendingFq.any fun r => r.who == .distributor q) && (match s.part (s.ownerOf q) with
    | some x => x.keyset
    | none => false)

/-- Takes the entries from HEAD to TAIL − 1, one at a time (R326). `fuel` bounds them. -/
def State.takeEntries : Nat → State → Nat → State
  | 0, s, _ => s
  | fuel + 1, s, q =>
    let m := (s.csr (mboxKey q)).toNat
    if !s.ringLive q || m / 2 ^ 32 == m % 2 ^ 32 then s else State.takeEntries fuel (s.takeEntry q) q

/-- The entries that wait in a ring. -/
def State.ringCount (s : State) (q : Nat) : Nat :=
  let m := (s.csr (mboxKey q)).toNat
  (m % 2 ^ 32 + 2 ^ 32 - m / 2 ^ 32) % 2 ^ 32
def State.serveRing (s : State) (q : Nat) : State := s.takeEntries (s.ringCount q) q

/-- A write of TAIL (R326): too large a TAIL is ignored and counted, with a record. -/
def State.writeTail (s : State) (q : Nat) (tail : Word) : State :=
  let base := (s.csr (lqbaseKey q)).toNat
  let head := (s.csr (mboxKey q)).toNat / 2 ^ 32
  if 16 * 2 ^ (base % 16) < (tail.toNat + 2 ^ 32 - head) % 2 ^ 32 then
    (s.count cntMailbox).post (s.ownerOf q) (plainHead 5 0x45) (leBytes 8 (base / 2 ^ 12 * 2 ^ 12)) (.distributor q)
  else (s.setCsr (mboxKey q) (BitVec.ofNat 64 (head * 2 ^ 32 + tail.toNat))).serveRing q

/-! ## LAUNCH, LWAIT (R327, R328) -/

/-- The quadrant that a `.q` form names, else the issuing one. -/
def State.quadArg (s : State) (i : Iss) (f : EF) : Nat :=
  if f.flags.getLsbD 0 then bits (s.readG i.gid f.c.toNat) 4 0 else quadOfGid i.gid

/-- LAUNCH (R328). It waits while the partition's key is not set (R438). The new blocks are placed once its result is back and MC has
fallen (R364). FLAGS: [0] Q. -/
def execLaunch (f : EF) (s : State) : Answer :=
  match s.cur with
  | none => .fault .noIssuer
  | some cx =>
    let keyed := match s.part (s.group cx.gid).part with
      | some x => x.keyset
      | none => true
    if !(s.taking cx f.ctl).isEmpty && !keyed then .next s.stall
    else issue s f.ctl (some .mc) [f.a.toNat] 0 fun s i =>
      let a := s.readG i.gid f.b.toNat
      let q := s.quadArg i f
      if a.toNat % 128 ≠ 0 then s.trapAll i 0x10 a.toNat
      else if !s.holds (s.group i.gid).part q then s.trapAll i 0x13 q
      else match (s.releaseBy i.gid (maskOf i.lanes)).submit q a with
        | (s1, .ok (lid, quads)) => (s1.whenDone i.id (.place lid quads)).mcResult i f.a.toNat (BitVec.ofNat 32 lid)
        | (s1, .error (c, _)) => s1.mcResult i f.a.toNat (BitVec.ofNat 32 (2 ^ 31 + c))

/-- LWAIT (R328). FLAGS: [3:1] SC. -/
def execLwait (f : EF) (s : State) : Answer :=
  issue s f.ctl none [f.a.toNat, f.b.toNat] 1 fun s i =>
    let id := (s.readV i.gid i.low 1 f.b.toNat).toNat
    let g := s.group i.gid
    match s.lwaitStatus g.part g.lid id with
    | some x => ((s.resumed i.gid).acquireBy i.gid (maskOf i.lanes) (scopeOf f.sc)).giveAll i f.a.toNat x
    | none => s.park i.cx i.lanes (.lwait id f.a.toNat (scopeOf f.sc))

/-! ## The end of a block (R168, R333, R348, R371) -/

/-- What a block held goes back to its core, and its entries in tables end. -/
def State.retire (s : State) (b : Block) : State :=
  let ref : BlockRef := ⟨b.lid, b.num⟩
  let s1 := s.unlock fun k => k.1 == ref
  let sched : Sched := { s1.sched with refill := if s1.sched.refill.contains b.quad then s1.sched.refill else s1.sched.refill ++ [b.quad] }
  let s2 : State := { s1 with blocks := s1.blocks.filter fun x => !(x.lid == b.lid && x.num == b.num), sched := sched }
  let lastOn (c : Nat) : Bool := b.cores.contains c && !(s2.blocks.any fun x => x.lid == b.lid && x.cores.contains c)
  let s3 := s2.flushCurd fun w => lastOn w.core
  let span := b.num / s3.spanOf b.lid
  let alive := (s3.blocks.any fun x => x.lid == b.lid && x.num / s3.spanOf b.lid == span)
    || (s3.sched.saved.any fun v => v.block.lid == b.lid && v.block.num / s3.spanOf b.lid == span)
  let s4 : State := if alive then s3
    else ({ s3 with sched := { s3.sched with loops := s3.sched.loops.filter fun x => !(x.lid == b.lid && x.span == span) } } : State).dropHost b.lid span
  s4.modLaunch b.lid fun x => { x with blocksEnded := x.blocksEnded + 1 }

/-- BLOCK_RETIRE (R333): a group's slot is free; the block ends with its last group, once its copy commands have completed. -/
def execBlockRetire (b : BlockRef) (s : State) : Answer :=
  match s.block b with
  | none => .next s
  | some k =>
    if !k.gids.isEmpty then .next (s.placePass k.quad)
    else if s.eng.copies.any fun c => c.blk == b then .next (s.send (.blockRetire b))
    else
      let s1 := s.retire k
      let done := match s1.launch b.lid with
        | some x => decide (x.record.blocks ≤ x.blocksEnded)
        | none => false
      .next ((if done then s1.send (.launchEnd b.lid) else s1).placePass k.quad)

/-! ## The end of a launch (R329) -/

/-- Whether the engine operations that a launch issued have completed (R266, R304, R308, R390). -/
def State.enginesDone (s : State) (lid : Nat) : Bool :=
  !(s.ms.bank.any fun c => c.lid == lid) && !(s.eng.copies.any fun c => c.blk.lid == lid) && !(s.eng.mat.any fun o => o.blk.lid == lid)
    && !(s.fab.graphs.any fun g => match g.run with
      | some r => r.lid == lid
      | none => false)
    && !(s.fab.transfers.any fun t => t.lid == lid)

/-- Whether a group waits to pop a task. -/
def State.popping (s : State) (gid : Nat) : Bool :=
  s.waits.any fun w => w.gid == gid && (match w.kind with
    | .pop => true
    | _ => false)

/-- Whether a launch's placed groups all wait to pop, with its queues empty (R341; log entry 48). -/
def State.popEnd (s : State) (x : Launch) : Bool :=
  let gs := s.groups.filter fun y => y.2.lid == x.lid && !y.2.sys
  let backs := s.sched.saved.filter fun v => v.block.lid == x.lid
  let quads := ((gs.map fun y => quadOfGid y.1) ++ backs.map fun v => v.block.quad).eraseDups
  !gs.isEmpty && gs.all (fun y => s.popping y.1) && quads.all (fun q => (s.queue q x.record.prio).isEmpty)
    && backs.all fun v => v.groups.all fun g => v.waits.any fun w => w.gid == g.1 && (match w.kind with
      | .pop => true
      | _ => false)

/-- The blocks of a launch are discarded with their state (R329). -/
def State.discard (s : State) (lid : Nat) : State :=
  let gids := (s.groups.filter fun x => x.2.lid == lid && !x.2.sys).map fun x => x.1
  let bound (a : AccSlot) : Bool := gids.any fun g => subKey g == a.sub && (s.slotsHeld g).contains a.slot
  let accs := s.eng.accs.map fun (a : AccSlot) => if bound a then { a with bound := false, elems := [] } else a
  let s1 := s.unlock fun k => k.1.lid == lid
  let gone := (s1.blocks.filter fun b => b.lid == lid).map fun b => b.quad
  { s1 with
    groups := s1.groups.filter fun x => !gids.contains x.1
    waits := s1.waits.filter fun w => !gids.contains w.gid
    blocks := s1.blocks.filter fun b => !(b.lid == lid)
    ms := { s1.ms with parked := s1.ms.parked.filter fun p => !(p.agent == 0 && p.lid == lid),
                       monitors := s1.ms.monitors.filter fun m => !(s1.waits.any fun w => w.id == m.2 && gids.contains w.gid)
                         && !(s1.sched.saved.any fun v => v.block.lid == lid && v.waits.any fun w => w.id == m.2) }
    eng := { s1.eng with accs := accs }
    sched := { s1.sched with saved := s1.sched.saved.filter fun v => !(v.block.lid == lid),
                             refill := (s1.sched.refill ++ gone).eraseDups } }

/-- The steps of a launch's end in their order, with its STATUS (R329). -/
def State.finish (s : State) (x : Launch) (status : Nat) : State :=
  let s1 := s.flushCurd fun w => x.cores.contains w.core
  let s2 := (s1.ms.parks.filter fun r => r.lid == x.lid).foldl State.liftPin s1
  let s3 := s2.commitCells fun c => c.who.lid == x.lid
  let s4 := s3.setCopies (s3.ms.copies.filter fun c => !(isNear c.site && partOfAddr (128 * c.line) == x.part))
  let s5 := x.cores.foldl State.release s4
  let w : Walker := { s5.distWalker x.quad with space := x.space, root := x.root }
  let s6 := match s5.xlate w (x.addr + 68) .engineWrite with
    | (s, .ok pa k) => s.poke .memSide k pa (leBytes 4 status)
    | (s, _) => s
  let q := x.lid / 2 ^ 26
  let mine := s6.sched.ended.filter fun e => e.1 / 2 ^ 26 == q
  let ended := (x.lid, status) :: (mine.take 4095 ++ s6.sched.ended.filter fun e => !(e.1 / 2 ^ 26 == q))
  let sched : Sched := { s6.sched with ended := ended, waiting := s6.sched.waiting.filter (fun w => !(w.lid == x.lid)),
                                       loops := s6.sched.loops.filter (fun l => !(l.lid == x.lid)),
                                       hosts := s6.sched.hosts.filter fun h => !(h.lid == x.lid) }
  let s7 := ({ s6 with launches := s6.launches.filter (fun l => !(l.lid == x.lid)), sched := sched } : State).lwaitWake
  let back := s7.sched.saved.filter fun v => v.waits.any fun w => match w.kind with
    | .lwait id _ _ => id == x.lid
    | _ => false
  let s8 := back.foldl (fun (s : State) v => s.rejoin ⟨v.block.lid, v.block.num⟩) s7
  (s8.quadsOf x.part).foldl State.placePass s8

/-- Whether a record of a launch's lanes waits for space in the fault queue (R377). -/
def State.launchRecord (s : State) (lid : Nat) : Bool :=
  s.sys.pendingFq.any fun r => match r.who with
    | .lanes gid _ => s.hasGroup gid && (s.group gid).lid == lid
    | .distributor _ | .other => false

/-- The iterations that saved groups of a launch hold end as at an exit, and each is counted (R361). What those groups had written was
released when they were saved. -/
def State.quitSaved (s : State) (lid : Nat) : State :=
  let gids := (s.sched.saved.filter fun v => v.block.lid == lid).flatMap fun v => v.groups.map fun g => g.1
  let held (e : Nat × StageIter) : Bool := e.2.holder.any fun g => gids.contains g
  let quit (e : Nat × StageIter) : Nat × StageIter := if held e then (e.1, { e.2 with count := 0xFFFF, holder := none }) else e
  let n := (s.sched.loops.map fun x => x.iters.countP held).sum
  let loops := s.sched.loops.map fun (x : LoopSlot) => { x with iters := x.iters.map quit }
  (List.range n).foldl (fun s _ => s.count cntLoopEnd) { s with sched := { s.sched with loops := loops } }

/-- The groups of a launch that ends at the pop exit, saved ones too: their loops end as at an exit (R341, R361). -/
def State.exitLoops (s : State) (lid : Nat) : State :=
  (((s.groups.filter fun x => x.2.lid == lid && !x.2.sys).map fun x => x.1).foldl State.quitLoop s).quitSaved lid

/-- LAUNCH_END (R329, R341). -/
def execLaunchEnd (lid : Nat) (s : State) : Answer :=
  match s.launch lid with
  | none => .next s
  | some x =>
    if s.launchRecord lid then .next (s.send (.launchEnd lid))
    else if x.ending then
      if (s.blocks.filter fun b => b.lid == lid).all (fun b => s.blockQuiet b) && s.enginesDone lid then
        .next ((s.discard lid).finish x 3)
      else .next (s.send (.launchEnd lid))
    else if x.record.blocks ≤ x.blocksEnded then
      if s.enginesDone lid then .next (s.finish x 2) else .next (s.send (.launchEnd lid))
    else if s.popEnd x then
      if s.enginesDone lid then .next (((s.exitLoops lid).discard lid).finish x 2) else .next (s.send (.launchEnd lid))
    else .next s

end Sys2Proof.Machine
end

