-- ==== Sys2Proof/Machine/Tasks.lean ====
section
/-! DEFINITION. Tasks (R259, R341 to R346): task queues, successor lines, TSPAWN, TSIGNAL, TDONE, the pop and the end of a
task; and EXIT (R149). -/
namespace Sys2Proof.Machine

/-! ## Task queues (R343) -/

def tqbaseKey (q : Nat) : Nat := csrKey 0x03 q
/-- Records that a ring holds; 0 while EN is 0. -/
def State.ringCap (s : State) (q : Nat) : Nat :=
  let b := (s.csr (tqbaseKey q)).toNat
  if b / 16 % 2 = 1 then 16 * 2 ^ (b % 16) else 0
/-- The address of ring `prio` of a quadrant. -/
def State.ringAddr (s : State) (q prio : Nat) : Nat :=
  let b := (s.csr (tqbaseKey q)).toNat
  b / 2 ^ 12 * 2 ^ 12 + prio * 64 * (16 * 2 ^ (b % 16))
/-- A task queue with its place in the ring. -/
def State.taskQueue (s : State) (q prio : Nat) : TaskQueue :=
  match s.sched.queues.find? fun x => x.quad == q && x.prio == prio with
  | some x => x
  | none => ⟨q, prio, [], 0⟩
def State.setQueue (s : State) (x : TaskQueue) : State :=
  { s with sched := { s.sched with queues := s.sched.queues.filter (fun y => !(y.quad == x.quad && y.prio == x.prio)) ++ [x] } }

/-- The address of the record `n` places behind the head of a queue. -/
def State.recordAt (s : State) (x : TaskQueue) (n : Nat) : DWord :=
  BitVec.ofNat 64 (s.ringAddr x.quad x.prio + 64 * ((x.head + n) % s.ringCap x.quad))

/-- Saved spans that wait to pop from a queue rejoin their lists (R337). -/
def State.rejoinPops (s : State) (q prio : Nat) : State :=
  let back := s.sched.saved.filter fun v => v.block.quad == q && (match s.launch v.block.lid with
    | some x => x.record.prio == prio
    | none => false) && v.waits.any fun w => match w.kind with
      | .pop => true
      | _ => false
  back.foldl (fun (s : State) v => s.rejoin ⟨v.block.lid, v.block.num⟩) s

/-- Pushes a record; none when the ring is full (R343). It is written to its place in the ring; behind the 64 that the chip holds,
one whose place cannot be written is not pushed (log entry 28). -/
def State.push (s : State) (q prio : Nat) (rec_ : List Byte) : Option State :=
  let x := s.taskQueue q prio
  let n := x.records.length
  if s.ringCap q ≤ n then none
  else
    let r := s.distWrite q (s.recordAt x n) rec_
    if !r.2 && decide (64 ≤ n) then none
    else some ((r.1.setQueue { x with records := x.records ++ [rec_] }).rejoinPops q prio)

/-- The oldest record leaves a queue; the one that then comes among the 64 on the chip is read from its place in the ring, where
that can be read (R343; log entry 28). -/
def State.dropRecord (s : State) (q prio : Nat) : State :=
  let x := s.taskQueue q prio
  let cap := s.ringCap q
  let y : TaskQueue := { x with records := x.records.drop 1, head := (x.head + 1) % cap }
  if y.records.length < 64 then s.setQueue y
  else match s.distRead q (s.recordAt x 64) 64 with
    | (s1, some bs) => s1.setQueue { y with records := y.records.set 63 bs }
    | (s1, none) => s1.setQueue y

/-- SYS_TQCNT (R343). -/
def State.tqcnt (s : State) (q : Nat) : DWord :=
  BitVec.ofNat 64 (((List.range 4).map fun k => (s.queue q k).length % 65536 * 2 ^ (16 * k)).sum)

/-! ## Successor lines (R259) -/

/-- The successor logic of a line at home, for a partition (R255, R259); `va` is the line as its signaller named it. The signaller
holds while a record waits for space (R377; log entry 16). -/
def State.successor (s : State) (gid p pa : Nat) (kind : PageKind) (va : DWord) : State :=
  let line := lineOf pa
  let s0 := (s.arriveAt (keyOf gid) line).landBack line
  let s1 : State := match kind with
    | .ms => s0
    | .shared => s0.recall line
    | .local _ => (s0.l2WriteBack line).recall line
  let s2 := s1.commitCells fun c => lineOf c.addr == line
  let bs := Memory.readBytes s2.mem (128 * line) 128
  let count := fieldAt bs 0 4
  let queue := fieldAt bs 4 4
  let rec_ := bs.drop 64
  let body := leBytes 8 va.toNat
  let who : FqHolder := .lanes gid (BitVec.allOnes 32)
  if count = 0 then s2.post p (plainHead 5 0x42) body who
  else
    let w := (List.range 4).map fun k => (⟨k, BitVec.ofNat 8 ((count - 1) / 2 ^ (8 * k)), 0⟩ : StoreByte)
    let s3 := (match kind with
      | .ms => s2.setMem (setLineAt s2.mem line (putBytes (lineAt s2.mem line) w))
      | .shared | .local _ => s2.writeHome line w).dropNear gid line
    if count ≠ 1 then s3
    else if queue / 2 ^ 7 ≠ 0 ∨ s3.holds p (queue % 32) = false then s3.post p (plainHead 5 0x43) (body ++ rec_) who
    else match s3.push (queue % 32) (queue / 32 % 4) rec_ with
      | some s4 => s4
      | none => s3.post p (plainHead 5 0x44) (leBytes 8 (s3.ringAddr (queue % 32) (queue / 32 % 4)) ++ rec_) who

/-! ## TSPAWN, TSIGNAL (R345) -/

/-- TSPAWN (R345). FLAGS: [0] Q. A record that an uncorrectable error spoils is not pushed (log entry 49). -/
def execTspawn (f : EF) (s : State) : Answer :=
  issue s f.ctl (some .stc) [] 0 fun s i =>
    let a := s.readG i.gid f.a.toNat
    let q := s.quadArg i f
    if a.toNat % 64 ≠ 0 then s.trapAll i 0x10 a.toNat
    else if !s.holds (s.group i.gid).part q then s.trapAll i 0x13 q
    else match s.checkOne i .read a with
      | (s1, none) => s1
      | (s1, some (pa, k)) =>
        let r := (s1.releaseBy i.gid (maskOf i.lanes)).engineRead (lineOf pa) (pa % 128) 64 k
        let give (s : State) (p : Bool) : State := s.later i.gid i.id .stc (i.lanes.map fun l => .p l f.b.toNat p)
        match r.2 with
        | none => give r.1 false
        | some d =>
          let rec_ := bytesOf d (pa % 128) 64
          match r.1.push q (fieldAt rec_ 40 1 % 4) rec_ with
          | some s2 => give s2 true
          | none => give r.1 false

/-- Sets a bit of SENT (R346). -/
def State.markSent (s : State) (gid n : Nat) : State :=
  s.modGroup gid fun g => { g with task := g.task.map fun t => { t with sent := t.sent ||| ((1 : Word) <<< n) } }

/-- TSIGNAL (R345): its acknowledgement sets the SENT bit. -/
def execTsignal (f : EF) (s : State) : Answer :=
  issue s f.ctl (some .stc) [] 0 fun s i =>
    let a := s.readG i.gid f.a.toNat
    if a.toNat % 128 ≠ 0 then s.trapAll i 0x10 a.toNat
    else match s.checkOne i .atomic a with
      | (s1, none) => s1
      | (s1, some (pa, k)) =>
        let s2 := s1.releaseBy i.gid (maskOf i.lanes)
        if s2.ms.bad.contains (lineOf pa) then (s2.logError (lineOf pa) 1).trapAll i 0x19 a.toNat
        else
          let s3 := s2.successor i.gid (s2.group i.gid).part pa k a
          (s3.whenDone i.id (.sent i.gid f.imm8.toNat)).later i.gid i.id .stc []

/-! ## The end of a lane's task: TDONE and EXIT (R149, R341) -/

/-- Every lane of a group that still lives waits, at nothing else than this (R341). -/
def State.parkAll (s : State) (gid : Nat) (kind : WaitKind) : State :=
  let s1 : State := { s with waits := s.waits.filter fun w => !(w.gid == gid) }
  s1.park (Cx.at0 gid) (s1.group gid).liveLanes kind

/-- A group goes to the pop (R341 step 1). -/
def State.toPop (s : State) (gid : Nat) : State :=
  let s1 := s.modGroup gid fun g =>
    { g with serving := true, task := none, lanes := g.lanes.map fun x => { x with taskDone := false, pos := 0, left := 0 } }
  (s1.parkAll gid .pop).send (.taskPop gid)

/-- Whether every live lane of a group has ended its task (R341). -/
def Group.tasksDone (g : Group) : Bool := g.liveLanes.all fun l => (g.lane l).taskDone

/-- What follows when lanes of a group have ended their tasks or exited (R341, R361): with no lane left the last task still
completes; with every lane done the group serves tasks. -/
def State.checkTask (s : State) (gid : Nat) : State :=
  let g := s.group gid
  if g.liveLanes.isEmpty then
    if g.task.isSome then s.send (.taskComplete gid)
    else (s.quitLoop gid).modGroup gid fun g => { g with serving := false }
  else if !g.tasksDone then s
  else if g.task.isSome then s.send (.taskComplete gid)
  else s.toPop gid

/-- TDONE (R345). -/
def execTdone (f : EF) (s : State) : Answer :=
  issue s f.ctl none [] 0 fun s i =>
    let s1 := eachLane s i.lanes fun s l => s.modLane i.gid l fun x => { x with taskDone := true }
    (s1.park i.cx i.lanes .taskEnd).checkTask i.gid

/-- EXIT (R149). -/
def execExit (f : BF) (s : State) : Answer :=
  issue s f.ctl none [] 0 fun s i => ((s.exitLanes i.gid i.lanes).checkTask i.gid).settle i.gid

/-! ## The pop and the end of a task (R341, R342, R346) -/

/-- A task-fault record (R346, R378). -/
def State.taskRecord (s : State) (gid cause : Nat) (pc info : DWord) (rec_ : List Byte) (sent : Word) (lanes : LaneMask) : State :=
  s.post (s.group gid).part (s.recHead gid 4 cause pc info) ((rec_ ++ List.replicate 64 0).take 64 ++ leBytes 4 sent.toNat ++ leBytes 4 lanes.toNat)
    (.lanes gid (BitVec.allOnes 32))

/-- A record's reserved bytes (R342). -/
def taskBad (bs : List Byte) : Bool :=
  fieldAt bs 28 4 != 0 || fieldAt bs 40 1 / 4 != 0 || fieldAt bs 41 1 / 2 != 0 || fieldAt bs 42 6 != 0

/-- A group starts a task (R341 step 2). -/
def State.startTask (s : State) (gid : Nat) (bs : List Byte) : State :=
  let w32 (at_ : Nat) : Word := BitVec.ofNat 32 (fieldAt bs at_ 4)
  let d (at_ : Nat) : DWord := BitVec.ofNat 64 (fieldAt bs at_ 8)
  let t : TaskRun := ⟨bs, 0, d 8, w32 16, w32 20, w32 24, d 32, fieldAt bs 41 1 % 2 == 1, none⟩
  let s1 := (s.waits.filter fun w => w.gid == gid).foldl State.wake s
  let s2 := s1.modGroup gid fun g =>
    { g with task := some t, m := List.replicate 8 ⟨0, 0⟩,
             lanes := g.lanes.map fun x => if x.live then { x with pc := d 0, pos := 0, left := 0, stack := [], p := 0, taskDone := false } else x }
  s2.acquireBy gid (BitVec.allOnes 32) .dev

/-- The groups that wait to pop from a queue, ascending by core, sub-core and slot. -/
def State.poppers (s : State) (q prio : Nat) : List Nat :=
  let can (gid : Nat) : Bool := quadOfGid gid == q && s.popping gid && !s.recordHolds gid 0 && (match s.launch (s.group gid).lid with
    | some x => x.record.prio == prio && !x.ending
    | none => false)
  sortBy (fun (a b : Nat) => decide (a ≤ b)) ((s.groups.map fun x => x.1).filter can)

/-- TASK_POP (R341): the oldest record of the queue of the group's launch, in its quadrant. Of several groups that wait, the first
by core, sub-core and slot is served. A group whose record waits for space in the fault queue holds (R377). -/
def execTaskPop (gid : Nat) (s : State) : Answer :=
  let g := s.group gid
  match s.launch g.lid with
  | none => .next s
  | some x =>
    if !s.hasGroup gid || !g.serving || g.task.isSome || !s.popping gid || x.ending then .next s
    else
      let q := quadOfGid gid
      match s.queue q x.record.prio with
      | [] => .next ((if s.popEnd x then s.send (.launchEnd g.lid) else s).send (.taskPop gid))
      | bs :: _ =>
        if (s.poppers q x.record.prio).head? ≠ some gid then .next (s.send (.taskPop gid))
        else
          let s1 := s.dropRecord q x.record.prio
          if taskBad bs then .next ((s1.taskRecord gid 0x41 0 0 bs 0 0).send (.taskPop gid))
          else .next (s1.startTask gid bs)

/-- The matrix and stream state of a finished task (R304, R319, R341, R361): its open phases complete, its loop iteration ends
and its streams unbind; the accumulators unbind once its operations are done. -/
def State.closeTask (s : State) (gid : Nat) : State :=
  let b := (s.group gid).blk
  let s1 := (List.range 16).foldl (fun (s : State) j =>
    let x := s.join b j
    match x.phase with
    | some p => if p.gid = gid then (s.setJoin b j { x with t := x.t + 1, a := 0, phase := none }).readyOp p else s
    | none => s) s
  (s1.quitLoop gid).modGroup gid fun g => { g with streams := [] }

/-- AUTOSIG (R341 step 3): the state after the signal, or the cause and information of what stops it. -/
def State.autosig (s : State) (gid : Nat) (t : TaskRun) : State × Option XRes :=
  if !t.autosig || t.succ == 0 then (s, none)
  else if t.succ.toNat % 128 ≠ 0 then (s, some (.trap 0x10))
  else match s.xlate (s.laneWalker gid) t.succ .atomic with
    | (s1, .ok pa k) =>
      if s1.ms.bad.contains (lineOf pa) then (s1.logError (lineOf pa) 1, some (.trap 0x19))
      else (((s1.releaseBy gid (BitVec.allOnes 32)).successor gid (s1.group gid).part pa k t.succ).markSent gid 16, none)
    | (s1, r) => (s1, some r)

/-- A task ends: its accumulators unbind, and the group pops again, or ends with its last lane (R341). -/
def State.leaveTask (s : State) (gid : Nat) : State :=
  let keep := s.isEnding (s.group gid).lid || s.leaving (s.group gid).blk
  let s1 := (s.modGroup gid fun g => { g with acc := [], stopping := g.stopping && keep }).freeSlots gid
  if (s1.group gid).liveLanes.isEmpty then (s1.modGroup gid fun g => { g with serving := false, task := none }).settle gid
  else s1.toPop gid

/-- Whether the program counters of a group stand at clause boundaries or are parked. -/
def State.stoppedAll (s : State) (gid : Nat) : Bool :=
  (s.group gid).liveLanes.all fun l => ((s.lane gid l).park.isSome || (s.lane gid l).pos == 0) && !s.laneOpen gid l

/-- Whether nothing that a group issued is in flight. -/
def State.drained (s : State) (gid : Nat) : Bool := (s.group gid).cnt.zero && !(s.eng.mat.any fun o => o.gid == gid)

/-- TASK_COMPLETE (R341, R346). -/
def execTaskComplete (gid : Nat) (s : State) : Answer :=
  let g := s.group gid
  let again : Answer := .next (s.send (.taskComplete gid))
  match g.task with
  | none => .next s
  | some t => match t.fault with
    | some (cause, pc, info, lanes) =>
      if !s.stoppedAll gid then again
      else
        -- parked lanes leave their waits; a parked LDFE's read is withdrawn
        let s1 := (s.parkAll gid .taskEnd).modGroup gid fun g => { g with cnt := { g.cnt with ldc := 0 } }
        let s2 := if (s.waits.any fun w => w.gid == gid && (match w.kind with
          | .ldfe _ _ _ _ _ _ => true
          | _ => false)) && g.cnt.ldc != 0 then s1 else s
        let s3 := s2.closeTask gid
        if !s3.drained gid then .next (s3.send (.taskComplete gid))
        else .next (((s3.taskRecord gid cause pc info t.record t.sent lanes)).leaveTask gid)
    | none =>
      if !g.tasksDone then .next s
      else
        let s1 := s.closeTask gid
        if !s1.drained gid then .next (s1.send (.taskComplete gid))
        else match s1.autosig gid t with
          | (s2, none) => .next (s2.leaveTask gid)
          | (s2, some (.trap c)) => .next ((s2.taskRecord gid c 0 t.succ t.record (s2.group gid |>.task.map (fun k => k.sent) |>.getD 0) 0).leaveTask gid)
          | (s2, some (.stop lv bad)) => .next (s2.engineStop g.part gid 0 g.lid (some (.taskComplete gid)) t.succ.toNat .atomic lv bad)
          | (s2, some (.ok _ _)) => .next (s2.leaveTask gid)

end Sys2Proof.Machine
end

