-- ==== Sys2Proof/Machine/Csr.lean ====
section
/-! DEFINITION. Control registers: their fields by access code, their instances, CSRR, CSRW and the steps of their writes
(R3, R424 to R427, R430 to R432, R437, R441, R445). -/
namespace Sys2Proof.Machine

/-! ## Fields (R3) -/

/-- How a field answers a write (R3); a bit of no field is RZ. -/
inductive FieldAcc where
  | ro | rw | w1c | wo
  deriving DecidableEq, Repr

/-- A register's fields: high bit, low bit, access. -/
def csrFields (num : Nat) : List (Nat × Nat × FieldAcc) :=
  match num with
  | 0x01 | 0x03 | 0x07 => [(63, 12, .rw), (4, 4, .rw), (3, 0, .rw)]
  | 0x02 => [(63, 32, .ro), (31, 0, .rw)]
  | 0x04 => [(63, 0, .ro)]
  | 0x05 => [(63, 16, .rw), (15, 0, .rw)]
  | 0x06 => [(63, 48, .rw), (47, 12, .rw), (0, 0, .rw)]
  | 0x08 => [(63, 32, .rw), (31, 0, .ro)]
  | 0x09 => [(16, 16, .ro), (15, 8, .rw), (7, 0, .w1c)]
  | 0x0A | 0x0B => [(63, 3, .rw)]
  | 0x0C => [(63, 16, .rw), (0, 0, .rw)]
  | 0x0D => [(48, 48, .ro), (47, 40, .ro), (39, 32, .ro), (31, 0, .ro)]
  | 0x0E => [(0, 0, .wo)]
  | 0x0F => [(63, 32, .ro), (0, 0, .ro)]
  | 0x10 => [(63, 12, .rw), (11, 8, .rw), (0, 0, .rw)]
  | 0x11 => [(63, 32, .rw), (31, 0, .rw)]
  | 0x12 => [(0, 0, .ro)]
  | 0x18 => [(63, 36, .ro), (35, 16, .ro), (9, 0, .ro)]
  | 0x19 => [(63, 63, .w1c), (62, 62, .w1c), (61, 59, .ro), (58, 54, .ro), (31, 12, .ro), (11, 7, .ro)]
  | 0x20 => [(63, 48, .rw), (12, 8, .rw), (0, 0, .rw)]
  | 0x21 => [(63, 40, .rw), (39, 8, .rw), (7, 3, .ro), (0, 0, .rw)]
  | 0x22 => [(32, 32, .ro), (31, 0, .ro)]
  | 0x23 => [(63, 62, .ro), (61, 53, .ro), (52, 48, .ro), (47, 16, .ro)]
  | 0x24 => [(63, 48, .rw), (47, 32, .rw), (31, 16, .rw), (15, 8, .rw), (7, 0, .ro)]
  | 0x28 => [(16, 16, .ro), (0, 0, .rw)]
  | 0x30 => [(47, 40, .ro), (39, 37, .ro), (24, 16, .ro), (0, 0, .ro)]
  | 0x31 => [(63, 63, .ro), (62, 62, .w1c), (61, 59, .ro), (58, 50, .ro), (31, 0, .ro)]
  | _ => []

/-- Whether a number is listed (R426, R445). -/
def csrListed (num : Nat) : Bool := !(csrFields num).isEmpty

/-- The bits from `lo` to `hi`. -/
def fieldMask (hi lo : Nat) : DWord := BitVec.ofNat 64 (2 ^ (hi + 1) - 2 ^ lo)
/-- The bits of a register's fields of an access code. -/
def csrMask (num : Nat) (a : FieldAcc) : DWord :=
  (csrFields num).foldl (fun m f => if f.2.2 = a then m ||| fieldMask f.1 f.2.1 else m) 0
/-- The bits of every field. -/
def csrAll (num : Nat) : DWord := (csrFields num).foldl (fun m f => m ||| fieldMask f.1 f.2.1) 0

/-- Whether a value would write a nonzero RZ field. -/
def rzBad (num : Nat) (val : DWord) : Bool := val &&& ~~~csrAll num != 0

/-- A write field by field (R3): RO fields stay, RW fields take the value, and ones clear W1C bits. -/
def mergeCsr (num : Nat) (old val : DWord) : DWord :=
  (old &&& csrMask num .ro) ||| (val &&& csrMask num .rw) ||| (old &&& csrMask num .w1c &&& ~~~val)

/-! ## Instances (R426) -/

/-- The partition's stored instance of a register: its key, for a register held as it reads. None where the instance lies
outside the issuing partition. `q` is the issuing system core's quadrant. -/
def State.csrHome (s : State) (p q num inst : Nat) : Option Nat :=
  let quad (k : Nat) : Option Nat := if s.holds p inst then some k else none
  let one (k : Nat) : Option Nat := if inst = 0 then some k else none
  match num with
  | 0x01 | 0x02 | 0x03 | 0x04 | 0x19 | 0x28 => quad (csrKey num inst)
  | 0x09 | 0x0A | 0x0B => one (csrKey num q)
  | 0x05 | 0x06 | 0x07 | 0x08 | 0x0C | 0x0D | 0x0E | 0x12 | 0x18 | 0x30 => one (csrPart p num)
  | 0x0F => if inst < 64 then some (csrKey num inst) else none
  | 0x10 | 0x11 => match s.part p with
    | some x => if x.pairs.contains inst then some (csrKey num inst) else none
    | none => none
  | 0x20 | 0x23 | 0x24 => if inst < 32 ∧ s.holdsDie p (inst / 4) = true then some (csrKey num inst) else none
  | 0x21 => if inst < 32 ∧ (s.domOwner inst = none ∨ s.domOwner inst = some p) then some (csrKey num inst) else none
  | 0x22 => if s.domOwner inst = some p then some (csrKey num inst) else none
  | 0x31 => if inst < 16 then some (csrPart p num) else none
  | _ => none

/-! ## Reading (R427) -/

/-- SYS_PART (R431). -/
def State.partReg (s : State) (p : Nat) : DWord :=
  match s.part p with
  | none => 0
  | some x => BitVec.ofNat 64 ((if x.keyset then 2 ^ 48 else 0)
      + ((List.range 8).map fun d => if s.holdsDie p d then 2 ^ (40 + d) else 0).sum + p % 256 * 2 ^ 32 + x.quads.toNat)

/-- SYS_KEYST of a slot (R439). -/
def State.keyReg (s : State) (p slot : Nat) : DWord :=
  match s.sys.keys.find? fun k => k.slot == slot && k.part == p with
  | some k => k.model ++ (1 : BitVec 32)
  | none => 0

/-- Cores of a partition that are mapped out. -/
def State.coresOut (s : State) (p : Nat) : Nat := s.sys.mappedOut.countP fun c => s.holds p (quadOf c)

/-- HLT_STAT (R445). -/
def State.healthReg (s : State) (p : Nat) : DWord :=
  BitVec.ofNat 64 ((s.sys.power.temp.lookup p).getD 0 % 256 * 2 ^ 40 + s.sys.power.state % 8 * 2 ^ 37 + s.coresOut p % 512 * 2 ^ 16
    + if s.sys.repl.any fun r => r.part == p then 1 else 0)

/-- A partition's replace requests in the order in which they were raised. -/
def State.replOf (s : State) (p : Nat) : List Repl := s.sys.repl.filter fun r => r.part == p

/-- HLT_REPL of an instance (R445). -/
def State.replReg (s : State) (p inst : Nat) : DWord :=
  match (s.replOf p)[inst]? with
  | some r => BitVec.ofNat 64 (2 ^ 63 + (if r.ack then 2 ^ 62 else 0) + r.unit % 8 * 2 ^ 59 + r.number % 512 * 2 ^ 50 + r.hours % 2 ^ 32)
  | none => 0

/-- A register as it reads; `key` is its home. -/
def State.readCsr (s : State) (p num inst key : Nat) : DWord :=
  match num with
  | 0x04 => s.tqcnt inst
  | 0x0D => s.partReg p
  | 0x0F => s.keyReg p inst
  | 0x12 => if s.sys.quiet then 1 else 0
  | 0x28 => if (s.csr key).getLsbD 0 then 0x10001 else 0
  | 0x30 => s.healthReg p
  | 0x31 => s.replReg p inst
  | _ => s.csr key &&& ~~~csrMask num .wo

/-! ## Writing (R427) -/

/-- LND_GATE (R432): a lock stays. -/
def State.lockGate (s : State) (key : Nat) (val : DWord) : State := if val.getLsbD 0 then s.setCsr key 1 else s

/-- HLT_REPL (R445): a one clears ACK. -/
def State.ackRepl (s : State) (p inst : Nat) (val : DWord) : State :=
  match (s.replOf p)[inst]? with
  | some r => if val.getLsbD 62 then
      { s with sys := { s.sys with repl := s.sys.repl.map fun x => if x = r then { x with ack := false } else x } } else s
  | none => s

/-- The effect of a write on a register that is in the partition: stored field by field, with what follows from it. -/
def State.putCsr (s : State) (w : CsrWrite) (key : Nat) : WriteRes :=
  let new := mergeCsr w.num (s.csr key) w.val
  let put := s.setCsr key new
  match w.num with
  | 0x01 => .ok (put.serveRing w.inst)
  | 0x02 => .ok (s.writeTail w.inst (lo32 w.val))
  | 0x03 => if 12 ≤ bits w.val 3 0 then WriteRes.illegal else .ok put
  | 0x07 | 0x08 => .ok ((s.quadsOf w.part).foldl State.serveRing put.fqDrain)
  | 0x09 => .ok (put.send (.eventModeEntry (key % 256)))
  | 0x0E => .ok (if w.val.getLsbD 0 then s.send (.sysHostirq w) else s)
  | 0x10 => if 9 ≤ bits w.val 11 8 then WriteRes.illegal else .ok put
  | 0x11 => .ok (put.send (.sysNvdb w))
  | 0x20 => s.writePortcfg w
  | 0x21 => s.writeDomctl w
  | 0x28 => .ok (s.lockGate key w.val)
  | 0x31 => .ok (s.ackRepl w.part w.inst w.val)
  | _ => .ok put

/-- A write of a control register by a partition (R3, R426, R427): an instance outside it, then a nonzero RZ field. -/
def State.writeCsr (s : State) (w : CsrWrite) (q : Nat) : WriteRes :=
  if !csrListed w.num then WriteRes.illegal
  else match s.csrHome w.part q w.num w.inst with
    | none => .trap 0x13 w.inst
    | some key => if rzBad w.num w.val then WriteRes.illegal else s.putCsr w key

/-! ## CSRR, CSRW (R426, R427) -/

/-- The instance that a word names: FLAGS: [0] IX. -/
def State.csrInst (s : State) (gid : Nat) (f : EF) : Nat :=
  if f.flags.getLsbD 0 then bits (s.readG gid f.c.toNat) 7 0 else f.x.toNat

/-- CSRR (R427): holds the lane until it completes. -/
def execCsrr (f : EF) (s : State) : Answer :=
  issuePriv s f.ctl none (vNames true f.a) 2 fun s i =>
    let p := (s.group i.gid).part
    let inst := s.csrInst i.gid f
    match s.csrHome p (quadOfGid i.gid) f.imm8.toNat inst with
    | none => s.trapAll i 0x13 inst
    | some key =>
      let x := s.readCsr p f.imm8.toNat inst key
      eachLane s i.lanes fun s l => s.writeVW i.gid l true f.a.toNat x

/-- CSRW (R427): a release at `.sys`, then the write. -/
def execCsrw (f : EF) (s : State) : Answer :=
  issuePriv s f.ctl none (vNames true f.a) 0 fun s0 i =>
    let s := s0.releaseBy i.gid (maskOf i.lanes)
    let w : CsrWrite := ⟨(s.group i.gid).part, f.imm8.toNat, s.csrInst i.gid f, s.readVW i.gid i.low 1 true f.a.toNat⟩
    match s.writeCsr w (quadOfGid i.gid) with
    | .ok t => t
    | .trap cause info => s.trapAll i cause (if cause = 0x01 then i.cx.word.toNat else info)

/-! ## The steps of single registers -/

/-- LND_GATE_LOCK (R432). -/
def execLndGateLock (w : CsrWrite) (s : State) : Answer :=
  .next (if s.holds w.part w.inst && !rzBad 0x28 w.val then s.lockGate (csrKey 0x28 w.inst) w.val else s)

/-- Whether a partition's traffic on the host link or the storage port waits for its slot (R441). -/
def State.notItsSlot (s : State) (p : Nat) : Bool := s.sys.quiet && s.sys.quietVf != p

/-- SYS_HOSTIRQ (R426, R434, R435): the partition's MSI-X vector leaves, in quiet mode in the partition's slot. -/
def execSysHostirq (w : CsrWrite) (s : State) : Answer :=
  .next (if !w.val.getLsbD 0 then s else if s.notItsSlot w.part then s.send (.sysHostirq w) else s.emitOut (.msix w.part))

/-- REGISTER_WRITE (R3): a write that no instruction waits for. -/
def execRegisterWrite (w : CsrWrite) (s : State) : Answer := .next ((s.writeCsr w ((s.quadsOf w.part).headD 0)).orKeep s)

end Sys2Proof.Machine
end

