-- ==== Sys2Proof/Machine/System.lean ====
section
/-! DEFINITION. The system cores' own instructions (R425, R428, R429, R439) and page faults (R373, R374): ERET, HALT, PREEMPT,
KEYLD, RESUME, entry to event mode, and the record of a stopped walk. -/
namespace Sys2Proof.Machine

/-! ## Event mode (R425, R428) -/

/-- ERET (R428). -/
def execEret (f : EF) (s : State) : Answer := issuePriv s f.ctl none [] 0 fun s i => s.eventReturn i.gid i.low

/-- HALT (R428): the lane stands at the next header, parked. -/
def execHalt (f : EF) (s : State) : Answer :=
  issuePriv s f.ctl none [] 0 fun s i => (s.park i.cx i.lanes .halt).send (.eventModeEntry (quadOfGid i.gid))

/-- A system core enters event mode by an event: at SYS_EVEC, with SYS_EPC at the header where it stands. A vector of 0 is
treated as a trap in event mode (R425). -/
def State.enterEvent (s : State) (gid l : Nat) : State :=
  let pc := (s.lane gid l).pc
  if s.csr (evecKey (gid - 36864)) == 0 then s.stopCore gid l pc 0 else s.toVector gid l pc 0x10000

/-- The wait of a halted lane. -/
def State.haltWait (s : State) (gid l : Nat) : Option Wait :=
  match (s.lane gid l).park with
  | some id => match s.wait id with
    | some w => if w.kind = .halt then some w else none
    | none => none
  | none => none

/-- EVENT_MODE_ENTRY (R425, R428): with an enabled event pending, a halted core goes on, and a core whose MODE is 0 enters event
mode at its clause boundary. -/
def execEventModeEntry (quad : Nat) (s : State) : Answer :=
  let gid := sysGid quad
  let x := s.lane gid 0
  if !s.hasGroup gid || !x.live || !s.eventPending quad then .next s
  else match s.haltWait gid 0 with
    | some w =>
      let s1 := s.wake w
      .next (if s.eventReady quad then s1.enterEvent gid 0 else s1)
    | none =>
      if !s.eventReady quad then .next s
      else if x.pos ≠ 0 ∨ x.park.isSome then .next (s.send (.eventModeEntry quad))
      else .next (s.enterEvent gid 0)

/-! ## PREEMPT (R429) -/

/-- Starts the saves of a launch's placed spans in ascending block order while the pool has pages: the state, and whether the
pool ran short. `used` counts the pages taken; `fuel` bounds the spans. -/
def State.saveSpans : Nat → State → Nat → Nat → List Block → State × Bool
  | 0, s, _, _, _ => (s, false)
  | _ + 1, s, _, _, [] => (s, false)
  | fuel + 1, s, pool, used, b :: rest =>
    let mates := s.spanMates b
    let need := (mates.map fun x => s.savePages x).sum
    if pool < used + need then (s, true)
    else
      let s1 := mates.foldl (fun s x => if s.leaving ⟨x.lid, x.num⟩ then s else s.beginSave ⟨x.lid, x.num⟩) s
      State.saveSpans fuel s1 pool (used + need) (rest.filter fun x => !mates.any fun y => y.num == x.num)

/-- PREEMPT without `.rel` (R429): the launch is held and its placed blocks are saved; the lane waits for the saves. -/
def State.preemptSave (s : State) (i : Iss) (f : EF) (x : Launch) : State :=
  let s1 := s.modLaunch x.lid fun x => { x with held := true }
  let placed := sortBy (fun (a b : Block) => decide (a.num ≤ b.num)) (s1.blocks.filter fun b => b.lid == x.lid)
  let r := s1.saveSpans (placed.length + 1) (s1.poolFree x.part).length 0 placed
  (r.1.park i.cx i.lanes (.preempt x.lid f.a.toNat 0 r.2)).preemptWake x.lid

/-- PREEMPT (R429). FLAGS: [0] REL. -/
def execPreempt (f : EF) (s : State) : Answer :=
  issuePriv s f.ctl none [f.a.toNat] 1 fun s i =>
    let id := (s.readG i.gid f.b.toNat).toNat % 2 ^ 32
    match s.launch id with
    | none => s.giveAll i f.a.toNat 0x80000000
    | some x =>
      if x.part ≠ (s.group i.gid).part then s.giveAll i f.a.toNat 0x80000000
      else if f.flags.getLsbD 0 then
        let s1 := (s.modLaunch id fun x => { x with held := false }).giveAll i f.a.toNat 0
        (quadsOfMask x.record.qmask).foldl State.placePass s1
      else s.preemptSave i f x

/-! ## KEYLD (R439) -/

def State.keySlot (s : State) (slot : Nat) : Option KeySlot := s.sys.keys.find? fun k => k.slot == slot
/-- Whether a copy command accepted on a slot has not completed. -/
def State.slotBusy (s : State) (slot : Nat) : Bool := s.eng.copies.any fun c => c.keySlot == some slot

/-- Takes the delivered key of a ticket into a free slot: the state and the status. Of several entries with the ticket the oldest is taken
and erased (log entry 43). -/
def State.takeKey (s : State) (p slot : Nat) (ticket : Word) : State × Word :=
  match s.sys.delivery.find? fun d => d.part == p && d.ticket == ticket with
  | none => (s, 1)
  | some d =>
    ({ s with sys := { s.sys with keys := s.sys.keys ++ [⟨slot, p, d.key, d.model⟩],
                                  delivery := s.sys.delivery.erase d } }, 0)

/-- KEYLD: its status and effect (R439). -/
def State.keyld (s : State) (p slot : Nat) (clr : Bool) (ticket : Word) : State × Word :=
  match s.keySlot slot with
  | some k =>
    if k.part ≠ p then (s, 2)
    else if clr then ({ s with sys := { s.sys with keys := s.sys.keys.filter fun x => !(x.slot == slot) } }, 0)
    else (s, 3)
  | none => if clr then (s, 0) else s.takeKey p slot ticket

/-- KEYLD (R439). `.clr` of the partition's own slot holds issue until the commands accepted on it complete (log entry 43).
FLAGS: [0] CLR. -/
def execKeyld (f : EF) (s : State) : Answer :=
  match s.cur with
  | none => .fault .noIssuer
  | some cx =>
    let clr := f.flags.getLsbD 0
    let own := match s.keySlot f.x.toNat with
      | some k => k.part == (s.group cx.gid).part
      | none => false
    if isSysGid cx.gid && !(s.taking cx f.ctl).isEmpty && clr && own && s.slotBusy f.x.toNat then .next s.stall
    else issuePriv s f.ctl (some .mc) [f.a.toNat] 0 fun s i =>
      match s.keyld (s.group i.gid).part f.x.toNat clr (lo32 (s.readG i.gid f.b.toNat)) with
      | (t, st) => t.mcResult i f.a.toNat st

/-! ## Page faults (R374, R377, R378) -/

/-- PAGE_FAULT (R374, R378): the record of a parked sub-group, or of an engine's held operation, after those of earlier faults. -/
def execPageFault (f : PageStop) (s : State) : Answer := .next ((s.faultsFirst f.park).faultRec f).fqDrain

/-! ## RESUME (R373, R374) -/

def State.unparkId (s : State) (id : Nat) : State := { s with ms := { s.ms with parked := s.ms.parked.filter fun x => !(x.id == id) } }

/-- Whether a wait is that of a parked sub-group. -/
def Wait.isFault (w : Wait) (id : Nat) : Bool := w.kind == .pageFault id

/-- A port's held request goes on (R374, R401). -/
def State.freePort (s : State) (port : Nat) : State :=
  ({ s with fab := { s.fab with inbox := s.fab.inbox.map fun y => if y.req.port = port then { y with held := false } else y } } : State).servePorts

/-- A parked sub-group becomes ready, or an engine's held operation goes on (R374). One that is saved goes on at its
restore. -/
def State.resumeAt (s : State) (p : Parked) : State :=
  if p.agent = 0 then match s.waits.find? fun w => w.isFault p.id with
    | some w => (s.unparkId p.id).wake w
    | none => { s with ms := { s.ms with parked := s.ms.parked.map fun x => if x.id = p.id then { x with ready := true } else x } }
  else
    let s1 := s.unparkId p.id
    let s2 := match p.held with
      | some i => s1.send i
      | none => s1
    if 424 ≤ p.agent ∧ p.agent < 456 then s2.freePort (p.agent - 424) else s2

/-- A port's held request is refused (log entry 52). -/
def State.refusePort (s : State) (port : Nat) : State :=
  match s.fab.inbox.find? fun y => y.req.port == port && y.held with
  | none => s
  | some y => (({ s with fab := { s.fab with inbox := s.fab.inbox.filter fun x => !(x.num == y.num) } } : State).sendAnswerOut
      port y.req.tag 2 []).servePorts

/-- KILL (R373): the sub-group's launch ends, and a held engine operation completes with its ACCESS status (log entry 52). -/
def State.killAt (s : State) (p : Parked) : State :=
  let s1 := if p.lid = 0 then s else s.endLaunch p.lid
  if p.agent = 0 then s1
  else
    let s2 := s1.unparkId p.id
    let s3 := match p.held with
      | some (.nodeComplete n) => (s2.failNode n 4 0).pumpWindows.servePorts
      | some (.storageDma d) => s2.send (.storageDma { d with fail := true })
      | _ => s2
    if 424 ≤ p.agent ∧ p.agent < 456 then s3.refusePort (p.agent - 424) else s3

/-- RESUME (R373): a release at `.dev`. FLAGS: [0] KILL. -/
def execResume (f : EF) (s : State) : Answer :=
  issuePriv s f.ctl none [f.a.toNat] 1 fun s0 i =>
    let s := s0.releaseBy i.gid (maskOf i.lanes)
    let id := (s.readG i.gid f.b.toNat).toNat % 2 ^ 32
    match s.ms.parked.find? fun p => p.id == id && p.part == (s.group i.gid).part with
    | none => s.giveAll i f.a.toNat 1
    | some p => if f.flags.getLsbD 0 then (s.killAt p).giveAll i f.a.toNat 2 else (s.resumeAt p).giveAll i f.a.toNat 0

end Sys2Proof.Machine
end

