-- ==== Sys2Proof/Machine/Hostlink.lean ====
section
/-! DEFINITION. The host link and the storage port (R433 to R437, R441). -/
namespace Sys2Proof.Machine

/-! ## TDISP and the host's requests (R434 to R436) -/

def State.tdi (s : State) (vf : Nat) : Tdi := (s.sys.tdi.lookup vf).getD .configUnlocked
def State.setTdi (s : State) (vf : Nat) (t : Tdi) : State :=
  { s with sys := { s.sys with tdi := s.sys.tdi.filter (fun x => !(x.1 == vf)) ++ [(vf, t)] } }
def State.setIde (s : State) (l : List IdeKey) : State := { s with sys := { s.sys with ideKeys := l } }
/-- Whether a function's IDE stream is open (R436): a key is in use for each of its six parts (log entry 88). -/
def State.ideOpen (s : State) (fn : Nat) : Bool := (List.range 6).all fun k => s.sys.ideKeys.any fun x => x.fn == fn && x.part == k && x.go

/-- Whether a request is refused (R434, R436, R448): the host link is down in recovery; a partition stands behind each virtual function
alone, and the physical one holds neither memory nor SYS_MBOX; a locked TDI takes requests in its IDE stream alone; BAR2 takes them in
RUN alone. -/
def State.refused (s : State) (r : HostReq) : Bool :=
  let t := s.tdi r.vf
  s.sys.recovery || (s.part r.vf).isNone || ((t == .configLocked || t == .run) && !(r.ide && s.ideOpen r.vf)) || (!r.bar0 && t != .run)

/-- Sets a bit of a function's uncorrectable error status (R433): 15 completer abort, 18 malformed, 20 unsupported request (PRESUMED,
log entry 85). -/
def State.aerSet (s : State) (fn bit : Nat) : State :=
  { s with sys := { s.sys with aer := Map.set 0 s.sys.aer fn (Map.get 0 s.sys.aer fn ||| ((1 : Word) <<< bit)) } }
/-- A write that is not taken: dropped and counted (R434), and an error of its function (R433). -/
def State.dropWrite (s : State) (fn bit : Nat) : State := (s.count cntHostDropped).aerSet fn bit
/-- A read that completes with Unsupported Request (R434). -/
def State.unsupported (s : State) (vf tag : Nat) : State := (s.emitOut (.unsupported vf tag)).aerSet vf 20
/-- The completions of a read, of at most 512 bytes each (R433). -/
def State.completeRead (s : State) (vf tag : Nat) (bs : List Byte) : State :=
  (List.range (Nat.max 1 ((bs.length + 511) / 512))).foldl (fun s k => s.emitOut (.hostData vf tag ((bs.drop (512 * k)).take 512))) s

/-- A write to BAR0 (R326, R434), where SYS_MBOX of the partition's i-th quadrant lies at 0x100·i with TAIL in its low word: TAIL is
written whole, and a write to HEAD is ignored. -/
def State.mboxWrite (s : State) (r : HostReq) (data : List Byte) : State :=
  match (s.quadsOf r.vf)[r.off / 256]? with
  | some q =>
    if r.off % 256 = 0 ∧ (data.length = 4 ∨ data.length = 8) then s.writeTail q (BitVec.ofNat 32 (fieldAt data 0 4))
    else if r.off % 256 = 4 ∧ data.length = 4 then s
    else s.dropWrite r.vf 20
  | none => s.dropWrite r.vf 20

/-- The bytes of SYS_MBOX that a read of BAR0 names (R434). -/
def State.mboxBytes (s : State) (r : HostReq) (n : Nat) : Option (List Byte) :=
  match (s.quadsOf r.vf)[r.off / 256]? with
  | some q => if r.off % 256 + n ≤ 8 then some (((leBytes 8 (s.csr (csrKey 0x02 q)).toNat).drop (r.off % 256)).take n) else none
  | none => none

/-- Whether an earlier write of the function has not performed (R435). -/
def State.behind (s : State) (r : HostReq) : Bool := s.due.any fun i => match i with
  | .hostWrite x _ => x.vf == r.vf && decide (x.num < r.num)
  | .mailboxDoorbell x _ => x.vf == r.vf && decide (x.num < r.num)
  | _ => false

/-- HOST_WRITE (R433 to R435): in posted order, performed at home; a payload above 512 bytes is malformed. -/
def execHostWrite (r : HostReq) (data : List Byte) (s : State) : Answer :=
  if s.behind r || s.notItsSlot r.vf then .next (s.send (.hostWrite r data))
  else if 512 < data.length then .next (s.dropWrite r.vf 18)
  else if s.refused r then .next (s.dropWrite r.vf 20)
  else if r.bar0 then .next (s.mboxWrite r data)
  else if s.top r.vf < r.off + data.length then .next (s.dropWrite r.vf 20)
  else .next (s.poke (.host r.vf) .shared (paddr r.vf r.off) data)

/-- HOST_READ (R433 to R435): served at home after every earlier write of the function; a tag above 14 bits or a length above 4,096
is malformed (log entry 85). -/
def execHostRead (r : HostReq) (n tag : Nat) (s : State) : Answer :=
  if s.behind r || s.notItsSlot r.vf then .next (s.send (.hostRead r n tag))
  else if 4096 < n ∨ 2 ^ 14 ≤ tag then .next (s.aerSet r.vf 18)
  else if s.refused r then .next (s.unsupported r.vf tag)
  else if r.bar0 then .next (match s.mboxBytes r n with
    | some bs => s.completeRead r.vf tag bs
    | none => s.unsupported r.vf tag)
  else if s.top r.vf < r.off + n then .next (s.unsupported r.vf tag)
  else
    let pages := (List.range (n / 4096 + 2)).map fun k => (4096 * (r.off / 4096 + k), paddr r.vf (4096 * (r.off / 4096 + k)), PageKind.shared)
    match s.engineBytes pages r.off n with
    | (s1, some bs) => .next (s1.completeRead r.vf tag bs)
    | (s1, none) => .next ((s1.emitOut (.hostAbort r.vf tag)).aerSet r.vf 15)

/-- MAILBOX_DOORBELL (R326, R434, R435): a write of TAIL in BAR0. -/
def execMailboxDoorbell (r : HostReq) (tail : Word) (s : State) : Answer :=
  if s.behind r || s.notItsSlot r.vf then .next (s.send (.mailboxDoorbell r tail))
  else if s.refused { r with bar0 := true } then .next (s.dropWrite r.vf 20)
  else .next (s.mboxWrite r (leBytes 4 tail.toNat))

/-- FUNCTION_LEVEL_RESET (R433, R434): the partition runs on. One of the physical function resets the virtual ones with it (PRESUMED, log
entry 85). -/
def execFunctionLevelReset (vf : Nat) (s : State) : Answer :=
  let hit (v : Nat) : Bool := vf == 0 || v == vf
  let due := s.due.filter fun i => match i with
    | .hostWrite x _ => !hit x.vf
    | .hostRead x _ _ => !hit x.vf
    | .mailboxDoorbell x _ => !hit x.vf
    | _ => true
  let s1 := ({ s with due := due } : State).setIde (s.sys.ideKeys.filter fun x => !hit x.fn)
  .next (if vf = 0 then (s1.sys.parts.map fun p => p.num).foldl (fun s v => s.setTdi v .configUnlocked) s1
    else s1.setTdi vf .configUnlocked)

/-- LOCK_INTERFACE (R436): the gates and the key must be in place. -/
def execLockInterface (vf : Nat) (s : State) : Answer :=
  let keyed := match s.part vf with
    | some x => x.keyset
    | none => false
  let gates := (s.quadsOf vf).all fun q => (s.csr (csrKey 0x28 q)).getLsbD 0
  if s.tdi vf = .configUnlocked ∧ keyed = true ∧ gates = true then
    .next ((s.setTdi vf .configLocked).emitOut (.tdisp vf true))
  else .next (s.emitOut (.tdisp vf false))

/-- START_INTERFACE_REQUEST (R436). -/
def execStartInterfaceRequest (vf : Nat) (s : State) : Answer :=
  if s.tdi vf = .configLocked then .next ((s.setTdi vf .run).emitOut (.tdisp vf true)) else .next (s.emitOut (.tdisp vf false))

/-- QUIET_MODE_SLOT (R441): after 100 reference ticks the link passes to the next enabled VF in ascending order. -/
def execQuietModeSlot (s : State) : Answer :=
  let vfs := sortBy (fun (a b : Nat) => decide (a ≤ b)) (s.sys.parts.map fun p => p.num)
  let nxt := match vfs.find? fun v => decide (s.sys.quietVf < v) with
    | some v => v
    | none => vfs.headD 0
  .next (if !s.sys.quiet then s
    else (if s.tick < s.sys.quietAt + 100 then s
      else { s with sys := { s.sys with quietVf := nxt, quietAt := s.tick } } : State).send .quietModeSlot)

/-! ## The storage port (R437) -/

/-- The storage TLB's number (R369). -/
def storageAgent : Nat := 456

/-- The partition that holds a queue pair, or 0. -/
def State.pairOwner (s : State) (pair : Nat) : Nat :=
  match s.sys.parts.find? fun p => p.pairs.contains pair with
  | some p => p.num
  | none => 0

def nvqKey (pair : Nat) : Nat := csrKey 0x10 pair
def nvdbKey (pair : Nat) : Nat := csrKey 0x11 pair
def State.nvBase (s : State) (pair : Nat) : Nat := (s.csr (nvqKey pair)).toNat / 2 ^ 12 * 2 ^ 12
def State.nvSize (s : State) (pair : Nat) : Nat := 16 * 2 ^ bits (s.csr (nvqKey pair)) 11 8
def State.nvPos (s : State) (pair : Nat) : NvPos :=
  match s.sys.nvPos.find? fun x => x.pair == pair with
  | some x => x
  | none => ⟨pair, 0, 0⟩
def State.setNvPos (s : State) (x : NvPos) : State :=
  { s with sys := { s.sys with nvPos := s.sys.nvPos.filter (fun y => !(y.pair == x.pair)) ++ [x] } }

def nvOpcode (e : List Byte) : Nat := fieldAt e 0 1
def nvCid (e : List Byte) : Nat := fieldAt e 2 2
def nvNamespace (e : List Byte) : Nat := fieldAt e 4 4

/-- The port's own check of an entry: the status with which it completes one that it refuses (R437). -/
def State.nvCheck (s : State) (pair : Nat) (e : List Byte) : Option Nat :=
  if !(([0x00, 0x01, 0x02, 0x08, 0x09] : List Nat).contains (nvOpcode e)) then some 0x01
  else match s.part (s.pairOwner pair) with
    | some p => if p.namespaces.contains (nvNamespace e) then none else some 0x0B
    | none => some 0x0B

/-- A completion entry that the part makes: queue head, queue, command and status (log entry 54). -/
def nvRefusal (pair head cid st : Nat) : List Byte :=
  leBytes 8 0 ++ leBytes 2 head ++ leBytes 2 (pair + 1) ++ leBytes 2 cid ++ leBytes 2 (2 * st)

/-- The port takes one submission entry that it has read (R366, R437). -/
def State.nvTake (s : State) (pair : Nat) (e : List Byte) : State :=
  let x := s.nvPos pair
  let head := (x.fetched + 1) % s.nvSize pair
  let cmd : NvCmd := ⟨pair, e, s.csr (csrPart (s.pairOwner pair) 0x06)⟩
  let s1 := ({ s with sys := { s.sys with nvme := s.sys.nvme ++ [cmd] } } : State).setNvPos { x with fetched := head }
  match s.nvCheck pair e with
  | some st => s1.send (.nvmeCompletion ⟨pair, nvRefusal pair head (nvCid e) st⟩)
  | none => s1.emitOut (.nvme pair e)

/-- Reads the submission entries up to the tail (R437). A stopped walk holds the port (R374); an entry that cannot be read
otherwise stays for the next doorbell (log entry 54). `fuel` bounds the entries. -/
def State.nvFetch : Nat → State → CsrWrite → State
  | 0, s, _ => s
  | fuel + 1, s, w =>
    let pair := w.inst
    let x := s.nvPos pair
    if x.fetched == bits (s.csr (nvdbKey pair)) 31 0 % s.nvSize pair then s
    else
      let va := s.nvBase pair + 64 * x.fetched
      let p := s.pairOwner pair
      match s.xlate (s.kernelWalker storageAgent p none) (BitVec.ofNat 64 va) .engineRead with
      | (s1, .ok pa k) => match s1.engineBytes [(va, pa, k)] va 64 with
        | (s2, some e) => State.nvFetch fuel (s2.nvTake pair e) w
        | (s2, none) => s2
      | (s1, .stop lv bad) => s1.engineStop p 0 storageAgent 0 (some (.sysNvdb w)) va .engineRead lv bad
      | (s1, .trap _) => s1

/-- SYS_NVDB (R437): a tail doorbell; in quiet mode the port serves it in the partition's slot (R441). -/
def execSysNvdb (w : CsrWrite) (s : State) : Answer :=
  if s.notItsSlot (s.pairOwner w.inst) then .next (s.send (.sysNvdb w))
  else if !(s.csr (nvqKey w.inst)).getLsbD 0 then .next s
  else .next (s.nvFetch (s.nvSize w.inst) w)

/-- Whether a command's data has yet to perform: a request of it is in flight or held. -/
def State.nvData (s : State) (pair cid : Nat) : Bool :=
  let mine (i : Instr) : Bool := match i with
    | .storageDma d => d.pair == pair && d.cid == cid
    | _ => false
  s.due.any mine || s.ms.parked.any fun p => match p.held with
    | some i => mine i
    | none => false

/-- The completion entry as it stands in the queue: its phase tag follows the pass (log entry 54). -/
def nvEntry (e : List Byte) (posted size : Nat) : List Byte :=
  e.take 14 ++ leBytes 2 (fieldAt e 14 2 / 2 * 2 + (posted / size + 1) % 2)

/-- NVME_COMPLETION (R437): after the command's data, the entry is written as a release, and NVME is posted. -/
def execNvmeCompletion (c : NvmeDone) (s : State) : Answer :=
  let cid := fieldAt c.entry 12 2
  let p := s.pairOwner c.pair
  let x := s.nvPos c.pair
  let size := s.nvSize c.pair
  let mine (k : NvCmd) : Bool := k.pair == c.pair && nvCid k.entry == cid
  let full := (x.posted + size - bits (s.csr (nvdbKey c.pair)) 63 32 % size) % size == size - 1
  match s.sys.nvme.find? mine with
  | none => .next s
  | some cmd =>
    if s.notItsSlot p || s.nvData c.pair cid || full then .next (s.send (.nvmeCompletion c))
    else
      let va := s.nvBase c.pair + 64 * size + 16 * (x.posted % size)
      match s.xlate (s.kernelWalker storageAgent p none) (BitVec.ofNat 64 va) .engineWrite with
      | (s1, .stop lv bad) => .next (s1.engineStop p 0 storageAgent 0 (some (.nvmeCompletion c)) va .engineWrite lv bad)
      | (s1, r) =>
        let s2 : State := { s1 with sys := { s1.sys with nvme := s1.sys.nvme.filter fun k => !(k == cmd) } }
        let s3 := s2.setNvPos { x with posted := x.posted + 1 }
        match r with
        | .ok pa k => .next ((s3.poke .storage k pa (nvEntry c.entry x.posted size)).postEvent p 2)
        | _ => .next s3

/-- The walker of a command: SYS_XLAT as its fetch bound it (R366, R437). -/
def nvWalker (p : Nat) (x : DWord) : Walker :=
  ⟨storageAgent, p, x.extractLsb' 48 16, bits x 47 12 * 2 ^ 12, x.getLsbD 0, none, none, []⟩

/-- STORAGE_DMA (R437): the controller's request, translated by the storage TLB. A failed check or an uncorrectable error ends
the request in error (log entry 54). -/
def execStorageDma (d : StorageReq) (s : State) : Answer :=
  let p := s.pairOwner d.pair
  let acc : Access := if d.write then .engineWrite else .engineRead
  if s.notItsSlot p then .next (s.send (.storageDma d))
  else match s.sys.nvme.find? fun k => k.pair == d.pair && nvCid k.entry == d.cid with
  | none => .next (s.emitOut (.nvmeFail d.pair d.tag))
  | some cmd =>
    if d.fail then .next (s.emitOut (.nvmeFail d.pair d.tag))
    else match s.xlateRange (nvWalker p cmd.xlat) acc (d.len / 4096 + 2) d.va.toNat (d.va.toNat + d.len) with
      | (s1, .error (a, .stop lv bad)) => .next (s1.engineStop p 0 storageAgent 0 (some (.storageDma d)) a acc lv bad)
      | (s1, .error _) => .next (s1.emitOut (.nvmeFail d.pair d.tag))
      | (s1, .ok pages) =>
        if d.write then
          .next (s1.engineStore .storage ((List.range d.len).filterMap fun k =>
            (rangeAt pages (d.va.toNat + k)).map fun q => (q.1, d.data.getD k 0, q.2)))
        else match s1.engineBytes pages d.va.toNat d.len with
          | (s2, some bs) => .next (s2.emitOut (.nvmeData d.pair d.tag bs))
          | (s2, none) => .next (s2.emitOut (.nvmeFail d.pair d.tag))

end Sys2Proof.Machine
end

