-- ==== Sys2Proof/Machine/Sha.lean ====
section
/-! DEFINITION. SHA-384, with which R440 measures and signs: NIST FIPS 180-4 as the algorithm's name states it. -/
namespace Sys2Proof.Machine.Sha

/-- The constants of the eighty rounds. -/
def k0 : List (BitVec 64) :=
  [0x428A2F98D728AE22, 0x7137449123EF65CD, 0xB5C0FBCFEC4D3B2F, 0xE9B5DBA58189DBBC,
   0x3956C25BF348B538, 0x59F111F1B605D019, 0x923F82A4AF194F9B, 0xAB1C5ED5DA6D8118,
   0xD807AA98A3030242, 0x12835B0145706FBE, 0x243185BE4EE4B28C, 0x550C7DC3D5FFB4E2,
   0x72BE5D74F27B896F, 0x80DEB1FE3B1696B1, 0x9BDC06A725C71235, 0xC19BF174CF692694,
   0xE49B69C19EF14AD2, 0xEFBE4786384F25E3, 0x0FC19DC68B8CD5B5, 0x240CA1CC77AC9C65]
def k1 : List (BitVec 64) :=
  [0x2DE92C6F592B0275, 0x4A7484AA6EA6E483, 0x5CB0A9DCBD41FBD4, 0x76F988DA831153B5,
   0x983E5152EE66DFAB, 0xA831C66D2DB43210, 0xB00327C898FB213F, 0xBF597FC7BEEF0EE4,
   0xC6E00BF33DA88FC2, 0xD5A79147930AA725, 0x06CA6351E003826F, 0x142929670A0E6E70,
   0x27B70A8546D22FFC, 0x2E1B21385C26C926, 0x4D2C6DFC5AC42AED, 0x53380D139D95B3DF,
   0x650A73548BAF63DE, 0x766A0ABB3C77B2A8, 0x81C2C92E47EDAEE6, 0x92722C851482353B]
def k2 : List (BitVec 64) :=
  [0xA2BFE8A14CF10364, 0xA81A664BBC423001, 0xC24B8B70D0F89791, 0xC76C51A30654BE30,
   0xD192E819D6EF5218, 0xD69906245565A910, 0xF40E35855771202A, 0x106AA07032BBD1B8,
   0x19A4C116B8D2D0C8, 0x1E376C085141AB53, 0x2748774CDF8EEB99, 0x34B0BCB5E19B48A8,
   0x391C0CB3C5C95A63, 0x4ED8AA4AE3418ACB, 0x5B9CCA4F7763E373, 0x682E6FF3D6B2B8A3,
   0x748F82EE5DEFB2FC, 0x78A5636F43172F60, 0x84C87814A1F0AB72, 0x8CC702081A6439EC]
def k3 : List (BitVec 64) :=
  [0x90BEFFFA23631E28, 0xA4506CEBDE82BDE9, 0xBEF9A3F7B2C67915, 0xC67178F2E372532B,
   0xCA273ECEEA26619C, 0xD186B8C721C0C207, 0xEADA7DD6CDE0EB1E, 0xF57D4F7FEE6ED178,
   0x06F067AA72176FBA, 0x0A637DC5A2C898A6, 0x113F9804BEF90DAE, 0x1B710B35131C471B,
   0x28DB77F523047D84, 0x32CAAB7B40C72493, 0x3C9EBE0A15C9BEBC, 0x431D67C49C100D4C,
   0x4CC5D4BECB3E42B6, 0x597F299CFC657E2A, 0x5FCB6FAB3AD6FAEC, 0x6C44198C4A475817]
def constants : List (BitVec 64) := k0 ++ k1 ++ k2 ++ k3

/-- The eight working words. -/
structure Work where
  a : BitVec 64
  b : BitVec 64
  c : BitVec 64
  d : BitVec 64
  e : BitVec 64
  f : BitVec 64
  g : BitVec 64
  h : BitVec 64
  deriving DecidableEq, Repr

def start : Work :=
  ⟨0xCBBB9D5DC1059ED8, 0x629A292A367CD507, 0x9159015A3070DD17, 0x152FECD8F70E5939,
   0x67332667FFC00B31, 0x8EB44A8768581511, 0xDB0C2E0D64F98FA7, 0x47B5481DBEFA4FA4⟩

def ror (x : BitVec 64) (n : Nat) : BitVec 64 := x.rotateRight n
def ch (x y z : BitVec 64) : BitVec 64 := (x &&& y) ^^^ (~~~x &&& z)
def maj (x y z : BitVec 64) : BitVec 64 := (x &&& y) ^^^ (x &&& z) ^^^ (y &&& z)
def bigA (x : BitVec 64) : BitVec 64 := ror x 28 ^^^ ror x 34 ^^^ ror x 39
def bigE (x : BitVec 64) : BitVec 64 := ror x 14 ^^^ ror x 18 ^^^ ror x 41
def smallA (x : BitVec 64) : BitVec 64 := ror x 1 ^^^ ror x 8 ^^^ x >>> 7
def smallE (x : BitVec 64) : BitVec 64 := ror x 19 ^^^ ror x 61 ^^^ x >>> 6

/-- A round, of a constant plus a schedule word. -/
def round (x : Work) (kw : BitVec 64) : Work :=
  let t1 := x.h + bigE x.e + ch x.e x.f x.g + kw
  ⟨t1 + bigA x.a + maj x.a x.b x.c, x.a, x.b, x.c, x.d + t1, x.e, x.f, x.g⟩

/-- The word of eight bytes, the first highest. -/
def word (l : List (BitVec 8)) : BitVec 64 := l.foldl (fun a b => (a <<< 8) ||| b.zeroExtend 64) 0

/-- The message schedule, extended by `n` words; the list holds it newest first. -/
def extend : Nat → List (BitVec 64) → List (BitVec 64)
  | 0, l => l
  | n + 1, l => extend n ((smallE (l.getD 1 0) + l.getD 6 0 + smallA (l.getD 14 0) + l.getD 15 0) :: l)

/-- One block of 128 bytes. -/
def block (x : Work) (bs : List (BitVec 8)) : Work :=
  let ws := (extend 64 (((List.range 16).map fun i => word ((bs.drop (8 * i)).take 8)).reverse)).reverse
  let y := (constants.zip ws).foldl (fun y kw => round y (kw.1 + kw.2)) x
  ⟨x.a + y.a, x.b + y.b, x.c + y.c, x.d + y.d, x.e + y.e, x.f + y.f, x.g + y.g, x.h + y.h⟩

/-- A number as bytes, the first highest. -/
def beBytes (n x : Nat) : List (BitVec 8) := (List.range n).map fun k => BitVec.ofNat 8 (x / 2 ^ (8 * (n - 1 - k)))

/-- A message padded to whole blocks. -/
def pad (m : List (BitVec 8)) : List (BitVec 8) :=
  m ++ 0x80 :: List.replicate ((239 - m.length % 128) % 128) 0 ++ beBytes 16 (8 * m.length)

/-- The digest of a message, 48 bytes. -/
def sha384 (m : List (BitVec 8)) : List (BitVec 8) :=
  let p := pad m
  let x := (List.range (p.length / 128)).foldl (fun x i => block x ((p.drop (128 * i)).take 128)) start
  [x.a, x.b, x.c, x.d, x.e, x.f].flatMap fun w => beBytes 8 w.toNat

end Sys2Proof.Machine.Sha
end

