-- ==== Sys2Proof/Machine/Attest.lean ====
section
/-! DEFINITION. Memory encryption, the SPDM responder and its vendor-defined requests (R436, R438, R440, R446, R448). Codes, the order of
requests, the layout of a response and of a session's records are SPDM's own (log entries 50 and 87). -/
namespace Sys2Proof.Machine

/-! ## Memory encryption (R438) -/

/-- The bytes of a key, the lowest first. -/
def keyBytes (n k : Nat) : List Byte := leBytes n k

/-- What the rows of a line's channel hold (R250, R438): its bytes under the partition's AES-256-XTS key; the data unit is the line,
and its number the global slice number × 2^32 + choff >> 7. -/
def State.channelLine (s : State) (line : Nat) : Option (List Byte) :=
  let p := partOfAddr (128 * line)
  let off := offOf (128 * line)
  match s.part p with
  | none => none
  | some x =>
    let choff := off / 4096 / Nat.max 1 (s.slices p).length * 4096 + off % 4096
    some (Aes.xtsEncrypt (keyBytes 32 (x.xtsKey.toNat % 2 ^ 256)) (keyBytes 32 (x.xtsKey.toNat / 2 ^ 256))
      (s.homeSlice line * 2 ^ 32 + choff / 128) (Memory.readBytes s.mem (128 * line) 128))

/-! ## The responder (R440) -/

def State.setSpdm (s : State) (x : Spdm) : State := { s with sys := { s.sys with spdm := x } }

/-- A response: version 1.3 (1.0 for VERSION), code, two parameters and what follows. -/
def spdmBytes (code p1 p2 : Nat) (rest : List Byte) : List Byte :=
  [if code = 0x04 then 0x10 else 0x13, BitVec.ofNat 8 code, BitVec.ofNat 8 p1, BitVec.ofNat 8 p2] ++ rest

def State.modSession (s : State) (id : Nat) (f : Session → Session) : State :=
  s.setSpdm { s.sys.spdm with sessions := s.sys.spdm.sessions.map fun x => if x.id = id then f x else x }
def State.session (s : State) (id : Nat) : Option Session := s.sys.spdm.sessions.find? fun x => x.id == id

/-- A record of a session: the ciphertext and tag of AES-256-GCM (R440) under the keys of a direction. The record's number enters the
initialisation vector, and session, number and length are the additional data (PRESUMED, log entry 87). -/
def Session.seal (x : Session) (sends : Bool) (n : Nat) (bs : List Byte) : List Byte × List Byte :=
  let k := Config.sessionKey x.hash x.generation sends
  Aes.gcmSeal (k.take 32) (Aes.xorL ((k.drop 32).take 12) (leBytes 8 n)) (leBytes 4 x.id ++ leBytes 2 n ++ leBytes 2 (bs.length + 16)) bs

/-- A response as it leaves: sealed in its session, as it stands outside one. -/
def State.sealed (s : State) (session : Nat) (bs : List Byte) : List Byte :=
  match s.session session with
  | some x => let r := x.seal true x.sent bs
    r.1 ++ r.2
  | none => bs

/-- Sends a response. -/
def State.say (s : State) (session : Nat) (bs : List Byte) : State :=
  (s.modSession session fun x => { x with sent := x.sent + 1 }).emitOut (.spdm session (s.sealed session bs))

/-- Whether a request's tag verifies: in a session, that of the record whose plaintext it is. A session that is not there has no key. -/
def State.authentic (s : State) (session : Nat) (body tag : List Byte) : Bool :=
  match s.session session with
  | some x => (x.seal false x.got body).2 == tag
  | none => session == 0

/-- An error response (SPDM's ERROR) of an error code. -/
def State.spdmError (s : State) (session err : Nat) : State := s.say session (spdmBytes 0x7F err 0 [])

/-- A request whose record has been taken: the next record of its session has the next number. -/
def State.taken (s : State) (session : Nat) : State := s.modSession session fun x => { x with got := x.got + 1 }

/-- Answers a request: request and response join the transcript. -/
def State.spdmAnswer (s : State) (m : SpdmMsg) (code p1 p2 : Nat) (rest : List Byte) : State :=
  let x := s.sys.spdm
  let bs := spdmBytes code p1 p2 rest
  (s.setSpdm { x with transcript := x.transcript ++ m.body ++ bs }).say m.session bs

/-- The fields that SPDM itself gives a response. -/
def State.spdmRest (s : State) (m : SpdmMsg) (code : Nat) : List Byte := Config.spdmBody code (s.sys.spdm.transcript ++ m.body)

/-- A signed answer (R440): the RSA signature of the transcript stands in it, and the SLH-DSA signature of the same transcript
is kept for measurement block 0xFD. -/
def State.spdmSigned (s : State) (m : SpdmMsg) (code p1 p2 : Nat) (rest : List Byte) : State :=
  let t := s.sys.spdm.transcript ++ m.body ++ spdmBytes code p1 p2 rest
  (s.setSpdm { s.sys.spdm with lastSig := Config.slhSign (Sha.sha384 t) }).spdmAnswer m code p1 p2
    (rest ++ Config.rsaSign (Sha.sha384 t))

/-- The answer to a request that needs a condition; in recovery it is not answered (R448), and one whose tag does not verify gets the
error of SPDM for it. -/
def State.spdmWhen (s : State) (m : SpdmMsg) (ok : Bool) (f : State → State) : State :=
  if s.sys.recovery then s
  else if !s.authentic m.session m.body m.tag then s.spdmError m.session 0x06
  else if ok then f (s.taken m.session) else (s.taken m.session).spdmError m.session 0x04

/-- Whether a session is open, established or not. -/
def State.sessionIs (s : State) (id : Nat) (established : Bool) : Bool :=
  s.sys.spdm.sessions.any fun x => x.id == id && x.established == established
/-- GET_VERSION (R440, R448): starts the connection anew; the one version is 1.3. -/
def execGetVersion (m : SpdmMsg) (s : State) : Answer :=
  let x := s.sys.spdm
  let s1 := s.setSpdm { x with version := true, caps := false, algs := false, transcript := [] }
  .next (s1.spdmAnswer m 0x04 0 0 ([0, 1] ++ leBytes 2 0x1300))

/-- The responder's flags (R440): certificates, challenges, signed measurements, encryption and authentication of sessions, key exchange,
heartbeat and key update; no PSK and no mutual authentication. -/
def spdmFlags : Nat := 0x62D6

/-- GET_CAPABILITIES (R440). -/
def execGetCapabilities (m : SpdmMsg) (s : State) : Answer :=
  .next (s.spdmWhen m s.sys.spdm.version fun s =>
    (s.setSpdm { s.sys.spdm with caps := true }).spdmAnswer m 0x61 0 0 ([0, 0, 0, 0] ++ leBytes 4 spdmFlags ++ s.spdmRest m 0x61))

/-- What the responder selects of a request's base algorithms (R440): RSASSA-PSS with RSA-3072, and SHA-384. -/
def offered (m : SpdmMsg) (at_ bit : Nat) : Nat := if (BitVec.ofNat 32 (fieldAt m.body at_ 4)).getLsbD bit then 2 ^ bit else 0
/-- The fields of ALGORITHMS (R440): the selected base algorithms; secp384r1, AES-256-GCM, no requester signature, and SPDM's key schedule. -/
def algorithmsBody (asym hash : Nat) : List Byte :=
  leBytes 2 52 ++ [0x01, 0x02] ++ leBytes 4 0x4 ++ leBytes 4 asym ++ leBytes 4 hash ++ List.replicate 16 0
    ++ [2, 0x20] ++ leBytes 2 0x10 ++ [3, 0x20] ++ leBytes 2 0x2 ++ [4, 0x20] ++ leBytes 2 0 ++ [5, 0x20] ++ leBytes 2 0x1

/-- NEGOTIATE_ALGORITHMS (R440): the connection has its algorithms when the requester offers both of the part's. -/
def execNegotiateAlgorithms (m : SpdmMsg) (s : State) : Answer :=
  .next (s.spdmWhen m s.sys.spdm.caps fun s =>
    let asym := offered m 6 3
    let hash := offered m 10 1
    (s.setSpdm { s.sys.spdm with algs := asym != 0 && hash != 0 }).spdmAnswer m 0x63 4 0 (algorithmsBody asym hash))

/-- GET_DIGESTS (R440): the digest of the certificate chain of slot 0. -/
def execGetDigests (m : SpdmMsg) (s : State) : Answer :=
  .next (s.spdmWhen m s.sys.spdm.algs fun s => s.spdmAnswer m 0x01 0 1 (Sha.sha384 Config.certChain))

/-- GET_CERTIFICATE (R440): the part of the chain that the request names by offset and length. -/
def execGetCertificate (m : SpdmMsg) (s : State) : Answer :=
  .next (s.spdmWhen m s.sys.spdm.algs fun s =>
    let portion := (Config.certChain.drop (fieldAt m.body 2 2)).take (fieldAt m.body 4 2)
    let left := Config.certChain.length - (fieldAt m.body 2 2 + portion.length)
    s.spdmAnswer m 0x02 0 0 (leBytes 2 portion.length ++ leBytes 2 left ++ portion))

/-- CHALLENGE (R440): signed in both forms. -/
def execChallenge (m : SpdmMsg) (s : State) : Answer :=
  .next (s.spdmWhen m s.sys.spdm.algs fun s => s.spdmSigned m 0x03 0 1 (Sha.sha384 Config.certChain ++ s.spdmRest m 0x03))

/-! ## Measurements (R440, R448) -/

/-- The bytes of the partition table. -/
def State.tableBytes (s : State) : List Byte :=
  s.sys.parts.flatMap fun p => leBytes 1 p.num ++ leBytes 4 p.quads.toNat ++ leBytes 1 p.pairs.length ++ p.pairs.flatMap (leBytes 1)
    ++ leBytes 1 p.namespaces.length ++ p.namespaces.flatMap (leBytes 4)

/-- The value of a measurement block. -/
def State.measurement (s : State) (ix : Nat) : Option (List Byte) :=
  let image := match s.sys.firmware with
    | some f => f.image
    | none => Config.firmware
  if ix = 1 then some (if s.sys.recovery then List.replicate 48 0xFF else Sha.sha384 image)
  else if ix = 2 then some s.tableBytes
  else if ix = 0xFD then some s.sys.spdm.lastSig
  else match s.part (ix - 15) with
    | some p => if ix < 16 then none else
        some (Sha.sha384 ((s.sys.measurements.lookup p.num).getD [] ++ leBytes 8 (s.partReg p.num).toNat
          ++ (s.quadsOf p.num).flatMap (fun q => leBytes 1 (if (s.csr (csrKey 0x28 q)).getLsbD 0 then 1 else 0))
          ++ leBytes 1 (if s.sys.quiet then 1 else 0)))
    | none => none

/-- The indices of the measurement blocks, ascending. -/
def State.measured (s : State) : List Nat := (List.range 256).filter fun k => (s.measurement k).isSome

/-- A measurement block of a response. -/
def State.block16 (s : State) (ix : Nat) : List Byte :=
  match s.measurement ix with
  | some v => leBytes 1 ix ++ leBytes 2 v.length ++ v
  | none => []

/-- GET_MEASUREMENTS (R440, R448): Param2 0 asks for the number of blocks, 0xFF for all, and an index for one; bit 0 of Param1
asks for a signature. The first two bytes of the body are the parameters. -/
def execGetMeasurements (m : SpdmMsg) (s : State) : Answer :=
  let op := fieldAt m.body 1 1
  let all := s.measured
  if !s.authentic m.session m.body m.tag then .next (s.spdmError m.session 0x06)
  else if !s.sys.recovery && !s.sys.spdm.algs then .next ((s.taken m.session).spdmError m.session 0x04)
  else if op ≠ 0 ∧ op ≠ 0xFF ∧ all.contains op = false then .next ((s.taken m.session).spdmError m.session 0x01)
  else
    let s := s.taken m.session
    let rest := if op = 0 then [] else if op = 0xFF then all.flatMap s.block16 else s.block16 op
    let n := if op = 0 then all.length else 0
    .next (if fieldAt m.body 0 1 % 2 = 1 then s.spdmSigned m 0x60 n 0 rest else s.spdmAnswer m 0x60 n 0 rest)

/-! ## Sessions (R440) -/

/-- KEY_EXCHANGE (R440): opens a session, signed in both forms. -/
def execKeyExchange (m : SpdmMsg) (s : State) : Answer :=
  .next (s.spdmWhen m s.sys.spdm.algs fun s =>
    let id := s.sys.spdm.nextSession + 1
    let x : Session := ⟨id, false, 0, Sha.sha384 (s.sys.spdm.transcript ++ m.body), 0, 0⟩
    (s.setSpdm { s.sys.spdm with sessions := s.sys.spdm.sessions ++ [x], nextSession := id }).spdmSigned m 0x64 0 0
      (leBytes 2 id ++ s.spdmRest m 0x64))

/-- FINISH (R440): the session is established, and its keys follow from the whole handshake. -/
def execFinish (m : SpdmMsg) (s : State) : Answer :=
  .next (s.spdmWhen m (s.sessionIs m.session false) fun s =>
    let s1 := s.spdmAnswer m 0x65 0 0 (s.spdmRest m 0x65)
    s1.modSession m.session fun x => { x with established := true, hash := Sha.sha384 s1.sys.spdm.transcript, got := 0, sent := 0 })

/-- HEARTBEAT (R440). -/
def execHeartbeat (m : SpdmMsg) (s : State) : Answer :=
  .next (s.spdmWhen m (s.sessionIs m.session true) fun s => s.spdmAnswer m 0x68 0 0 [])

/-- KEY_UPDATE (R440): the session's keys move on by one generation. -/
def execKeyUpdate (m : SpdmMsg) (s : State) : Answer :=
  .next (s.spdmWhen m (s.sessionIs m.session true) fun s =>
    (s.modSession m.session fun x => { x with generation := x.generation + 1, got := 0, sent := 0 }).spdmAnswer m 0x69 (fieldAt m.body 0 1) (fieldAt m.body 1 1) [])

/-- END_SESSION (R440). -/
def execEndSession (m : SpdmMsg) (s : State) : Answer :=
  .next (s.spdmWhen m (s.sessionIs m.session true) fun s =>
    let s1 := s.spdmAnswer m 0x6C 0 0 []
    s1.setSpdm { s1.sys.spdm with sessions := s1.sys.spdm.sessions.filter fun x => !(x.id == m.session) })

/-! ## Vendor-defined requests (R436, R438, R446) -/

/-- The session of a vendor-defined request, and its bytes (DESIGN CHOICE, log entry 87). -/
def vendorSession : VendorReq → Nat
  | .deliverKey n _ _ _ _ => n
  | .ideKeyProg n _ _ _ _ => n
  | .ideSetGo n _ _ _ => n
  | .ideSetStop n _ _ _ => n
  | .setConfig _ _ _ _ => 0
  | .setFirmware _ _ _ _ => 0
def vendorBytes : VendorReq → List Byte
  | .deliverKey _ vf ticket model key => 0 :: leBytes 1 vf ++ leBytes 4 ticket.toNat ++ leBytes 4 model.toNat ++ leBytes 32 key.toNat
  | .ideKeyProg _ fn set part key => 1 :: leBytes 1 fn ++ leBytes 1 set ++ leBytes 1 part ++ leBytes 32 key.toNat
  | .ideSetGo _ fn set part => 2 :: leBytes 1 fn ++ leBytes 1 set ++ leBytes 1 part
  | .ideSetStop _ fn set part => 3 :: leBytes 1 fn ++ leBytes 1 set ++ leBytes 1 part
  | .setConfig off data rsa slh => 4 :: leBytes 4 off ++ data ++ rsa ++ slh
  | .setFirmware slotB image rsa slh => 5 :: leBytes 1 (if slotB then 1 else 0) ++ image ++ rsa ++ slh

/-- The positive answer to a vendor-defined request. -/
def State.vendorOk (s : State) (session : Nat) : State := s.say session (spdmBytes 0x7E 0 0 [])

/-- Both signatures of a text verify (R440). -/
def bothVerify (text rsaSig slhSig : List Byte) : Bool := Config.rsaOk text rsaSig && Config.slhOk text slhSig

def State.setStore (s : State) (x : Store) : State := { s with sys := { s.sys with store := x } }

/-- Bytes written over sparse bytes. -/
def overBytes (old : List (Nat × Byte)) (at_ : Nat) (bs : List Byte) : List (Nat × Byte) :=
  ((List.range bs.length).zip bs).foldl (fun m x => Map.set 0 m (at_ + x.1) x.2) old

/-- Delivers a weight key in an established session (R438): a full buffer of the partition refuses it, and KEY is posted. -/
def State.deliver (s : State) (session vf : Nat) (ticket model : Word) (key : BitVec 256) : State :=
  let held := s.sys.delivery.countP fun d => d.part == vf
  if !s.sessionIs session true || (s.part vf).isNone || decide (64 ≤ held) then s.spdmError session 0x05
  else
    ((({ s with sys := { s.sys with delivery := s.sys.delivery ++ [⟨vf, ticket, model, key⟩] } } : State).postEvent vf 1)).vendorOk session

/-! IDE_KM, over an established session (R436; PRESUMED, log entry 88): a key is programmed for one part of a key set of a function's
stream, taken into use in place of the other set's, and taken out. -/

/-- Whether an IDE_KM request names a part of a stream of a function. -/
def State.ideNames (s : State) (fn set part : Nat) : Bool := (fn == 0 || (s.part fn).isSome) && decide (set < 2) && decide (part < 6)
def IdeKey.is (x : IdeKey) (fn set part : Nat) : Bool := x.fn == fn && x.set == set && x.part == part
/-- The answer to an IDE_KM request. -/
def State.ideWhen (s : State) (session fn set part : Nat) (f : List IdeKey → List IdeKey) : State :=
  if s.sessionIs session true && s.ideNames fn set part then (s.setIde (f s.sys.ideKeys)).vendorOk session else s.spdmError session 0x01

/-- Programs, takes into use or takes out a key of a stream. -/
def ideProg (fn set part : Nat) (key : BitVec 256) (l : List IdeKey) : List IdeKey := l.filter (fun x => !x.is fn set part) ++ [⟨fn, set, part, key, false⟩]
def ideGo (fn set part : Nat) (l : List IdeKey) : List IdeKey :=
  if l.any fun x => x.is fn set part then l.map fun x =>
    if x.is fn set part then { x with go := true } else if x.fn = fn ∧ x.part = part then { x with go := false } else x
  else l
def ideStop (fn set part : Nat) (l : List IdeKey) : List IdeKey := l.filter fun x => !x.is fn set part

/-- VENDOR_DEFINED_REQUEST (R436, R438, R446): a change of configuration or firmware carries both signatures and takes effect at the
next package reset. -/
def execVendorDefinedRequest (m : VendorMsg) (s0 : State) : Answer :=
  let r := m.req
  if s0.sys.recovery then .next s0
  else if !s0.authentic (vendorSession r) (vendorBytes r) m.tag then .next (s0.spdmError (vendorSession r) 0x06)
  else
    let s := s0.taken (vendorSession r)
    match r with
    | .deliverKey session vf ticket model key => .next (s.deliver session vf ticket model key)
    | .ideKeyProg session fn set part key => .next (s.ideWhen session fn set part (ideProg fn set part key))
    | .ideSetGo session fn set part => .next (s.ideWhen session fn set part (ideGo fn set part))
    | .ideSetStop session fn set part => .next (s.ideWhen session fn set part (ideStop fn set part))
    | .setConfig off data rsaSig slhSig =>
      if bothVerify data rsaSig slhSig && decide (off + data.length ≤ 61440) then
        .next ((s.setStore { s.sys.store with config := some (overBytes (s.sys.store.config.getD []) off data) }).vendorOk 0)
      else .next (s.spdmError 0 0x01)
    | .setFirmware slotB image rsaSig slhSig =>
      if bothVerify image rsaSig slhSig && decide (image.length + rsaSig.length + slhSig.length ≤ 2 ^ 24) then
        let f : Firmware := ⟨image, rsaSig, slhSig⟩
        .next ((s.setStore (if slotB then { s.sys.store with fwB := some f } else { s.sys.store with fwA := some f })).vendorOk 0)
      else .next (s.spdmError 0 0x01)

end Sys2Proof.Machine
end

