-- ==== Sys2Proof/Machine/BankStep.lean ====
section
/-! DEFINITION. Granule steps of bank vector commands (R263, R266): a home memory-side engine runs them, and the last one of a command
completes its tag. -/
namespace Sys2Proof.Machine

/-! ## Granule steps (R263) -/

/-- A read at home (R263): a parked line by hardware locate, else the cellar or DRAM; none on an uncorrectable error. -/
def State.homeRead (s : State) (line off n : Nat) : State × Option (BitVec 1024) :=
  let s := (s.landBack line).landMove line
  match s.parkOf line with
  | some r => (s.count cntHwLocate, some (if r.site = .home then lineAt s.mem line else r.data))
  | none =>
    if s.ms.bad.contains line then (s.logError line 2, none)
    else (s.observe (128 * line + off) n none, some (lineAt s.mem line))

/-- One element's result (R261, R263). -/
def BankCmd.elem (c : BankCmd) (a b : DWord) : DWord :=
  let m : Alu.Mode := ⟨c.ty, c.rm, c.sat⟩
  match c.op with
  | 0 => Alu.add m a b
  | 1 => Alu.sub m a b
  | 2 => Alu.mul m a b
  | 3 => Alu.min m a b
  | 4 => Alu.max m a b
  | 5 => a &&& b
  | 6 => a ||| b
  | 7 => a ^^^ b
  | 8 => a
  | _ => c.scalar

/-- A destination line's new bytes, from the bytes of its sources. -/
def BankCmd.lineBytes (c : BankCmd) (n : Nat) (a b : List Byte) : List Byte :=
  let w := c.ty.width / 8
  (List.range (n / w)).flatMap fun k =>
    leBytes w (c.elem (BitVec.ofNat 64 (fieldAt a (w * k) w)) (BitVec.ofNat 64 (fieldAt b (w * k) w))).toNat

/-- Writes bytes of a destination line at home (R263): a recall, the live cells, the write. -/
def State.bankWrite (s : State) (kind : PageKind) (pa : Nat) (bs : List Byte) : State :=
  let line := lineOf pa
  let sb := homeBytes pa bs
  let s1 := ((s.wholeLine line).recall line).commitCells fun c => lineOf c.addr == line
  match kind with
  | .ms => (s1.setMem (setLineAt s1.mem line (putBytes (lineAt s1.mem line) sb))).evalMonitors line
  | .shared | .local _ => s1.writeHome line sb

/-- The lines of a step: for each, its offset in the step and its bytes. -/
def BankStep.lines (st : BankStep) : List (Nat × Nat) :=
  (List.range ((st.dst + st.len - 1) / 128 - st.dst / 128 + 1)).map fun k =>
    let from_ := Nat.max st.dst (128 * (st.dst / 128 + k))
    let to_ := Nat.min (st.dst + st.len) (128 * (st.dst / 128 + k + 1))
    (from_ - st.dst, to_ - from_)

/-- Reads a source of a line: none in use reads as no bytes. -/
def State.bankRead (s : State) (used : Bool) (pa n : Nat) : State × Option (List Byte) :=
  if !used then (s, some [])
  else
    match s.homeRead (lineOf pa) (pa % 128) n with
    | (s1, some d) => (s1, some (bytesOf d (pa % 128) n))
    | (s1, none) => (s1, none)

/-- Reads the source lines of a step: for each destination line its new bytes, none where a source cannot be read. -/
def State.stepReads (s : State) (c : BankCmd) (st : BankStep) : State × List (Nat × Option (List Byte)) :=
  st.lines.foldl (fun r x =>
    let p := r.1.bankRead (decide (c.op ≤ 8)) (st.a + x.1) x.2
    let q := p.1.bankRead (decide (c.op ≤ 7)) (st.b + x.1) x.2
    (q.1, r.2 ++ [(x.1, match p.2, q.2 with
      | some a, some b => some (c.lineBytes x.2 a b)
      | _, _ => none)])) (s, [])

/-- Writes the destination lines of a step whose sources could all be read. No source line of a command is another line's destination
(R262). -/
def State.stepWrites (s : State) (st : BankStep) (l : List (Nat × Option (List Byte))) : State :=
  l.foldl (fun s x => s.bankWrite st.kind (st.dst + x.1) (x.2.getD [])) s

/-- Records a tag's state in its group, resident or saved, and then in the save area too (R266). -/
def State.setTag (s : State) (gid tag v : Nat) : State :=
  if s.hasGroup gid then s.modGroup gid fun g => g.setTag tag v
  else
    let l := s.sched.saved.map fun (x : Saved) =>
      { x with groups := x.groups.map fun (y : Nat × Group) => if y.1 == gid then (y.1, y.2.setTag tag v) else y }
    let s1 : State := { s with sched := { s.sched with saved := l } }
    match s.sched.saved.findSome? fun x => (x.groups.findIdx? fun y => y.1 == gid).map fun k => (x, k) with
    | some (x, k) => s1.areaPoke x (s1.tagAt x k tag) [BitVec.ofNat 8 v]
    | none => s1

/-- Whether a FENCE `.ms` that its group issued before holds a command (R222, R267). -/
def State.fenceHolds (s : State) (c : BankCmd) : Bool :=
  s.ms.jobs.any fun j => j.iss.gid == c.gid && decide (j.iss.id < c.id) && (match j.instr with
    | .fence f => f.disp.getLsbD 0
    | _ => false)

/-- GRANULE_STEP (R263): a unit runs its steps in ascending address order. The last step completes the command. -/
def execGranuleStep (cmd step : Nat) (s : State) : Answer :=
  match s.ms.bank.find? fun c => c.id == cmd with
  | none => .next s
  | some c => match c.steps.find? fun x => x.num == step with
    | none => .next s
    | some st =>
      if s.fenceHolds c || c.steps.any fun x => decide (x.num < step) && s.channel x.dst == s.channel st.dst then .next (s.send (.granuleStep cmd step))
      else
        let r := s.stepReads c st
        let ok := r.2.all fun x => x.2.isSome
        let s1 := if ok then r.1.stepWrites st r.2 else r.1
        let c1 : BankCmd := { c with steps := c.steps.filter fun x => !(x.num == step), dataerr := c.dataerr || !ok }
        if c1.steps = [] then
          let s2 : State := { s1 with ms := { s1.ms with bank := s1.ms.bank.filter fun x => !(x.id == cmd) } }
          .next (((s2.setTag c.gid c.tag (if c1.dataerr then 5 else 1)).mvWake c.gid).settle c.gid)
        else
          let l := s1.ms.bank.map fun (x : BankCmd) => if x.id == cmd then c1 else x
          .next { s1 with ms := { s1.ms with bank := l } }

end Sys2Proof.Machine
end

