-- ==== Sys2Proof/Machine/Health.lean ====
section
/-! DEFINITION. Resets, sparing, errors, the health store, snapshots, power and heat (R252, R268, R438, R443 to R449). -/
namespace Sys2Proof.Machine

/-! ## Losing what is in flight -/

/-- Whether something in flight concerns a lost group. -/
def concerns (lost : Nat → Bool) : Instr → Bool
  | .resultReturn r => lost r.gid
  | .lateCause l => lost l.gid
  | .heldArrival a => lost a.gid
  | .taskPop g => lost g
  | .taskComplete g => lost g
  | _ => false

/-- The line that something in flight will write. -/
def writesLine : Instr → Option Nat
  | .homeWriteAccept w => some w.line
  | .parkNotice n => some n.line
  | .flushedReductionApply r => some r.line
  | .parkWriteBackLand b => some b.line
  | _ => none

/-- A packet forgets the result it owes a lost group. -/
def forget (lost : Nat → Bool) (i : Instr) : Instr :=
  let keep (o : Option Ret) : Option Ret := match o with
    | some r => if lost r.gid then none else some r
    | none => none
  match i with
  | .homeWriteAccept w => .homeWriteAccept { w with ret := keep w.ret }
  | .parkNotice n => .parkNotice { n with ret := keep n.ret }
  | .flushedReductionApply r => .flushedReductionApply { r with ret := keep r.ret }
  | i => i

/-- Drops what is in flight for lost groups, with what their results would complete and the accesses that cores hold for them, and
the writes to lost lines. -/
def State.dropDue (s : State) (lost : Nat → Bool) (line : Nat → Bool) : State :=
  let ids := (s.due.filterMap retAny).filterMap fun r => if lost r.gid then some r.id else none
  let due := (s.due.filter fun i => !concerns lost i && (match writesLine i with
    | some l => !line l
    | none => true)).map (forget lost)
  { s with due := due, after := s.after.filter (fun x => !ids.contains x.id),
           ms := { s.ms with jobs := s.ms.jobs.filter fun j => !lost j.iss.gid } }

/-! ## Geometry (R251 to R253, R438) -/

/-- A channel's capacity in granules: those still backed by rows. -/
def State.capacity (s : State) (slice : Nat) : Nat :=
  524288 - ((s.sys.rowsOut.lookup slice).getD 0 * Config.rowBytes + 4095) / 4096

/-- Recomputes CEL_GEOM of a partition (R253); a channel without granules is mapped out with its slice, whose replace request is raised
(R444). -/
def State.regeometry (s : State) (p : Nat) : State :=
  let all := (s.quadsOf p).flatMap fun q => (List.range 16).map fun c => 16 * q + c
  let live := all.filter fun x => decide (0 < s.capacity x)
  let caps := live.map s.capacity
  let cmin := caps.foldl Nat.min 524288
  let lost := (caps.map fun c => c - cmin).sum
  let s1 : State := { s with sys := { s.sys with slicesOut := s.sys.slicesOut.filter (fun x => !all.contains x) ++ all.filter fun x => !live.contains x } }
  let s2 := (all.filter fun x => !live.contains x && !s.sys.slicesOut.contains x).foldl (fun s x => s.replaceUnit [p] 4 x) s1
  s2.setCsr (csrPart p 0x18) (BitVec.ofNat 64 (lost * 2 ^ 36 + cmin * 2 ^ 16 + live.length))

/-! ## Partition reset (R436, R438, R439, R448) -/

/-- The keys of the registers that a partition reset clears: SYS_ registers, LND_GATE, and OPT_GEN of its domains (R409). -/
def State.resetKeys (s : State) (p : Nat) : List Nat :=
  let pairs := match s.part p with
    | some x => x.pairs
    | none => []
  [0x05, 0x06, 0x07, 0x08, 0x0C].map (csrPart p)
    ++ (s.quadsOf p).flatMap (fun q => [0x01, 0x02, 0x03, 0x09, 0x0A, 0x0B, 0x28].map fun n => csrKey n q)
    ++ pairs.flatMap (fun k => [csrKey 0x10 k, csrKey 0x11 k])
    ++ ((List.range 32).filter fun d => s.domOwner d == some p).map genKey

/-- A launch ends at once with its blocks (R448). -/
def State.abortLaunch (s : State) (lid : Nat) : State :=
  let s1 := s.discard lid
  let sched : Sched := { s1.sched with ended := (lid, 3) :: s1.sched.ended, waiting := s1.sched.waiting.filter (fun w => !(w.lid == lid)),
                                       loops := s1.sched.loops.filter (fun l => !(l.lid == lid)),
                                       hosts := s1.sched.hosts.filter fun h => !(h.lid == lid) }
  { s1 with launches := s1.launches.filter (fun x => !(x.lid == lid)), sched := sched }

/-- The cores, slices and lines of a partition's memory system come back empty, its memory zero (R438). -/
def State.clearMemory (s : State) (p : Nat) : State :=
  let mineCore (k : Nat) : Bool := if k < 384 then s.holds p (quadOf k) else s.holds p (k - 384)
  let mineLine (l : Nat) : Bool := partOfAddr (128 * l) == p
  let ms : MemSys := { s.ms with
    tags := s.ms.tags.filter fun x => !mineLine x.1
    copies := s.ms.copies.filter fun c => !mineLine c.line
    parks := s.ms.parks.filter fun r => !mineLine r.line
    curd := s.ms.curd.filter fun w => !mineCore w.core
    cells := s.ms.cells.filter fun c => !(partOfAddr c.addr == p)
    tlb := s.ms.tlb.filter fun e => !(e.part == p)
    dropped := s.ms.dropped.filter fun x => !(x.2.part == p)
    bank := s.ms.bank.filter fun c => (s.launch c.lid).isSome || (isSysGid c.gid && s.hasGroup c.gid)
    parked := s.ms.parked.filter fun x => !(x.part == p)
    bad := s.ms.bad.filter fun l => !mineLine l }
  { s with mem := s.mem.filter (fun c => !(partOfAddr c.1 == p)), ms := ms }

/-- The engines of a partition's cores, dies, ports and distributors come back idle: launch sequences start at 1 again (R324), and
push counts at 0 (R303). -/
def State.clearEngines (s : State) (p : Nat) : State :=
  let mineCore (c : Nat) : Bool := s.holds p (quadOf c)
  let minePort (k : Nat) : Bool := s.holdsDie p (k / 4)
  let mineDom (d : Nat) : Bool := s.domOwner d == some p
  let eng : Engines := { s.eng with
    mat := s.eng.mat.filter fun o => !mineCore (o.sub / 12)
    accs := s.eng.accs.filter fun a => !mineCore (a.sub / 12)
    tiles := s.eng.tiles.filter fun t => !mineCore t.core
    tileSeq := s.eng.tileSeq.filter fun x => !mineCore x.1
    copies := s.eng.copies.filter fun c => !mineCore c.core }
  let fab : Fabric := { s.fab with
    graphs := s.fab.graphs.filter fun g => !s.holdsDie p g.die
    staging := s.fab.staging.filter fun a => !minePort a.port
    inbox := s.fab.inbox.filter fun x => !minePort x.req.port
    waiting := s.fab.waiting.filter fun x => !minePort x.1
    unacked := s.fab.unacked.filter fun u => !minePort u.port
    transfers := s.fab.transfers.filter fun t => !(t.part == p)
    windows := s.fab.windows.filter fun w => !mineDom w.dom
    genQueries := s.fab.genQueries.filter fun q => !mineDom q.1 }
  let sched : Sched := { s.sched with queues := s.sched.queues.filter (fun x => !s.holds p x.quad),
                                      seqs := s.sched.seqs.filter (fun x => !s.holds p x.1),
                                      refill := s.sched.refill.filter fun q => !s.holds p q }
  { s with eng := eng, fab := fab, sched := sched }

/-- What a partition holds beside its memory and engines comes back empty: keys, deliveries, records that wait, storage
commands, stopped system cores; its TDI is in ERROR, and a fresh XTS key is drawn and in place (R438). -/
def State.clearSys (s : State) (p : Nat) : State :=
  let mine (k : Nat) : Bool := s.pairOwner k == p
  let sys : SysState := { s.sys with
    parts := s.sys.parts.map fun x => if x.num = p then { x with keyset := true, xtsKey := Config.randomKey (64 * s.free + p) } else x
    keys := s.sys.keys.filter fun k => !(k.part == p)
    delivery := s.sys.delivery.filter fun d => !(d.part == p)
    pendingFq := s.sys.pendingFq.filter fun x => !(x.part == p)
    joins := s.sys.joins.filter fun x => !s.holds p (x.1 / 16)
    nvme := s.sys.nvme.filter fun k => !mine k.pair
    nvPos := s.sys.nvPos.filter fun k => !mine k.pair
    stopped := s.sys.stopped.filter fun q => !s.holds p q }
  (({ s with sys := sys } : State).setTdi p .error)

/-- A partition reset (R448). -/
def State.resetPart (s : State) (p : Nat) : State :=
  let gone := (s.groups.filter fun x => x.2.part == p).map fun x => x.1
  let s1 := (s.launches.filter fun x => x.part == p).foldl (fun s x => s.abortLaunch x.lid) s
  let s2 := s1.dropDue (fun g => gone.contains g) fun l => partOfAddr (128 * l) == p
  let out := (s2.waits.filter fun w => gone.contains w.gid).map fun w => w.id
  let s3 : State := { s2 with groups := s2.groups.filter (fun x => !gone.contains x.1), waits := s2.waits.filter (fun w => !gone.contains w.gid),
                              ms := { s2.ms with monitors := s2.ms.monitors.filter fun m => !out.contains m.2 } }
  let s4 := ((s3.clearMemory p).clearEngines p).clearSys p
  ((s3.resetKeys p).foldl (fun s k => s.setCsr k 0) s4).regeometry p

/-- PARTITION_RESET (R438, R448), requested over SPDM: in recovery SPDM does not answer it. -/
def execPartitionReset (part : Nat) (s : State) : Answer :=
  .next (if (s.part part).isSome && !s.sys.recovery then s.resetPart part else s)

/-! ## Sparing (R187, R252, R443, R444) -/

/-- Reference ticks of an hour (R444): 100 MHz. -/
def hourTicks : Nat := 360000000000
/-- Notes an error of a unit; those of more than an hour ago are forgotten (R444). -/
def State.noteError (s : State) (unit : Nat) : State :=
  { s with sys := { s.sys with recent := s.sys.recent.filter (fun x => decide (s.tick < x.2 + hourTicks)) ++ [(unit, s.tick)] } }
/-- The errors of a unit within the last hour. -/
def State.errorsOf (s : State) (unit : Nat) : Nat := s.sys.recent.countP fun x => x.1 == unit && decide (s.tick < x.2 + hourTicks)
/-- A unit that a spare has replaced starts anew. -/
def State.calm (s : State) (unit : Nat) : State := { s with sys := { s.sys with recent := s.sys.recent.filter fun x => !(x.1 == unit) } }

/-- What a failed core held is lost: its groups, copies, resting words, translations, engine work and the lines parked in its
L1, whose data reads as an uncorrectable error from then on (R268; log entry 55). -/
def State.loseCore (s : State) (core : Nat) : State :=
  let gone := (s.groups.filter fun x => coreOf x.1 == core && !isSysGid x.1).map fun x => x.1
  let lines := (s.ms.parks.filter fun r => r.site == .l1 core).map fun r => r.line
  let s1 := s.dropDue (fun g => gone.contains g) fun _ => false
  let ms : MemSys := { s1.ms with
    copies := s1.ms.copies.filter fun c => !(c.site == .l1 core)
    curd := s1.ms.curd.filter fun w => !(w.core == core)
    tlb := s1.ms.tlb.filter fun e => !(e.agent == core)
    parks := s1.ms.parks.filter fun r => !(r.site == .l1 core)
    bad := s1.ms.bad ++ lines
    parked := s1.ms.parked.filter fun p => !(p.agent == 0 && gone.contains p.gid) }
  let eng : Engines := { s1.eng with
    mat := s1.eng.mat.filter fun o => !(o.sub / 12 == core)
    accs := s1.eng.accs.filter fun a => !(a.sub / 12 == core)
    tiles := s1.eng.tiles.filter fun t => !(t.core == core)
    copies := s1.eng.copies.filter fun c => !(c.core == core) }
  { s1 with
    groups := s1.groups.filter fun x => !gone.contains x.1
    waits := s1.waits.filter fun w => !gone.contains w.gid
    blocks := s1.blocks.map fun b => { b with gids := b.gids.filter fun g => !gone.contains g }
    ms := ms
    eng := eng }

/-- Clears a core's bit in every mask (R187); a line whose last bit goes has its pin lifted. -/
def State.clearReader (s : State) (core : Nat) : State :=
  s.ms.parks.foldl (fun s r =>
    if r.mask.getLsbD core then
      let r1 := { r with mask := r.mask &&& ~~~((1 : BitVec 384) <<< core) }
      let s1 := s.setParks (s.ms.parks.map fun x => if x.line == r.line then r1 else x)
      if r1.mask = 0 then s1.liftPin r1 else s1
    else s) s

/-- The spare takes the core's number, or the core is mapped out (R11, R444). The launches of its blocks end, each with one record that
names the first of its blocks there; the cause in it is a free value (log entry 55). -/
def State.spareCore (s : State) (core : Nat) : State :=
  let q := quadOf core
  let blocks := s.blocks.filter fun b => b.cores.contains core
  let lids := (blocks.map fun b => b.lid).eraseDups
  let s1 := (lids.filter fun lid => !s.isEnding lid).foldl (fun s lid =>
    let num := ((blocks.find? fun b => b.lid == lid).map fun b => b.num).getD 0
    let head : RecHead := { plainHead 2 (Config.freeValue s.free (2048 + num)) with lid := lid, block := num, core := core }
    s.post (s.ownerOf q) head [] (.distributor q)) s
  let s2 := lids.foldl State.endLaunch s1
  let s3 := (s2.loseCore core).calm core
  if s3.sys.sparesUsed.any fun c => quadOf c == q then
    ((({ s3 with sys := { s3.sys with mappedOut := (s3.sys.mappedOut ++ [core]).eraseDups } } : State)).clearReader core).replaceUnit [s3.ownerOf q] 1 core
  else { s3 with sys := { s3.sys with sparesUsed := s3.sys.sparesUsed ++ [core] } }

/-- What an error of a core's SRAM does to the one that reads the array (R443). A lane that is parked or gone reads nothing; the
information word of a register's error is a free value (log entry 78). -/
def State.sramEffect (s : State) (core : Nat) (e : SramError) : State :=
  match e with
  | .corrected => s
  | .register gid l =>
    let x := s.lane gid l
    if s.hasGroup gid && x.live && x.park.isNone then
      s.trap gid [l] ⟨0x19, BitVec.ofNat 64 (Config.freeValue s.free 4096), x.pc, x.pos, x.left, x.cls, false⟩
    else s
  | .access gid l id ea => if (s.lane gid l).opens.any fun o => o.id == id then s.send (.lateCause ⟨gid, l, id, 0x19, ea⟩) else s
  | .operation id =>
    let s1 := s.modCopy id fun c => { c with dataerr := true }
    let s2 : State := { s1 with ms := { s1.ms with bank := s1.ms.bank.map fun c => if c.id = id then { c with dataerr := true } else c } }
    match s2.matOp id with
    | none => s2
    | some o =>
      let s3 : State := { s2 with eng := { s2.eng with mat := s2.eng.mat.filter fun x => !(x.id == id) } }
      let s4 := (if o.mc then s3.fallCtr o.gid .mc else s3).mwaitWake
      let hit := (lanesOf o.signers).filter fun l => (s4.lane o.gid l).live && (s4.lane o.gid l).park.isNone
      ((hit.foldl (fun s l =>
        let x := s.lane o.gid l
        s.trap o.gid [l] ⟨0x19, BitVec.ofNat 64 (Config.freeValue s.free (4096 + l)), x.pc, x.pos, x.left, x.cls, false⟩) s4).freeSlots o.gid).settle o.gid
  | .l1Line line =>
    if s.ms.parks.any fun r => r.line == line && r.site == .l1 core then { s with ms := { s.ms with bad := s.ms.bad ++ [line] } }
    else s.dropCopies line fun c => c.site == .l1 core
  | .flushed line => s.send (.writeBackError ⟨line, false⟩)
  | .tlb va => { s with ms := { s.ms with tlb := s.ms.tlb.filter fun t => !(t.agent == core && decide (t.va ≤ va) && decide (va < t.va + t.size)) } }
  | .table lid =>
    if s.isEnding lid then s
    else (s.post (s.ownerOf (quadOf core)) { plainHead 2 0x19 with lid := lid, core := core } [] (.distributor (quadOf core))).endLaunch lid

/-- CORE_SPARE (R443, R444): an error of a core's SRAM takes its effect and is counted. A core that fails a self-test, or shows its 16th
uncorrectable error within an hour, is spared. -/
def execCoreSpare (e : CoreEvent) (s : State) : Answer :=
  let core := e.core
  match e.fault with
  | .selfTest => .next (s.spareCore core)
  | .sram .corrected => .next (s.count (cntCore true core))
  | .sram x =>
    let s1 := ((s.sramEffect core x).count (cntCore false core)).noteError core
    .next (if 16 ≤ s1.errorsOf core ∧ core < 384 then s1.spareCore core else s1)

/-- The line of a partition that stands at a line of a channel (R250). -/
def State.lineOfChannel (s : State) (slice chan : Nat) : Option Nat :=
  let p := s.ownerOf (slice / 16)
  let l := s.slices p
  let g := chan / 32 * l.length
  if l.contains slice then some (lineOf (paddr p ((g + l.idxOf slice) * 4096)) + chan % 32) else none

/-- The name of an HBM row among the units whose errors are counted. -/
def rowUnit (slice bank row : Nat) : Nat := 2 ^ 40 + (256 * slice + bank) * 2 ^ 32 + row

/-- Lines whose data is lost read as uncorrectable from then on (R252, R268). -/
def State.loseLines (s : State) (ls : List Nat) : State := { s with ms := { s.ms with bad := s.ms.bad ++ ls } }

/-- A spare row of the bank takes over, or the row is mapped out: its lines give uncorrectable errors until the next partition reset
(R252, R444). -/
def State.spareRow (s0 : State) (slice bank row : Nat) : State :=
  let s := s0.calm (rowUnit slice bank row)
  let key := 256 * slice + bank
  let used := (s.sys.rowSpares.lookup key).getD 0
  if used < Config.spareRows slice bank then
    { s with sys := { s.sys with rowSpares := s.sys.rowSpares.filter (fun x => !(x.1 == key)) ++ [(key, used + 1)] } }
  else
    let out := (s.sys.rowsOut.lookup slice).getD 0
    let s1 : State := { s with sys := { s.sys with rowsOut := s.sys.rowsOut.filter (fun x => !(x.1 == slice)) ++ [(slice, out + 1)] } }
    (s1.loseLines ((Config.rowLines slice bank row).filterMap (s.lineOfChannel slice))).replaceUnit [s1.ownerOf (slice / 16)] 2 slice

/-- The counter of a frame's errors, by its site (R443, R447). -/
def State.cntFrame (s : State) (corrected : Bool) (site : Site) (line : Nat) : Nat :=
  match site with
  | .l1 core => cntCore corrected core
  | .l2 q sl => cntL2 corrected q sl
  | .near sl => cntSlice corrected sl
  | .home => cntSlice corrected (s.homeSlice line)

/-- What an error of a frame does (R268, R443): a clean copy is dropped and fetched again; dirty or parked data reads as uncorrectable; a
record or a cell is treated as a failed write-back. -/
def State.frameEffect (s : State) (site : Site) (line : Nat) (f : RamFault) : State :=
  match f with
  | .corrected => s
  | .clean => s.dropCopies line fun c => c.site == site && c.dirty == 0
  | .data => (s.dropCopies line fun c => c.site == site).loseLines [line]
  | .record => s.send (.writeBackError ⟨line, true⟩)

/-- ROW_SPARE (R443, R444): an error of an HBM row is counted by bank, and a line whose data it takes reads as uncorrectable. A spare
takes over at the row's fourth correctable error within an hour, or at an uncorrectable one. -/
def execRowSpare (u : RamUnit) (f : RamFault) (s : State) : Answer :=
  match u with
  | .row slice bank row line =>
    if f = .corrected then
      let s1 := (s.count (cntBank true slice bank)).noteError (rowUnit slice bank row)
      .next (if 4 ≤ s1.errorsOf (rowUnit slice bank row) then s1.spareRow slice bank row else s1)
    else .next (((s.count (cntBank false slice bank)).loseLines (s.lineOfChannel slice line).toList).spareRow slice bank row)
  | .frame site line => .next ((s.count (s.cntFrame (f == .corrected) site line)).frameEffect site line f)

/-! ## Package reset (R447, R448) -/

/-- Whether a firmware slot is accepted; what the part was delivered with is (R448; log entry 2). -/
def slotGood (f : Option Firmware) : Bool :=
  match f with
  | some f => bothVerify f.image f.rsaSig f.slhSig
  | none => true

/-- The slot that the boot ROM accepts: the first one, else the other. -/
def Store.boot (x : Store) : Option (Option Firmware) :=
  let a := if x.firstB then x.fwB else x.fwA
  let b := if x.firstB then x.fwA else x.fwB
  if slotGood a then some a else if slotGood b then some b else none

/-- The partitions of a configuration, each quadrant in one partition and each number once (R431). -/
def readParts (c : List (Nat × Byte)) : List Part :=
  (Config.partTable c).foldl (fun l x =>
    let taken := l.foldl (fun m (p : Part) => m ||| p.quads) 0
    if decide (x.1 < 1) || decide (32 < x.1) || (l.any fun p => p.num == x.1) || taken &&& x.2.1 != 0 then l
    else l ++ [⟨x.1, x.2.1, false, x.2.2.1, x.2.2.2, 0⟩]) []

/-- The control port's settings of a configuration (R418). -/
def readPort (c : List (Nat × Byte)) : PortSettings :=
  let (mac, addr, pre, ctl, udp, peer, vlan, fec, id) := Config.portTable c
  ⟨mac, addr, pre, ctl, none, udp, peer, vlan, fec, id⟩

/-- A snapshot's bytes before its CRC: the counters, each with its number, and the sequence number (R447; log entry 86). -/
def snapshotBytes (counts : List (Nat × Nat)) (seq : Nat) : List Byte := (counts.flatMap fun x => leBytes 8 x.1 ++ leBytes 8 x.2) ++ leBytes 8 seq
/-- A whole snapshot. -/
def makeSnapshot (counts : List (Nat × Nat)) (seq : Nat) : Snapshot := ⟨counts, seq, crc32 (snapshotBytes counts seq)⟩
/-- Whether a snapshot's CRC holds. -/
def Snapshot.good (x : Snapshot) : Bool := x.crc == crc32 (snapshotBytes x.counts x.seq)
/-- A snapshot's place in time: 0 where there is none whose CRC holds. -/
def snapRank (o : Option Snapshot) : Nat :=
  match o with
  | some x => if x.good then x.seq + 1 else 0
  | none => 0

/-- The counters from which the part goes on (R447): those of the snapshot whose CRC holds and whose sequence number is higher. -/
def State.lastCounts (s : State) : List (Nat × Nat) :=
  let o := if snapRank s.sys.snap0 ≤ snapRank s.sys.snap1 then s.sys.snap1 else s.sys.snap0
  match o with
  | some x => if x.good then x.counts else []
  | none => []

/-- The package as its reset finds it: what lasts is in the health store and in what the part has mapped out. -/
def State.cold (s : State) : State :=
  let r := State.reset
  { r with
    free := s.free
    nextId := s.nextId
    fab := { r.fab with links := (s.fab.links.filter fun l => l.dead).map fun l => { Link.fresh l.port with dead := true } }
    sys := { r.sys with
      parts := s.sys.parts.map (fun p => { p with keyset := false }), csr := (List.range 32).map fun d => (csrKey 0x21 d, domctlReset),
      settings := { s.sys.settings with controllerMac := none }, quiet := s.sys.quiet, store := s.sys.store, firmware := s.sys.firmware,
      measurements := s.sys.measurements, counts := s.lastCounts, events := s.sys.events, logged := s.sys.logged, repl := s.sys.repl,
      snap0 := s.sys.snap0, snap1 := s.sys.snap1, hours := s.sys.hours, mappedOut := s.sys.mappedOut, sparesUsed := s.sys.sparesUsed, rowsOut := s.sys.rowsOut,
      rowSpares := s.sys.rowSpares, slicesOut := s.sys.slicesOut, outbox := s.sys.outbox, tdi := [] } }

/-- Reads the configuration that requests have written (R441, R446). -/
def State.configure (s : State) : State :=
  match s.sys.store.config with
  | none => s
  | some c => { s with sys := { s.sys with parts := readParts c, settings := readPort c, quiet := Config.quiet c } }

/-- A package reset (R448). When neither slot is accepted the part stays in recovery. The cores that fail the firmware's test are spared
before the configuration's partitions are reset (log entry 55). -/
def State.packageReset (s : State) (failed : List Nat) : State :=
  match s.sys.store.boot with
  | none => let c := s.cold; { c with sys := { c.sys with recovery := true } }
  | some f =>
    let c := failed.foldl State.spareCore s.cold.configure
    let c1 : State := { c with sys := { c.sys with firmware := f, power := ⟨if c.sys.quiet then 850 else 940, 0, []⟩,
                                                   quietVf := (sortBy (fun (a b : Nat) => decide (a ≤ b)) (c.sys.parts.map fun p => p.num)).headD 0 } }
    let c2 := (c1.sys.parts.map fun p => p.num).foldl State.resetPart c1
    if c2.sys.quiet then c2.send .quietModeSlot else c2

/-- Writes the older of the two snapshots (R446, R447), from what stands there. -/
def State.putSnapshot (s : State) (f : Option Snapshot → Snapshot) : State :=
  if snapRank s.sys.snap0 ≤ snapRank s.sys.snap1 then { s with sys := { s.sys with snap0 := some (f s.sys.snap0) } }
  else { s with sys := { s.sys with snap1 := some (f s.sys.snap1) } }

/-- A snapshot of which `n` counters have been written over an older one (R447). -/
def tornSnapshot (counts : List (Nat × Nat)) (n : Nat) (old : Option Snapshot) : Snapshot :=
  match old with
  | some x => { x with counts := counts.take n ++ x.counts.drop n }
  | none => ⟨counts.take n, 0, 0⟩

/-- Where a reset finds the write of a snapshot, that stays torn (R447): whether it does, and after how many counters, is a free choice. -/
def State.cutSnapshot (s : State) : State :=
  if s.coin (2 ^ 36 + 384) then s.putSnapshot (tornSnapshot s.sys.counts (s.pick (2 ^ 36 + 385) (s.sys.counts.length + 1))) else s

/-- The cores that fail their test at a reset (R448): a free choice. -/
def State.freeFailed (s : State) : List Nat := (List.range 384).filter fun c => s.coin (2 ^ 36 + c)

/-- PACKAGE_RESET (R448). -/
def execPackageReset (s : State) : Answer := .next (s.cutSnapshot.packageReset s.freeFailed)

/-! ## The health store (R446) -/

/-- A byte of the health store, as its layout places it: header, configuration, firmware slots with their signatures, snapshots with
sequence number and CRC, and the ring of 64-byte records. Nothing but the health logic reads it (log entry 86). -/
def State.storeByte (s : State) (off : Nat) : Byte :=
  let x := s.sys.store
  let fw (o : Option Firmware) (k : Nat) : Byte := match o with
    | some f => (f.image ++ f.rsaSig ++ f.slhSig).getD k 0
    | none => Config.storeByte off
  let snap (o : Option Snapshot) (k : Nat) : Byte := match o with
    | some y => (snapshotBytes y.counts y.seq ++ leBytes 4 y.crc.toNat).getD k 0
    | none => Config.storeByte off
  if off < 0x1000 then (leBytes 8 x.magic.toNat ++ leBytes 4 x.version.toNat ++ leBytes 1 (if x.firstB then 1 else 0)).getD off 0
  else if off < 0x10000 then match x.config with
    | some c => Map.get 0 c (off - 0x1000)
    | none => Config.storeByte off
  else if off < 0x1010000 then fw x.fwA (off - 0x10000)
  else if off < 0x2010000 then fw x.fwB (off - 0x1010000)
  else if off < 0x2110000 then snap s.sys.snap0 (off - 0x2010000)
  else if off < 0x2210000 then snap s.sys.snap1 (off - 0x2110000)
  else
    let place := (off - 0x2210000) / 64
    let old := s.sys.logged - s.sys.events.length
    let k := (place + eventRecords - old % eventRecords) % eventRecords
    (s.sys.events.getD k []).getD ((off - 0x2210000) % 64) 0

/-! ## Snapshots, power, heat (R447, R449) -/

/-- SNAPSHOT (R447): an hour has passed; the counters replace the older of the two snapshots. A write that a reset cuts short is
State.cutSnapshot. -/
def execSnapshot (s : State) : Answer :=
  .next (({ s with sys := { s.sys with hours := s.sys.hours + 1 } } : State).putSnapshot fun _ =>
    makeSnapshot s.sys.counts (Nat.max (snapRank s.sys.snap0) (snapRank s.sys.snap1)))

/-- The arithmetic clock's cap in MHz in a thermal state (R12, R449). -/
def clockCap (state : Nat) : Nat := if state = 0 then 940 else if state = 1 then 850 else 470

/-- What a window adds to the lifetime counters (R447): a bin of the histograms of temperature (2 °C each) and droop, and the ring's
retries (log entry 86). -/
def State.sample (s : State) (p : PowerSample) : State :=
  let s1 := (s.count (cntTemp (p.celsius / 2))).count (cntDroop p.droop)
  { s1 with sys := { s1.sys with counts := Map.set 0 s1.sys.counts cntRingRetry (Map.get 0 s1.sys.counts cntRingRetry + p.ringRetries) } }

/-- POWER_WINDOW (R441, R447, R449): the clock steps by 10 MHz, down while the package draws more than 3,300 W. -/
def execPowerWindow (p : PowerSample) (s0 : State) : Answer :=
  let s := s0.sample p
  let x := s.sys.power
  let c := if 3300 < p.watts then x.clock - 10 else Nat.min (x.clock + 10) (clockCap x.state)
  .next (if s.sys.quiet then s else { s with sys := { s.sys with power := { x with clock := c } } })

/-- The entry threshold of a thermal state. -/
def hotFrom (state : Nat) : Nat := 85 + 10 * state
/-- The thermal state at a temperature, from a former one: a state is left 5 °C below its threshold (R449). -/
def nextThermal (old t : Nat) : Nat :=
  ([1, 2, 3, 4].filter fun k => decide (hotFrom k ≤ t) || (decide (k ≤ old) && decide (hotFrom k < t + 5))).foldl Nat.max 0

/-- THERMAL_STATE_CHANGE (R445, R449): the hottest junction of a partition's dies is at a temperature; state 4 resets the
package. -/
def execThermalStateChange (part celsius : Nat) (s : State) : Answer :=
  let x := s.sys.power
  let temp := (x.temp.filter fun y => !(y.1 == part)) ++ [(part, celsius)]
  let st := nextThermal x.state (temp.foldl (fun a y => Nat.max a y.2) 0)
  let clock := if s.sys.quiet then x.clock else Nat.min x.clock (clockCap st)
  if 4 ≤ st then execPackageReset s else .next { s with sys := { s.sys with power := ⟨clock, st, temp⟩ } }

/-- WRITE_BACK_ERROR (R268, R269, R380): the error is logged, a KIND 6 record is written and the partition's launches end. Until the
fault queue has space the slice holds, and its event stays pending (R377). -/
def execWriteBackError (e : BadLine) (s : State) : Answer :=
  let p := partOfAddr (128 * e.line)
  if !s.fqRoom p || s.sys.pendingFq.any fun r => r.part == p then .next (s.send (.writeBackError e)) else
  let sl := s.homeSlice e.line
  let s1 := s.logError e.line (if e.recordOrCell then 4 else 3)
  let s2 := s1.post p (plainHead 6 (if e.recordOrCell then 0x47 else 0x46)) (leBytes 8 (s1.csr (csrKey 0x19 (sl / 16))).toNat ++ leBytes 2 sl) .other
  .next (((s2.launches.filter fun x => x.part == p).map fun x => x.lid).foldl State.endLaunch s2)

end Sys2Proof.Machine
end

