-- ==== Sys2Proof/Machine/Return.lean ====
section
/-! DEFINITION. The return of a result (R100) with what it completes: tensor identifiers (R277), SENT bits (R345), the placement of
an accepted launch (R364), and the TLB maintenance of a system core (R373). -/
namespace Sys2Proof.Machine

/-- What an instruction completes as its counter falls. -/
def State.complete (s : State) (k : AfterKind) : State :=
  match k with
  | .tid lid id e => s.setTensor lid id e
  | .sent gid n => s.markSent gid n
  | .inv key part mode space base len => s.dropTlb key (invDrops part mode space base len)
  | .sync key => { s with ms := { s.ms with dropped := s.ms.dropped.filter fun x => !(x.1 == key) } }
  | .place _ _ => s

/-- The quadrants that make a placement pass once LAUNCH's result is back (R364). -/
def AfterKind.quads : AfterKind → List Nat
  | .place _ l => l
  | .tid _ _ _ | .sent _ _ | .inv _ _ _ _ _ _ | .sync _ => []

/-- Whether a TLBSYNC's result has to wait (R373). -/
def State.holdsBack (s : State) (id : Nat) (k : AfterKind) : Bool :=
  match k with
  | .sync key => s.syncWaits key id
  | .tid _ _ _ | .sent _ _ | .inv _ _ _ _ _ _ | .place _ _ => false

/-- RESULT_RETURN (R100). -/
def execResultReturn (r : Ret) (s : State) : Answer :=
  let mine := (s.after.filter fun a => a.id == r.id).map fun a => a.kind
  if mine.any (s.holdsBack r.id) then .next (s.send (.resultReturn r))
  else
    let s1 : State := { s with after := s.after.filter fun a => !(a.id == r.id) }
    .next ((mine.flatMap AfterKind.quads).foldl State.placePass ((mine.foldl State.complete s1).land r))

end Sys2Proof.Machine
end

