-- ==== Sys2Proof/Machine/Dispatch.lean ====
section
/-! DEFINITION. The meaning of every step, by one direct call each. -/
namespace Sys2Proof.Machine

def exec (i : Instr) (s : State) : Host.Outcome State Fault Refusal :=
  match i with
  | .add f => Sys2Proof.Machine.execAdd f s
  | .addImm f => Sys2Proof.Machine.execAddImm f s
  | .sub f => Sys2Proof.Machine.execSub f s
  | .subImm f => Sys2Proof.Machine.execSubImm f s
  | .mul f => Sys2Proof.Machine.execMul f s
  | .mulImm f => Sys2Proof.Machine.execMulImm f s
  | .mulhi f => Sys2Proof.Machine.execMulhi f s
  | .mad f => Sys2Proof.Machine.execMad f s
  | .fma f => Sys2Proof.Machine.execFma f s
  | .min f => Sys2Proof.Machine.execMin f s
  | .minImm f => Sys2Proof.Machine.execMinImm f s
  | .max f => Sys2Proof.Machine.execMax f s
  | .maxImm f => Sys2Proof.Machine.execMaxImm f s
  | .abs f => Sys2Proof.Machine.execAbs f s
  | .neg f => Sys2Proof.Machine.execNeg f s
  | .and f => Sys2Proof.Machine.execAnd f s
  | .andImm f => Sys2Proof.Machine.execAndImm f s
  | .or f => Sys2Proof.Machine.execOr f s
  | .orImm f => Sys2Proof.Machine.execOrImm f s
  | .xor f => Sys2Proof.Machine.execXor f s
  | .xorImm f => Sys2Proof.Machine.execXorImm f s
  | .not f => Sys2Proof.Machine.execNot f s
  | .ttbl f => Sys2Proof.Machine.execTtbl f s
  | .shl f => Sys2Proof.Machine.execShl f s
  | .shlImm f => Sys2Proof.Machine.execShlImm f s
  | .shr f => Sys2Proof.Machine.execShr f s
  | .shrImm f => Sys2Proof.Machine.execShrImm f s
  | .rot f => Sys2Proof.Machine.execRot f s
  | .rotImm f => Sys2Proof.Machine.execRotImm f s
  | .popc f => Sys2Proof.Machine.execPopc f s
  | .clz f => Sys2Proof.Machine.execClz f s
  | .brev f => Sys2Proof.Machine.execBrev f s
  | .bfe f => Sys2Proof.Machine.execBfe f s
  | .bfeImm f => Sys2Proof.Machine.execBfeImm f s
  | .bfi f => Sys2Proof.Machine.execBfi f s
  | .setp f => Sys2Proof.Machine.execSetp f s
  | .setpImm f => Sys2Proof.Machine.execSetpImm f s
  | .sel f => Sys2Proof.Machine.execSel f s
  | .plop f => Sys2Proof.Machine.execPlop f s
  | .cvt f => Sys2Proof.Machine.execCvt f s
  | .cvtx f => Sys2Proof.Machine.execCvtx f s
  | .pack f => Sys2Proof.Machine.execPack f s
  | .unpack f => Sys2Proof.Machine.execUnpack f s
  | .mov f => Sys2Proof.Machine.execMov f s
  | .movi f => Sys2Proof.Machine.execMovi f s
  | .movs f => Sys2Proof.Machine.execMovs f s
  | .movg f => Sys2Proof.Machine.execMovg f s
  | .lxch f => Sys2Proof.Machine.execLxch f s
  | .pagg f => Sys2Proof.Machine.execPagg f s
  | .pmask f => Sys2Proof.Machine.execPmask f s
  | .xred f => Sys2Proof.Machine.execXred f s
  | .qx f => Sys2Proof.Machine.execQx f s
  | .rcp f => Sys2Proof.Machine.execRcp f s
  | .rsq f => Sys2Proof.Machine.execRsq f s
  | .sqrt f => Sys2Proof.Machine.execSqrt f s
  | .exp2 f => Sys2Proof.Machine.execExp2 f s
  | .log2 f => Sys2Proof.Machine.execLog2 f s
  | .sin f => Sys2Proof.Machine.execSin f s
  | .cos f => Sys2Proof.Machine.execCos f s
  | .tanh f => Sys2Proof.Machine.execTanh f s
  | .div f => Sys2Proof.Machine.execDiv f s
  | .bra f => Sys2Proof.Machine.execBra f s
  | .brx f => Sys2Proof.Machine.execBrx f s
  | .call f => Sys2Proof.Machine.execCall f s
  | .callx f => Sys2Proof.Machine.execCallx f s
  | .ret f => Sys2Proof.Machine.execRet f s
  | .exit f => Sys2Proof.Machine.execExit f s
  | .yield f => Sys2Proof.Machine.execYield f s
  | .trap f => Sys2Proof.Machine.execTrap f s
  | .bkpt f => Sys2Proof.Machine.execBkpt f s
  | .mset f => Sys2Proof.Machine.execMset f s
  | .reconv f => Sys2Proof.Machine.execReconv f s
  | .bar f => Sys2Proof.Machine.execBar f s
  | .arrive f => Sys2Proof.Machine.execArrive f s
  | .jset f => Sys2Proof.Machine.execJset f s
  | .jread f => Sys2Proof.Machine.execJread f s
  | .ld f => Sys2Proof.Machine.execLd f s
  | .st f => Sys2Proof.Machine.execSt f s
  | .lds f => Sys2Proof.Machine.execLds f s
  | .sts f => Sys2Proof.Machine.execSts f s
  | .ldss f => Sys2Proof.Machine.execLdss f s
  | .stss f => Sys2Proof.Machine.execStss f s
  | .stn f => Sys2Proof.Machine.execStn f s
  | .repark f => Sys2Proof.Machine.execRepark f s
  | .locate f => Sys2Proof.Machine.execLocate f s
  | .parkq f => Sys2Proof.Machine.execParkq f s
  | .rstld f => Sys2Proof.Machine.execRstld f s
  | .ldfe f => Sys2Proof.Machine.execLdfe f s
  | .stfe f => Sys2Proof.Machine.execStfe f s
  | .feset f => Sys2Proof.Machine.execFeset f s
  | .tst f => Sys2Proof.Machine.execTst f s
  | .retract f => Sys2Proof.Machine.execRetract f s
  | .commit f => Sys2Proof.Machine.execCommit f s
  | .atom f => Sys2Proof.Machine.execAtom f s
  | .atomc f => Sys2Proof.Machine.execAtomc f s
  | .atoms f => Sys2Proof.Machine.execAtoms f s
  | .red f => Sys2Proof.Machine.execRed f s
  | .fence f => Sys2Proof.Machine.execFence f s
  | .waitc f => Sys2Proof.Machine.execWaitc f s
  | .clean f => Sys2Proof.Machine.execClean f s
  | .inval f => Sys2Proof.Machine.execInval f s
  | .pref f => Sys2Proof.Machine.execPref f s
  | .mvec f => Sys2Proof.Machine.execMvec f s
  | .mvwait f => Sys2Proof.Machine.execMvwait f s
  | .mma f => Sys2Proof.Machine.execMma f s
  | .accz f => Sys2Proof.Machine.execAccz f s
  | .accld f => Sys2Proof.Machine.execAccld f s
  | .accmv f => Sys2Proof.Machine.execAccmv f s
  | .accst f => Sys2Proof.Machine.execAccst f s
  | .accrel f => Sys2Proof.Machine.execAccrel f s
  | .mmq f => Sys2Proof.Machine.execMmq f s
  | .opfence f => Sys2Proof.Machine.execOpfence f s
  | .mwait f => Sys2Proof.Machine.execMwait f s
  | .tidld f => Sys2Proof.Machine.execTidld f s
  | .tidinv f => Sys2Proof.Machine.execTidinv f s
  | .cpy f => Sys2Proof.Machine.execCpy f s
  | .cpyg f => Sys2Proof.Machine.execCpyg f s
  | .cpys f => Sys2Proof.Machine.execCpys f s
  | .cpywait f => Sys2Proof.Machine.execCpywait f s
  | .cpydec f => Sys2Proof.Machine.execCpydec f s
  | .strmb f => Sys2Proof.Machine.execStrmb f s
  | .strmu f => Sys2Proof.Machine.execStrmu f s
  | .strmq f => Sys2Proof.Machine.execStrmq f s
  | .launch f => Sys2Proof.Machine.execLaunch f s
  | .lwait f => Sys2Proof.Machine.execLwait f s
  | .tspawn f => Sys2Proof.Machine.execTspawn f s
  | .tsignal f => Sys2Proof.Machine.execTsignal f s
  | .tdone f => Sys2Proof.Machine.execTdone f s
  | .stloop f => Sys2Proof.Machine.execStloop f s
  | .stage f => Sys2Proof.Machine.execStage f s
  | .waitl f => Sys2Proof.Machine.execWaitl f s
  | .stend f => Sys2Proof.Machine.execStend f s
  | .colload f => Sys2Proof.Machine.execColload f s
  | .colrun f => Sys2Proof.Machine.execColrun f s
  | .colwait f => Sys2Proof.Machine.execColwait f s
  | .colq f => Sys2Proof.Machine.execColq f s
  | .rput f => Sys2Proof.Machine.execRput f s
  | .rget f => Sys2Proof.Machine.execRget f s
  | .recirc f => Sys2Proof.Machine.execRecirc f s
  | .csrr f => Sys2Proof.Machine.execCsrr f s
  | .csrw f => Sys2Proof.Machine.execCsrw f s
  | .eret f => Sys2Proof.Machine.execEret f s
  | .halt f => Sys2Proof.Machine.execHalt f s
  | .preempt f => Sys2Proof.Machine.execPreempt f s
  | .keyld f => Sys2Proof.Machine.execKeyld f s
  | .tlbinv f => Sys2Proof.Machine.execTlbinv f s
  | .tlbsync f => Sys2Proof.Machine.execTlbsync f s
  | .tlblock f => Sys2Proof.Machine.execTlblock f s
  | .tlbunlk f => Sys2Proof.Machine.execTlbunlk f s
  | .tlbpre f => Sys2Proof.Machine.execTlbpre f s
  | .resume f => Sys2Proof.Machine.execResume f s
  | .resultReturn r => Sys2Proof.Machine.execResultReturn r s
  | .lateCause l => Sys2Proof.Machine.execLateCause l s
  | .heldArrival a => Sys2Proof.Machine.execHeldArrival a s
  | .barrierTimeOut w => Sys2Proof.Machine.execBarrierTimeOut w s
  | .yieldExpiry w => Sys2Proof.Machine.execYieldExpiry w s
  | .homeWriteAccept w => Sys2Proof.Machine.execHomeWriteAccept w s
  | .parkNotice n => Sys2Proof.Machine.execParkNotice n s
  | .parkWriteBackLand b => Sys2Proof.Machine.execParkWriteBackLand b s
  | .flushedReductionApply r => Sys2Proof.Machine.execFlushedReductionApply r s
  | .watcherReport w => Sys2Proof.Machine.execWatcherReport w s
  | .monitorPoll w => Sys2Proof.Machine.execMonitorPoll w s
  | .waitcTimeOut w => Sys2Proof.Machine.execWaitcTimeOut w s
  | .granuleStep cmd step => Sys2Proof.Machine.execGranuleStep cmd step s
  | .matrixOpStart op => Sys2Proof.Machine.execMatrixOpStart op s
  | .matrixOpComplete op => Sys2Proof.Machine.execMatrixOpComplete op s
  | .matrixSignTimeOut w => Sys2Proof.Machine.execMatrixSignTimeOut w s
  | .copyCommandComplete cmd => Sys2Proof.Machine.execCopyCommandComplete cmd s
  | .streamPopResume w => Sys2Proof.Machine.execStreamPopResume w s
  | .streamPushResume w => Sys2Proof.Machine.execStreamPushResume w s
  | .blockRetire b => Sys2Proof.Machine.execBlockRetire b s
  | .blockSave b => Sys2Proof.Machine.execBlockSave b s
  | .blockRestore b => Sys2Proof.Machine.execBlockRestore b s
  | .launchEnd lid => Sys2Proof.Machine.execLaunchEnd lid s
  | .taskPop gid => Sys2Proof.Machine.execTaskPop gid s
  | .taskComplete gid => Sys2Proof.Machine.execTaskComplete gid s
  | .iterationHandout w => Sys2Proof.Machine.execIterationHandout w s
  | .stageUpdateVisible u => Sys2Proof.Machine.execStageUpdateVisible u s
  | .stageWaitTimeOut w => Sys2Proof.Machine.execStageWaitTimeOut w s
  | .pageFault f => Sys2Proof.Machine.execPageFault f s
  | .nodeStart n => Sys2Proof.Machine.execNodeStart n s
  | .nodeComplete n => Sys2Proof.Machine.execNodeComplete n s
  | .chunkArrival port c => Sys2Proof.Machine.execChunkArrival port c s
  | .remoteRequest r => Sys2Proof.Machine.execRemoteRequest r s
  | .remoteTransferComplete d => Sys2Proof.Machine.execRemoteTransferComplete d s
  | .flitReceive port f => Sys2Proof.Machine.execFlitReceive port f s
  | .linkDown port => Sys2Proof.Machine.execLinkDown port s
  | .peerSilence x => Sys2Proof.Machine.execPeerSilence x s
  | .linkTrained t => Sys2Proof.Machine.execLinkTrained t s
  | .drainTimeOut dom win => Sys2Proof.Machine.execDrainTimeOut dom win s
  | .reconfigurationTimeOut dom win => Sys2Proof.Machine.execReconfigurationTimeOut dom win s
  | .requestResend dom win => Sys2Proof.Machine.execRequestResend dom win s
  | .controllerReply payload => Sys2Proof.Machine.execControllerReply payload s
  | .neighbourSolicitation n => Sys2Proof.Machine.execNeighbourSolicitation n s
  | .controlFrameReceive f => Sys2Proof.Machine.execControlFrameReceive f s
  | .mailboxDoorbell r tail => Sys2Proof.Machine.execMailboxDoorbell r tail s
  | .optPortcfgWrite w => Sys2Proof.Machine.execOptPortcfgWrite w s
  | .optDomctlWrite w => Sys2Proof.Machine.execOptDomctlWrite w s
  | .lndGateLock w => Sys2Proof.Machine.execLndGateLock w s
  | .sysHostirq w => Sys2Proof.Machine.execSysHostirq w s
  | .sysNvdb w => Sys2Proof.Machine.execSysNvdb w s
  | .registerWrite w => Sys2Proof.Machine.execRegisterWrite w s
  | .eventModeEntry quad => Sys2Proof.Machine.execEventModeEntry quad s
  | .hostWrite r data => Sys2Proof.Machine.execHostWrite r data s
  | .hostRead r n tag => Sys2Proof.Machine.execHostRead r n tag s
  | .functionLevelReset vf => Sys2Proof.Machine.execFunctionLevelReset vf s
  | .lockInterface vf => Sys2Proof.Machine.execLockInterface vf s
  | .nvmeCompletion c => Sys2Proof.Machine.execNvmeCompletion c s
  | .getVersion m => Sys2Proof.Machine.execGetVersion m s
  | .getCapabilities m => Sys2Proof.Machine.execGetCapabilities m s
  | .negotiateAlgorithms m => Sys2Proof.Machine.execNegotiateAlgorithms m s
  | .getDigests m => Sys2Proof.Machine.execGetDigests m s
  | .getCertificate m => Sys2Proof.Machine.execGetCertificate m s
  | .challenge m => Sys2Proof.Machine.execChallenge m s
  | .getMeasurements m => Sys2Proof.Machine.execGetMeasurements m s
  | .keyExchange m => Sys2Proof.Machine.execKeyExchange m s
  | .finish m => Sys2Proof.Machine.execFinish m s
  | .heartbeat m => Sys2Proof.Machine.execHeartbeat m s
  | .keyUpdate m => Sys2Proof.Machine.execKeyUpdate m s
  | .endSession m => Sys2Proof.Machine.execEndSession m s
  | .vendorDefinedRequest m => Sys2Proof.Machine.execVendorDefinedRequest m s
  | .packageReset => Sys2Proof.Machine.execPackageReset s
  | .partitionReset part => Sys2Proof.Machine.execPartitionReset part s
  | .snapshot => Sys2Proof.Machine.execSnapshot s
  | .powerWindow p => Sys2Proof.Machine.execPowerWindow p s
  | .thermalStateChange part celsius => Sys2Proof.Machine.execThermalStateChange part celsius s
  | .coreSpare e => Sys2Proof.Machine.execCoreSpare e s
  | .rowSpare u f => Sys2Proof.Machine.execRowSpare u f s
  | .writeBackError e => Sys2Proof.Machine.execWriteBackError e s
  | .copyLineArrival cmd piece => Sys2Proof.Machine.execCopyLineArrival cmd piece s
  | .operandFetchEnd op => Sys2Proof.Machine.execOperandFetchEnd op s
  | .startInterfaceRequest vf => Sys2Proof.Machine.execStartInterfaceRequest vf s
  | .quietModeSlot => Sys2Proof.Machine.execQuietModeSlot s
  | .storageDma d => Sys2Proof.Machine.execStorageDma d s

end Sys2Proof.Machine
end

