-- ==== Sys2Proof/Machine/Step.lean ====
section
/-! DEFINITION. One step of the machine. -/
namespace Sys2Proof.Machine

/-- One step: what the state takes up, and its meaning. -/
def step (s : State) : Host.Outcome State Fault Refusal :=
  match s.turn with
  | .over t => .next t
  | .run i t => exec i t

/-- The state with a word placed where the next step fetches it (log entry 3). -/
def State.withFetchWord (s : State) (_nbits w : Nat) : State := s.placeWord w

end Sys2Proof.Machine
end

