-- ==== Sys2Proof/Safety.lean ====
section
/-! DEFINITION. What a safe run is: no state of it stops with a fault or a refusal. -/
namespace Sys2Proof.Machine

/-- A step that goes on. -/
def Goes (s : State) : Prop := ∃ t, step s = .next t

/-- A run of `n` steps from `s` to `t`. -/
inductive Runs : Nat → State → State → Prop where
  | refl (s : State) : Runs 0 s s
  | next (n : Nat) (s t u : State) (h : step s = .next t) (r : Runs n t u) : Runs (n + 1) s u

/-- Every state that a run reaches goes on. -/
def Safe (s : State) : Prop := ∀ n t, Runs n s t → Goes t

end Sys2Proof.Machine
end

