-- ==== Sys2Proof/Certificates/Slice0/Obligations.lean ====
section
/-! DEFINITION. The statements for the provers, with the words they share. -/
namespace Sys2Proof.Claims
open Sys2Proof.Machine

/-- The control fields of an instruction word (R48). -/
def ctlOf (i : Instr) : Option Ctl := (encode i).bind readCtl

/-- The word issues at `cx` (R45, R51, R95, R320): a lane takes part, its counter admits it, and it names only registers that
the group has and no stream holds. -/
abbrev Issues (s : State) (cx : Cx) (c : Ctl) (ctr : Option Ctr) (names : List Nat) (writes : Nat) : Prop :=
  s.cur = some cx ∧ s.taking cx c ≠ [] ∧ s.holdsIssue cx.gid (s.taking cx c) ctr writes = false
    ∧ s.nameTrap cx.gid names = none

/-- The issuing lanes are lanes of their group. -/
abbrev LanesExist (s : State) (cx : Cx) : Prop := ∀ l ∈ lanesOf cx.mask, l < (s.group cx.gid).lanes.length

/-- The issued instruction: where, its name and the lanes that take part. -/
def issOf (s : State) (cx : Cx) (c : Ctl) : Iss := ⟨cx, s.nextId, s.taking cx c⟩

/-- The memory system beside its bytes, without which results of held accesses later writes have overtaken (R100). -/
def heldPart (s : State) : MemSys := { s.ms with jobs := s.ms.jobs.map fun j => { j with lost := [] } }
/-- Memory and everything that holds a copy, a record, an access or a translation of it stand. -/
def SameMemory (s t : State) : Prop := t.mem = s.mem ∧ heldPart t = heldPart s
/-- Blocks, launches, the scheduler, the engines, the optics and the control registers stand. -/
def SameMachine (s t : State) : Prop :=
  t.after = s.after ∧ t.blocks = s.blocks ∧ t.launches = s.launches ∧ t.sched = s.sched ∧ t.eng = s.eng ∧ t.fab = s.fab ∧ t.sys = s.sys
/-- Every other group stands. -/
def OtherGroups (gid : Nat) (s t : State) : Prop := ∀ k, k ≠ gid → t.group k = s.group k
/-- A group keeps all but what its lanes hold, its g registers, its counters and its hold. -/
def SameGroupBase (gid : Nat) (s t : State) : Prop :=
  { t.group gid with lanes := [], g := [], cnt := ⟨0, 0, 0, 0⟩, hold := false }
    = { s.group gid with lanes := [], g := [], cnt := ⟨0, 0, 0, 0⟩, hold := false }

/-- The lanes of the issuing program counter stand after the word (R43, R146). -/
def Passed (t : State) (cx : Cx) : Prop :=
  ∀ l ∈ lanesOf cx.mask, (t.lane cx.gid l).pc = cx.pc + 8 ∧ (t.lane cx.gid l).pos = (nextPos cx.pos cx.left).1
    ∧ (t.lane cx.gid l).left = (nextPos cx.pos cx.left).2

/-! ## Class 0 -/

/-- Whether a destination names v register `k`, predicate `k` or g register `k`; p7 discards writes (R52). -/
def writesV : Dst → Nat → Bool
  | .v true r, k => k == r || k == r + 1
  | .v false r, k => k == r
  | .p _, _ => false
  | .g _, _ => false
def writesP : Dst → Nat → Bool
  | .p r, k => k == r && decide (r < 7)
  | .v _ _, _ => false
  | .g _, _ => false
def writesG : Dst → Nat → Bool
  | .g r, k => k == r
  | .v _ _, _ => false
  | .p _, _ => false

/-- The result of a class 0 instruction in a lane: its function of the values that the lane reads for its sources. -/
def laneResult (s : State) (i : Iss) (op : LaneOp) (l : Nat) : DWord :=
  op.fn (((List.range op.srcs.length).zip op.srcs).map fun x => s.readSrc i l x.1 x.2)

/-- The destination holds the result in every lane that takes part; a g register takes the lowest lane's, unless slot B writes what
slot A has written in this clock (R95, R136). -/
def Landed (s1 t : State) (i : Iss) (op : LaneOp) : Prop :=
  match op.dst with
  | .v true r => ∀ l ∈ i.lanes, pairOf ((t.lane i.gid l).vReg r) ((t.lane i.gid l).vReg (r + 1)) = laneResult s1 i op l
  | .v false r => ∀ l ∈ i.lanes, (t.lane i.gid l).vReg r = lo32 (laneResult s1 i op l)
  | .p r => r < 7 → ∀ l ∈ i.lanes, (t.lane i.gid l).pReg r = (laneResult s1 i op l).getLsbD 0
  | .g r => t.readG i.gid r = if s1.cycle.slotB && s1.cycle.wrote.contains (i.gid, r) then s1.readG i.gid r else laneResult s1 i op i.low

/-- The exception registers of the group's lanes stand (R111). -/
def SameTrapRegs (gid : Nat) (s t : State) : Prop :=
  ∀ l, (t.lane gid l).xcause = (s.lane gid l).xcause ∧ (t.lane gid l).xinfo = (s.lane gid l).xinfo
    ∧ (t.lane gid l).xpc = (s.lane gid l).xpc ∧ (t.lane gid l).xidx = (s.lane gid l).xidx

/-- Every register but the destination stands. -/
def OnlyDst (s t : State) (i : Iss) (d : Dst) : Prop :=
  (∀ l k, (l ∉ i.lanes ∨ writesV d k = false) → (t.lane i.gid l).vReg k = (s.lane i.gid l).vReg k)
    ∧ (∀ l k, (l ∉ i.lanes ∨ writesP d k = false) → (t.lane i.gid l).pReg k = (s.lane i.gid l).pReg k)
    ∧ (∀ k, writesG d k = false → t.readG i.gid k = s.readG i.gid k) ∧ SameTrapRegs i.gid s t

/-! ## Values of class 0 (R74, R115) -/

/-- rd(F) of an integer type: the low w bits, signed for `.i` types (R115). -/
def rdInt (t : Ty) (x : DWord) : Int :=
  if t.signed then (x.setWidth t.width).toInt else (x.setWidth t.width).toNat
/-- The ends of the type's range (R74). -/
def lowest (t : Ty) : Int := if t.signed then -2 ^ (t.width - 1) else 0
def highest (t : Ty) : Int := if t.signed then 2 ^ (t.width - 1) - 1 else 2 ^ t.width - 1
/-- The register image of a value: a narrow result fills 32 bits, by sign for `.i` types and with zeros for `.n` (R115). -/
def Image (t : Ty) (r : DWord) (v : Int) : Prop :=
  if t.is64 then (if t.signed then r.toInt else (r.toNat : Int)) = v
  else r.toNat < 2 ^ 32 ∧ (if t.signed then (r.setWidth 32).toInt else (r.toNat : Int)) = v
/-- wr(D, clamp(x)) or wr(D, wrap(x)) of an exact result (R74, R120). -/
def Rounded (t : Ty) (sat : Bool) (r : DWord) (x : Int) : Prop :=
  ∃ v : Int, Image t r v ∧ lowest t ≤ v ∧ v ≤ highest t ∧
    (if sat then v = max (lowest t) (min (highest t) x) else (2 ^ t.width : Int) ∣ v - x)

/-- A NaN of FP32, bfloat16 or FP16 in the low bits of a register (R70). -/
def isNanBits (t : Ty) (x : DWord) : Prop :=
  match t with
  | .f32 => x.toNat / 2 ^ 23 % 2 ^ 8 = 255 ∧ x.toNat % 2 ^ 23 ≠ 0
  | .bf16 => x.toNat / 2 ^ 7 % 2 ^ 8 = 255 ∧ x.toNat % 2 ^ 7 ≠ 0
  | .f16 => x.toNat / 2 ^ 10 % 2 ^ 5 = 31 ∧ x.toNat % 2 ^ 10 ≠ 0
  | _ => False

/-- The exact value of an encoding of a format that is no special one (R69). -/
def ratOf (f : Fmt) (x : Nat) : Rat :=
  let e := x % 2 ^ f.magBits / 2 ^ f.mbits
  let m := x % 2 ^ f.mbits
  (if x / 2 ^ f.magBits % 2 = 1 then -1 else 1) *
    (if e = 0 then (m : Rat) * (2 : Rat) ^ (1 - (f.bias : Int) - f.mbits) else ((2 ^ f.mbits + m : Nat) : Rat) * (2 : Rat) ^ ((e : Int) - f.bias - f.mbits))
/-- The encodings of finite values (R70), and the values. -/
abbrev FinBits (f : Fmt) (x : Nat) : Prop := x < 2 ^ (f.magBits + 1) ∧ x % 2 ^ f.magBits ≤ f.maxFin
def Representable (f : Fmt) (v : Rat) : Prop := ∃ x, FinBits f x ∧ ratOf f x = v
/-- `v` is what the modes of R65 make of `x` among the values of a set, `even` saying that `v` is the even one of a tie. -/
def RoundsIn (rm : Rm) (vals : Rat → Prop) (even : Prop) (x v : Rat) : Prop :=
  vals v ∧ match rm with
    | .rne => (∀ w, vals w → |v - x| ≤ |w - x|) ∧ ((∃ w, vals w ∧ w ≠ v ∧ |w - x| = |v - x|) → even)
    | .rna => ∀ w, vals w → |v - x| ≤ |w - x| ∧ (|w - x| = |v - x| → |w| ≤ |v|)
    | .rz => 0 ≤ v * x ∧ |v| ≤ |x| ∧ ∀ w, vals w → |w| ≤ |x| → |w| ≤ |v|
    | .rdn => v ≤ x ∧ ∀ w, vals w → w ≤ x → w ≤ v
    | .rup => x ≤ v ∧ ∀ w, vals w → x ≤ w → v ≤ w
/-- An encoding is that of `x` rounded in a format (R77), and an integer that of `x` rounded to an integer (R80). -/
def RoundsTo (f : Fmt) (rm : Rm) (x : Rat) (r : Nat) : Prop := FinBits f r ∧ RoundsIn rm (Representable f) (r % 2 = 0) x (ratOf f r)
def RoundsToInt (rm : Rm) (x : Rat) (z : Int) : Prop := RoundsIn rm (fun v => ∃ k : Int, (k : Rat) = v) (z % 2 = 0) x z
/-- A register's low bits as a value of a floating-point type. -/
def fltBits (t : Ty) (x : DWord) : Nat := x.toNat % 2 ^ t.width
abbrev FinVal (t : Ty) (x : DWord) : Prop := FinBits (Ty.fmt t) (fltBits t x)
def valOf (t : Ty) (x : DWord) : Rat := ratOf (Ty.fmt t) (fltBits t x)
/-- A value within the finite range of a format: rounding it does not overflow (R77, R78). -/
abbrev InRange (f : Fmt) (x : Rat) : Prop := |x| ≤ ratOf f f.maxFin

/-! ## Results that return -/

/-- A result is on its way to the group: its counter has risen by 1, and no register has changed (R45, R100). -/
def Returns (s t : State) (i : Iss) (ctr : Ctr) (lanes : LaneMask) (ws : List RegWrite) : Prop :=
  t.due = s.due ++ [.resultReturn ⟨i.id, i.gid, some ctr, lanes, ws, []⟩]
    ∧ (t.group i.gid).cnt = (s.group i.gid).cnt.bump ctr
    ∧ (∀ l k, (t.lane i.gid l).vReg k = (s.lane i.gid l).vReg k)
    ∧ (∀ l k, (t.lane i.gid l).pReg k = (s.lane i.gid l).pReg k)
    ∧ (∀ k, t.readG i.gid k = s.readG i.gid k) ∧ SameTrapRegs i.gid s t

/-- Nothing but the issuing group, the results in flight and the free choices has changed. -/
def OnlyGroup (gid : Nat) (s t : State) : Prop :=
  OtherGroups gid s t ∧ SameMemory s t ∧ SameMachine s t ∧ t.waits = s.waits

/-- Registers of the group's lanes, their exception registers among them, and its g registers stand. -/
def SameRegs (gid : Nat) (s t : State) : Prop :=
  (∀ l k, (t.lane gid l).vReg k = (s.lane gid l).vReg k) ∧ (∀ l k, (t.lane gid l).pReg k = (s.lane gid l).pReg k)
    ∧ (∀ k, t.readG gid k = s.readG gid k) ∧ SameTrapRegs gid s t

/-- The source lane of LXCH, none where it is not valid (R140). -/
def lxchFrom (mode z l : Nat) (n : Int) : Option Nat :=
  let base : Int := l - l % z
  let src : Int := match mode with
    | 0 => base + n % z
    | 1 => base + (l % z + n) % z
    | 2 => l + n
    | _ => base + Nat.xor (l % z) (n % z).toNat
  if base ≤ src ∧ src < base + z then some src.toNat else none

/-- LXCH's lane operand n in a lane (R140). -/
def lxchN (s : State) (i : Iss) (f : RRR) (l : Nat) : Int :=
  let step := f.opx.toNat % 4 == 2
  if f.opx.getLsbD 5 then (if step then f.c.toInt else f.c.toNat)
  else
    let b : Word := if f.bg then lo32 (s.readG i.gid f.b.toNat) else s.readV i.gid l 2 f.b.toNat
    if step then b.toInt else b.toNat

/-- The number of set bits of a mask. -/
def bitCount (m : LaneMask) : Nat := ((List.range 32).filter fun l => m.getLsbD l).length

/-! ## Traps (R111) -/

/-- A lane after entry to its handler: the trap registers, the frame and the place (R96, R111). -/
def Entered (x y : Lane) (t : TrapAt) (handler : DWord) : Prop :=
  y.xcause = BitVec.ofNat 32 t.cause ∧ y.xinfo = t.info ∧ y.xpc = t.pc ∧ (t.pos ≠ 0 → y.xidx = BitVec.ofNat 32 t.pos)
    ∧ (∃ f, y.stack = f :: x.stack ∧ f.trap = true ∧ f.addr = (if t.next then t.pc + 8 else t.pc) &&& ~~~7)
    ∧ y.pc = handler ∧ y.pos = 0 ∧ y.v = x.v ∧ y.p = x.p

/-- The handler address of a group's launch (R111, R322). -/
def handlerOf (s : State) (gid : Nat) : DWord :=
  match s.launch (s.group gid).lid with
  | some x => x.record.handler
  | none => 0

/-- The lanes can enter their handler: a compute group whose launch has one, no full stack and no handler running (R111). -/
abbrev CanTrap (s : State) (gid : Nat) (ls : List Nat) : Prop :=
  (s.group gid).sys = false ∧ handlerOf s gid ≠ 0
    ∧ ∀ l ∈ ls, l < (s.group gid).lanes.length ∧ (s.lane gid l).stack.length < 64 ∧ ∀ f ∈ (s.lane gid l).stack, f.trap = false

/-! ## Memory -/

/-- Memory at rest: nothing cached, parked, tentative, resting, spoiled, held in a core or on its way. -/
abbrev Quiet (s : State) : Prop :=
  s.ms.copies = [] ∧ s.ms.parks = [] ∧ s.ms.cells = [] ∧ s.ms.curd = [] ∧ s.ms.bad = [] ∧ s.ms.jobs = []
    ∧ ∀ x ∈ s.due, inFlight x = none
/-- No earlier access of the lanes holds back the word's (R222, R375). -/
abbrev NoneHeld (s : State) (gid : Nat) (ls : List Nat) : Prop := ∀ l ∈ ls, s.heldBack gid l s.nextId = false
/-- No locked bridge gate stands between the group and the accesses' memory (R10, R432). -/
abbrev Ungated (s : State) (gid : Nat) (l : List Acc) : Prop :=
  ∀ a ∈ l, s.gateStops (quadOfGid gid) (s.servedBy a.kind a.pa) = false

/-! ## The call stack (R94, R430) -/

/-- The lanes' stacks stay within the four frames of the sub-core, or the partition has no call-stack region: nothing of them goes to
memory (R94, R430). -/
abbrev StacksOnChip (s : State) (gid : Nat) (ls : List Nat) : Prop :=
  (∀ l ∈ ls, (s.lane gid l).stack.length < 4) ∨ isSysGid gid = true ∨ (s.csr (stkKey (s.group gid).part)).getLsbD 0 = false

/-- The checks of R196 on the lanes' global addresses: what they find in the state in which the word has started. -/
def check (s : State) (cx : Cx) (f : MF) (acc : Access) (n : Nat) (second : Bool) : Checked :=
  ((s.start cx f.ctl).checkGlobal (issOf s cx f.ctl) acc n (fun _ _ => none) ((s.start cx f.ctl).eas (issOf s cx f.ctl) f second)).2
/-- Every lane that takes part passes them. -/
abbrev AllPass (s : State) (cx : Cx) (f : MF) (acc : Access) (n : Nat) (second : Bool) : Prop :=
  (check s cx f acc n second).traps = [] ∧ (check s cx f acc n second).stops = []

/-- The accesses lie each in one line, as aligned addresses of aligned pages do (R196, R367). -/
abbrev InLine (l : List Acc) (n : Nat) : Prop := ∀ a ∈ l, a.pa % 128 + n ≤ 128

/-- The checks of R196 on the lanes' scratchpad offsets. -/
def checkS (s : State) (cx : Cx) (f : MF) (second : Bool) (sel : Nat → Option BlockRef) : List Acc × List (Nat × Nat × DWord) :=
  (s.start cx f.ctl).checkScratch (MTy.bytes f.ty) sel ((s.start cx f.ctl).eas (issOf s cx f.ctl) f second)

/-- The word has issued: its counter has risen by 1, its lanes have passed it, no register has changed and other groups stand. -/
def Counted (s t : State) (cx : Cx) (ctr : Ctr) : Prop :=
  (t.group cx.gid).cnt = (s.group cx.gid).cnt.bump ctr ∧ Passed t cx ∧ SameRegs cx.gid s t ∧ OtherGroups cx.gid s t

/-- The bytes of one lane's store in its line. -/
def laneBytes (s1 : State) (i : Iss) (f : MF) (a : Acc) : List StoreByte :=
  let bs := s1.storeBytes i.gid a.lane f.data.toNat f.ty
  (List.range bs.length).map fun k => ⟨a.pa % 128 + k, bs.getD k 0, a.lane⟩
/-- What goes out for the lanes that store to one line: one write of all their bytes, which a `.b128` store may perform by halves
(R14, R202, R234, R245). -/
def packet (s1 : State) (i : Iss) (f : MF) (r : Ret) : List Acc → List Instr
  | [] => []
  | a :: l => [.homeWriteAccept ⟨agentOf i.gid, 64 * i.id + a.lane, some ((s1.group i.gid).name a.lane), lineOf a.pa, a.kind, f.hint == .nt,
      (a :: l).flatMap (laneBytes s1 i f), some r, f.ty == .b128, none, false⟩]

/-- The bytes of a write at a line stand there, and every other byte reads as before. -/
def Stored (s t : State) (line : Nat) (bs : List StoreByte) : Prop :=
  (∀ b ∈ bs, t.peekByte (128 * line + b.off) = b.val) ∧ ∀ a, (∀ b ∈ bs, a ≠ 128 * line + b.off) → t.peekByte a = s.peekByte a
/-- The data operand of a lane, as a number (R197). -/
def dataOf (s1 : State) (gid l : Nat) (f : MF) : DWord := BitVec.ofNat 64 (leNat (s1.storeBytes gid l f.data.toNat f.ty))
/-- A write's bytes lie in its line, each once. -/
abbrev Plain (bs : List StoreByte) : Prop := (bs.map fun b => b.off).Nodup ∧ ∀ b ∈ bs, b.off < 128
/-- Bytes written at an address, as a write of its line. -/
def bytesAt (a : Nat) (bs : List Byte) : List StoreByte := (List.range bs.length).map fun k => ⟨a % 128 + k, bs.getD k 0, 0⟩

/-- The tag that home returns for one write to the line of an access: none on an MS page (R165, R245). -/
def nextTag (s : State) (a : Acc) : List (Nat × BitVec 16) :=
  if a.kind = .ms then [] else [(lineOf a.pa, Map.get 0 s.ms.tags (lineOf a.pa) + 1)]

/-- No TIDLD or TIDINV of an identifier is on its way (R277). -/
abbrev NoTidComing (s : State) (id : Nat) : Prop := ∀ x ∈ s.after, ∀ lid e, x.kind ≠ .tid lid id e

/-- A group-wide operation has become ready at its engine, in the order of R272. -/
def Queued (s t : State) (cx : Cx) (handle slot : Nat) (kind : MatKind) (mc : Bool) : Prop :=
  (∃ o, t.eng.mat = insertBy MatOp.before o s.eng.mat ∧ o.ready = s.clock ∧ o.slotB = s.cycle.slotB ∧ o.id = s.nextId ∧ o.gid = cx.gid ∧ o.handle = handle ∧ o.slot = slot ∧ o.kind = kind
      ∧ o.mc = mc ∧ o.started = false ∧ o.fetched = false)
    ∧ t.due = s.due ++ [.matrixOpStart s.nextId] ∧ Passed t cx ∧ SameRegs cx.gid s t ∧ OtherGroups cx.gid s t
    ∧ (t.group cx.gid).cnt = if mc then (s.group cx.gid).cnt.bump .mc else (s.group cx.gid).cnt

/-- Element `k` of `w` bits of the 2,048-byte image at v register `n`, as an operation read the lanes' registers (R279). -/
def imageAt (regs : List (Nat × Word)) (n w k : Nat) : Nat :=
  ((regs.lookup (256 * (w * k / 512) + (n + w * k / 32 % 16))).getD 0).toNat / 2 ^ (w * k % 32) % 2 ^ w

/-- A(i, k) and B(k, j) of an MMA whose operands are register images (R280, R293). -/
def aElem (regs : List (Nat × Word)) (f : EF) (i k : Nat) : Nat :=
  let m := Mat.mmaOf f
  imageAt regs m.a (Mat.etype m.ety).bits (if m.ta then 64 * k + i else (Mat.etype m.ety).k * i + k)
def bElem (regs : List (Nat × Word)) (f : EF) (k j : Nat) : Nat :=
  let m := Mat.mmaOf f
  imageAt regs m.b (Mat.etype m.ety).bits (if m.tb then (Mat.etype m.ety).k * j + k else 64 * k + j)

/-- `z · 2^q` is the chunk sum of R87 of finite products: `q` is 34 below the exponent of the largest, and every product is truncated
toward zero to a multiple of `2^q`. -/
def ChunkSum (ps : List Fl) (q z : Int) : Prop :=
  (∃ p ∈ ps, ∃ n m e, p = .fin n m e ∧ m ≠ 0 ∧ e + (Nat.log2 m : Int) = q + 34)
    ∧ (∀ p ∈ ps, ∃ n m e, p = .fin n m e ∧ (m ≠ 0 → e + (Nat.log2 m : Int) ≤ q + 34))
    ∧ z = (ps.map fun p => match p with
      | .fin n m e => (if n then -1 else 1) * (if q ≤ e then (m : Int) * 2 ^ (e - q).toNat else (m : Int) / 2 ^ (q - e).toNat)
      | .nan => 0
      | .inf _ => 0).sum

/-- No parked line is on its way home, where a page-table walk would find it (R176, R367). -/
abbrev NoneLanding (s : State) : Prop := ∀ r ∈ s.ms.parks, r.state ≠ .returning

/-- A copy command has entered its core's queue, and its counter has risen by 1 (R307, R308). -/
def Copies (s t : State) (cx : Cx) (cc : Nat) (kind : CopyKind) (pieces : List Piece) : Prop :=
  (∃ c, t.eng.copies = s.eng.copies ++ [c] ∧ c.id = s.nextId ∧ c.core = coreOf cx.gid ∧ c.blk = (s.group cx.gid).blk ∧ c.cc = cc
      ∧ c.kind = kind ∧ c.pieces = pieces ∧ c.dataerr = false)
    ∧ (t.cc (s.group cx.gid).blk cc).count = (s.cc (s.group cx.gid).blk cc).count + 1
    ∧ t.due = s.due ++ (pieces.map fun p => Instr.copyLineArrival s.nextId p.num) ++ [.copyCommandComplete s.nextId]
    ∧ Passed t cx ∧ SameRegs cx.gid s t ∧ OtherGroups cx.gid s t ∧ (t.group cx.gid).cnt = (s.group cx.gid).cnt
    ∧ (NoneLanding s → t.mem = s.mem)

/-- Elements popped from a ring have landed in register `d` of the lanes, in their order, and the ring's HEAD has moved (R320). -/
def Popped (s t : State) (gid : Nat) (ls : List Nat) (q : Ring) (d : Nat) : Prop :=
  (∀ k l, ls[k]? = some l → (t.lane gid l).vReg d
      = BitVec.ofNat 32 (leNat (s.readS q.blk (q.off + 16 + 4 * ((q.head + k) % q.cap)) 4)))
    ∧ t.readS q.blk q.off 4 = leBytes 4 (q.head + ls.length)
/-- Elements stand at a ring's tail, and its TAIL has moved (R320). -/
def Pushed (s t : State) (q : Ring) (xs : List Word) : Prop :=
  (∀ k x, xs[k]? = some x → t.readS q.blk (q.off + 16 + 4 * ((q.tail + k) % q.cap)) 4 = leBytes 4 x.toNat)
    ∧ t.readS q.blk (q.off + 4) 4 = leBytes 4 (q.tail + xs.length) ∧ t.readS q.blk q.off 4 = s.readS q.blk q.off 4

/-- A command has returned one code for every lane that takes part, counted in MC (R45, R100). -/
def McResult (s t : State) (cx : Cx) (c : Ctl) (reg : Nat) (code : Word) : Prop :=
  Counted s t cx .mc ∧ ∃ d, t.due = d ++ [.resultReturn ⟨s.nextId, cx.gid, some .mc, 0, (s.taking cx c).map fun l => .v l reg code, []⟩]

/-- A word stands where its clause's class allows it (R46, R61): a control transfer at the last place of any clause, the transfers of a
system core in class 9 alone, any other word in a clause of its own class; a system core runs no words of classes 5 and 6. -/
abbrev wellPlaced (cx : Cx) : Prop :=
  let opc := opcodeOf cx.word
  (if isTransfer opc then cx.left ≤ 1 ∧ (0x0F0 ≤ opc → cx.cls = 9) else opClass opc = some cx.cls)
    ∧ ¬(isSysGid cx.gid = true ∧ (cx.cls = 5 ∨ cx.cls = 6))

/-- What the items of a clock give: the first that can act acts, and its word runs. -/
def taken (l : List CycleItem) (v : State) : Host.Outcome State Fault Refusal :=
  match State.runItems l v with
  | .over t => .next t
  | .run i t => exec i t

end Sys2Proof.Claims

open Sys2Proof Sys2Proof.Machine Sys2Proof.Claims

/-- R115, R118 to R138: every lane operation completes, which the last clauses name one by one: the destination takes its function of the
sources, in the lanes that take part; every other register, memory and the rest of the machine stand. -/
def Obligations.LaneOperationsComplete : Prop :=
  (∀ (i : Instr) (op : LaneOp) (c : Ctl) (s : State) (cx : Cx),
     laneOpOf i = some op → ctlOf i = some c → s.cur = some cx → s.taking cx c ≠ [] →
     s.holdsIssue cx.gid (s.taking cx c) none op.dst.writes = false → s.laneTrap cx.gid op = none →
     (∀ r, (s.group cx.gid).bound r = none) → LanesExist s cx →
     ∃ t, exec i s = .next t ∧ Landed (s.start cx c) t (issOf s cx c) op ∧ OnlyDst s t (issOf s cx c) op.dst
       ∧ Passed t cx ∧ SameGroupBase cx.gid s t ∧ OtherGroups cx.gid s t ∧ SameMemory s t ∧ SameMachine s t ∧ t.waits = s.waits)
  ∧ (∀ f : RRR,
      laneOpOf (.add f) = some (opAdd f) ∧ laneOpOf (.sub f) = some (opSub f) ∧ laneOpOf (.mul f) = some (opMul f)
      ∧ laneOpOf (.min f) = some (opMin f) ∧ laneOpOf (.max f) = some (opMax f) ∧ laneOpOf (.mulhi f) = some (opMulhi f)
      ∧ laneOpOf (.mad f) = some (opMad f) ∧ laneOpOf (.fma f) = some (opFma f) ∧ laneOpOf (.abs f) = some (opAbs f)
      ∧ laneOpOf (.neg f) = some (opNeg f) ∧ laneOpOf (.and f) = some (opAnd f) ∧ laneOpOf (.or f) = some (opOr f)
      ∧ laneOpOf (.xor f) = some (opXor f) ∧ laneOpOf (.not f) = some (opNot f) ∧ laneOpOf (.ttbl f) = some (opTtbl f)
      ∧ laneOpOf (.shl f) = some (opShl f) ∧ laneOpOf (.shr f) = some (opShr f) ∧ laneOpOf (.rot f) = some (opRot f)
      ∧ laneOpOf (.popc f) = some (opPopc f) ∧ laneOpOf (.clz f) = some (opClz f) ∧ laneOpOf (.brev f) = some (opBrev f)
      ∧ laneOpOf (.bfe f) = some (opBfe f) ∧ laneOpOf (.bfi f) = some (opBfi f) ∧ laneOpOf (.setp f) = some (opSetp f)
      ∧ laneOpOf (.sel f) = some (opSel f) ∧ laneOpOf (.plop f) = some (opPlop f) ∧ laneOpOf (.cvt f) = some (opCvt f)
      ∧ laneOpOf (.cvtx f) = some (opCvtx f) ∧ laneOpOf (.pack f) = some (opPack f) ∧ laneOpOf (.unpack f) = some (opUnpack f)
      ∧ laneOpOf (.mov f) = some (opMov f) ∧ laneOpOf (.movg f) = some (opMovg f))
  ∧ (∀ f : RI,
      laneOpOf (.addImm f) = some (opAddImm f) ∧ laneOpOf (.subImm f) = some (opSubImm f)
      ∧ laneOpOf (.mulImm f) = some (opMulImm f) ∧ laneOpOf (.minImm f) = some (opMinImm f)
      ∧ laneOpOf (.maxImm f) = some (opMaxImm f) ∧ laneOpOf (.andImm f) = some (opAndImm f)
      ∧ laneOpOf (.orImm f) = some (opOrImm f) ∧ laneOpOf (.xorImm f) = some (opXorImm f)
      ∧ laneOpOf (.shlImm f) = some (opShlImm f) ∧ laneOpOf (.shrImm f) = some (opShrImm f)
      ∧ laneOpOf (.rotImm f) = some (opRotImm f) ∧ laneOpOf (.bfeImm f) = some (opBfeImm f)
      ∧ laneOpOf (.setpImm f) = some (opSetpImm f) ∧ laneOpOf (.movs f) = some (opMovs f))
  ∧ ∀ f : WI, laneOpOf (.movi f) = some (opMovi f)

/-- R74, R115, R116, R120 to R123: the integer operations compute the exact result of their operands, then wrap it or clamp it,
and write it in the type's register image. -/
def Obligations.IntegerArithmetic : Prop :=
  (∀ (f : RRR) (a b c : DWord), f.ty.isInt = true →
      Rounded f.ty f.sat ((opAdd f).fn [a, b]) (rdInt f.ty a + rdInt f.ty b)
      ∧ Rounded f.ty f.sat ((opSub f).fn [a, b]) (rdInt f.ty a - rdInt f.ty b)
      ∧ Rounded f.ty f.sat ((opMul f).fn [a, b]) (rdInt f.ty a * rdInt f.ty b)
      ∧ Rounded f.ty f.sat ((opMad f).fn [a, b, c]) (rdInt f.ty a * rdInt f.ty b + rdInt f.ty c)
      ∧ Rounded f.ty f.sat ((opAbs f).fn [a]) |rdInt f.ty a| ∧ Rounded f.ty f.sat ((opNeg f).fn [a]) (-rdInt f.ty a)
      ∧ Image f.ty ((opMin f).fn [a, b]) (min (rdInt f.ty a) (rdInt f.ty b))
      ∧ Image f.ty ((opMax f).fn [a, b]) (max (rdInt f.ty a) (rdInt f.ty b))
      ∧ Rounded f.ty false ((opMulhi f).fn [a, b]) (rdInt f.ty a * rdInt f.ty b / 2 ^ f.ty.width))
  ∧ ∀ (f : RI) (a : DWord), f.ty.isInt = true →
      let b := rdInt f.ty (f.imm.signExtend 64)
      Rounded f.ty f.sat ((opAddImm f).fn [a]) (rdInt f.ty a + b) ∧ Rounded f.ty f.sat ((opSubImm f).fn [a]) (rdInt f.ty a - b)
      ∧ Rounded f.ty f.sat ((opMulImm f).fn [a]) (rdInt f.ty a * b)
      ∧ Image f.ty ((opMinImm f).fn [a]) (min (rdInt f.ty a) b) ∧ Image f.ty ((opMaxImm f).fn [a]) (max (rdInt f.ty a) b)

/-- R116, R124 to R128: what each bit of the result is, for every width w, of the register forms and of those with an immediate; POPC counts the set bits, and CLZ those above the highest. -/
def Obligations.BitOperations : Prop :=
  (∀ (f : RRR) (a b c : DWord) (k : Nat), k < f.ty.width → f.ty.isWide = true →
     let n := b.toNat % 2 ^ 32
     let p := n % 256
     let len := min (n / 256 % 256) f.ty.width
     ((opAnd f).fn [a, b]).getLsbD k = (a.getLsbD k && b.getLsbD k)
     ∧ ((opOr f).fn [a, b]).getLsbD k = (a.getLsbD k || b.getLsbD k)
     ∧ ((opXor f).fn [a, b]).getLsbD k = xor (a.getLsbD k) (b.getLsbD k)
     ∧ ((opNot f).fn [a]).getLsbD k = !a.getLsbD k
     ∧ ((opTtbl f).fn [a, b, c]).getLsbD k
         = (BitVec.ofBool f.bg ++ BitVec.ofBool f.ag ++ f.opx : BitVec 8).getLsbD
             ((a.getLsbD k).toNat + 2 * (b.getLsbD k).toNat + 4 * (c.getLsbD k).toNat)
     ∧ ((opShl f).fn [a, b]).getLsbD k = (decide (n ≤ k) && a.getLsbD (k - n))
     ∧ ((opShr f).fn [a, b]).getLsbD k
         = (if k + n < f.ty.width then a.getLsbD (k + n) else f.ty.signed && a.getLsbD (f.ty.width - 1))
     ∧ ((opRot f).fn [a, b]).getLsbD k = a.getLsbD ((k + (f.ty.width - n % f.ty.width)) % f.ty.width)
     ∧ ((opBrev f).fn [a]).getLsbD k = a.getLsbD (f.ty.width - 1 - k)
     ∧ ((opBfi f).fn [a, b, c]).getLsbD k = (if p ≤ k ∧ k < p + len then c.getLsbD (k - p) else a.getLsbD k)
     ∧ (len ≠ 0 → ((opBfe f).fn [a, b]).getLsbD k
         = (let at_ (j : Nat) : Bool := decide (p + j < f.ty.width) && a.getLsbD (p + j)
            if k < len then at_ k else f.ty.signed && at_ (len - 1)))
     ∧ (len = 0 → (opBfe f).fn [a, b] = 0))
  ∧ (∀ (f : RI) (a : DWord) (k : Nat), k < f.ty.width → f.ty.isWide = true →
     let b : DWord := f.imm.signExtend 64
     let n := f.imm.toNat
     let p := n % 256
     let len := min (n / 256 % 256) f.ty.width
     ((opAndImm f).fn [a]).getLsbD k = (a.getLsbD k && b.getLsbD k)
     ∧ ((opOrImm f).fn [a]).getLsbD k = (a.getLsbD k || b.getLsbD k)
     ∧ ((opXorImm f).fn [a]).getLsbD k = xor (a.getLsbD k) (b.getLsbD k)
     ∧ ((opShlImm f).fn [a]).getLsbD k = (decide (n ≤ k) && a.getLsbD (k - n))
     ∧ ((opShrImm f).fn [a]).getLsbD k
         = (if k + n < f.ty.width then a.getLsbD (k + n) else f.ty.signed && a.getLsbD (f.ty.width - 1))
     ∧ ((opRotImm f).fn [a]).getLsbD k = a.getLsbD ((k + (f.ty.width - n % f.ty.width)) % f.ty.width)
     ∧ (len ≠ 0 → ((opBfeImm f).fn [a]).getLsbD k
         = (let at_ (j : Nat) : Bool := decide (p + j < f.ty.width) && a.getLsbD (p + j)
            if k < len then at_ k else f.ty.signed && at_ (len - 1)))
     ∧ (len = 0 → (opBfeImm f).fn [a] = 0))
  ∧ ∀ (f : RRR) (a : DWord), f.ty.isWide = true →
    let n := ((opClz f).fn [a]).toNat
    ((opPopc f).fn [a]).toNat = ((List.range f.ty.width).filter fun k => a.getLsbD k).length ∧ n ≤ f.ty.width
    ∧ (∀ k, f.ty.width ≤ k + n → k < f.ty.width → a.getLsbD k = false) ∧ (n < f.ty.width → a.getLsbD (f.ty.width - 1 - n) = true)

/-- R69, R72, R77, R82, R83, R120 to R123: on finite operands, ADD, SUB, MUL, FMA and MAD round their exact result once, wherever it
does not overflow, by the mode that the word names; MIN, MAX, ABS and NEG are exact, and MIN and MAX of one NaN are the other operand.
Arithmetic on a NaN operand gives the canonical NaN, FP32's 0x7FC00000, bfloat16's 0x7FC0 or FP16's 0x7E00; a product of zero and
infinity gives it whatever the addend. -/
def Obligations.FloatArithmetic : Prop :=
  (∀ (f : RRR) (a b c : DWord), f.ty = .f32 ∨ f.ty = .bf16 ∨ f.ty = .f16 → FinVal f.ty a → FinVal f.ty b →
    let va := valOf f.ty a
    let vb := valOf f.ty b
    let rounds := fun (x : Rat) (r : DWord) => InRange (Ty.fmt f.ty) x → RoundsTo (Ty.fmt f.ty) f.rm x r.toNat
    let exact := fun (x : Rat) (r : DWord) => FinBits (Ty.fmt f.ty) r.toNat ∧ ratOf (Ty.fmt f.ty) r.toNat = x
    rounds (va + vb) ((opAdd f).fn [a, b]) ∧ rounds (va - vb) ((opSub f).fn [a, b]) ∧ rounds (va * vb) ((opMul f).fn [a, b])
    ∧ (FinVal f.ty c → rounds (va * vb + valOf f.ty c) ((opFma f).fn [a, b, c]) ∧ rounds (va * vb + valOf f.ty c) ((opMad f).fn [a, b, c]))
    ∧ exact (min va vb) ((opMin f).fn [a, b]) ∧ exact (max va vb) ((opMax f).fn [a, b])
    ∧ exact |va| ((opAbs f).fn [a]) ∧ exact (-va) ((opNeg f).fn [a]))
  ∧ (∀ (f : RRR) (a b : DWord), isNanBits f.ty a → ¬isNanBits f.ty b → ∀ op, op = opMin f ∨ op = opMax f →
    (op.fn [a, b]).toNat = fltBits f.ty b ∧ (op.fn [b, a]).toNat = fltBits f.ty b)
  ∧ ∀ (f : RRR) (a b c : DWord) (x : DWord),
    (f.ty = .f32 ∧ x = 0x7FC00000) ∨ (f.ty = .bf16 ∧ x = 0x7FC0) ∨ (f.ty = .f16 ∧ x = 0x7E00) →
    (isNanBits f.ty a ∨ isNanBits f.ty b →
      (opAdd f).fn [a, b] = x ∧ (opSub f).fn [a, b] = x ∧ (opMul f).fn [a, b] = x ∧ (opFma f).fn [a, b, c] = x
        ∧ (opMad f).fn [a, b, c] = x ∧ Alu.div (modeRRR f) a b = x)
    ∧ (isNanBits f.ty c → (opFma f).fn [a, b, c] = x ∧ (opMad f).fn [a, b, c] = x)
    ∧ (isNanBits f.ty a → (opAbs f).fn [a] = x ∧ (opNeg f).fn [a] = x
      ∧ (isNanBits f.ty b → (opMin f).fn [a, b] = x ∧ (opMax f).fn [a, b] = x))
    ∧ (f.ty = .f32 → (opFma f).fn [0, 0x7F800000, c] = x ∧ (opMul f).fn [0x7F800000, 0] = x)

/-- R68, R70, R74 to R77, R80, R81, R129 to R137: compares of integers and of floating-point values, selection, predicate tables, moves,
immediates, conversions between all types of R63, CVTX, UNPACK, the element that PACK writes and the bits that it leaves. -/
def Obligations.CompareSelectAndMove : Prop :=
  (∀ (f : RRR) (a b : DWord), f.ty.isInt = true → f.opx.toNat < 6 →
      let holds : Prop := match f.opx.toNat with
        | 0 => rdInt f.ty a = rdInt f.ty b
        | 1 => rdInt f.ty a ≠ rdInt f.ty b
        | 2 => rdInt f.ty a < rdInt f.ty b
        | 3 => rdInt f.ty a ≤ rdInt f.ty b
        | 4 => rdInt f.ty b < rdInt f.ty a
        | _ => rdInt f.ty b ≤ rdInt f.ty a
      ((opSetp f).fn [a, b] = 1 ∧ holds) ∨ ((opSetp f).fn [a, b] = 0 ∧ ¬holds))
  ∧ (∀ (f : RRR) (a b : DWord) (p q : Bool),
      (opSel f).fn [a, b, if p then 1 else 0] = (if p then a else b)
      ∧ (opPlop f).fn [if p then 1 else 0, if q then 1 else 0] = (if f.opx.getLsbD (2 * p.toNat + q.toNat) then 1 else 0)
      ∧ (opMov f).fn [a] = a
      ∧ (f.ty = .b64 → (opMovg f).fn [a] = a) ∧ (f.ty = .b32 → ((opMovg f).fn [a]).toNat = a.toNat % 2 ^ 32)
      ∧ (f.ty = .i32 → ((opMovg f).fn [a]).toInt = (a.setWidth 32).toInt))
  ∧ (∀ f : WI, (f.ty.is64 = true → ((opMovi f).fn []) = if f.ty = .i64 then f.imm.signExtend 64 else f.imm.zeroExtend 64)
      ∧ (f.ty.is64 = false → lo32 ((opMovi f).fn []) = f.imm))
  ∧ (∀ (f : RRR) (a : DWord), (Ty.ofCode f.opx.toNat).isInt = true → f.ty.isInt = true →
      Rounded f.ty f.sat ((opCvt f).fn [a]) (rdInt (Ty.ofCode f.opx.toNat) a))
  ∧ (∀ (f : RRR) (a b : DWord), f.ty = .f32 ∨ f.ty = .bf16 ∨ f.ty = .f16 → f.opx.toNat < 8 →
      let holds : Prop := match f.opx.toNat with
        | 0 => valOf f.ty a = valOf f.ty b
        | 1 => valOf f.ty a ≠ valOf f.ty b
        | 2 => valOf f.ty a < valOf f.ty b
        | 3 => valOf f.ty a ≤ valOf f.ty b
        | 4 => valOf f.ty b < valOf f.ty a
        | 5 => valOf f.ty b ≤ valOf f.ty a
        | 6 => False
        | _ => True
      let is := fun (p : Prop) => ((opSetp f).fn [a, b] = 1 ∧ p) ∨ ((opSetp f).fn [a, b] = 0 ∧ ¬p)
      (FinVal f.ty a → FinVal f.ty b → is holds)
      ∧ (isNanBits f.ty a ∨ isNanBits f.ty b → is (f.opx.toNat = 1 ∨ f.opx.toNat = 6)))
  ∧ (∀ (f : RRR) (a : DWord),
      let src := Ty.ofCode f.opx.toNat
      let v : Rat := if src.isFloat then valOf src a else rdInt src a
      let r := (opCvt f).fn [a]
      (f.ty.isFloat = true → (src.isFloat = true → FinVal src a) → InRange (Ty.fmt f.ty) v → RoundsTo (Ty.fmt f.ty) f.rm v r.toNat)
      ∧ (f.ty.isInt = true → src.isFloat = true →
        (FinVal src a → ∃ z : Int, RoundsToInt f.rm v z ∧ Image f.ty r (max (lowest f.ty) (min (highest f.ty) z)))
        ∧ (isNanBits src a → Image f.ty r 0)))
  ∧ (∀ (f : RRR) (a : DWord) (i : Nat), f.ty = .e4m3 ∨ f.ty = .e5m2 → i < 4 → f.opx.toNat < 3 →
      let v : Rat := match f.opx.toNat with
        | 0 => ((a.extractLsb' (4 * i) 4).toInt : Rat)
        | 1 => ratOf .e2m3 (a.extractLsb' (6 * i) 6).toNat
        | _ => ratOf .e3m2 (a.extractLsb' (6 * i) 6).toNat
      RoundsTo (Ty.fmt f.ty) f.rm v (((opCvtx f).fn [a]).extractLsb' (8 * i) 8).toNat)
  ∧ (∀ (f : RRR) (a old : DWord), f.ty ∈ [Ty.bf16, .f16, .e4m3, .e5m2, .e2m1] → f.ty.width * (f.opx.toNat + 1) ≤ 32 →
      let at_ := fun (x : DWord) => x.toNat / 2 ^ (f.ty.width * f.opx.toNat) % 2 ^ f.ty.width
      (FinBits (Ty.fmt f.ty) (at_ a) → FinBits .f32 ((opUnpack f).fn [a]).toNat
        ∧ ratOf .f32 ((opUnpack f).fn [a]).toNat = ratOf (Ty.fmt f.ty) (at_ a))
      ∧ (FinVal .f32 a → InRange (Ty.fmt f.ty) (valOf .f32 a) → RoundsTo (Ty.fmt f.ty) f.rm (valOf .f32 a) (at_ ((opPack f).fn [a, old]))))
  ∧ ∀ (f : RRR) (a old : DWord) (k : Nat), f.ty ∈ [Ty.bf16, .f16, .e4m3, .e5m2, .e2m1] → k < 32 →
      f.ty.width * (f.opx.toNat + 1) ≤ 32 → (k < f.ty.width * f.opx.toNat ∨ f.ty.width * (f.opx.toNat + 1) ≤ k) →
      ((opPack f).fn [a, old]).getLsbD k = old.getLsbD k

/-- R95, R111: a class 0 word that names a v register at or above the declared count traps with cause 0x05 in every lane that
takes part, which enters its handler at that word with no register written; %xinfo names such a register. Memory stands unless a
frame goes to the call-stack region (R94). -/
def Obligations.RegisterRangeTraps : Prop :=
  ∀ (i : Instr) (op : LaneOp) (c : Ctl) (s : State) (cx : Cx),
    laneOpOf i = some op → ctlOf i = some c → s.cur = some cx → s.taking cx c ≠ [] →
    s.holdsIssue cx.gid (s.taking cx c) none op.dst.writes = false → (∀ k, (s.group cx.gid).bound k = none) →
    (∃ x ∈ op.dst.names ++ op.srcs.flatMap Src.names, s.regsOf (s.group cx.gid) ≤ x.1) → CanTrap s cx.gid (s.taking cx c) →
    ∃ t, exec i s = .next t ∧ OtherGroups cx.gid s t ∧ (StacksOnChip s cx.gid (s.taking cx c) → SameMemory s t) ∧
      ∃ x ∈ op.dst.names ++ op.srcs.flatMap Src.names, s.regsOf (s.group cx.gid) ≤ x.1 ∧
        ∀ l ∈ s.taking cx c,
          Entered (s.lane cx.gid l) (t.lane cx.gid l) (cx.at_ 0x05 (BitVec.ofNat 64 x.1)) (handlerOf s cx.gid)

/-- R103, R139 to R143: LXCH, PAGG, PMASK and XRED send their results, taken from the lanes that take part, through XC. QX returns each lane
its quad source's value and notes in %helper the quad lane that answered as a helper. -/
def Obligations.CrossLaneReturns : Prop :=
  (∀ (f : RRR) (s : State) (cx : Cx), s.cur = some cx → LanesExist s cx →
     let s1 := s.start cx f.ctl
     let i := issOf s cx f.ctl
     (f.opx.toNat / 4 % 8 ∈ [1, 2, 3, 4, 5] →
       Issues s cx f.ctl (some .xc) (namesDA f f.ty.is64 ++ (if f.opx.getLsbD 5 || f.bg then [] else [f.b.toNat]))
         (vNames f.ty.is64 f.d).length →
       ∃ t, exec (.lxch f) s = .next t ∧ OnlyGroup cx.gid s t ∧ Passed t cx ∧
         Returns s t i .xc 0 (i.lanes.flatMap fun l => retVW l f.ty.is64 f.d.toNat
           (s1.readA i f.ag f.ty.is64 f.a ((lxchFrom (f.opx.toNat % 4) (2 ^ (f.opx.toNat / 4 % 8)) l (lxchN s1 i f l)).getD l))))
     ∧ (Issues s cx f.ctl (some .xc) [] 1 → f.opx.toNat < 4 →
       ∃ t, exec (.pagg f) s = .next t ∧ OnlyGroup cx.gid s t ∧ Passed t cx ∧
         (let ps := fun l => s1.readPs i.gid l 1 f.a.toNat = true
          ∃ r : Bool, Returns s t i .xc 0 (i.lanes.map fun l => .p l f.d.toNat r) ∧
            (r = true ↔ match f.opx.toNat with
              | 0 => ∀ l ∈ i.lanes, ps l
              | 1 => ∃ l ∈ i.lanes, ps l
              | 2 => ∀ l ∈ i.lanes, ∀ k ∈ i.lanes, (ps l ↔ ps k)
              | _ => (i.lanes.filter fun l => s1.readPs i.gid l 1 f.a.toNat).length % 2 = 1)))
     ∧ (Issues s cx f.ctl (some .xc) [f.d.toNat] 1 →
       ∃ t, exec (.pmask f) s = .next t ∧ OnlyGroup cx.gid s t ∧ Passed t cx ∧
         ∃ m : LaneMask, (∀ l, m.getLsbD l = (decide (l ∈ i.lanes) && s1.readPs i.gid l 1 f.a.toNat)) ∧
           Returns s t i .xc 0 (i.lanes.map fun l => .v l f.d.toNat (if f.opx.getLsbD 0 then BitVec.ofNat 32 (bitCount m) else m)))
     ∧ (Issues s cx f.ctl (some .xc) (namesDA f false) 1 → f.opx.toNat < 6 → (f.opx.toNat < 3 ∨ f.ty = .b32) →
       (3 ≤ f.opx.toNat ∨ f.ty = .i32 ∨ f.ty = .n32 ∨ f.ty = .f32) →
       ∃ t, exec (.xred f) s = .next t ∧ OnlyGroup cx.gid s t ∧ Passed t cx ∧
         (let vals := i.lanes.map fun k => s1.readA i f.ag false f.a k
          ∃ r : Word, Returns s t i .xc 0 (i.lanes.map fun l => .v l f.d.toNat r) ∧
            match f.opx.toNat, f.ty with
            | 0, .f32 => r = lo32 (Alu.putFlt .f32 .rne false (Alu.flt .f32 ((vals.drop 1).foldl (fun a b =>
                 Alu.putFlt .f32 f.rm false (Fl.add f.rm (Alu.flt .f32 a) (Alu.flt .f32 b))) (arg vals 0))))
            | 1, .f32 => r = lo32 (Alu.putFlt .f32 .rne false (Alu.flt .f32 ((vals.drop 1).foldl (fun a b =>
                 Alu.putFlt .f32 .rne false (Fl.minOf (Alu.flt .f32 a) (Alu.flt .f32 b))) (arg vals 0))))
            | 2, .f32 => r = lo32 (Alu.putFlt .f32 .rne false (Alu.flt .f32 ((vals.drop 1).foldl (fun a b =>
                 Alu.putFlt .f32 .rne false (Fl.maxOf (Alu.flt .f32 a) (Alu.flt .f32 b))) (arg vals 0))))
            | 0, _ => r = (vals.map lo32).foldl (fun a b => a + b) 0
            | 1, _ => (∃ x ∈ vals, r = lo32 x) ∧ ∀ x ∈ vals, rdInt f.ty (r.zeroExtend 64) ≤ rdInt f.ty x
            | 2, _ => (∃ x ∈ vals, r = lo32 x) ∧ ∀ x ∈ vals, rdInt f.ty x ≤ rdInt f.ty (r.zeroExtend 64)
            | 3, _ => r = (vals.map lo32).foldl (fun a b => a &&& b) (BitVec.allOnes 32)
            | 4, _ => r = (vals.map lo32).foldl (fun a b => a ||| b) 0
            | _, _ => r = (vals.map lo32).foldl (fun a b => a ^^^ b) 0)))
  ∧ (∀ (f : RRR) (s : State) (cx : Cx), LanesExist s cx → 0 < f.opx.toNat → f.opx.toNat < 8 →
     Issues s cx f.ctl (some .xc) (namesDA f f.ty.is64) (vNames f.ty.is64 f.d).length →
     let s1 := s.start cx f.ctl
     let i := issOf s cx f.ctl
     let src := fun l => l - l % 4 + (if f.opx.toNat < 4 then Nat.xor (l % 4) f.opx.toNat else f.opx.toNat - 4)
     ∃ t, exec (.qx f) s = .next t ∧ OnlyGroup cx.gid s t ∧ Passed t cx
       ∧ Returns s t i .xc 0 (i.lanes.flatMap fun l => retVW l f.ty.is64 f.d.toNat (s1.readA i f.ag f.ty.is64 f.a (src l)))
       ∧ ∀ l ∈ i.lanes, (t.lane cx.gid l).helper = if src l = l ∨ src l ∈ i.lanes then 0 else BitVec.ofNat 32 (2 ^ (src l % 4)))

/-- R144: RCP, RSQ, SQRT and DIV return the rounded value of their exact function. That EXP2, LOG2, SIN, COS and TANH return the rounded
value of the model's own computation to 640 bits below the binary point is the model's choice (log entry 12): R144 gives their accuracy. -/
def Obligations.SpecialFunctionsReturn : Prop :=
  ∀ (f : RRR) (s : State) (cx : Cx), LanesExist s cx →
    let s1 := s.start cx f.ctl
    let i := issOf s cx f.ctl
    let sends := fun (w : Instr) (val : Nat → DWord) =>
      ∃ t, exec w s = .next t ∧ OnlyGroup cx.gid s t ∧ Passed t cx
        ∧ Returns s t i .xc 0 (i.lanes.map fun l => .v l f.d.toNat (lo32 (val l)))
    let of := fun (g : Fl → Fl) l => BitVec.ofNat 64
      (Fl.place (Ty.fmt f.ty) f.rm f.sat (g (Alu.flt f.ty (s1.readA i f.ag false f.a l))))
    (Issues s cx f.ctl (some .xc) (namesDA f false) 1 →
      sends (.rcp f) (of Fl.recip) ∧ sends (.rsq f) (of Fl.rsqrt) ∧ sends (.sqrt f) (of Fl.sqrt) ∧ sends (.exp2 f) (of Fl.exp2)
        ∧ sends (.log2 f) (of Fl.log2) ∧ sends (.sin f) (of Fl.sin) ∧ sends (.cos f) (of Fl.cos) ∧ sends (.tanh f) (of Fl.tanh))
    ∧ (Issues s cx f.ctl (some .xc) (namesDA f false ++ (if f.bg then [] else [f.b.toNat])) 1 →
      sends (.div f) fun l => BitVec.ofNat 64 (Fl.place (Ty.fmt f.ty) f.rm f.sat
        (Fl.div (Alu.flt f.ty (s1.readA i f.ag false f.a l))
          (Alu.flt f.ty (if f.bg then s1.readG i.gid f.b.toNat else (s1.readV i.gid l 2 f.b.toNat).zeroExtend 64)))))

/-! ## Control -/

/-- R57, R101, R146, R147: BRA and BRX send each lane that takes part to its target, where it stands at a clause header; with
MV it leaves mask MSK; the other lanes of the program counter pass the word, and no register changes. -/
def Obligations.BranchesGo : Prop :=
  ∀ (f : BF) (s : State) (cx : Cx), LanesExist s cx →
    let i := issOf s cx f.ctl
    let goes := fun (w : Instr) (target : Nat → DWord) =>
      ∃ t, exec w s = .next t ∧ SameRegs cx.gid s t ∧ OtherGroups cx.gid s t ∧ SameMemory s t ∧ SameMachine s t
        ∧ (∀ l ∈ i.lanes, (t.lane cx.gid l).pc = target l ∧ (t.lane cx.gid l).pos = 0)
        ∧ (∀ l ∈ lanesOf cx.mask, l ∉ i.lanes → (t.lane cx.gid l).pc = cx.pc + 8)
        ∧ (f.mv = true → ∀ l ∈ i.lanes, ((t.group cx.gid).m.getD f.msk.toNat ⟨0, 0⟩).mask.getLsbD l = false)
    let writes := if f.mv then 1 else 0
    (Issues s cx f.ctl none [] writes → goes (.bra f) fun _ => cx.pc + BitVec.ofInt 64 (8 * f.off.toInt))
    ∧ (Issues s cx f.ctl none [f.reg.toNat, f.reg.toNat + 1] writes →
      goes (.brx f) fun l => (s.start cx f.ctl).readVW cx.gid l 1 true f.reg.toNat)

/-- R94, R148, R430: CALL and CALLX push the address after the word in every lane below depth 64 and go to the target, and trap the
others with cause 0x06; RET pops a call frame and continues at its address, and a lane at depth 0 traps with cause 0x07. A push beyond four
frames writes the fifth from the top to the call-stack region, and a pop reads the fourth back from there. -/
def Obligations.CallsAndReturns : Prop :=
  (∀ (s s1 : State) (gid l pa : Nat) (fr old : Frame) (va : DWord) (k : PageKind),
     let n := (s.lane gid l).stack.length
     l < (s.group gid).lanes.length → 4 ≤ n → (s.lane gid l).stack[3]? = some old → s.frameVa gid l (n - 4) = some va →
     (s.modLane gid l fun x => { x with stack := fr :: x.stack }).xlate
       (s.kernelWalker (keyOf gid) (s.group gid).part (some (quadOfGid gid))) va .write = (s1, .ok pa k) → pa % 128 + 8 ≤ 128 → Quiet s1 →
     (∀ j, j < 8 → (s.pushFrame gid l fr).peekByte (pa + j)
         = ((old.addr &&& ~~~7) + (if old.trap then 1 else 0)).extractLsb' (8 * j) 8)
       ∧ ∀ a, (a < pa ∨ pa + 8 ≤ a) → (s.pushFrame gid l fr).peekByte a = s1.peekByte a)
  ∧ (∀ (s s1 : State) (gid l pa : Nat) (fr f1 f2 f3 old : Frame) (rest : List Frame) (va : DWord) (k : PageKind),
     (s.lane gid l).stack = fr :: f1 :: f2 :: f3 :: old :: rest → l < (s.group gid).lanes.length →
     s.frameVa gid l rest.length = some va →
     (s.modLane gid l fun x => { x with stack := x.stack.drop 1 }).xlate
       (s.kernelWalker (keyOf gid) (s.group gid).part (some (quadOfGid gid))) va .read = (s1, .ok pa k) → pa % 128 + 8 ≤ 128 → Quiet s1 →
     let x := BitVec.ofNat 64 (leNat (s1.peek pa 8))
     ((s.popFrame gid l).lane gid l).stack = f1 :: f2 :: f3 :: { old with addr := x &&& ~~~7, trap := x.getLsbD 0 } :: rest)
  ∧ ∀ (f : BF) (s : State) (cx : Cx), LanesExist s cx → (s.group cx.gid).sys = false →
    let i := issOf s cx f.ctl
    let calls := fun (w : Instr) (target : Nat → DWord) =>
      ∃ t, exec w s = .next t ∧ ((∀ l ∈ i.lanes, (s.lane cx.gid l).stack.length < 64) → OtherGroups cx.gid s t
          ∧ (StacksOnChip s cx.gid i.lanes → SameMemory s t)) ∧ ∀ l ∈ i.lanes,
        ((s.lane cx.gid l).stack.length < 64 → (∃ r, (t.lane cx.gid l).stack = r :: (s.lane cx.gid l).stack ∧ r.trap = false
            ∧ r.addr = cx.pc + 8) ∧ (t.lane cx.gid l).pc = target l ∧ (t.lane cx.gid l).pos = 0)
        ∧ (64 ≤ (s.lane cx.gid l).stack.length →
          (t.lane cx.gid l).xcause = 0x06 ∧ (t.lane cx.gid l).xpc = cx.pc ∧ (t.lane cx.gid l).stack = (s.lane cx.gid l).stack)
    (Issues s cx f.ctl none [] 0 → calls (.call f) fun _ => cx.pc + BitVec.ofInt 64 (8 * f.off.toInt))
    ∧ (Issues s cx f.ctl none [f.reg.toNat, f.reg.toNat + 1] 0 →
      calls (.callx f) fun l => (s.start cx f.ctl).readVW cx.gid l 1 true f.reg.toNat)
    ∧ (Issues s cx f.ctl none [] 0 → ∃ t, exec (.ret f) s = .next t
        ∧ ((∀ l ∈ i.lanes, (s.lane cx.gid l).stack ≠ []) → OtherGroups cx.gid s t ∧ (StacksOnChip s cx.gid i.lanes → SameMemory s t))
        ∧ ∀ l ∈ i.lanes,
        match (s.lane cx.gid l).stack with
        | [] => (t.lane cx.gid l).xcause = 0x07 ∧ (t.lane cx.gid l).xpc = cx.pc
        | r :: rest => (t.lane cx.gid l).stack.length = rest.length ∧ (∀ k, k ≠ 3 → (t.lane cx.gid l).stack[k]? = rest[k]?)
            ∧ (StacksOnChip s cx.gid i.lanes → (t.lane cx.gid l).stack = rest) ∧ (t.lane cx.gid l).pc = r.addr
            ∧ (t.lane cx.gid l).pos = (if r.trap then r.pos else 0) ∧ (r.trap = true → (t.group cx.gid).hold = true
              ∧ (t.lane cx.gid l).left = r.left ∧ (t.lane cx.gid l).cls = r.cls))

/-- R102, R149, R304, R333: EXIT ends the lanes that take part: they are no longer live, and stand in no convergence mask; while
another lane of the group lives, the group keeps its slot. The exit of its last live lane frees the slot of a compute group whose
counters read 0, which has no task, no open phase, no matrix operation and no bank vector command; its block is then looked at again. -/
def Obligations.ExitEndsLanes : Prop :=
  ∀ (f : BF) (s : State) (cx : Cx), LanesExist s cx → Issues s cx f.ctl none [] 0 →
    let g := s.group cx.gid
    ((∃ l, l < g.lanes.length ∧ l ∉ s.taking cx f.ctl ∧ (s.lane cx.gid l).live = true) →
      ∃ t, exec (.exit f) s = .next t ∧ ∀ l ∈ s.taking cx f.ctl, (t.lane cx.gid l).live = false ∧ (t.lane cx.gid l).exited = true
        ∧ ∀ k, k < 8 → ((t.group cx.gid).m.getD k ⟨0, 0⟩).mask.getLsbD l = false)
    ∧ ((∀ l, l < g.lanes.length → l ∉ s.taking cx f.ctl → (s.lane cx.gid l).live = false) → s.hasGroup cx.gid = true →
      g.sys = false → g.cnt.zero = true → g.task = none → (∀ j, j < 16 → ∀ p, (s.join g.blk j).phase = some p → p.gid ≠ cx.gid) →
      (∀ o ∈ s.eng.mat, o.gid ≠ cx.gid) → (∀ c ∈ s.ms.bank, c.gid ≠ cx.gid) →
      ∃ t, exec (.exit f) s = .next t ∧ t.hasGroup cx.gid = false ∧ .blockRetire g.blk ∈ t.due
        ∧ (∀ b, t.block g.blk = some b → cx.gid ∉ b.gids))

/-- R94, R111, R151, R329: TRAP and BKPT enter the launch's handler in every lane that takes part, with cause 0x08 or 0x09, the code in
%xinfo, and a trap frame that resumes at the next word. A trap that cannot enter a handler, because the stack is full, a handler runs
already or the launch has none, ends the launch: every group of it stops at its next clause boundary. -/
def Obligations.TrapsEnterTheHandlerOrEndTheLaunch : Prop :=
  (∀ (f : EF) (s : State) (cx : Cx), Issues s cx f.ctl none [] 0 → CanTrap s cx.gid (s.taking cx f.ctl) →
     let enters := fun (w : Instr) (cause : Nat) =>
       ∃ t, exec w s = .next t ∧ OtherGroups cx.gid s t ∧ (StacksOnChip s cx.gid (s.taking cx f.ctl) → SameMemory s t)
         ∧ ∀ l ∈ s.taking cx f.ctl, Entered (s.lane cx.gid l) (t.lane cx.gid l) { cx.at_ cause (f.imm8.zeroExtend 64) with next := true } (handlerOf s cx.gid)
     enters (.trap f) 0x08 ∧ enters (.bkpt f) 0x09)
  ∧ (∀ (f : EF) (s : State) (cx : Cx) (x : Launch), Issues s cx f.ctl none [] 0 → (s.group cx.gid).sys = false →
     (s.group cx.gid).serving = false → s.launch (s.group cx.gid).lid = some x → x.ending = false →
     (x.record.handler = 0 ∨ ∃ l ∈ s.taking cx f.ctl, 64 ≤ (s.lane cx.gid l).stack.length
       ∨ ∃ r ∈ (s.lane cx.gid l).stack, r.trap = true) →
     ∃ t y, exec (.trap f) s = .next t ∧ t.launch x.lid = some y ∧ y.ending = true ∧ .launchEnd x.lid ∈ t.due
       ∧ ∀ k, (t.group k).lid = x.lid → s.hasGroup k = true → (t.group k).sys = false → (t.group k).stopping = true)

/-- R61: on a compute core CSRR, CSRW, ERET, HALT, PREEMPT, KEYLD, TLBINV, TLBSYNC and RESUME trap with cause 0x04,
whatever the guard reads; TLBLOCK, TLBUNLK and TLBPRE run there. A word of an unassigned opcode traps with cause 0x01, whatever else it
holds. -/
def Obligations.PrivilegedWordsTrap : Prop :=
  (∀ (f : EF) (s : State) (cx : Cx) (w : Instr), s.cur = some cx → isSysGid cx.gid = false →
     CanTrap s cx.gid (lanesOf cx.mask) →
     w ∈ [Instr.csrr f, .csrw f, .eret f, .halt f, .preempt f, .keyld f, .tlbinv f, .tlbsync f, .resume f] →
     ∃ t, exec w s = .next t ∧ OtherGroups cx.gid s t ∧ (StacksOnChip s cx.gid (lanesOf cx.mask) → t.mem = s.mem)
       ∧ (t.group cx.gid).hold = (s.group cx.gid).hold ∧ ∀ l ∈ lanesOf cx.mask, Entered (s.lane cx.gid l) (t.lane cx.gid l) (cx.at_ 0x04 cx.word) (handlerOf s cx.gid))
  ∧ (∀ (f : EF) (s : State) (cx : Cx), LanesExist s cx → isSysGid cx.gid = false →
    (Issues s cx f.ctl (some .mc) [f.a.toNat] 0 → ∃ t, exec (.tlblock f) s = .next t ∧ Counted s t cx .mc)
    ∧ (Issues s cx f.ctl none [] 0 → ∃ t, exec (.tlbunlk f) s = .next t ∧ Passed t cx)
    ∧ (Issues s cx f.ctl (some .mc) [] 0 → ∃ t, exec (.tlbpre f) s = .next t ∧ Counted s t cx .mc))
  ∧ ∀ (s s1 : State) (cx : Cx) (pa : Nat) (k : PageKind), s.xlate (s.laneWalker cx.gid) cx.pc .fetch = (s1, .ok pa k) →
    s1.ms.bad.contains (lineOf pa) = false →
    let w := BitVec.ofNat 64 (leNat (s1.peek pa 8))
    opClass (opcodeOf w) = none → s.issueWord cx = .over (s1.trap cx.gid (lanesOf cx.mask) (cx.at_ 0x01 w))

/-- R113, R150: YIELD parks the lanes that take part until their clocks have passed, or for none until their group is picked again, and
its expiry lets them go on: their group issues nothing until its counters read 0. -/
def Obligations.YieldParksAndExpires : Prop :=
  (∀ (f : EF) (s : State) (cx : Cx), LanesExist s cx → Issues s cx f.ctl none [] 0 →
    ∃ t, exec (.yield f) s = .next t ∧ SameRegs cx.gid s t ∧ OtherGroups cx.gid s t ∧ SameMemory s t ∧ SameMachine s t
      ∧ t.due = s.due ++ [.yieldExpiry ⟨cx.gid, s.nextId + 1⟩] ∧ (∀ l ∈ s.taking cx f.ctl, (t.lane cx.gid l).park = some (s.nextId + 1))
      ∧ ∃ w, t.waits = s.waits ++ [w] ∧ w.id = s.nextId + 1 ∧ w.kind = .yield (s.clock + f.imm8.toNat) (if f.imm8 = 0 then some (s.group cx.gid).picked else none)
        ∧ ∀ l, w.lanes.getLsbD l = decide (l ∈ s.taking cx f.ctl))
  ∧ ∀ (r : WaitRef) (s : State) (w : Wait) (u : Nat) (p : Option Nat), s.wait r.id = some w → w.kind = .yield u p →
    (match p with
      | none => u ≤ s.clock
      | some n => (s.group w.gid).picked ≠ n) →
    ∃ t, exec (.yieldExpiry r) s = .next t ∧ SameRegs w.gid s t ∧ OtherGroups w.gid s t ∧ SameMemory s t ∧ SameMachine s t
      ∧ (t.group w.gid).hold = true ∧ (∀ x ∈ t.waits, x.id ≠ w.id)
      ∧ ∀ l ∈ lanesOf w.lanes, (s.lane w.gid l).park = some w.id → (t.lane w.gid l).park = none

/-- R101, R113, R152, R153: MSET records the lanes that take part and the address, unless slot B writes the mask that slot A wrote in
this clock; RECONV elsewhere than there traps with cause 0x0A and leaves the mask; a lane outside the mask passes, and one inside it
parks. When the last lane of the mask arrives, all of them go on behind the word, the mask is empty, and their group issues nothing
until its counters read 0. -/
def Obligations.ConvergenceMasks : Prop :=
  ∀ (f : EF) (s : State) (cx : Cx), LanesExist s cx → Issues s cx f.ctl none [] 0 →
    f.a.toNat < (s.group cx.gid).m.length →
    let old := (s.group cx.gid).m.getD f.a.toNat ⟨0, 0⟩
    (∃ t x, exec (.mset f) s = .next t ∧ SameRegs cx.gid s t ∧ OtherGroups cx.gid s t ∧ SameMemory s t ∧ SameMachine s t
      ∧ (t.group cx.gid).m[f.a.toNat]? = some x
      ∧ if s.cycle.slotB && s.cycle.wrote.contains (cx.gid, 64 + f.a.toNat) then x = old
        else (∀ l, x.mask.getLsbD l = decide (l ∈ s.taking cx f.ctl)) ∧ x.addr = cx.pc + BitVec.ofInt 64 (8 * (msetOff f).toInt))
    ∧ (old.mask ≠ 0 → old.addr ≠ cx.pc → CanTrap s cx.gid (s.taking cx f.ctl) →
      ∃ t, exec (.reconv f) s = .next t ∧ (t.group cx.gid).m = (s.group cx.gid).m ∧ ∀ l ∈ s.taking cx f.ctl,
        Entered (s.lane cx.gid l) (t.lane cx.gid l) (cx.at_ 0x0A (f.a.zeroExtend 64)) (handlerOf s cx.gid))
    ∧ ((old.mask = 0 ∨ old.addr = cx.pc) → (∀ l ∈ s.taking cx f.ctl, old.mask.getLsbD l = false) →
      exec (.reconv f) s = .next (s.start cx f.ctl))
    ∧ (old.addr = cx.pc → (∃ l, old.mask.getLsbD l = true ∧ l ∉ s.taking cx f.ctl ∧
          ∀ w ∈ s.waits, w.gid = cx.gid → w.kind = .reconv f.a.toNat → w.lanes.getLsbD l = false) →
      ∃ t, exec (.reconv f) s = .next t ∧ SameRegs cx.gid s t ∧ OtherGroups cx.gid s t ∧ SameMemory s t ∧ SameMachine s t
        ∧ (t.group cx.gid).m = (s.group cx.gid).m
        ∧ ∀ l ∈ s.taking cx f.ctl, old.mask.getLsbD l = true → (t.lane cx.gid l).park ≠ none)
    ∧ (old.addr = cx.pc → (∃ l ∈ s.taking cx f.ctl, old.mask.getLsbD l = true) →
      (∀ l, old.mask.getLsbD l = true → l ∈ s.taking cx f.ctl ∨ ∃ w ∈ s.waits, w.gid = cx.gid ∧ w.kind = .reconv f.a.toNat
        ∧ w.lanes.getLsbD l = true ∧ (s.lane cx.gid l).park = some w.id) →
      ∃ t, exec (.reconv f) s = .next t ∧ SameRegs cx.gid s t ∧ OtherGroups cx.gid s t ∧ SameMemory s t ∧ SameMachine s t
        ∧ (t.group cx.gid).m[f.a.toNat]? = some ⟨0, 0⟩ ∧ (t.group cx.gid).hold = true ∧ Passed t cx
        ∧ (∀ w ∈ t.waits, w.gid = cx.gid → w.kind ≠ .reconv f.a.toNat)
        ∧ ∀ l, old.mask.getLsbD l = true → (t.lane cx.gid l).park = none
          ∧ (l ∉ lanesOf cx.mask → (t.lane cx.gid l).pc = (s.lane cx.gid l).pc))

/-- R104, R157, R224, R423: JSET sets E and the mode and clears A, leaving T, where the count is at most 12,288 and the register is not
busy: no arrival, no phase, and no lane parked in BAR or WAITC on its token; otherwise it traps with cause 0x0C or 0x0D. JREAD reads the
token or the counts. A system core has join registers of its own. -/
def Obligations.JoinRegistersAreSetAndRead : Prop :=
  ∀ (f : EF) (s : State) (cx : Cx), LanesExist s cx →
    ((∃ b, s.block (s.group cx.gid).blk = some b ∧ f.x.toNat < b.joins.length) ∨ s.block (s.group cx.gid).blk = none) →
    let j := f.x.toNat
    let x := s.join (s.group cx.gid).blk j
    let e := ((s.start cx f.ctl).readV cx.gid (issOf s cx f.ctl).low 1 f.a.toNat).toNat
    let waited := ∃ w ∈ s.waits, (s.group w.gid).blk = (s.group cx.gid).blk ∧ ((∃ sc st, w.kind = .bar j x.t sc st)
      ∨ ∃ conds all limit reg sc, w.kind = .waitc conds all limit reg sc ∧ ∃ c ∈ conds, c.kind = 1 ∧ c.index = j ∧ c.value = x.t)
    (Issues s cx f.ctl none [f.a.toNat] 0 → e ≤ 12288 → x.a = 0 → ¬waited → x.phase = none →
      ∃ t, exec (.jset f) s = .next t ∧ SameRegs cx.gid s t ∧ (∀ k, (t.group k).blk = (s.group k).blk) ∧ SameMemory s t
        ∧ t.join (s.group cx.gid).blk j = { x with e := e, a := 0, mode := f.flags.getLsbD 0, arrived := [] }
        ∧ ∀ k, k ≠ j → t.join (s.group cx.gid).blk k = s.join (s.group cx.gid).blk k)
    ∧ (Issues s cx f.ctl none [f.a.toNat] 0 → CanTrap s cx.gid (s.taking cx f.ctl) →
      (12288 < e ∨ x.a ≠ 0 ∨ waited ∨ x.phase ≠ none) →
      ∃ t, exec (.jset f) s = .next t ∧ t.blocks = s.blocks ∧ ∀ l ∈ s.taking cx f.ctl, Entered (s.lane cx.gid l)
        (t.lane cx.gid l) (cx.at_ (if 12288 < e then 0x0C else 0x0D) (f.x.zeroExtend 64)) (handlerOf s cx.gid))
    ∧ (Issues s cx f.ctl none [f.a.toNat] 1 →
      ∃ t, exec (.jread f) s = .next t ∧ OtherGroups cx.gid s t ∧ SameMemory s t ∧ SameMachine s t ∧ ∀ l ∈ s.taking cx f.ctl,
        (t.lane cx.gid l).vReg f.a.toNat
          = if f.flags.getLsbD 0 then BitVec.ofNat 32 (x.e + 2 ^ 14 * x.a + (if x.mode then 2 ^ 31 else 0)) else x.t)

/-- R105, R156, R423: BAR and ARRIVE count each lane that takes part. While the count stays below E the token stands and a lane of BAR
parks; when it reaches E the token rises by 1, A is 0 and no lane that arrived stays parked. ARRIVE, and BAR with TK, give each lane
the token before. Arrivals that would complete a second phase in one clock are held: the count stands, and the lanes park. -/
def Obligations.ArrivalsCompletePhases : Prop :=
  ∀ (f : EF) (s : State) (cx : Cx), LanesExist s cx →
    ((∃ b, s.block (s.group cx.gid).blk = some b ∧ f.x.toNat < b.joins.length) ∨ s.block (s.group cx.gid).blk = none) →
    (∀ l ∈ lanesOf cx.mask, (s.lane cx.gid l).park = none) →
    let j := f.x.toNat
    let x := s.join (s.group cx.gid).blk j
    let n := (s.taking cx f.ctl).length
    let counted := fun (t : State) => (x.a + n < x.e → (t.join (s.group cx.gid).blk j).a = x.a + n
        ∧ (t.join (s.group cx.gid).blk j).t = x.t)
      ∧ (x.a + n = x.e → (t.join (s.group cx.gid).blk j).a = 0 ∧ (t.join (s.group cx.gid).blk j).t = x.t + 1)
    x.mode = false → x.a + n ≤ x.e →
    let held := fun (t : State) => t.join (s.group cx.gid).blk j = x ∧ ∀ l ∈ s.taking cx f.ctl, (t.lane cx.gid l).park ≠ none
    (x.last = s.clock + 1 → x.a + 1 = x.e →
      (Issues s cx f.ctl none [f.a.toNat] 1 → ∃ t, exec (.arrive f) s = .next t ∧ held t)
      ∧ (f.flags.getLsbD 0 = false → Issues s cx f.ctl none (if f.flags.getLsbD 4 then [f.a.toNat] else [])
        (if f.flags.getLsbD 4 then 1 else 0) → ∃ t, exec (.bar f) s = .next t ∧ held t))
    ∧ (x.last ≠ s.clock + 1 → Issues s cx f.ctl none [f.a.toNat] 1 → ∃ t, exec (.arrive f) s = .next t ∧ counted t ∧
      ∀ l ∈ s.taking cx f.ctl, (t.lane cx.gid l).vReg f.a.toNat = x.t ∧ (t.lane cx.gid l).park = none)
    ∧ (x.last ≠ s.clock + 1 → f.flags.getLsbD 0 = false →
      Issues s cx f.ctl none (if f.flags.getLsbD 4 then [f.a.toNat] else []) (if f.flags.getLsbD 4 then 1 else 0) →
      ∃ t, exec (.bar f) s = .next t ∧ counted t ∧ ∀ l ∈ s.taking cx f.ctl,
        (f.flags.getLsbD 4 = true → (t.lane cx.gid l).vReg f.a.toNat = x.t)
        ∧ (x.a + n < x.e → (t.lane cx.gid l).park ≠ none) ∧ (x.a + n = x.e → (t.lane cx.gid l).park = none))

/-- R106 (and R155, R156 in part): `bar.wait` on a past token goes on at once, with its status true; on the current or a future token it
parks, and an arrival that completes the phase of its token, and no other, releases it with its status false. BAR and ARRIVE on a signing
register trap with cause 0x0B. -/
def Obligations.BarWaitsOnTokens : Prop :=
  (∀ (f : EF) (s : State) (cx : Cx) (l : Nat), LanesExist s cx → s.taking cx f.ctl = [l] →
     let j := f.x.toNat
     let x := s.join (s.group cx.gid).blk j
     let d := (x.t - (s.start cx f.ctl).readV cx.gid l 1 f.a.toNat).toNat
     (f.flags.getLsbD 0 = true → f.flags.getLsbD 4 = false → Issues s cx f.ctl none [f.a.toNat] 0 → x.mode = false →
       ∃ t, exec (.bar f) s = .next t ∧ t.join (s.group cx.gid).blk j = x
         ∧ (1 ≤ d ∧ d ≤ 2 ^ 31 → (t.lane cx.gid l).park = (s.lane cx.gid l).park
             ∧ (f.flags.getLsbD 5 = true → f.b.toNat < 7 → (t.lane cx.gid l).pReg f.b.toNat = true))
         ∧ (d = 0 ∨ 2 ^ 31 < d → (t.lane cx.gid l).park ≠ none))
     ∧ (x.mode = true → CanTrap s cx.gid [l] →
       let traps := fun (w : Instr) => ∃ t, exec w s = .next t ∧ t.blocks = s.blocks
         ∧ Entered (s.lane cx.gid l) (t.lane cx.gid l) (cx.at_ 0x0B (f.x.zeroExtend 64)) (handlerOf s cx.gid)
       (Issues s cx f.ctl none [f.a.toNat] 1 → traps (.arrive f))
       ∧ (Issues s cx f.ctl none (if f.flags.getLsbD 0 || f.flags.getLsbD 4 then [f.a.toNat] else [])
           (if f.flags.getLsbD 4 then 1 else 0) → traps (.bar f))))
  ∧ ∀ (f : EF) (s : State) (cx : Cx) (l : Nat) (w : Wait) (b : Block) (t : Word) (scope : Scope) (st : Option (BitVec 8)),
    LanesExist s cx → s.taking cx f.ctl = [l] → Issues s cx f.ctl none [f.a.toNat] 1 → s.block (s.group cx.gid).blk = some b →
    f.x.toNat < b.joins.length → s.waits = [w] → w.kind = .bar f.x.toNat t scope st → w.gid ≠ cx.gid →
    (s.group w.gid).blk = (s.group cx.gid).blk →
    (∀ k ∈ lanesOf w.lanes, k < (s.group w.gid).lanes.length ∧ (s.lane w.gid k).park = some w.id) →
    let x := s.join (s.group cx.gid).blk f.x.toNat
    x.mode = false → x.e = x.a + 1 → x.last ≠ s.clock + 1 →
    ∃ u, exec (.arrive f) s = .next u ∧ ∀ k ∈ lanesOf w.lanes,
      (t ≠ x.t → (u.lane w.gid k).park = some w.id)
      ∧ (t = x.t → (u.lane w.gid k).park = none ∧ ∀ p, st = some p → p.toNat < 7 → (u.lane w.gid k).pReg p.toNat = false)

/-! ## Memory instructions -/

/-- R45, R100, R149, R196, R197, R202, R234: LD completes when every lane passes its checks, and LDC rises by 1; with memory at rest, the
result that returns holds memory's bytes in each lane's data register, and memory stands; a `.b128` load may return only once its second
half has performed. A result lands: the registers it names take its values but in a lane that has exited, its counter falls by 1, and memory
stands. -/
def Obligations.LoadsReturnMemory : Prop :=
  (∀ (f : MF) (s : State) (cx : Cx), LanesExist s cx →
     Issues s cx f.ctl (some .ldc) (dataNames f ++ addrNames f) (MTy.regs f.ty) → AllPass s cx f .read (MTy.bytes f.ty) false →
     let ok := (check s cx f .read (MTy.bytes f.ty) false).ok
     ∃ t, exec (.ld f) s = .next t ∧ Counted s t cx .ldc ∧
       (Quiet s → InLine ok (MTy.bytes f.ty) → Ungated s cx.gid ok → t.mem = s.mem ∧ (f.ty ≠ .b128 → t.ms.jobs = [])
         ∧ (t.ms.jobs = [] → t.due = s.due ++ [.resultReturn ⟨s.nextId, cx.gid, some .ldc, maskOf (ok.map fun a => a.lane),
           ok.flatMap fun a => loadWrites a.lane f.data.toNat f.ty (Memory.readBytes s.mem a.pa (MTy.bytes f.ty)), []⟩])))
  ∧ (∀ (r : Ret) (s : State) (c : Ctr), r.ctr = some c → (∀ a ∈ s.after, a.id ≠ r.id) →
     (∃ l, l < (s.group r.gid).lanes.length ∧ (s.lane r.gid l).live = true) →
     ∃ t, exec (.resultReturn r) s = .next t ∧ OtherGroups r.gid s t ∧ SameMemory s t ∧ SameMachine s t ∧ t.due = s.due
       ∧ (t.group r.gid).cnt = (s.group r.gid).cnt.fall c
       ∧ ∀ l reg val, r.writes = [.v l reg val] → l < (s.group r.gid).lanes.length →
         (t.lane r.gid l).vReg reg = (if (s.lane r.gid l).exited then (s.lane r.gid l).vReg reg else val)
           ∧ ∀ k, k ≠ reg → (t.lane r.gid l).vReg k = (s.lane r.gid l).vReg k)

/-- R14, R45, R165, R196, R198, R202, R234, R245: ST completes when every lane passes its checks, and STC rises by 1; with memory at rest
and no earlier access of its lanes in the way, one write sets out for each line, with the bytes of all lanes that store there, and memory
stands until it is accepted. An accepted write leaves its bytes at its line, on a page of any kind, and every other byte as it was, and its
acknowledgement returns, on a shared page with the line's next sequence tag; a write of `.b128` may perform by its two halves. -/
def Obligations.StoresSetOutAndStand : Prop :=
  (∀ (f : MF) (s : State) (cx : Cx), LanesExist s cx → Issues s cx f.ctl (some .stc) (dataNames f ++ addrNames f) 0 →
     AllPass s cx f .write (MTy.bytes f.ty) false →
     let ok := (check s cx f .write (MTy.bytes f.ty) false).ok
     ∃ t, exec (.st f) s = .next t ∧ Counted s t cx .stc ∧
       (Quiet s → NoneHeld s cx.gid (s.taking cx f.ctl) → Ungated s cx.gid ok →
         t.mem = s.mem ∧ t.due = s.due ++ (byLine ok).flatMap (packet (s.start cx f.ctl) (issOf s cx f.ctl) f
           ⟨s.nextId, cx.gid, some .stc, maskOf (ok.map fun a => a.lane), [], []⟩)))
  ∧ (∀ (w : WritePkt) (s : State), Quiet s → Plain w.bytes →
     ∃ t, exec (.homeWriteAccept w) s = .next t ∧ t.groups = s.groups ∧ t.blocks = s.blocks
       ∧ ((Stored s t w.line (leftBytes w.done w.bytes)
             ∧ ∀ r, w.ret = some r → ∃ tags, t.due = s.due ++ [.resultReturn { r with tags := r.tags ++ tags }]
               ∧ (w.kind = .shared → tags = [(w.line, Map.get 0 s.ms.tags w.line + 1)]))
         ∨ (w.split = true ∧ w.done = none ∧ ∃ h, Stored s t w.line (halfBytes h w.bytes)
             ∧ t.due = s.due ++ [.homeWriteAccept { w with done := some h }])))

/-- R158, R196, R197, R204, R234: the scratchpad loads return the bytes of the block that each lane selects, and the stores write them,
leaving every other byte of every scratchpad; under `.lax` an LDSS beyond its range returns zeros. A `.b128` access may perform by halves. -/
def Obligations.ScratchpadAccesses : Prop :=
  ∀ (f : MF) (s : State) (cx : Cx), LanesExist s cx →
    let s1 := s.start cx f.ctl
    let i := issOf s cx f.ctl
    let loads := fun (w : Instr) (c : List Acc × List (Nat × Nat × DWord)) => c.2 = [] →
      ∃ t, exec w s = .next t ∧ Counted s t cx .ldc ∧ t.blocks = s.blocks ∧ (Quiet s → t.mem = s.mem ∧ (f.ty ≠ .b128 → t.ms.jobs = [])
        ∧ (t.ms.jobs = [] → t.due = s.due ++ [.resultReturn ⟨s.nextId, cx.gid, some .ldc, 0, c.1.flatMap fun a =>
          loadWrites a.lane f.data.toNat f.ty (s.readS a.blk a.off (MTy.bytes f.ty)), []⟩]))
    let stores := fun (w : Instr) (c : List Acc × List (Nat × Nat × DWord)) => c.2 = [] →
      ∃ t, exec w s = .next t ∧ Counted s t cx .stc
        ∧ (∀ b o, (∀ a ∈ c.1, a.blk = b → o < a.off ∨ a.off + MTy.bytes f.ty ≤ o) → t.readS b o 1 = s.readS b o 1)
        ∧ (∀ a, c.1 = [a] → (s.block a.blk).isSome = true → NoneHeld s cx.gid [a.lane] → f.ty ≠ .b128 →
          t.readS a.blk a.off (MTy.bytes f.ty) = s1.storeBytes cx.gid a.lane f.data.toNat f.ty)
        ∧ (Quiet s → NoneHeld s cx.gid (s.taking cx f.ctl) → t.mem = s.mem ∧ (f.ty ≠ .b128 → t.ms.jobs = [])
          ∧ (t.ms.jobs = [] → t.due = s.due ++ [.resultReturn ⟨s.nextId, cx.gid, some .stc, 0, [], []⟩]
            ∧ ∀ a, c.1 = [a] → (s.block a.blk).isSome = true →
              t.readS a.blk a.off (MTy.bytes f.ty) = s1.storeBytes cx.gid a.lane f.data.toNat f.ty))
    (Issues s cx f.ctl (some .ldc) (dataNames f ++ addrNames f) (MTy.regs f.ty) → loads (.lds f) (checkS s cx f false (s1.ownBlock i)))
    ∧ (Issues s cx f.ctl (some .ldc) (dataNames f ++ addrNames f ++ [f.aux.toNat]) (MTy.regs f.ty) →
      let c := checkS s cx f true (s1.auxBlock i f)
      loads (.ldss f) c
      ∧ (f.lax = true → c.2 ≠ [] → (∀ x ∈ c.2, x.2.1 = 0x11) → ∃ t, exec (.ldss f) s = .next t ∧ Counted s t cx .ldc ∧ t.blocks = s.blocks
        ∧ (Quiet s → t.ms.jobs = [] → ∃ ws, t.due = s.due ++ [.resultReturn ⟨s.nextId, cx.gid, some .ldc, 0, ws, []⟩]
          ∧ ∀ x ∈ c.2, (∀ r val, RegWrite.v x.1 r val ∈ ws → val = 0) ∧ (RegWrite.v x.1 f.data.toNat 0 ∈ ws))))
    ∧ (Issues s cx f.ctl (some .stc) (dataNames f ++ addrNames f) 0 → stores (.sts f) (checkS s cx f false (s1.ownBlock i)))
    ∧ (Issues s cx f.ctl (some .stc) (dataNames f ++ addrNames f ++ [f.aux.toNat]) 0 →
      stores (.stss f) (checkS s cx f true (s1.auxBlock i f)))

/-- R189, R190, R213: in a lane alone, with no earlier access of it in the way: STFE writes its bytes and turns its granule full where no
reader waits on it; LDFE takes a full granule at once, emptying it under CLR, and parks on an empty one; FESET sets its run of bits. -/
def Obligations.FullEmptyBits : Prop :=
  ∀ (f : MF) (s : State) (cx : Cx) (a : Acc) (b : Block), LanesExist s cx → s.taking cx f.ctl = [a.lane] →
    s.block (s.group cx.gid).blk = some b → (∀ w ∈ s.waits, ∀ k l o ty r c, w.kind ≠ .ldfe k l o ty r c) →
    (∀ l, (s.lane cx.gid l).park = none) → isSysGid cx.gid = false → NoneHeld s cx.gid [a.lane] →
    let own := (s.start cx f.ctl).ownBlock (issOf s cx f.ctl)
    (Issues s cx f.ctl (some .stc) (dataNames f ++ addrNames f) 0 → checkS s cx f false own = ([a], []) →
      ∃ t x, exec (.stfe f) s = .next t ∧ Counted s t cx .stc ∧ (Quiet s → t.mem = s.mem) ∧ t.block (s.group cx.gid).blk = some x
        ∧ (∀ k, x.isFull k = (k == a.off / 16 || b.isFull k))
        ∧ x.readB a.off (MTy.bytes f.ty) = (s.start cx f.ctl).storeBytes cx.gid a.lane f.data.toNat f.ty)
    ∧ (Issues s cx f.ctl (some .ldc) (dataNames f ++ addrNames f) (MTy.regs f.ty) → checkS s cx f true own = ([a], []) →
      (b.isFull (a.off / 16) = true → ∃ t x, exec (.ldfe f) s = .next t ∧ Counted s t cx .ldc ∧ (t.lane cx.gid a.lane).park = none
        ∧ t.block (s.group cx.gid).blk = some x ∧ (∀ k, x.isFull k = (b.isFull k && !(f.aux.getLsbD 0 && k == a.off / 16)))
        ∧ ∃ id, t.due = s.due ++ [.resultReturn ⟨id, cx.gid, some .ldc, 0,
            loadWrites a.lane f.data.toNat f.ty (b.readB a.off (MTy.bytes f.ty)), []⟩])
      ∧ (b.isFull (a.off / 16) = false → ∃ t, exec (.ldfe f) s = .next t ∧ Counted s t cx .ldc ∧ t.blocks = s.blocks
        ∧ t.due = s.due ∧ (t.lane cx.gid a.lane).park ≠ none))
    ∧ (Issues s cx f.ctl (some .stc) (f.data.toNat :: addrNames f) 0 →
      let n := ((s.start cx f.ctl).readV cx.gid a.lane 16 f.data.toNat).toNat
      (s.start cx f.ctl).offs (issOf s cx f.ctl) f true = [(a.lane, a.off)] → a.off % 16 = 0 →
      a.off + 16 * n ≤ s.scratchSize (s.group cx.gid).blk →
      ∃ t x, exec (.feset f) s = .next t ∧ Counted s t cx .stc ∧ t.block (s.group cx.gid).blk = some x ∧ x.scratch = b.scratch
        ∧ ∀ k, x.isFull k = if a.off / 16 ≤ k ∧ k < a.off / 16 + n then f.aux.getLsbD 0 else b.isFull k)

/-- R216 to R218: with memory at rest, in a lane alone, ATOM writes its operation of the old value and B, and ATOMC writes B where the
old value equals the compare operand; both return the old value. ATOMS does the same in the scratchpad, leaving its full-empty bits. -/
def Obligations.AtomicsReturnTheOldValue : Prop :=
  ∀ (f : MF) (s : State) (cx : Cx), LanesExist s cx → f.ty ≠ .b128 →
    let s1 := s.start cx f.ctl
    let n := MTy.bytes f.ty
    let atomic := fun (w : Instr) (op : Nat → DWord → DWord) => AllPass s cx f .atomic n true →
      ∃ t, exec w s = .next t ∧ Counted s t cx .ldc ∧ ∀ a, Quiet s → (check s cx f .atomic n true).ok = [a] → InLine [a] n →
        NoneHeld s cx.gid [a.lane] → Ungated s cx.gid [a] →
        Stored s t (lineOf a.pa) (bytesAt a.pa (leBytes n (op a.lane (BitVec.ofNat 64 (leNat (Memory.readBytes s.mem a.pa n)))).toNat))
        ∧ t.due = s.due ++ [.resultReturn ⟨s.nextId, cx.gid, some .ldc, maskOf [a.lane],
            loadWrites a.lane f.data.toNat f.ty (Memory.readBytes s.mem a.pa n), nextTag s a⟩]
    (Issues s cx f.ctl (some .ldc) (dataNames f ++ addrNames f) (MTy.regs f.ty) →
      atomic (.atom f) fun l old => Alu.memOp (f.aux.toNat / 16) f.ty old (dataOf s1 cx.gid l f))
    ∧ (Issues s cx f.ctl (some .ldc) (dataNames f ++ addrNames f ++ vNames (n == 8) f.aux) (MTy.regs f.ty) →
      atomic (.atomc f) fun l old =>
        if old = s1.readVW cx.gid l 3 (n == 8) f.aux.toNat then dataOf s1 cx.gid l f else old)
    ∧ (Issues s cx f.ctl (some .ldc) (dataNames f ++ addrNames f) (MTy.regs f.ty) →
      (checkS s cx f true (s1.ownBlock (issOf s cx f.ctl))).2 = [] →
      ∃ t, exec (.atoms f) s = .next t ∧ Counted s t cx .ldc ∧
        ∀ a b, checkS s cx f true (s1.ownBlock (issOf s cx f.ctl)) = ([a], []) → s.block a.blk = some b → Quiet s →
          NoneHeld s cx.gid [a.lane] →
          t.mem = s.mem
          ∧ t.readS a.blk a.off n = leBytes n (Alu.memOp (f.aux.toNat / 16) f.ty (BitVec.ofNat 64 (leNat (b.readB a.off n)))
              (dataOf s1 cx.gid a.lane f)).toNat
          ∧ (∃ x, t.block a.blk = some x ∧ x.full = b.full)
          ∧ t.due = s.due ++ [.resultReturn ⟨s.nextId, cx.gid, some .ldc, 0, loadWrites a.lane f.data.toNat f.ty (b.readB a.off n), []⟩])

/-- R67, R167, R168, R216, R219, R220: RED completes with STC up by 1 and without a result; with memory at rest a plain reduction on a
compute core rests in the curd buffer and memory stands; one applied at home writes its operation of the value there and its operand. The
integer operations of ATOM, ATOMS and RED on a 32-bit word. -/
def Obligations.ReductionsRestAndApply : Prop :=
  ((∀ (f : MF) (s : State) (cx : Cx), LanesExist s cx → Issues s cx f.ctl (some .stc) (dataNames f ++ addrNames f) 0 →
     AllPass s cx f .atomic (MTy.bytes f.ty) true →
     ∃ t, exec (.red f) s = .next t ∧ Counted s t cx .stc ∧
       ∀ a, Quiet s → (check s cx f .atomic (MTy.bytes f.ty) true).ok = [a] → NoneHeld s cx.gid [a.lane] → Ungated s cx.gid [a] →
         a.kind ≠ .ms → f.ord ≠ .rel → isSysGid cx.gid = false →
         t.mem = s.mem ∧ (∃ w, t.ms.curd = [w] ∧ w.core = keyOf cx.gid ∧ w.addr = a.pa ∧ w.op = f.aux.toNat / 16 ∧ w.ty = f.ty
           ∧ w.val = dataOf (s.start cx f.ctl) cx.gid a.lane f)
         ∧ t.due = s.due ++ [.resultReturn ⟨s.nextId, cx.gid, some .stc, maskOf [a.lane], [], []⟩])
   ∧ ∀ (r : FlushedRed) (w : RedWord) (s : State), Quiet s → r.words = [w] → lineOf w.addr = r.line →
     w.addr % 128 + MTy.bytes r.ty ≤ 128 → MTy.bytes r.ty ≤ 8 →
     ∃ t, exec (.flushedReductionApply r) s = .next t ∧ t.groups = s.groups ∧ t.blocks = s.blocks
       ∧ Stored s t r.line (bytesAt w.addr (leBytes (MTy.bytes r.ty)
           (Alu.memOp r.op r.ty (BitVec.ofNat 64 (leNat (Memory.readBytes s.mem w.addr (MTy.bytes r.ty)))) w.val).toNat))
       ∧ ∀ x, r.ret = some x → ∃ tags, t.due = s.due ++ [.resultReturn { x with tags := x.tags ++ tags }])
  ∧ (∀ (t : MTy) (old b : DWord), t = .i32 ∨ t = .n32 →
     let v := fun (x : DWord) => rdInt (if t = .i32 then .i32 else .n32) x
     let r := fun (op : Nat) => Alu.memOp op t old b
     ((r 0).toNat % 2 ^ 32 = (old.toNat + b.toNat) % 2 ^ 32)
     ∧ v (r 1) = min (v old) (v b) ∧ v (r 2) = max (v old) (v b) ∧ r 3 = old &&& b ∧ r 4 = old ||| b ∧ r 5 = old ^^^ b ∧ r 6 = b
     ∧ (t = .n32 → v (r 7) = (if v b ≤ v old then 0 else v old + 1)
       ∧ v (r 8) = (if v old = 0 ∨ v b < v old then v b else v old - 1)))

/-- R171 to R173, R176, R178, R206 to R210: STN sends its parking notice with STC up by 1; accepted, it parks the line for its readers
with the bytes written, whole or by halves for `.b128`; REPARK parks a line of its own accord; LOCATE adds the core to a parked line's set
and the record is moving until its notice arrives; PARKQ reports the record, and a written-back line leaves its site. -/
def Obligations.ParkedLines : Prop :=
  (∀ (f : MF) (s : State) (cx : Cx), LanesExist s cx →
    let s1 := s.start cx f.ctl
    let word := fun (l : Nat) => s1.readV cx.gid l 3 f.aux.toNat
    let plain := fun (a : Acc) => a.kind = .ms ∨ (word a.lane).toNat / 2 ^ 29 = 0
    let still := (∀ x ∈ s.due, inFlight x = none) ∧ s.ms.curd = []
    (Issues s cx f.ctl (some .stc) (dataNames f ++ addrNames f ++ [f.aux.toNat]) 0 → AllPass s cx f .write (MTy.bytes f.ty) true →
      let ok := (check s cx f .write (MTy.bytes f.ty) true).ok
      (∀ a ∈ ok, plain a ∨ ∃ m, s.readerSet cx.gid (word a.lane) = some m ∧ leavesQuad a.kind m = false) →
      ∃ t, exec (.stn f) s = .next t ∧ Counted s t cx .stc ∧
        ∀ a m, Quiet s → ok = [a] → NoneHeld s cx.gid [a.lane] → Ungated s cx.gid [a] → ¬plain a →
          s.readerSet cx.gid (word a.lane) = some m →
          t.mem = s.mem ∧ ∃ n, t.due = s.due ++ [.parkNotice n] ∧ n.core = keyOf cx.gid ∧ n.line = lineOf a.pa ∧ n.kind = a.kind
            ∧ n.readers = m ∧ n.lid = (s.group cx.gid).lid ∧ n.ret = some ⟨s.nextId, cx.gid, some .stc, maskOf [a.lane], [], []⟩
            ∧ n.bytes = laneBytes s1 (issOf s cx f.ctl) f a ∧ n.note = if f.ty = .b128 then .split else .whole)
    ∧ (Issues s cx f.ctl (some .stc) (addrNames f ++ [f.aux.toNat]) 0 → AllPass s cx f .write 1 true →
      let ok := (check s cx f .write 1 true).ok
      (∀ a ∈ ok, (word a.lane).toNat / 2 ^ 29 = 0 ∨ ∃ m, s.readerSet cx.gid (word a.lane) = some m ∧ leavesQuad a.kind m = false) →
      ∃ t, exec (.repark f) s = .next t ∧ Counted s t cx .stc ∧
        ∀ a m, Quiet s → ok = [a] → NoneHeld s cx.gid [a.lane] → Ungated s cx.gid [a] → a.kind ≠ .ms →
          (word a.lane).toNat / 2 ^ 29 ≠ 0 → s.readerSet cx.gid (word a.lane) = some m →
          (∃ r, t.ms.parks = [r] ∧ r.line = lineOf a.pa ∧ r.set = m ∧ r.mask = m ∧ r.lid = (s.group cx.gid).lid ∧ r.state = .parked)
          ∧ (∀ x, t.peekByte x = s.peekByte x)
          ∧ t.due = s.due ++ [.resultReturn ⟨s.nextId, cx.gid, some .stc, maskOf [a.lane], [], nextTag s a⟩])
    ∧ (Issues s cx f.ctl (some .ldc) (addrNames f) 0 → AllPass s cx f .read 1 false →
      ∃ t, exec (.locate f) s = .next t ∧ Counted s t cx .ldc ∧
        ∀ a r, (check s cx f .read 1 false).ok = [a] → still → NoneHeld s cx.gid [a.lane] → Ungated s cx.gid [a] → s.ms.parks = [r] →
          s.ms.copies = [] → r.line = lineOf a.pa → r.state ≠ .returning → keyOf cx.gid < 384 → r.set.getLsbD (keyOf cx.gid) = false →
          (∃ x, t.ms.parks = [x] ∧ x.line = r.line ∧ x.lid = r.lid ∧ x.set = r.set ||| ((1 : BitVec 384) <<< keyOf cx.gid)
            ∧ x.state = .moving ∧ ∀ k, x.mask.getLsbD k = ((r.mask.getLsbD k && r.set.getLsbD k) || k == keyOf cx.gid))
          ∧ ∃ n, t.due = s.due ++ [.parkNotice n] ∧ n.line = r.line ∧ n.note = .moved
            ∧ n.ret = some ⟨s.nextId, cx.gid, some .ldc, maskOf [a.lane], [], []⟩)
    ∧ (Issues s cx f.ctl (some .ldc) (f.data.toNat :: addrNames f) 1 → AllPass s cx f .read 4 false →
      ∃ t, exec (.parkq f) s = .next t ∧ Counted s t cx .ldc ∧
        ∀ a, (check s cx f .read 4 false).ok = [a] → still → NoneHeld s cx.gid [a.lane] → Ungated s cx.gid [a] →
          ∃ v : Word, t.due = s.due ++ [.resultReturn ⟨s.nextId, cx.gid, some .ldc, maskOf [a.lane], [.v a.lane f.data.toNat v], []⟩]
            ∧ (s.parkOf (lineOf a.pa) = none → v = 0)
            ∧ ∀ r c, s.parkOf (lineOf a.pa) = some r → r.site = .l1 c → c < 384 → v.toNat / 2 ^ 29 = 1 ∧ v.toNat % 2 ^ 16 = c
              ∧ v.toNat / 2 ^ 27 % 4 = (match r.state with
                | .parked => 1
                | .moving => 2
                | .returning => 3)
              ∧ (v.getLsbD 26 = true ↔ keyOf cx.gid < 384 ∧ r.mask.getLsbD (keyOf cx.gid) = true) ∧ v.getLsbD 25 = r.spill
              ∧ v.toNat / 2 ^ 16 % 512 = ((List.range 384).filter fun k => r.mask.getLsbD k).length))
  ∧ (∀ (n : ParkNote) (s : State), Quiet s → Plain n.bytes → n.note = .whole ∨ n.note = .split →
    let tag := Map.get 0 s.ms.tags n.line + 1
    let parks := fun (t : State) (bs : List StoreByte) => ∃ r, t.ms.parks = [r] ∧ r.line = n.line ∧ r.set = n.readers ∧ r.mask = n.readers
      ∧ r.lid = n.lid ∧ r.state = .parked ∧ (∀ c, (∀ k, k < 384 → (n.readers.getLsbD k = true ↔ k = c)) → c < 384 → r.site = .l1 c)
      ∧ Stored s t n.line bs ∧ t.groups = s.groups
    ∃ t, exec (.parkNotice n) s = .next t
      ∧ ((parks t n.bytes ∧ ∀ x, n.ret = some x → t.due = s.due ++ [.resultReturn { x with tags := x.tags ++ [(n.line, tag)] }])
        ∨ (n.note = .split ∧ ∃ h, parks t (halfBytes h n.bytes)
            ∧ t.due = s.due ++ [.parkNotice { n with note := .second h, ret := n.ret.map fun x => { x with tags := x.tags ++ [(n.line, tag)] } }])))
  ∧ (∀ (n : ParkNote) (s : State) (r : ParkRec) (h : Bool), n.note = .second h → (∀ x ∈ s.due, inFlight x = none) →
    s.ms.copies = [] → s.ms.parks = [r] → r.line = n.line → Plain n.bytes →
    ∃ t x, exec (.parkNotice n) s = .next t ∧ t.ms.parks = [x] ∧ { x with data := r.data } = r ∧ Stored s t n.line (halfBytes (!h) n.bytes)
      ∧ t.groups = s.groups ∧ t.ms.tags = s.ms.tags ∧ ∀ y, n.ret = some y → t.due = s.due ++ [.resultReturn y])
  ∧ (∀ (n : ParkNote) (s : State) (r : ParkRec), n.note = .moved → (∀ x ∈ s.due, inFlight x = none) → s.ms.parks = [r] → r.line = n.line →
    r.state = .moving →
    ∃ t, exec (.parkNotice n) s = .next t ∧ t.ms.parks = [{ r with state := .parked }] ∧ t.mem = s.mem ∧ t.groups = s.groups
      ∧ ∀ x, n.ret = some x → t.due = s.due ++ [.resultReturn x])
  ∧ ∀ (b : LineBack) (s : State) (r : ParkRec), s.parkOf b.line = some r → r.state = .returning →
    ∃ t, exec (.parkWriteBackLand b) s = .next t ∧ t.parkOf b.line = none ∧ lineAt t.mem b.line = r.data
      ∧ (∀ a, lineOf a ≠ b.line → Memory.read t.mem a = Memory.read s.mem a) ∧ t.groups = s.groups ∧ t.due = s.due

/-- R191 to R194, R214, R215, R225: with memory at rest and no monitor armed, in a lane alone, TST writes its bytes, keeps what they
replace in a cell of its lane and returns true; on an MS page it is a store and returns false. The lane's RETRACT puts the former bytes
back and returns true; COMMIT ends the cell and leaves the bytes. -/
def Obligations.TentativeStores : Prop :=
  ∀ (f : MF) (s : State) (cx : Cx), LanesExist s cx → MTy.bytes f.ty ≤ 8 → s.ms.monitors = [] →
    let n := MTy.bytes f.ty
    let s1 := s.start cx f.ctl
    let rest := Quiet { s with ms := { s.ms with cells := [] } }
    let alone := fun (a : Acc) => NoneHeld s cx.gid [a.lane] ∧ Ungated s cx.gid [a]
    let tag := fun (a : Acc) => (lineOf a.pa, Map.get 0 s.ms.tags (lineOf a.pa) + 1)
    (Issues s cx f.ctl (some .stc) (dataNames f ++ addrNames f) 1 → AllPass s cx f .write n true →
      ∃ t, exec (.tst f) s = .next t ∧ Counted s t cx .stc ∧
        ∀ a, Quiet s → (check s cx f .write n true).ok = [a] → InLine [a] n → alone a →
          let bs := s1.storeBytes cx.gid a.lane f.data.toNat f.ty
          let ret := fun (p : Bool) => (⟨s.nextId, cx.gid, some .stc, maskOf [a.lane], [.p a.lane f.aux.toNat p], []⟩ : Ret)
          (a.kind ≠ .ms → Stored s t (lineOf a.pa) (bytesAt a.pa bs) ∧ t.due = s.due ++ [.resultReturn { ret true with tags := nextTag s a }]
            ∧ ∃ c, t.ms.cells = [c] ∧ c.addr = a.pa ∧ c.width = n ∧ c.who = (s.group cx.gid).name a.lane ∧ c.observed = false
              ∧ c.former = BitVec.ofNat 64 (leNat (Memory.readBytes s.mem a.pa n)))
          ∧ (a.kind = .ms → t.mem = s.mem ∧ t.ms.cells = [] ∧ ∃ w, t.due = s.due ++ [.homeWriteAccept w] ∧ w.line = lineOf a.pa
            ∧ w.ret = some (ret false)))
    ∧ (Issues s cx f.ctl (some .ldc) (addrNames f) 1 → AllPass s cx f .write n true →
      ∃ t, exec (.retract f) s = .next t ∧ Counted s t cx .ldc ∧
        ∀ a, rest → (check s cx f .write n true).ok = [a] → InLine [a] n → alone a →
          let ret := fun (p : Bool) => (⟨s.nextId, cx.gid, some .ldc, maskOf [a.lane], [.p a.lane f.aux.toNat p], []⟩ : Ret)
          (∀ c, s.ms.cells = [c] → c.addr = a.pa → c.width = n → c.who = (s.group cx.gid).name a.lane →
            t.ms.cells = [] ∧ t.due = s.due ++ [.resultReturn { ret (!c.observed) with tags := [tag a] }]
            ∧ (c.observed = false → Stored s t (lineOf a.pa) (bytesAt a.pa (leBytes n c.former.toNat)))
            ∧ (c.observed = true → t.mem = s.mem))
          ∧ (s.ms.cells = [] → t.mem = s.mem ∧ t.due = s.due ++ [.resultReturn (ret false)]))
    ∧ (Issues s cx f.ctl (some .stc) (addrNames f) 0 → AllPass s cx f .write n false →
      ∃ t, exec (.commit f) s = .next t ∧ Counted s t cx .stc ∧
        ∀ a c, rest → (check s cx f .write n false).ok = [a] → alone a → s.ms.cells = [c] → c.addr = a.pa → c.width = n →
          c.who = (s.group cx.gid).name a.lane →
          t.ms.cells = [] ∧ t.mem = s.mem ∧ t.due = s.due ++ [.resultReturn ⟨s.nextId, cx.gid, some .stc, maskOf [a.lane], [], [tag a]⟩])

/-- R198, R211, R222, R228, R267: RSTLD returns bytes of its launch's reader-set table. PREF completes at once: with memory at rest it
leaves memory, registers and counters. A FENCE takes STC; it performs once no earlier access of its lanes is open and, with `.ms`, no
earlier bank vector command, CLEAN or INVAL of its group is unfinished: with release, none of its core's writes or resting reductions stays behind; with
acquire at quadrant scope or wider, its core's L1 keeps no copy. Until then its core holds it. -/
def Obligations.TablePrefetchAndFence : Prop :=
  (∀ (f : MF) (s : State) (cx : Cx), LanesExist s cx →
    (∀ x, Issues s cx f.ctl (some .ldc) (dataNames f ++ addrNames f) (MTy.regs f.ty) → s.launch (s.group cx.gid).lid = some x →
      s.ms.jobs = [] → (∀ y ∈ s.due, inFlight y = none) →
      let offs := (s.start cx f.ctl).offs (issOf s cx f.ctl) f false
      (∀ o ∈ offs, o.2 % MTy.bytes f.ty = 0 ∧ o.2 + MTy.bytes f.ty ≤ 3072) →
      ∃ t, exec (.rstld f) s = .next t ∧ Counted s t cx .ldc ∧ t.mem = s.mem ∧ (f.ty ≠ .b128 → t.ms.jobs = []) ∧ (t.ms.jobs = [] →
        SameMemory s t ∧ t.due = s.due ++ [.resultReturn ⟨s.nextId, cx.gid, some .ldc, 0, offs.flatMap fun o =>
          loadWrites o.1 f.data.toNat f.ty ((List.range (MTy.bytes f.ty)).map fun k => Map.get 0 x.readers (o.2 + k)), []⟩]))
    ∧ (Issues s cx f.ctl none (addrNames f) 0 →
      ∃ t, exec (.pref f) s = .next t ∧ Passed t cx ∧ SameRegs cx.gid s t ∧ OtherGroups cx.gid s t
        ∧ (t.group cx.gid).cnt = (s.group cx.gid).cnt ∧ (Quiet s → t.mem = s.mem ∧ t.due = s.due ∧ t.ms.parks = []))
    ∧ (Issues s cx f.ctl (some .stc) [] 0 →
      let early := f.disp.getLsbD 0 = true ∧ ((∃ c ∈ s.ms.bank, c.gid = cx.gid ∧ c.id < s.nextId)
        ∨ ∃ j ∈ s.ms.jobs, j.iss.gid = cx.gid ∧ j.iss.id < s.nextId ∧ isMaintenance j.instr = true)
      ∃ t, exec (.fence f) s = .next t ∧ Counted s t cx .stc
        ∧ (¬early → NoneHeld s cx.gid (s.taking cx f.ctl) → (∀ x ∈ s.due, ∀ r, retOf x = some r → r.id ≠ s.nextId) →
          (∃ d, t.due = d ++ [.resultReturn ⟨s.nextId, cx.gid, some .stc, 0, [], []⟩]) ∧ (Quiet s → t.mem = s.mem)
          ∧ ((f.ord = .rel ∨ f.ord = .acqrel) → (∀ w ∈ t.ms.curd, w.core ≠ keyOf cx.gid)
            ∧ ∀ x ∈ t.due, ∀ k l n, inFlight x = some (k, l, n) → k ≠ keyOf cx.gid)
          ∧ ((f.ord = .acq ∨ f.ord = .acqrel) → (f.scope = .quad ∨ f.scope = .dev ∨ f.scope = .sys) →
            ∀ c ∈ t.ms.copies, c.site ≠ .l1 (keyOf cx.gid)))
        ∧ (early ∨ ¬NoneHeld s cx.gid (s.taking cx f.ctl) → t.mem = s.mem ∧ t.due = s.due ∧ ∃ j, t.ms.jobs = s.ms.jobs ++ [j]
          ∧ j.instr = .fence f ∧ j.iss.id = s.nextId)))

/-- R223 to R225, R268: WAITC with a bad descriptor traps with cause 0x1B and its index. With good ones it leaves with the mask of those
that hold, one being enough, or all under ALL; otherwise its lanes park; so they do, unevaluated, while an earlier access of theirs is open. A watcher's report, a poll
after 256 ticks and the time-out evaluate it again; the time-out adds 16 to the mask. -/
def Obligations.WaitsOnConditions : Prop :=
  (∀ (f : EF) (s : State) (cx : Cx), LanesExist s cx → Issues s cx f.ctl none [f.b.toNat] 1 →
    let s1 := s.start cx f.ctl
    let ds := (List.range f.x.toNat).map fun k => (s1.readG cx.gid (f.a.toNat + 2 * k), s1.readG cx.gid (f.a.toNat + 2 * k + 1))
    let conds := ds.map fun d => condOf d.1 d.2
    (∀ k d, ds[k]? = some d → condOk d.1 = false → (∀ j, j < k → ∀ x, ds[j]? = some x → condOk x.1 = true) →
      CanTrap s cx.gid (s.taking cx f.ctl) →
      ∃ t, exec (.waitc f) s = .next t ∧ ∀ l ∈ s.taking cx f.ctl,
        Entered (s.lane cx.gid l) (t.lane cx.gid l) (cx.at_ 0x1B (BitVec.ofNat 64 k)) (handlerOf s cx.gid))
    ∧ ((∀ d ∈ ds, condOk d.1 = true) → NoneHeld s cx.gid (s.taking cx f.ctl) →
      (∀ c ∈ conds, c.kind ≠ 0 ∧ (c.kind = 2 → c.word1.toNat < s.scratchSize (s.group cx.gid).blk)) →
      ∃ t sat, exec (.waitc f) s = .next t ∧ OtherGroups cx.gid s t
        ∧ (∀ k c, conds[k]? = some c → (sat.testBit k = true ↔ (s.condHolds (s.block (s.group cx.gid).blk) (s.group cx.gid) c).2 = some true))
        ∧ sat < 2 ^ f.x.toNat
        ∧ if (f.flags.getLsbD 0 = true ∧ sat = 2 ^ f.x.toNat - 1) ∨ (f.flags.getLsbD 0 = false ∧ sat ≠ 0) then
          ∀ l ∈ s.taking cx f.ctl, (t.lane cx.gid l).park = (s.lane cx.gid l).park
            ∧ (t.lane cx.gid l).vReg f.b.toNat = BitVec.ofNat 32 sat
        else ∀ l ∈ s.taking cx f.ctl, (t.lane cx.gid l).park = some (s.nextId + 1))
    ∧ ∀ d s2 pa k, ds = [d] → condOk d.1 = true → (condOf d.1 d.2).kind = 0 → d.2.toNat % 4 = 0 → Quiet s →
      NoneHeld s cx.gid (s.taking cx f.ctl) →
      s1.checkOne (issOf s cx f.ctl) .read d.2 = (s2, some (pa, k)) →
      let x := BitVec.ofNat 32 (leNat (Memory.readBytes s.mem pa 4))
      ∃ t, exec (.waitc f) s = .next t ∧ t.mem = s.mem ∧
        if (if d.1.getLsbD 23 then Alu.cmpInt (bits d.1 27 24) x.toInt (hi32 d.1).toInt
            else Alu.cmpInt (bits d.1 27 24) x.toNat (hi32 d.1).toNat) then
          ∀ l ∈ s.taking cx f.ctl, (t.lane cx.gid l).vReg f.b.toNat = 1
        else ∀ l ∈ s.taking cx f.ctl, (t.lane cx.gid l).park ≠ none)
  ∧ ∀ (r : WaitRef) (s : State) (w : Wait) (conds : List Cond) (all : Bool) (lim reg sat : Nat) (sc : Scope),
      s.wait r.id = some w → w.kind = .waitc conds all lim reg sc →
      (∀ l ∈ lanesOf w.lanes, s.heldBack w.gid l w.id = false) →
      (s.satMask (s.block (s.group w.gid).blk) (s.group w.gid) conds).2 = .ok sat →
      let left := fun (t : State) (status : Nat) => ∀ l ∈ lanesOf w.lanes, l < (s.group w.gid).lanes.length →
        (t.lane w.gid l).vReg reg = BitVec.ofNat 32 status ∧ ((s.lane w.gid l).park = some w.id → (t.lane w.gid l).park = none)
      let done := (all = true ∧ sat = 2 ^ conds.length - 1) ∨ (all = false ∧ sat ≠ 0)
      let reviews := fun (e : Instr) => ∃ t, exec e s = .next t ∧ OtherGroups w.gid s t ∧
        if done then left t sat else t.groups = s.groups ∧ t.waits = s.waits ∧ t.due = s.due ++ [e]
      (s.unarmed r = false → reviews (.watcherReport r))
      ∧ (256 ≤ s.tick - w.t0 → reviews (.monitorPoll r))
      ∧ (lim ≤ s.tick - w.t0 → ∃ t, exec (.waitcTimeOut r) s = .next t ∧ OtherGroups w.gid s t
        ∧ left t (if done then sat else sat + 16))

/-- R226, R227: CLEAN leaves no dirty L2 line and no parked line in its range, and INVAL no copy there either, once no earlier access of
their lanes is open; until then their core holds them. Both take STC. -/
def Obligations.CacheMaintenance : Prop :=
  ∀ (f : EF) (s : State) (cx : Cx), LanesExist s cx → Issues s cx f.ctl (some .stc) [] 0 →
    let s1 := s.start cx f.ctl
    let a := (s1.readG cx.gid f.a.toNat).toNat
    let len := min (s1.readG cx.gid f.b.toNat).toNat (2 ^ 64 - a)
    let both := fun (P : Instr → Prop) => P (.clean f) ∧ P (.inval f)
    let fresh := ∀ x ∈ s.due, ∀ r, retOf x = some r → r.id ≠ s.nextId
    let free := NoneHeld s cx.gid (s.taking cx f.ctl)
    let held := fun (t : State) (w : Instr) => t.mem = s.mem ∧ t.due = s.due
      ∧ ∃ j, t.ms.jobs = s.ms.jobs ++ [j] ∧ j.instr = w ∧ j.iss.id = s.nextId
    (len = 0 → both fun w => ∃ t, exec w s = .next t ∧ Counted s t cx .stc ∧ (¬free → held t w)
      ∧ (free → fresh → SameMemory s t ∧ t.due = s.due ++ [.resultReturn ⟨s.nextId, cx.gid, some .stc, 0, [], []⟩]))
    ∧ ∀ s2 l, len ≠ 0 → s1.checkRange (issOf s cx f.ctl) .read a len = (s2, some l) → s2.mem = s.mem →
      both fun w => ∃ t, exec w s = .next t ∧ Counted s t cx .stc ∧ (¬free → s2.due = s.due → s2.ms.jobs = s.ms.jobs → held t w)
        ∧ (free → fresh → s2.due = s.due → (∃ d, t.due = d ++ [.resultReturn ⟨s.nextId, cx.gid, some .stc, 0, [], []⟩])
          ∧ ((∀ x ∈ s.due, inFlight x = none) → t.due = s.due ++ [.resultReturn ⟨s.nextId, cx.gid, some .stc, 0, [], []⟩]))
        ∧ (free → ∀ line ∈ linesOf l (a + len), t.parkOf line = none
          ∧ (∀ c ∈ t.ms.copies, c.line = line → isL2 c.site = true → c.dirty = 0)
          ∧ (w = .inval f → ∀ c ∈ t.ms.copies, c.line ≠ line))

/-! ## Bank vectors and the matrix engine -/

/-- R262, R265, R266: MVEC of length 0 completes with tag status 1; a bad length or alignment traps with cause 0x1C; operands that are
not placed set status 3; otherwise the tag reads 0 and the command's granule steps set out. While its tag's previous command runs, an MVEC
that passes its checks holds issue. MVWAIT returns the status of a tag that is
settled and parks on one that is not. -/
def Obligations.BankVectorCommands : Prop :=
  ∀ (f : EF) (s : State) (cx : Cx), LanesExist s cx →
    let m := mvecOf f
    let s1 := s.start cx f.ctl
    let len := (s1.readG cx.gid f.x.toNat).toNat
    let dst := (s1.readG cx.gid f.a.toNat).toNat
    (Issues s cx f.ctl (some .mc) [] 0 → (s.group cx.gid).tag m.tag ≠ 0 → m.tag < (s.group cx.gid).tags.length →
      (len = 0 → ∃ t, exec (.mvec f) s = .next t ∧ Counted s t cx .mc ∧ SameMemory s t ∧ (t.group cx.gid).tag m.tag = 1
        ∧ t.due = s.due ++ [.resultReturn ⟨s.nextId, cx.gid, some .mc, 0, [], []⟩])
      ∧ (len ≠ 0 → (len % 32 ≠ 0 ∨ 2 ^ 32 < len ∨ dst % 32 ≠ 0) → CanTrap s cx.gid (s.taking cx f.ctl) →
        ∃ t, exec (.mvec f) s = .next t ∧ (StacksOnChip s cx.gid (s.taking cx f.ctl) → t.mem = s.mem) ∧ t.ms.bank = s.ms.bank ∧ ∀ l ∈ s.taking cx f.ctl,
          Entered (s.lane cx.gid l) (t.lane cx.gid l) (cx.at_ 0x1C (BitVec.ofNat 64 len)) (handlerOf s cx.gid))
      ∧ ∀ s2 l, len ≠ 0 → s1.mvecCheck (issOf s cx f.ctl) f = (s2, some l) →
        let steps := stepsOf (dst + len) (l.getD 0 []) (l.getD 1 []) (l.getD 2 [])
        ((∃ st ∈ steps, s.placed m st = false) → ∃ t, exec (.mvec f) s = .next t ∧ Counted s t cx .mc ∧ (NoneLanding s → t.mem = s.mem)
          ∧ (t.group cx.gid).tag m.tag = 3 ∧ t.ms.bank = s.ms.bank)
        ∧ ((∀ st ∈ steps, s.placed m st = true) → ∃ t c, exec (.mvec f) s = .next t ∧ Counted s t cx .mc ∧ (NoneLanding s → t.mem = s.mem)
          ∧ (t.group cx.gid).tag m.tag = 0 ∧ t.ms.bank = s.ms.bank ++ [c] ∧ c.id = s.nextId ∧ c.op = m.op ∧ c.steps = steps
          ∧ c.tag = m.tag ∧ c.gid = cx.gid ∧ c.lid = (s.group cx.gid).lid
          ∧ t.due = s.due ++ .resultReturn ⟨s.nextId, cx.gid, some .mc, 0, [], []⟩ :: steps.map fun st => .granuleStep s.nextId st.num))
    ∧ (s.cur = some cx → s.taking cx f.ctl ≠ [] → (s.group cx.gid).tag m.tag = 0 → (s.mvecCheck (issOf s cx f.ctl) f).2 ≠ none →
      exec (.mvec f) s = .next s.stall)
    ∧ (Issues s cx f.ctl none [f.a.toNat] 1 →
      let tags := if f.flags.getLsbD 0 then [0, 1, 2, 3] else [f.x.toNat]
      let st := tags.map fun k => (s.group cx.gid).tag k
      ∃ t, exec (.mvwait f) s = .next t ∧ OtherGroups cx.gid s t ∧
        if 0 ∈ st then ∀ l ∈ s.taking cx f.ctl, (t.lane cx.gid l).park = some (s.nextId + 1)
        else ∀ l ∈ s.taking cx f.ctl, (t.lane cx.gid l).park = (s.lane cx.gid l).park
          ∧ (t.lane cx.gid l).vReg f.a.toNat = BitVec.ofNat 32 (st.foldl Nat.lor 0))

/-- R222, R261, R263, R266, R267: with memory at rest, the last granule step of a command writes its elements at the destination, from
those of its sources, leaves every other byte, and turns the tag to 1; a step waits for the lower steps of its channel, and for an earlier
FENCE `.ms` of its group. -/
def Obligations.GranuleStepsWriteElements : Prop :=
  ∀ (cmd : Nat) (s : State) (c : BankCmd) (st : BankStep), s.ms.bank.find? (fun x => x.id == cmd) = some c →
    (c.steps = [st] → Quiet s → s.fenceHolds c = false → st.dst % 128 + st.len ≤ 128 → 0 < st.len → st.len % (c.ty.width / 8) = 0 →
      st.a % 128 = st.dst % 128 → st.b % 128 = st.dst % 128 → c.op ≤ 9 → c.dataerr = false → s.waits = [] →
      (∃ l, l < (s.group c.gid).lanes.length ∧ (s.lane c.gid l).live = true) → s.hasGroup c.gid = true →
      let src := fun (used : Bool) (a : Nat) => if used then Memory.readBytes s.mem a st.len else []
      let new := c.lineBytes st.len (src (decide (c.op ≤ 8)) st.a) (src (decide (c.op ≤ 7)) st.b)
      ∃ t, exec (.granuleStep cmd st.num) s = .next t ∧ Stored s t (lineOf st.dst) (bytesAt st.dst new) ∧ new.length = st.len
        ∧ (c.op = 8 → new = Memory.readBytes s.mem st.a st.len) ∧ (t.group c.gid).tag c.tag = 1
        ∧ (∀ x ∈ t.ms.bank, x.id ≠ cmd) ∧ OtherGroups c.gid s t ∧ SameRegs c.gid s t ∧ t.due = s.due)
    ∧ (c.steps.find? (fun y => y.num == st.num) = some st →
      s.fenceHolds c = true ∨ (∃ x ∈ c.steps, x.num < st.num ∧ s.channel x.dst = s.channel st.dst) →
      exec (.granuleStep cmd st.num) s = .next (s.send (.granuleStep cmd st.num)))

/-- R272, R283 to R285, R295 to R303: ACCZ and ACCLD bind their handle, at once or already, and become ready operations; ACCMV, ACCST and
MMQ read a bound one; an unbound handle traps with cause 0x22; ACCREL unbinds. MMQ takes a tile-queue slot, and holds issue with two in
use. OPFENCE marks what its lanes have written as ordered, and holds issue while their scratchpad writes stand in the core (R290). -/
def Obligations.AccumulatorWords : Prop :=
  ∀ (f : EF) (s : State) (cx : Cx), LanesExist s cx →
    let h := ef4 f
    let slotOf := (s.group cx.gid).slotOf h
    let i32 := f.flags.getLsbD 0
    let ty := Ty.ofCode (f.flags.toNat % 16)
    let image := (List.range 16).map fun k => f.a.toNat + k
    let binds := fun (w : Instr) (kind : MatKind) =>
      (s.bindTrap cx.gid h i32 = none → ∃ t k, exec w s = .next t ∧ Queued s t cx h k kind true
        ∧ (t.group cx.gid).slotOf h = some k ∧ (t.accSlot (subKey cx.gid) k).i32 = i32 ∧ (∀ j, slotOf = some j → k = j)
        ∧ (slotOf = none → (s.accSlot (subKey cx.gid) k).bound = false ∧ (t.accSlot (subKey cx.gid) k).bound = true))
      ∧ (∀ k, slotOf = some k → (s.accSlot (subKey cx.gid) k).i32 ≠ i32 → CanTrap s cx.gid (s.taking cx f.ctl) →
        ∃ t, exec w s = .next t ∧ ∀ l ∈ s.taking cx f.ctl,
          Entered (s.lane cx.gid l) (t.lane cx.gid l) (cx.at_ 0x21 (BitVec.ofNat 64 h)) (handlerOf s cx.gid))
      ∧ (slotOf = none → (∀ k, k < 8 → (s.accSlot (subKey cx.gid) k).bound = true) → CanTrap s cx.gid (s.taking cx f.ctl) →
        ∃ t, exec w s = .next t ∧ ∀ l ∈ s.taking cx f.ctl,
          Entered (s.lane cx.gid l) (t.lane cx.gid l) (cx.at_ 0x23 (BitVec.ofNat 64 h)) (handlerOf s cx.gid))
    let unbound := fun (w : Instr) => slotOf = none → CanTrap s cx.gid (s.taking cx f.ctl) →
      ∃ t, exec w s = .next t ∧ ∀ l ∈ s.taking cx f.ctl,
        Entered (s.lane cx.gid l) (t.lane cx.gid l) (cx.at_ 0x22 (BitVec.ofNat 64 h)) (handlerOf s cx.gid)
    (Issues s cx f.ctl (some .mc) [] 0 → binds (.accz f) (.accz i32))
    ∧ (Issues s cx f.ctl (some .mc) image 0 → binds (.accld f) (.accld f))
    ∧ (Issues s cx f.ctl (some .mc) (image ++ osNames f) 16 →
      unbound (.accmv f) ∧ ∀ k, slotOf = some k → Mat.admits (s.accSlot (subKey cx.gid) k).i32 ty = true →
        ∃ t, exec (.accmv f) s = .next t ∧ Queued s t cx h k (.accmv f) true)
    ∧ (Issues s cx f.ctl (some .mc) (osNames f) 0 →
      let s1 := s.start cx f.ctl
      let c := corner (s1.readG cx.gid f.a.toNat)
      unbound (.accst f) ∧ ∀ k bs o, slotOf = some k → s.tensor (s.group cx.gid).lid f.imm8.toNat = some bs → NoTidComing s f.imm8.toNat →
        Mat.fmtTy (tensorOf bs).fmt = some o → 2 ≤ (tensorOf bs).ndim → Mat.admits (s.accSlot (subKey cx.gid) k).i32 o = true →
        let el := tileElems f (tensorOf bs) c.1 c.2
        ((tensorOf bs).scratch = true →
          (∀ x ∈ el, x.2.2 + (tensorOf bs).bits / 8 ≤ s.scratchSize (s.group cx.gid).blk) →
          ∃ t, exec (.accst f) s = .next t ∧ Queued s t cx h k (.accst f (some bs) c.1 c.2 []) true)
        ∧ ∀ s2 pages, (tensorOf bs).scratch = false →
          s1.tilePages (issOf s cx f.ctl) ((tensorOf bs).bits / 8) (el.map fun x => x.2.2) = (s2, some pages) →
          ∃ t, exec (.accst f) s = .next t ∧ Queued s t cx h k (.accst f (some bs) c.1 c.2 pages) true)
    ∧ (Issues s cx f.ctl none (osNames f) 0 →
      (slotOf = none → CanTrap s cx.gid (s.taking cx f.ctl) → ∃ t, exec (.mmq f) s = .next t ∧ ∀ l ∈ s.taking cx f.ctl,
        Entered (s.lane cx.gid l) (t.lane cx.gid l) (cx.at_ 0x22 (BitVec.ofNat 64 h)) (handlerOf s cx.gid))
      ∧ ∀ k, slotOf = some k → Mat.admits (s.accSlot (subKey cx.gid) k).i32 ty = true →
        s.holdsDie (s.group cx.gid).part (dieOf (coreOf cx.gid)) = true →
        ((s.tilesOf (coreOf cx.gid)).length < 2 → ∃ t, exec (.mmq f) s = .next t ∧ Queued s t cx h k (.mmq f s.nextId) false
          ∧ ∃ x, t.eng.tiles = s.eng.tiles ++ [x] ∧ x.core = coreOf cx.gid ∧ x.complete = false
            ∧ x.seq = Map.get 0 s.eng.tileSeq x.core)
        ∧ (2 ≤ (s.tilesOf (coreOf cx.gid)).length → exec (.mmq f) s = .next s.stall))
    ∧ (Issues s cx f.ctl none [] 0 → (∃ t, exec (.accrel f) s = .next t ∧ Passed t cx ∧ SameRegs cx.gid s t
        ∧ OtherGroups cx.gid s t ∧ SameMemory s t ∧ (t.group cx.gid).slotOf h = none
        ∧ ∀ k, k ≠ h → (t.group cx.gid).slotOf k = (s.group cx.gid).slotOf k)
      ∧ (if ∃ j ∈ s.ms.jobs, j.iss.gid = cx.gid ∧ (writesScratch j.instr = true ∨ acquires j.instr = true)
            ∧ ∃ a ∈ j.accs, a.lane ∈ s.taking cx f.ctl then exec (.opfence f) s = .next s.stall
          else ∃ t, exec (.opfence f) s = .next t ∧ Passed t cx ∧ SameRegs cx.gid s t ∧ OtherGroups cx.gid s t ∧ SameMemory s t
            ∧ SameMachine s t ∧ (t.group cx.gid).cnt = (s.group cx.gid).cnt
            ∧ ∀ l ∈ s.taking cx f.ctl, (t.lane cx.gid l).fenced = (s.nextId + 1, Map.get 0 s.ms.acqs (32 * cx.gid + l))))

/-- R286, R287: a lane's MMA signs its join register: the count rises by 1, and the lane that opens the phase takes MC. Below the limit
the phase stays open with the lane among its signers; at the limit the token rises, the count is 0 and the operation is ready. A join
register that is not signing traps with cause 0x0B. -/
def Obligations.SignaturesCompletePhases : Prop :=
  ∀ (f : EF) (s : State) (cx : Cx) (l : Nat) (b : Block), LanesExist s cx → s.taking cx f.ctl = [l] →
    Issues s cx f.ctl (some .mc) [] 0 → s.block (s.group cx.gid).blk = some b → (Mat.mmaOf f).join < b.joins.length →
    (∀ w ∈ s.waits, ∀ tok sc st, w.kind ≠ .bar (Mat.mmaOf f).join tok sc st) →
    let j := (Mat.mmaOf f).join
    let x := s.join (s.group cx.gid).blk j
    let lim := min x.e ((s.group cx.gid).lanes.countP fun y => !y.exited)
    ((s.start cx f.ctl).signTrap cx.gid l f = none → ∃ t, exec (.mma f) s = .next t ∧ Passed t cx ∧ SameRegs cx.gid s t
      ∧ OtherGroups cx.gid s t ∧ SameMemory s t
      ∧ (t.group cx.gid).cnt = (if x.phase = none then (s.group cx.gid).cnt.bump .mc else (s.group cx.gid).cnt)
      ∧ (x.a + 1 < lim → (t.join (s.group cx.gid).blk j).a = x.a + 1 ∧ (t.join (s.group cx.gid).blk j).t = x.t ∧ t.due = s.due
        ∧ ∃ p, (t.join (s.group cx.gid).blk j).phase = some p ∧ p.gid = cx.gid ∧ p.signers.getLsbD l = true)
      ∧ (lim ≤ x.a + 1 → (t.join (s.group cx.gid).blk j).a = 0 ∧ (t.join (s.group cx.gid).blk j).t = x.t + 1
        ∧ (t.join (s.group cx.gid).blk j).phase = none
        ∧ ∃ o, t.eng.mat = insertBy MatOp.before o s.eng.mat ∧ o.ready = s.clock ∧ o.gid = cx.gid ∧ o.signers.getLsbD l = true ∧ o.started = false
          ∧ t.due = s.due ++ [.matrixOpStart o.id]))
    ∧ (x.mode = false → CanTrap s cx.gid [l] → ∃ t, exec (.mma f) s = .next t ∧ t.blocks = s.blocks ∧
      Entered (s.lane cx.gid l) (t.lane cx.gid l) (cx.at_ 0x0B (BitVec.ofNat 64 j)) (handlerOf s cx.gid))

/-- R87, R88, R272, R280, R288, R289, R294, R296, R299: an engine starts its oldest ready operation; its fetch ends; its completion leaves
MC down by 1 and the operation gone. ACCZ leaves zeros, ACCLD the slab of its register image, and ACCMV sends the slab's elements, lane by
lane, as its image. MMA leaves in every element of the accumulator what it held and the exact sum of products modulo 2^32 for INT8; for
the unscaled floating-point types, from register images without NaN or infinity, the chunk sum of R87 is added with one rounding, and a NaN
product leaves the canonical NaN. -/
def Obligations.MatrixOperationsRun : Prop :=
  ∀ (op : Nat) (s : State) (o : MatOp), s.matOp op = some o →
    ((s.eng.mat.find? fun x => x.sub == o.sub) = some o → ∃ t x, exec (.matrixOpStart op) s = .next t ∧ t.matOp op = some x
      ∧ x.started = true ∧ x.kind = o.kind ∧ t.groups = s.groups ∧ SameMemory s t ∧ t.due = s.due ++ [.operandFetchEnd op])
    ∧ (∀ p, (s.eng.mat.find? fun x => x.sub == o.sub) = some p → p.id ≠ op → p.fetched = false →
      exec (.matrixOpStart op) s = .next (s.send (.matrixOpStart op)))
    ∧ (s.behindOp o = false → ∃ t x d, exec (.operandFetchEnd op) s = .next t ∧ t.matOp op = some x ∧ x.fetched = true ∧ x.kind = o.kind
      ∧ t.due = d ++ [.matrixOpComplete op])
    ∧ (s.behindOp o = true → exec (.operandFetchEnd op) s = .next (s.send (.operandFetchEnd op)))
    ∧ (∀ f l k r w, o.kind = .accmv f → s.behindOp o = false → Ty.ofCode (f.flags.toNat % 16) = .i32 → (s.accSlot o.sub o.slot).i32 = true → s.waits = [] →
      l < (s.group o.gid).lanes.length → l < 32 → (s.lane o.gid l).live = true → k < 16 →
      (∀ y ∈ (s.lane o.gid l).olds, y.2.1 ≠ f.a.toNat + k) → w = f.imm8.toNat % 8 →
      r = 8 * w + (16 * l + k) / 64 →
      ∃ t ws, exec (.operandFetchEnd op) s = .next t ∧ t.due = s.due ++ [.resultReturn ⟨o.id, o.gid, none, 0, ws, []⟩, .matrixOpComplete op]
        ∧ .v l (f.a.toNat + k) ((s.accSlot o.sub o.slot).at_ r ((16 * l + k) % 64)) ∈ ws)
    ∧ (s.emitted o = true → exec (.matrixOpComplete op) s = .next (s.send (.matrixOpComplete op)))
    ∧ (s.emitted o = false → (∃ l, l < (s.group o.gid).lanes.length ∧ (s.lane o.gid l).live = true) →
      ∃ t, exec (.matrixOpComplete op) s = .next t ∧ t.matOp op = none ∧ SameRegs o.gid s t
        ∧ (t.group o.gid).cnt = (if o.mc then (s.group o.gid).cnt.fall .mc else (s.group o.gid).cnt)
        ∧ ∀ i j, i < 64 → j < 64 →
          let new := (t.accSlot o.sub o.slot).at_ i j
          let k := 64 * (i % 8) + j
          (∀ z, o.kind = .accz z → new = 0 ∧ (t.accSlot o.sub o.slot).i32 = z)
          ∧ (∀ f, o.kind = .accld f → new = if i / 8 = f.imm8.toNat % 8 then (o.snap.lookup (256 * (k / 16) + (f.a.toNat + k % 16))).getD 0
              else (s.accSlot o.sub o.slot).at_ i j)
          ∧ ((∃ f, o.kind = .accmv f) → new = (s.accSlot o.sub o.slot).at_ i j)
          ∧ ∀ f s0 s1, o.kind = .mma f none s0 s1 →
            let m := Mat.mmaOf f
            let old := (s.accSlot o.sub o.slot).at_ i j
            let ks := List.range (Mat.etype m.ety).k
            (m.ety = 6 → (2 ^ 32 : Int) ∣ new.toInt - (old.toInt + (ks.map fun k =>
              (BitVec.ofNat 8 (aElem o.snap f i k)).toInt * (BitVec.ofNat 8 (bElem o.snap f k j)).toInt).sum))
            ∧ (m.ety < 6 → m.ks = false →
              let ps := ks.map fun k => Fl.mul (Fl.ofBits (Mat.etype m.ety).a (aElem o.snap f i k)) (Fl.ofBits (Mat.etype m.ety).b (bElem o.snap f k j))
              (∀ q z, ChunkSum ps q z → new = BitVec.ofNat 32 (Fl.place .f32 .rne false
                (Fl.add .rne (Fl.ofBits .f32 old.toNat) (if z = 0 then .fin false 0 0 else .fin (decide (z < 0)) z.natAbs q))))
              ∧ (Fl.nan ∈ ps → new = 0x7FC00000)))

/-- R283, R292: MWAIT passes a lane with no operation outstanding, or whose handle is not bound, and parks one with an operation that it
waits on; its time-out traps the lanes with cause 0x25 while a phase that they signed stays open. R109, R360: a barrier's time-out traps
them with cause 0x0E, and WAITL's with 0x34. All resume after the instruction that waits. Two clauses are the model's choice, not R292's:
of several open phases the trap names the one of the lowest join register (log entry 74), and a lane that passes at issue holds its group
until its counters read 0 (log entry 79). -/
def Obligations.MatrixWaitsAndTimeOuts : Prop :=
  (∀ (f : EF) (s : State) (cx : Cx) (l : Nat), LanesExist s cx → s.taking cx f.ctl = [l] → Issues s cx f.ctl none [] 0 →
    let ops := (s.waitsOn cx.gid l f).filter fun o => s.opOutstanding (f.flags.getLsbD 0) o
    let unbound := f.flags.getLsbD 1 = false ∧ (s.group cx.gid).slotOf (ef4 f) = none
    ∃ t, exec (.mwait f) s = .next t ∧ SameRegs cx.gid s t ∧ OtherGroups cx.gid s t ∧ t.eng = s.eng
      ∧ (¬unbound → ops = [] → (t.group cx.gid).hold = true)
      ∧ (t.lane cx.gid l).park = if unbound ∨ ops = [] then (s.lane cx.gid l).park else some (s.nextId + 1))
  ∧ ∀ (r : WaitRef) (s : State) (w : Wait), s.waits = [w] → w.id = r.id → CanTrap s w.gid (lanesOf w.lanes) →
    let g := s.group w.gid
    let ends := fun (e : Instr) (cause : Nat) (info : DWord) =>
      if s.tick - w.t0 < s.bto g.lid then exec e s = .next (s.send e)
      else ∃ t, exec e s = .next t ∧ t.waits = [] ∧ ∀ l ∈ lanesOf w.lanes, (t.lane w.gid l).park = none ∧
        Entered (s.lane w.gid l) (t.lane w.gid l) { w.cx.at_ cause info with next := true } (handlerOf s w.gid)
    (∀ j k sc st, w.kind = .bar j k sc st → ends (.barrierTimeOut r) 0x0E (k ++ BitVec.ofNat 32 j))
    ∧ (∀ v it slot uid, w.kind = .waitl v it slot uid → ends (.stageWaitTimeOut r) 0x34 (BitVec.ofNat 32 it ++ BitVec.ofNat 32 v))
    ∧ ∀ ops acc sc j p, w.kind = .mwait ops acc sc → s.openOf w.gid ops = some (j, p) →
      ends (.matrixSignTimeOut r) 0x25 (BitVec.ofNat 64 j)

/-! ## Copies, streams, loops -/

/-- R307 to R316: CPY, CPYG, CPYS and CPYDEC queue a command for the bytes that they name, with their counter up by 1, or hold issue
where the queue or the counter is full; CPYWAIT returns a counter's status once it is low enough, and parks until then. -/
def Obligations.CopyWordsQueueCommands : Prop :=
  ∀ (f : EF) (s : State) (cx : Cx) (b : Block), LanesExist s cx → s.block (s.group cx.gid).blk = some b →
    let s1 := s.start cx f.ctl
    let i := issOf s cx f.ctl
    let k := f.x.toNat
    let size := s.scratchSize (s.group cx.gid).blk
    (Issues s cx f.ctl none [] 0 → k < b.ccs.length → s.copyHolds cx.gid k = false →
      let c := corner (s1.readG cx.gid f.a.toNat)
      let g := s1.readG cx.gid f.b.toNat
      let e0 := bits g 47 32
      let e1 := bits g 63 48
      let out := f.flags.getLsbD 0
      ∀ bs s2 pl, s.tensor (s.group cx.gid).lid f.imm8.toNat = some bs → NoTidComing s f.imm8.toNat → (tensorOf bs).scratch = false → 2 ≤ (tensorOf bs).ndim →
        (tensorOf bs).fmt ≠ 5 → e0 ≠ 0 → e1 ≠ 0 → bits g 31 0 % 16 = 0 → e0 * (tensorOf bs).bits % 128 = 0 →
        bits g 31 0 + e1 * (e0 * (tensorOf bs).bits / 8) ≤ size →
        let m := boxMoves (tensorOf bs) c.1 c.2 (bits g 31 0) e0 e1
        s1.copyPlaces i (if out then .engineWrite else .engineRead) (m.1.map fun x => x.addr) = (s2, some pl) → (out = true ∨ m.2 = []) →
        ∃ t, exec (.cpy f) s = .next t ∧ Copies s t cx k (if out then .fromScratch else .toScratch) (piecesOf pl m.1).1)
    ∧ (∀ m s2 pl, Issues s cx f.ctl none (vNames true f.a ++ [f.b.toNat]) 0 → k < b.ccs.length → s.copyHolds cx.gid k = false →
      s1.gather i f = .ok m →
      (s1.copyPlaces i .engineRead (m.map fun x => x.addr) = (s2, some pl) →
        ∃ t, exec (.cpyg f) s = .next t ∧ Copies s t cx k .toScratch (piecesOf pl m).1)
      ∧ (s1.copyPlaces i .engineWrite (m.map fun x => x.addr) = (s2, some pl) →
        ∃ t, exec (.cpys f) s = .next t ∧ Copies s t cx k .fromScratch (piecesOf pl m).1))
    ∧ (Issues s cx f.ctl none [] 0 → f.imm8.toNat % 16 < b.ccs.length → s.copyHolds cx.gid (f.imm8.toNat % 16) = false →
      let a := (s1.readG cx.gid f.a.toNat).toNat
      let off := (s1.readG cx.gid f.b.toNat).toNat
      let len := (s1.readG cx.gid f.c.toNat).toNat
      len % 16 = 0 → 16 ≤ len → len ≤ 65536 →
      (s.keyAt (s.group cx.gid).part k = none → CanTrap s cx.gid (s.taking cx f.ctl) →
        ∃ t, exec (.cpydec f) s = .next t ∧ t.eng = s.eng ∧ ∀ l ∈ s.taking cx f.ctl,
          Entered (s.lane cx.gid l) (t.lane cx.gid l) (cx.at_ 0x28 (BitVec.ofNat 64 k)) (handlerOf s cx.gid))
      ∧ ∀ key s2 pl, s.keyAt (s.group cx.gid).part k = some key → a % 16 = 0 → off % 16 = 0 → off + len ≤ size →
        let m : List Move := (List.range (len + 32)).map fun n => ⟨0, a + n, n⟩
        s1.copyPlaces i .engineRead (m.map fun x => x.addr) = (s2, some pl) →
        ∃ t, exec (.cpydec f) s = .next t ∧ Copies s t cx (f.imm8.toNat % 16) (.decrypt off len key.key) (piecesOf pl m).1)
    ∧ (s.cur = some cx → s.taking cx f.ctl ≠ [] → s.copyHolds cx.gid k = true →
      exec (.cpy f) s = .next s.stall ∧ exec (.cpyg f) s = .next s.stall ∧ exec (.cpys f) s = .next s.stall)
    ∧ (Issues s cx f.ctl none [f.a.toNat] 1 →
      let c := s.cc (s.group cx.gid).blk k
      ∃ t, exec (.cpywait f) s = .next t ∧ OtherGroups cx.gid s t ∧
        if c.count ≤ f.imm8.toNat then ∀ l ∈ s.taking cx f.ctl, (t.lane cx.gid l).park = (s.lane cx.gid l).park
          ∧ (t.lane cx.gid l).vReg f.a.toNat = BitVec.ofNat 32
            (c.count + (if c.dataerr then 2 ^ 16 else 0) + (if c.auth then 2 ^ 17 else 0) + (if c.locality then 2 ^ 18 else 0))
        else ∀ l ∈ s.taking cx f.ctl, (t.lane cx.gid l).park = some (s.nextId + 1))

/-- R308, R309, R315: a line of a core's oldest command moves: with memory at rest its bytes land in the scratchpad, or set out from
there for their line. Once every line has moved the command completes and its counter falls by 1; a decryption's plaintext lands then
if its tag verifies, and otherwise its counter's AUTH bit is set. -/
def Obligations.CopyCommandsMoveBytes : Prop :=
  ∀ (cmd : Nat) (s : State) (c : CopyCmd) (b : Block), s.eng.copies.find? (fun x => x.id == cmd) = some c → s.copyFirst c = true →
    s.block c.blk = some b → s.waits = [] →
    (∀ p, c.pieces.find? (fun q => q.num == p.num) = some p → (∀ q ∈ c.pieces, p.lane ≤ q.lane) →
      (p.moves.map fun m => m.2).Nodup → (∀ m ∈ p.moves, m.1 < 128) →
      ∃ t x, exec (.copyLineArrival cmd p.num) s = .next t ∧ t.eng.copies.find? (fun y => y.id == cmd) = some x
        ∧ x.pieces = c.pieces.filter (fun q => !(q.num == p.num)) ∧ (Quiet s → t.mem = s.mem)
        ∧ (∀ pa k, c.kind = .toScratch → p.src = some (pa, k) → Quiet s →
          ∀ m ∈ p.moves, t.readS c.blk m.2 1 = [Memory.read s.mem (128 * lineOf pa + m.1)])
        ∧ (c.kind = .toScratch → p.src = none → ∀ m ∈ p.moves, t.readS c.blk m.2 1 = [0])
        ∧ (∀ pa k, c.kind = .fromScratch → p.src = some (pa, k) → t.blocks = s.blocks ∧ ∃ w, t.due = s.due ++ [.homeWriteAccept w]
          ∧ w.line = lineOf pa ∧ w.kind = k ∧ w.bytes.map (fun y => (y.off, [y.val])) = p.moves.map fun m => (m.1, s.readS c.blk m.2 1)))
    ∧ ((∀ x ∈ s.due, inFlight x = none) → c.pieces = [] → c.cc < b.ccs.length →
      ∃ t, exec (.copyCommandComplete cmd) s = .next t ∧ (∀ x ∈ t.eng.copies, x.id ≠ cmd) ∧ t.mem = s.mem
        ∧ (t.cc c.blk c.cc).count = (s.cc c.blk c.cc).count - 1
        ∧ (t.cc c.blk c.cc).dataerr = ((s.cc c.blk c.cc).dataerr || c.dataerr)
        ∧ ∀ off len key, c.kind = .decrypt off len key → c.dataerr = false → c.locality = false →
          let rec_ := (List.range (len + 32)).map fun k => (c.got.lookup k).getD 0
          match Aes.gcmDecrypt ((List.range 32).map fun k => key.extractLsb' (8 * k) 8) (rec_.take 12) ((rec_.drop 16).take len)
              (rec_.drop (16 + len)) with
          | some pt => t.readS c.blk off pt.length = pt ∧ (t.cc c.blk c.cc).auth = (s.cc c.blk c.cc).auth
          | none => (t.cc c.blk c.cc).auth = true ∧ ∀ o, t.readS c.blk o 1 = s.readS c.blk o 1)

/-- R319 to R321: STRMB binds a register to a valid ring, STRMU unbinds it and STRMQ counts its elements. A move from a bound register
pops one element for each lane, and one to a bound register pushes them, in lane order; without elements or room the lanes park, and
resume once there are. -/
def Obligations.StreamsPopAndPush : Prop :=
  (∀ (f : EF) (s : State) (cx : Cx), LanesExist s cx →
    let s1 := s.start cx f.ctl
    let g := s1.readG cx.gid f.b.toNat
    let r := f.a.toNat
    (Issues s cx f.ctl none [] 0 →
      (f.flags.getLsbD 1 = false → (s.group cx.gid).bound r = none →
        (bits g 31 0 % 16 = 0 → (∃ q, s.ring (s.group cx.gid).blk (bits g 31 0) = some q) →
          ∃ t k, exec (.strmb f) s = .next t ∧ Passed t cx ∧ SameRegs cx.gid s t ∧ OtherGroups cx.gid s t
            ∧ (t.group cx.gid).bound r = some k ∧ k.out = f.flags.getLsbD 0 ∧ k.block = (s.group cx.gid).block ∧ k.off = bits g 31 0
            ∧ ∀ x, x ≠ r → (t.group cx.gid).bound x = (s.group cx.gid).bound x)
        ∧ (s.ring (s.group cx.gid).blk (bits g 31 0) = none → CanTrap s cx.gid (s.taking cx f.ctl) →
          ∃ t, exec (.strmb f) s = .next t ∧ ∀ l ∈ s.taking cx f.ctl,
            Entered (s.lane cx.gid l) (t.lane cx.gid l) (cx.at_ 0x29 (BitVec.ofNat 64 r)) (handlerOf s cx.gid)))
      ∧ ∃ t, exec (.strmu f) s = .next t ∧ Passed t cx ∧ SameRegs cx.gid s t ∧ OtherGroups cx.gid s t
        ∧ ∀ x, (t.group cx.gid).bound x = if f.flags.getLsbD 0 = true ∨ x = r then none else (s.group cx.gid).bound x)
    ∧ (∀ k q, Issues s cx f.ctl none [r] 1 → (s.group cx.gid).bound f.b.toNat = some k → s.ringOf cx.gid k = some q →
      ∃ t, exec (.strmq f) s = .next t ∧ OtherGroups cx.gid s t ∧ SameMemory s t ∧ SameMachine s t ∧ ∀ l ∈ s.taking cx f.ctl,
        (t.lane cx.gid l).vReg r = if k.out then BitVec.ofNat 32 q.cap - (BitVec.ofNat 32 q.tail - BitVec.ofNat 32 q.head)
          else BitVec.ofNat 32 q.tail - BitVec.ofNat 32 q.head))
  ∧ ∀ (f : RRR) (s : State), (opMov f).srcs = [.v false f.a.toNat] → (opMov f).dst = .v false f.d.toNat →
    let a := f.a.toNat
    let d := f.d.toNat
    (∀ cx, LanesExist s cx → s.cur = some cx → s.taking cx f.ctl ≠ [] → s.holdsIssue cx.gid (s.taking cx f.ctl) none 1 = false →
      s.laneTrap cx.gid (opMov f) = none →
      let ls := s.taking cx f.ctl
      (∀ k q, (s.group cx.gid).bound a = some k → (s.group cx.gid).bound d = none → s.ringOf cx.gid k = some q →
        (s.block q.blk).isSome = true → ∃ t, exec (.mov f) s = .next t ∧ OtherGroups cx.gid s t ∧ SameMemory s t ∧
          if ls.length ≤ q.held then Popped s t cx.gid ls q d
          else (∀ l ∈ ls, (t.lane cx.gid l).park = some (s.nextId + 1)) ∧ t.due = s.due ++ [.streamPopResume ⟨cx.gid, s.nextId + 1⟩])
      ∧ (∀ k q, (s.group cx.gid).bound a = none → (s.group cx.gid).bound d = some k → s.ringOf cx.gid k = some q →
        (s.block q.blk).isSome = true → s.waits = [] → ∃ t, exec (.mov f) s = .next t ∧ OtherGroups cx.gid s t ∧ SameMemory s t ∧
          if ls.length ≤ q.cap - q.held then Pushed s t q (ls.map fun l => (s.start cx f.ctl).readV cx.gid l 1 a)
          else (∀ l ∈ ls, (t.lane cx.gid l).park = some (s.nextId + 1)) ∧ t.due = s.due ++ [.streamPushResume ⟨cx.gid, s.nextId + 1⟩]))
    ∧ ∀ (r : WaitRef) (w : Wait), s.wait r.id = some w → w.cx.gid = w.gid → (∀ l ∈ lanesOf w.lanes, l < (s.group w.gid).lanes.length) →
      (∀ k q, w.kind = .streamPop (.mov f) [] → (s.group w.gid).bound a = some k → (s.group w.gid).bound d = none →
        s.ringOf w.gid k = some q → (s.block q.blk).isSome = true →
        if (lanesOf w.lanes).length ≤ q.held then ∃ t, exec (.streamPopResume r) s = .next t ∧ Popped s t w.gid (lanesOf w.lanes) q d
          ∧ (∀ x ∈ t.waits, x.id ≠ w.id)
          ∧ ∀ l ∈ lanesOf w.lanes, (s.lane w.gid l).park = some w.id → (t.lane w.gid l).park = none
        else exec (.streamPopResume r) s = .next (s.send (.streamPopResume r)))
      ∧ ∀ k q xs, w.kind = .streamPush d xs → (s.group w.gid).bound d = some k → s.ringOf w.gid k = some q →
        (s.block q.blk).isSome = true → s.waits = [w] →
        if xs.length ≤ q.cap - q.held then ∃ t, exec (.streamPushResume r) s = .next t ∧ Pushed s t q (xs.map fun x => x.2) ∧ t.waits = []
          ∧ ∀ l ∈ lanesOf w.lanes, (s.lane w.gid l).park = some w.id → (t.lane w.gid l).park = none
        else exec (.streamPushResume r) s = .next (s.send (.streamPushResume r))

/-- R347 to R354, R356: STLOOP opens a loop in an idle slot with status 0 and joins an open one of its descriptor with status 1, and a
bad descriptor traps with cause 0x30; STEND hands the group the next iteration that the window admits, and leaves the loop under QUIT,
once no access of the group is held in its core (R375); a waiting request is served by the hand-out, behind the earlier ones for its
loop. -/
def Obligations.StagedLoops : Prop :=
  (∀ (f : EF) (s : State) (cx : Cx), LanesExist s cx →
    let g := s.group cx.gid
    let d := loopDesc ((s.start cx f.ctl).readG cx.gid f.b.toNat) f.imm8.toNat
    let x := s.loopSlot g.lid (s.spanNo g) f.x.toNat
    let gives := fun (status : Nat) (t : State) => exec (.stloop f) s = .next t ∧ Counted s t cx .mc ∧ SameMemory s t ∧ t.due = s.due
      ++ [.resultReturn ⟨s.nextId, cx.gid, some .mc, 0, (s.taking cx f.ctl).map fun l => .v l f.a.toNat (BitVec.ofNat 32 status), []⟩]
    (Issues s cx f.ctl (some .mc) [f.a.toNat] 1 →
      (d.n = 0xFFFFFFFF ∨ 63 < d.base + d.w → CanTrap s cx.gid (s.taking cx f.ctl) → ∃ t, exec (.stloop f) s = .next t ∧
        ∀ l ∈ s.taking cx f.ctl,
          Entered (s.lane cx.gid l) (t.lane cx.gid l) (cx.at_ 0x30 (BitVec.ofNat 64 f.x.toNat)) (handlerOf s cx.gid))
      ∧ (d.n ≠ 0xFFFFFFFF → d.base + d.w ≤ 63 → g.loop = none →
        (x.hdr = none → x.closed ≠ some d.tag → d.n ≠ 0 →
          (∀ y ∈ s.sched.loops, y.lid = g.lid → y.span = s.spanNo g → ∀ h, y.hdr = some h → h.base + h.w < d.base ∨ d.base + d.w < h.base) →
          d.w + 1 ≤ s.freeEntries ((s.hostCore g.lid (s.spanNo g)).getD 0) →
          ∃ t u, gives 0 t ∧ (t.group cx.gid).loop = some ⟨f.x.toNat, u, none, 0⟩
            ∧ (t.loopSlot g.lid (s.spanNo g) f.x.toNat).hdr = some ⟨u, d.n, d.tag, d.base, d.w, 0, 0⟩)
        ∧ ∀ h, x.hdr = some h →
          if h.n = d.n ∧ h.tag = d.tag ∧ h.base = d.base ∧ h.w = d.w then
            ∃ t, gives 1 t ∧ (t.group cx.gid).loop = some ⟨f.x.toNat, h.uid, none, 0⟩ ∧ t.sched = s.sched
          else ∃ t, gives 3 t ∧ t.sched = s.sched)
      ∧ (d.n ≠ 0xFFFFFFFF → d.base + d.w ≤ 63 → g.loop ≠ none → ∃ t, gives 6 t ∧ t.sched = s.sched))
    ∧ (s.cur = some cx → s.taking cx f.ctl ≠ [] → (∃ j ∈ s.ms.jobs, j.iss.gid = cx.gid) → exec (.stend f) s = .next s.stall)
    ∧ (Issues s cx f.ctl none [f.a.toNat] 1 → (∀ j ∈ s.ms.jobs, j.iss.gid ≠ cx.gid) →
        ∀ p y h, g.loop = some p → p.iter = none → s.openLoop g = some (y, h) →
      (f.flags.getLsbD 0 = true → ∃ t, exec (.stend f) s = .next t ∧ OtherGroups cx.gid s t ∧ SameMemory s t
        ∧ (t.group cx.gid).loop = none ∧ (t.group cx.gid).hold = true
        ∧ ∀ l ∈ s.taking cx f.ctl, (t.lane cx.gid l).vReg f.a.toNat = 0xFFFFFFFF)
      ∧ (f.flags.getLsbD 0 = false → h.next < h.n → h.next < h.low + h.w → s.waits = [] →
        ∃ t, exec (.stend f) s = .next t ∧ OtherGroups cx.gid s t
          ∧ (t.group cx.gid).loop = some { p with iter := some h.next, cur := 0 }
          ∧ (t.placeSlot (t.group cx.gid) p).hdr = some { h with next := h.next + 1 }
          ∧ ∀ l ∈ s.taking cx f.ctl, (t.lane cx.gid l).vReg f.a.toNat = BitVec.ofNat 32 h.next)
      ∧ (f.flags.getLsbD 0 = false → h.next < h.n → h.low + h.w ≤ h.next →
        ∃ t, exec (.stend f) s = .next t ∧ ∀ l ∈ s.taking cx f.ctl, (t.lane cx.gid l).park ≠ none)))
  ∧ ∀ (r : WaitRef) (s : State) (w : Wait) (reg : Nat) (p : LoopPlace) (y : LoopSlot) (h : LoopHdr), s.wait r.id = some w →
      w.kind = .stend reg → (∀ l ∈ lanesOf w.lanes, l < (s.group w.gid).lanes.length) → (s.group w.gid).loop = some p →
      s.openLoop (s.group w.gid) = some (y, h) →
      let gives := fun (t : State) (v : Word) => OtherGroups w.gid s t ∧ (∀ x ∈ t.waits, x.id ≠ w.id) ∧ ∀ l ∈ lanesOf w.lanes,
        (t.lane w.gid l).vReg reg = v ∧ ((s.lane w.gid l).park = some w.id → (t.lane w.gid l).park = none)
      if s.handOutBehind w = true then exec (.iterationHandout r) s = .next (s.send (.iterationHandout r))
      else if h.n ≤ h.next then ∃ t, exec (.iterationHandout r) s = .next t ∧ gives t 0xFFFFFFFF ∧ (t.group w.gid).loop = none
      else if h.next < h.low + h.w then ∃ t, exec (.iterationHandout r) s = .next t ∧ gives t (BitVec.ofNat 32 h.next)
        ∧ (t.group w.gid).loop = some { p with iter := some h.next, cur := 0 }
      else exec (.iterationHandout r) s = .next (s.send (.iterationHandout r))

/-- R350 to R352, R357 to R360: STAGE raises the stage count of the group's iteration, and its update becomes visible later, once the
group's earlier accesses have performed, never lowering a count and never touching another loop; below the count it traps with cause 0x32,
above 0xFFFE with 0x33, outside an iteration with 0x31. WAITL goes on once the predecessor's count exceeds its value, and parks until
then. -/
def Obligations.StageCounts : Prop :=
  (∀ (f : EF) (s : State) (cx : Cx), LanesExist s cx →
    let g := s.group cx.gid
    let imm := f.flags.getLsbD 2
    let mode := f.flags.toNat % 4
    let traps := fun (w : Instr) (cause info : Nat) => CanTrap s cx.gid (s.taking cx f.ctl) → ∃ t, exec w s = .next t ∧
      ∀ l ∈ s.taking cx f.ctl, Entered (s.lane cx.gid l) (t.lane cx.gid l) (cx.at_ cause (BitVec.ofNat 64 info)) (handlerOf s cx.gid)
    (Issues s cx f.ctl none (if mode ≠ 0 && !imm then [f.a.toNat] else []) 0 →
      let op := if imm then f.imm8.toNat else ((s.start cx f.ctl).readV cx.gid (issOf s cx f.ctl).low 1 f.a.toNat).toNat
      (g.loop = none → traps (.stage f) 0x31 0)
      ∧ ∀ p it y h, g.loop = some p → p.iter = some it → s.openLoop g = some (y, h) →
        let n := if mode = 0 then p.cur + 1 else if mode = 1 then p.cur + op else op
        if n < p.cur then traps (.stage f) 0x32 n
        else if 0xFFFE < n then traps (.stage f) 0x33 n
        else ∃ t, exec (.stage f) s = .next t ∧ Passed t cx ∧ SameRegs cx.gid s t ∧ OtherGroups cx.gid s t ∧ SameMemory s t
          ∧ (t.group cx.gid).loop = some { p with cur := n }
          ∧ t.due = s.due ++ [.stageUpdateVisible ⟨g.lid, s.spanNo g, p.slot, it, n, cx.gid, s.nextId, p.uid⟩])
    ∧ (Issues s cx f.ctl none (if f.flags.getLsbD 0 then [] else [f.a.toNat]) 0 →
      let v := if f.flags.getLsbD 0 then f.imm8.toNat else ((s.start cx f.ctl).readV cx.gid (issOf s cx f.ctl).low 1 f.a.toNat).toNat
      (g.loop = none → traps (.waitl f) 0x31 0)
      ∧ ∀ p it y h, g.loop = some p → p.iter = some it → s.openLoop g = some (y, h) → v ≤ 0xFFFE →
        ∃ t, exec (.waitl f) s = .next t ∧ SameRegs cx.gid s t ∧ OtherGroups cx.gid s t ∧
          if v < predOf y h it then (t.group cx.gid).hold = true ∧ ∀ l ∈ s.taking cx f.ctl, (t.lane cx.gid l).park = (s.lane cx.gid l).park
          else ∀ l ∈ s.taking cx f.ctl, (t.lane cx.gid l).park = some (s.nextId + 1)))
  ∧ ∀ (u : StageUpdate) (s : State),
    ((∃ j ∈ s.ms.jobs, j.iss.gid = u.gid ∧ j.iss.id < u.id) →
      exec (.stageUpdateVisible u) s = .next (s.send (.stageUpdateVisible u)))
    ∧ ∀ h, (s.loopSlot u.lid u.span u.slot).hdr = some h → s.waits = [] → (∀ j ∈ s.ms.jobs, j.iss.gid = u.gid → u.id ≤ j.iss.id) →
    ∃ t, exec (.stageUpdateVisible u) s = .next t ∧ t.groups = s.groups ∧ (Quiet s → SameMemory s t ∧ t.due = s.due) ∧
      (h.uid ≠ u.uid → t.sched = s.sched) ∧
      ∀ e, h.uid = u.uid → (s.loopSlot u.lid u.span u.slot).iters.lookup (entryOf h u.iter) = some e → e.iter = u.iter →
        ∃ e1, (t.loopSlot u.lid u.span u.slot).iters.lookup (entryOf h u.iter) = some e1 ∧ e1.iter = e.iter
          ∧ e1.count = if e.count = 0xFFFF then 0xFFFF else max e.count u.count

/-! ## Launches, blocks and tasks -/

/-- R324, R327 to R329, R333: LAUNCH returns the identifier of a record it accepts, or the rejection code; it traps with cause 0x10 on
a misaligned address, and waits while the partition's key is not set (R438); the new blocks are placed once its result is back (R364). LWAIT
returns the status of a launch that has ended and parks on one that runs. A retired block counts in its launch; a quiet span that saves
leaves its cores; and a launch ends with status 2, or 3 after a trap, and with status 2 when its groups all wait to pop and its queues
are empty (R341). -/
def Obligations.LaunchesRunAndEnd : Prop :=
  (∀ (f : EF) (s : State) (cx : Cx) (x : Part), LanesExist s cx → s.part (s.group cx.gid).part = some x →
    let s1 := s.start cx f.ctl
    let a := s1.readG cx.gid f.b.toNat
    let q := s1.quadArg (issOf s cx f.ctl) f
    (x.keyset = false → s.cur = some cx → s.taking cx f.ctl ≠ [] → exec (.launch f) s = .next s.stall)
    ∧ (x.keyset = true → Issues s cx f.ctl (some .mc) [f.a.toNat] 0 →
      (a.toNat % 128 ≠ 0 → CanTrap s cx.gid (s.taking cx f.ctl) → ∃ t, exec (.launch f) s = .next t ∧ t.launches = s.launches
        ∧ ∀ l ∈ s.taking cx f.ctl, Entered (s.lane cx.gid l) (t.lane cx.gid l) (cx.at_ 0x10 a) (handlerOf s cx.gid))
      ∧ (a.toNat % 128 = 0 → s.holds (s.group cx.gid).part q = true →
        (∀ s2 c, (s1.releaseBy cx.gid (maskOf (s.taking cx f.ctl))).checkRecord q a = (s2, .error c) →
          ∃ t, exec (.launch f) s = .next t ∧ McResult s t cx f.ctl f.a.toNat (BitVec.ofNat 32 (2 ^ 31 + c)) ∧ t.launches = s.launches)
        ∧ ∀ s2 r, (s1.releaseBy cx.gid (maskOf (s.taking cx f.ctl))).checkRecord q a = (s2, .ok r) →
          let id := q * 2 ^ 26 + (Map.get 0 s.sched.seqs q + 1)
          ∃ t, exec (.launch f) s = .next t ∧ McResult s t cx f.ctl f.a.toNat (BitVec.ofNat 32 id)
            ∧ ⟨s.nextId, .place id (quadsOfMask (if r.1.qmask = 0 then 1 <<< q else r.1.qmask))⟩ ∈ t.after
            ∧ ∃ y ∈ t.launches, y.lid = id ∧ y.part = s.ownerOf q ∧ y.addr = a)))
  ∧ (∀ (r : Ret) (s : State) (lid : Nat) (quads : List Nat), s.after = [⟨r.id, .place lid quads⟩] →
    exec (.resultReturn r) s = .next (quads.foldl State.placePass (({ s with after := [] } : State).land r)))
  ∧ (∀ (f : EF) (s : State) (cx : Cx), LanesExist s cx → Issues s cx f.ctl none [f.a.toNat, f.b.toNat] 1 →
    let id := ((s.start cx f.ctl).readV cx.gid (issOf s cx f.ctl).low 1 f.b.toNat).toNat
    let p := (s.group cx.gid).part
    ∃ t, exec (.lwait f) s = .next t ∧ OtherGroups cx.gid s t ∧
      ((id ≠ (s.group cx.gid).lid ∨ (s.group cx.gid).lid = 0) → (∃ y, s.launch id = some y ∧ y.part = p) →
        ∀ l ∈ s.taking cx f.ctl, (t.lane cx.gid l).park = some (s.nextId + 1))
      ∧ ∀ st, (id ≠ (s.group cx.gid).lid ∨ (s.group cx.gid).lid = 0) → s.launch id = none → s.sched.ended.lookup id = some st →
        s.ownerOf (id / 2 ^ 26) = p → (t.group cx.gid).hold = true
        ∧ ∀ l ∈ s.taking cx f.ctl, (t.lane cx.gid l).vReg f.a.toNat = BitVec.ofNat 32 st)
  ∧ (∀ (b : BlockRef) (s : State) (k : Block), s.block b = some k →
    (k.gids = [] → (∀ c ∈ s.eng.copies, c.blk ≠ b) → ∀ x, s.launch b.lid = some x →
      ∃ t y, exec (.blockRetire b) s = .next t ∧ t.launch b.lid = some y ∧ y.blocksEnded = x.blocksEnded + 1
        ∧ (x.record.blocks ≤ x.blocksEnded + 1 → .launchEnd b.lid ∈ t.due))
    ∧ (k.gids = [] → (∃ c ∈ s.eng.copies, c.blk = b) → exec (.blockRetire b) s = .next (s.send (.blockRetire b)))
    ∧ (s.isEnding b.lid = false → (∀ g ∈ k.gids, (s.group g).stopping = true) → (∀ m ∈ s.spanMates k, s.blockQuiet m = true) →
      ((s.spanMates k).map fun m => s.savePages m).sum ≤ (s.poolFree (s.ownerOf k.quad)).length →
      ∃ u : State, exec (.blockSave b) s = .next ((u.placePass k.quad).preemptWake b.lid)
        ∧ ∀ m ∈ s.spanMates k, u.block ⟨m.lid, m.num⟩ = none ∧ ∃ v ∈ u.sched.saved, v.block.lid = m.lid ∧ v.block.num = m.num))
  ∧ (∀ (b : BlockRef) (s : State) (v : Saved), (s.sched.saved.find? fun x => x.block.lid == b.lid && x.block.num == b.block) = some v →
    exec (.blockRestore b) s = .next (s.placePass v.block.quad))
  ∧ ∀ (lid : Nat) (s : State) (x : Launch), s.launch lid = some x → s.launchRecord lid = false →
    let finishes := fun (status : Nat) => ∃ t, exec (.launchEnd lid) s = .next t ∧ t.launch lid = none
      ∧ t.sched.ended.head? = some (lid, status)
    (x.ending = true → (∀ b ∈ s.blocks, b.lid = lid → s.blockQuiet b = true) → s.enginesDone lid = true → finishes 3)
    ∧ (x.ending = false → x.record.blocks ≤ x.blocksEnded ∨ s.popEnd x = true → s.enginesDone lid = true → finishes 2)
    ∧ (x.ending = false → x.record.blocks ≤ x.blocksEnded → s.enginesDone lid = false →
      exec (.launchEnd lid) s = .next (s.send (.launchEnd lid)))

/-- R259, R341 to R346: TSPAWN pushes a task record, which it writes to its place in the ring, and returns true, or false where the ring
is full; behind the 64 records on the chip one whose place cannot be written is not pushed, which is the model's choice (log entry 28).
TSIGNAL lowers a successor line's count, the last signal pushes its record, and its acknowledgement sets the SENT bit. TDONE parks its
lanes; the last of them sends the group to pop. Of the groups that wait, the first is served: a popped task starts its group at its
entry, and a completed one sends it back to pop. -/
def Obligations.TasksRun : Prop :=
  (∀ (f : EF) (s : State) (cx : Cx), LanesExist s cx →
    let s1 := s.start cx f.ctl
    let a := s1.readG cx.gid f.a.toNat
    let i := issOf s cx f.ctl
    (Issues s cx f.ctl (some .stc) [] 0 → Quiet s → s.sched.saved = [] →
      (∀ s2 pa k, a.toNat % 64 = 0 → s.holds (s.group cx.gid).part (s1.quadArg i f) = true → s1.checkOne i .read a = (s2, some (pa, k)) →
        pa % 128 + 64 ≤ 128 →
        let bs := Memory.readBytes s.mem pa 64
        let q := s1.quadArg i f
        let prio := fieldAt bs 40 1 % 4
        let gives := fun (t : State) (p : Bool) => exec (.tspawn f) s = .next t ∧ Counted s t cx .stc ∧ t.due = s.due
          ++ [.resultReturn ⟨s.nextId, cx.gid, some .stc, 0, (s.taking cx f.ctl).map fun l => .p l f.b.toNat p, []⟩]
        let w := s2.distWrite q (s2.recordAt (s2.taskQueue q prio) (s.queue q prio).length) bs
        if (s.queue q prio).length < s.ringCap q ∧ (w.2 = true ∨ (s.queue q prio).length < 64) then
          ∃ t, gives t true ∧ t.queue q prio = s.queue q prio ++ [bs] ∧ t.mem = w.1.mem
        else ∃ t, gives t false ∧ t.sched = s.sched ∧ t.mem = s.mem)
      ∧ ∀ s2 pa k, a.toNat % 128 = 0 → pa % 128 = 0 → s1.checkOne i .atomic a = (s2, some (pa, k)) →
        let bs := Memory.readBytes s.mem pa 128
        let n := fieldAt bs 0 4
        let w := fieldAt bs 4 4
        let done := fun (t : State) => exec (.tsignal f) s = .next t ∧ Counted s t cx .stc
          ∧ t.due = s.due ++ [.resultReturn ⟨s.nextId, cx.gid, some .stc, 0, [], []⟩]
          ∧ t.after = s.after ++ [⟨s.nextId, .sent cx.gid f.imm8.toNat⟩]
        (2 ≤ n → ∃ t, done t ∧ t.sched = s.sched ∧ Stored s t (lineOf pa) (bytesAt pa (leBytes 4 (n - 1))))
        ∧ (n = 1 → w < 128 → s.holds (s.group cx.gid).part (w % 32) = true → (s.queue (w % 32) (w / 32)).length < s.ringCap (w % 32) →
          (s.queue (w % 32) (w / 32)).length < 64 → ∃ t, done t ∧ t.queue (w % 32) (w / 32) = s.queue (w % 32) (w / 32) ++ [bs.drop 64]))
    ∧ (Issues s cx f.ctl none [] 0 → (∀ l ∈ lanesOf cx.mask, (s.lane cx.gid l).live = true) →
      let all := ∀ l, l < (s.group cx.gid).lanes.length → (s.lane cx.gid l).live = true → l ∈ s.taking cx f.ctl ∨ (s.lane cx.gid l).taskDone = true
      ∃ t, exec (.tdone f) s = .next t ∧ OtherGroups cx.gid s t ∧ SameMemory s t
        ∧ (∀ l ∈ s.taking cx f.ctl, (t.lane cx.gid l).park ≠ none)
        ∧ (¬all → t.due = s.due ∧ ∀ l ∈ s.taking cx f.ctl, (t.lane cx.gid l).taskDone = true)
        ∧ (all → (s.group cx.gid).task = none → t.due = s.due ++ [.taskPop cx.gid] ∧ (t.group cx.gid).serving = true)
        ∧ (all → (s.group cx.gid).task ≠ none → t.due = s.due ++ [.taskComplete cx.gid])))
  ∧ (∀ (r : Ret) (s : State) (n : Nat) (k : TaskRun), s.after = [⟨r.id, .sent r.gid n⟩] → (s.group r.gid).task = some k →
    s.hasGroup r.gid = true → (∃ l, l < (s.group r.gid).lanes.length ∧ (s.lane r.gid l).live = true) →
    ∃ t, exec (.resultReturn r) s = .next t ∧ (t.group r.gid).task = some { k with sent := k.sent ||| ((1 : Word) <<< n) } ∧ t.after = [])
  ∧ (∀ (gid : Nat) (s : State) (x : Launch) (bs : List Byte) (rest : List (List Byte)), s.launch (s.group gid).lid = some x →
    x.ending = false → s.hasGroup gid = true → (s.group gid).serving = true → (s.group gid).task = none → s.popping gid = true →
    s.queue (quadOfGid gid) x.record.prio = bs :: rest → (s.poppers (quadOfGid gid) x.record.prio).head? = some gid →
    rest.length < 64 → taskBad bs = false →
    ∃ t k, exec (.taskPop gid) s = .next t ∧ OtherGroups gid s t ∧ t.queue (quadOfGid gid) x.record.prio = rest
      ∧ (t.group gid).task = some k ∧ k.record = bs ∧ k.args = BitVec.ofNat 64 (fieldAt bs 8 8)
      ∧ ∀ l, l < (s.group gid).lanes.length → (s.lane gid l).live = true →
        (t.lane gid l).pc = BitVec.ofNat 64 (fieldAt bs 0 8) ∧ (t.lane gid l).pos = 0 ∧ (t.lane gid l).stack = []
          ∧ (t.lane gid l).taskDone = false)
  ∧ ∀ (gid : Nat) (s : State) (k : TaskRun), (s.group gid).task = some k → k.fault = none → k.autosig = false →
    (s.group gid).tasksDone = true → (s.group gid).loop = none → s.phases = [] → s.drained gid = true →
    (∃ l, l < (s.group gid).lanes.length ∧ (s.lane gid l).live = true) →
    ∃ t d, exec (.taskComplete gid) s = .next t ∧ OtherGroups gid s t ∧ SameMemory s t ∧ t.due = s.due ++ d ++ [.taskPop gid]
      ∧ (t.group gid).task = none ∧ (t.group gid).serving = true ∧ (t.group gid).acc = [] ∧ (t.group gid).streams = []
      ∧ ∀ l, l < (s.group gid).lanes.length → (s.lane gid l).live = true → (t.lane gid l).park ≠ none

/-! ## System cores -/

/-- R373, R424 to R426, R428, R429, R439: ERET leaves event mode at SYS_EPC, HALT parks, and an enabled event enters event mode at
SYS_EVEC or wakes a halted core. KEYLD takes a delivered key, the oldest where entries share a ticket (log entry 43), clears a slot, and
returns its status; PREEMPT holds a launch, releases it and returns the blocks saved; RESUME lets a parked sub-group go on (R373). A trap
on a system core, as of CSRR on a register that does not exist (R426), enters event mode with bit 7 of SYS_EVT set. -/
def Obligations.SystemCoreWords : Prop :=
  (∀ (f : EF) (s : State) (cx : Cx), LanesExist s cx → isSysGid cx.gid = true → (s.group cx.gid).sys = true →
    let i := issOf s cx f.ctl
    let q := cx.gid - 36864
    let s1 := s.start cx f.ctl
    let p := (s.group cx.gid).part
    let status := fun (t : State) (v : Word) => ∀ l ∈ s.taking cx f.ctl, (t.lane cx.gid l).vReg f.a.toNat = v
    (Issues s cx f.ctl none [] 0 →
      (∃ t, exec (.eret f) s = .next t ∧ OtherGroups cx.gid s t ∧ SameMemory s t ∧ t.csr (evtKey q) = s.csr (evtKey q) &&& ~~~0x10000
        ∧ (t.lane cx.gid i.low).pc = s.csr (epcKey q) ∧ (t.lane cx.gid i.low).pos = 0 ∧ t.due = s.due ++ [.eventModeEntry q])
      ∧ ∃ t, exec (.halt f) s = .next t ∧ Passed t cx ∧ SameRegs cx.gid s t ∧ OtherGroups cx.gid s t ∧ SameMemory s t
        ∧ t.due = s.due ++ [.eventModeEntry q] ∧ ∀ l ∈ s.taking cx f.ctl, (t.lane cx.gid l).park = some (s.nextId + 1))
    ∧ (Issues s cx f.ctl (some .mc) [f.a.toNat] 0 → s.slotBusy f.x.toNat = false →
      let clr := f.flags.getLsbD 0
      let ticket := lo32 (s1.readG cx.gid f.b.toNat)
      let gives := fun (t : State) (v : Word) => exec (.keyld f) s = .next t ∧ McResult s t cx f.ctl f.a.toNat v ∧ SameMemory s t
      (∀ k, s.keySlot f.x.toNat = some k →
        (k.part ≠ p → ∃ t, gives t 2 ∧ t.sys = s.sys) ∧ (k.part = p → clr = false → ∃ t, gives t 3 ∧ t.sys = s.sys)
        ∧ (k.part = p → clr = true → ∃ t, gives t 0 ∧ t.keySlot f.x.toNat = none))
      ∧ (s.keySlot f.x.toNat = none → clr = false →
        (∀ d, s.sys.delivery.find? (fun d => d.part == p && d.ticket == ticket) = some d → ∃ t k, gives t 0
          ∧ t.keySlot f.x.toNat = some k ∧ k.part = p ∧ k.key = d.key ∧ k.model = d.model
          ∧ t.sys.delivery = s.sys.delivery.erase d)
        ∧ ((∀ d ∈ s.sys.delivery, d.part = p → d.ticket ≠ ticket) → ∃ t, gives t 1 ∧ t.sys = s.sys)))
    ∧ (Issues s cx f.ctl none [f.a.toNat] 1 →
      let id := (s1.readG cx.gid f.b.toNat).toNat % 2 ^ 32
      (s.launch id = none → ∃ t, exec (.preempt f) s = .next t ∧ OtherGroups cx.gid s t ∧ SameMemory s t ∧ status t 0x80000000)
      ∧ (∀ x, s.launch id = some x → x.lid = id → x.part = p →
        (f.flags.getLsbD 0 = true → ∃ t y, exec (.preempt f) s = .next t ∧ t.launch id = some y ∧ y.held = false)
        ∧ (f.flags.getLsbD 0 = false → (∀ b ∈ s.blocks, b.lid ≠ id) → s.saving id = false → s.waits = [] →
          ∃ t y, exec (.preempt f) s = .next t ∧ OtherGroups cx.gid s t ∧ status t 0 ∧ t.launch id = some y ∧ y.held = true))
      ∧ ((∀ x ∈ s.ms.parked, x.id = id → x.part ≠ p) → ∃ t, exec (.resume f) s = .next t ∧ OtherGroups cx.gid s t ∧ status t 1)
      ∧ ∀ x w, f.flags.getLsbD 0 = false → s.ms.parked.find? (fun x => x.id == id && x.part == p) = some x → x.agent = 0 →
        s.waits.find? (fun w => w.isFault x.id) = some w → w.gid ≠ cx.gid →
        ∃ t, exec (.resume f) s = .next t ∧ status t 0 ∧ (∀ y ∈ t.ms.parked, y.id ≠ id) ∧ (∀ y ∈ t.waits, y.id ≠ w.id)
          ∧ ∀ l ∈ lanesOf w.lanes, l < (s.group w.gid).lanes.length → (s.lane w.gid l).park = some w.id → (t.lane w.gid l).park = none)
    ∧ (Issues s cx f.ctl none (vNames true f.a) 2 → s.csrHome p q f.imm8.toNat (s1.csrInst cx.gid f) = none →
      (s.csr (evtKey q)).getLsbD 16 = false → s.csr (evecKey q) ≠ 0 → q < 256 → i.low < (s.group cx.gid).lanes.length →
      ∃ t, exec (.csrr f) s = .next t ∧ (t.lane cx.gid i.low).xcause = 0x13 ∧ (t.lane cx.gid i.low).xpc = cx.pc
        ∧ (t.lane cx.gid i.low).pc = s.csr (evecKey q) ∧ (t.lane cx.gid i.low).pos = 0 ∧ t.csr (epcKey q) = cx.pc &&& ~~~7
        ∧ t.csr (evtKey q) = s.csr (evtKey q) ||| 0x10080))
  ∧ ∀ (q : Nat) (s : State), q < 256 → s.hasGroup (sysGid q) = true → (s.lane (sysGid q) 0).live = true →
    0 < (s.group (sysGid q)).lanes.length → (s.csr (evecKey q)) ≠ 0 →
    (s.eventReady q = true → (s.lane (sysGid q) 0).park = none → (s.lane (sysGid q) 0).pos = 0 →
      ∃ t, exec (.eventModeEntry q) s = .next t ∧ (t.lane (sysGid q) 0).pc = s.csr (evecKey q)
        ∧ t.csr (epcKey q) = (s.lane (sysGid q) 0).pc &&& ~~~7 ∧ (t.csr (evtKey q)).getLsbD 16 = true)
    ∧ (s.eventPending q = true → ∀ w, s.haltWait (sysGid q) 0 = some w → w.gid = sysGid q → w.lanes = 1 →
      ∃ t, exec (.eventModeEntry q) s = .next t ∧ (t.lane (sysGid q) 0).park = none ∧ ∀ y ∈ t.waits, y.id ≠ w.id)

/-- R3, R406, R407, R426, R427, R432, R434, R441: CSRR returns the register that its number and instance name. CSRW and a register write with
no instruction store the value, field by field; a locked gate stays locked; SYS_HOSTIRQ raises the partition's MSI-X vector; a port and
a domain are enabled by their own registers. That a write of SYS_HOSTIRQ outside the quiet-mode slot of R441 waits for the slot is the
model's reading (log entry 61). -/
def Obligations.ControlRegisters : Prop :=
  (∀ (f : EF) (s : State) (cx : Cx) (key : Nat), LanesExist s cx → isSysGid cx.gid = true → (s.group cx.gid).sys = true →
    let i := issOf s cx f.ctl
    let s1 := s.start cx f.ctl
    let p := (s.group cx.gid).part
    let inst := s1.csrInst cx.gid f
    let val := s1.readVW cx.gid i.low 1 true f.a.toNat
    s.csrHome p (quadOfGid cx.gid) f.imm8.toNat inst = some key →
    (Issues s cx f.ctl none (vNames true f.a) 2 → ∃ t, exec (.csrr f) s = .next t ∧ Passed t cx ∧ OtherGroups cx.gid s t ∧ SameMemory s t
      ∧ ∀ l ∈ s.taking cx f.ctl,
        pairOf ((t.lane cx.gid l).vReg f.a.toNat) ((t.lane cx.gid l).vReg (f.a.toNat + 1)) = s.readCsr p f.imm8.toNat inst key)
    ∧ (Issues s cx f.ctl none (vNames true f.a) 0 → f.imm8.toNat ∈ [0x05, 0x06, 0x0A, 0x0B, 0x0C] → rzBad f.imm8.toNat val = false →
      ∃ t, exec (.csrw f) s = .next t ∧ Passed t cx ∧ SameRegs cx.gid s t ∧ OtherGroups cx.gid s t ∧ t.csr key = val))
  ∧ (∀ (w : CsrWrite) (s : State) (key : Nat), s.csrHome w.part ((s.quadsOf w.part).headD 0) w.num w.inst = some key →
    rzBad w.num w.val = false →
    (w.num ∈ [0x05, 0x06, 0x0A, 0x0B, 0x0C] → ∃ t, exec (.registerWrite w) s = .next t ∧ t.csr key = w.val ∧ t.groups = s.groups
      ∧ SameMemory s t ∧ ∀ k, k ≠ key → t.csr k = s.csr k)
    ∧ (w.num = 0x09 → ∃ t, exec (.registerWrite w) s = .next t ∧ t.due = s.due ++ [.eventModeEntry (key % 256)] ∧ ∀ k, k < 64 →
      (t.csr key).getLsbD k = if k < 8 then (s.csr key).getLsbD k && !w.val.getLsbD k else if k < 16 then w.val.getLsbD k
        else k == 16 && (s.csr key).getLsbD 16))
  ∧ (∀ (w : CsrWrite) (s : State), s.holds w.part w.inst = true → rzBad 0x28 w.val = false →
    ∃ t, exec (.lndGateLock w) s = .next t ∧ t.groups = s.groups ∧ SameMemory s t ∧ t.csr (csrKey 0x28 w.inst)
      = if w.val.getLsbD 0 then 1 else s.csr (csrKey 0x28 w.inst))
  ∧ (∀ (w : CsrWrite) (s : State), w.val.getLsbD 0 = true →
    (s.notItsSlot w.part = false → ∃ t, exec (.sysHostirq w) s = .next t ∧ t.sys.outbox = s.sys.outbox ++ [.msix w.part]
      ∧ t.groups = s.groups ∧ SameMemory s t ∧ t.due = s.due)
    ∧ (s.notItsSlot w.part = true → exec (.sysHostirq w) s = .next (s.send (.sysHostirq w))))
  ∧ (∀ (w : CsrWrite) (s : State), w.inst < 32 → bits w.val 47 13 = 0 → bits w.val 7 1 = 0 → w.val.getLsbD 0 = true →
    s.portDom w.inst = none → s.domOwner (bits w.val 12 8) = none →
    ∃ t, exec (.optPortcfgWrite w) s = .next t ∧ t.csr (portcfgKey w.inst) = w.val ∧ t.lnk w.inst = lnkTraining
      ∧ t.portDom w.inst = some (bits w.val 12 8) ∧ t.groups = s.groups ∧ SameMemory s t)
  ∧ ∀ (w : CsrWrite) (s : State), bits w.val 2 1 = 0 → s.domOwner w.inst = none → w.val.getLsbD 0 = true →
    (∀ p ∈ s.portsOf w.inst, s.ownerOf p = w.part ∧ s.holdsDie w.part (p / 4) = true) → ∀ q qs, s.quadsOf w.part = q :: qs →
    ∃ t, exec (.optDomctlWrite w) s = .next t ∧ t.domEn w.inst = true ∧ t.domOwner w.inst = some (s.ownerOf q) ∧ t.dto w.inst = bits w.val 63 40
      ∧ t.rto w.inst = bits w.val 39 8 ∧ t.groups = s.groups ∧ SameMemory s t

/-- R273, R277, R278, R369 to R373: TLBINV issues, and by its completion the partition's entries that its mode names are dropped;
TLBSYNC issues, and its completion waits while something that was translated by a dropped entry has yet to perform; TLBLOCK, TLBUNLK and
TLBPRE keep the block's locked regions and bring translations in; TIDLD and TIDINV issue, and set an entry of the launch's tensor table
as they complete. -/
def Obligations.TranslationAndTensorTables : Prop :=
  (∀ (r : Ret) (s : State),
    (∀ key part mode space base len, s.after = [⟨r.id, .inv key part mode space base len⟩] →
      ∃ t, exec (.resultReturn r) s = .next t ∧ t.after = [] ∧ ∀ e, e ∈ t.ms.tlb ↔ e ∈ s.ms.tlb ∧
        ¬(e.part = part ∧ (mode = 3 ∨ (e.space = space ∧ (mode = 2 ∨ (len ≠ 0 ∧ e.va < base + len ∧ base < e.va + e.size))))))
    ∧ (∀ key, s.after = [⟨r.id, .sync key⟩] →
      if s.ms.dropped.any (fun x => x.1 == key && s.entryUsed x.2) then exec (.resultReturn r) s = .next (s.send (.resultReturn r))
      else ∃ t, exec (.resultReturn r) s = .next t ∧ t.after = [] ∧ ∀ x ∈ t.ms.dropped, x.1 ≠ key)
    ∧ ∀ lid k e x, s.after = [⟨r.id, .tid lid k e⟩] → s.launch lid = some x →
      ∃ t, exec (.resultReturn r) s = .next t ∧ t.after = [] ∧ t.tensor lid k = e ∧ ∀ n, n ≠ k → t.tensor lid n = s.tensor lid n)
  ∧ ∀ (f : EF) (s : State) (cx : Cx), LanesExist s cx →
    let s1 := s.start cx f.ctl
    let i := issOf s cx f.ctl
    let a := s1.readG cx.gid f.a.toNat
    let b := s1.readG cx.gid f.b.toNat
    let p := (s.group cx.gid).part
    let blk := (s.group cx.gid).blk
    let ack : Instr := .resultReturn ⟨s.nextId, cx.gid, some .mc, 0, [], []⟩
    (isSysGid cx.gid = true → Issues s cx f.ctl (some .mc) [] 0 →
      (let mode := f.flags.toNat % 4
       let space := if mode = 0 then s.xlatSpace p else (s1.readG cx.gid f.c.toNat).extractLsb' 0 16
       ∃ t d, exec (.tlbinv f) s = .next t ∧ Counted s t cx .mc ∧ t.due = d ++ [ack] ∧ (∀ x ∈ d, ∀ w, inFlight x = some w → w.1 ≠ keyOf cx.gid)
        ∧ t.after = s.after ++ [⟨s.nextId, .inv (keyOf cx.gid) p mode space a.toNat b.toNat⟩] ∧ (∀ e ∈ t.ms.tlb, e ∈ s.ms.tlb)
        ∧ ∀ e ∈ s.ms.tlb, ¬(e.part = p ∧ (mode = 3 ∨ (e.space = space ∧ (mode = 2 ∨ (b ≠ 0 ∧ e.va < a.toNat + b.toNat
          ∧ a.toNat < e.va + e.size))))) → e ∈ t.ms.tlb)
      ∧ ∃ t, exec (.tlbsync f) s = .next t ∧ Counted s t cx .mc ∧ SameMemory s t ∧ t.due = s.due ++ [ack]
        ∧ t.after = s.after ++ [⟨s.nextId, .sync (keyOf cx.gid)⟩])
    ∧ (Issues s cx f.ctl (some .mc) [f.a.toNat] 0 →
      let len := (s1.readG cx.gid f.c.toNat).toNat
      let gives := fun (t : State) (v : Word) =>
        exec (.tlblock f) s = .next t ∧ McResult s t cx f.ctl f.a.toNat v ∧ (NoneLanding s → t.mem = s.mem)
      (len = 0 → ∃ t, gives t 0 ∧ SameMemory s t)
      ∧ ∀ s2 ls ok x, len ≠ 0 → regionLeaves s1 (s1.laneWalker cx.gid) b.toNat len = (s2, ls, ok) → s.block blk = some x →
        if ok = false then ∃ t, gives t 0x200 ∧ t.blocks = s.blocks ∧ t.ms.tlb = s.ms.tlb
        else if 4 ≤ x.regions.length ∨ ∃ c ∈ x.cores, s.lockable c < ls.length then ∃ t, gives t 0x100 ∧ t.blocks = s.blocks ∧ t.ms.tlb = s.ms.tlb
        else ∃ t y, gives t (BitVec.ofNat 32 ls.length) ∧ t.block blk = some y ∧ y.regions = x.regions ++ [⟨b, BitVec.ofNat 64 len⟩])
    ∧ (Issues s cx f.ctl none [] 0 → ∀ x, s.block blk = some x → ∃ t y, exec (.tlbunlk f) s = .next t ∧ Passed t cx
      ∧ SameRegs cx.gid s t ∧ OtherGroups cx.gid s t ∧ t.mem = s.mem ∧ t.block blk = some y ∧
      if f.flags.getLsbD 0 then y.regions = [] ∧ ∀ e ∈ t.ms.tlb, ∀ n, e.locked ≠ some (blk, n)
      else (∀ r, r ∈ y.regions ↔ r ∈ x.regions ∧ r.base ≠ a) ∧ ∀ e ∈ t.ms.tlb, e.locked ≠ some (blk, a.toNat))
    ∧ (Issues s cx f.ctl (some .mc) [] 0 →
      (∃ t, exec (.tlbpre f) s = .next t ∧ Counted s t cx .mc ∧ t.due = s.due ++ [ack] ∧ (NoneLanding s → t.mem = s.mem)
        ∧ (b.toNat = 0 → SameMemory s t))
      ∧ (∃ t, exec (.tidinv f) s = .next t ∧ Counted s t cx .mc ∧ SameMemory s t ∧ t.launches = s.launches ∧ t.due = s.due ++ [ack]
        ∧ t.after = s.after ++ [⟨s.nextId, .tid (s.group cx.gid).lid f.imm8.toNat none⟩])
      ∧ ∀ s2 pa k, a.toNat % 64 = 0 → s1.checkOne i .read a = (s2, some (pa, k)) → pa % 128 + 64 ≤ 128 →
        ∃ t e, exec (.tidld f) s = .next t ∧ Counted s t cx .mc ∧ t.launches = s.launches ∧ t.due = s.due ++ [ack]
          ∧ t.after = s.after ++ [⟨s.nextId, .tid (s.group cx.gid).lid f.imm8.toNat e⟩]
          ∧ (Quiet s → t.mem = s.mem ∧
            let bs := Memory.readBytes s.mem pa 64
            e = if (tensorOf bs).valid then some bs else none))

/-- R94, R105, R374, R375, R377, R378, R380: a late cause withdraws its lane's later instructions and traps at the access; a held arrival
is applied at the next clock, and held again where it would complete a second phase; the record of the oldest page fault on its way, of
KIND 1 and cause 0x15, is counted, and is written to the fault queue or waits for room. -/
def Obligations.LateCausesAndFaultRecords : Prop :=
  (∀ (c : Late) (s : State) (o : OpenAcc), (s.lane c.gid c.lane).opens.find? (fun o => o.id == c.access) = some o →
    (s.group c.gid).sys = false → handlerOf s c.gid ≠ 0 → c.lane < (s.group c.gid).lanes.length → o.stack.length < 64 →
    (∀ r ∈ o.stack, r.trap = false) →
    ∃ t r, exec (.lateCause c) s = .next t ∧ OtherGroups c.gid s t
      ∧ (s.ms.jobs = [] → s.ms.monitors = [] → o.stack.length < 4 ∨ (s.csr (stkKey (s.group c.gid).part)).getLsbD 0 = false → SameMemory s t)
      ∧ (t.lane c.gid c.lane).stack = r :: o.stack ∧ r.trap = true ∧ r.addr = o.pc &&& ~~~7 ∧ (t.lane c.gid c.lane).pc = handlerOf s c.gid ∧ (t.lane c.gid c.lane).park = none
      ∧ (t.lane c.gid c.lane).xcause = BitVec.ofNat 32 c.cause ∧ (t.lane c.gid c.lane).xinfo = c.info ∧ (t.lane c.gid c.lane).xpc = o.pc
      ∧ (∀ n k old, (s.lane c.gid c.lane).undo = [.v n k old] → o.id < n → (t.lane c.gid c.lane).vReg k = old)
      ∧ ∀ l, l ≠ c.lane → t.lane c.gid l = s.lane c.gid l)
  ∧ (∀ (a : HeldArrival) (s : State) (w : Wait) (b : Block),
    s.waits.find? (fun w => w.gid == a.gid && w.kind == .held && w.lanes.getLsbD a.lane) = some w → w.cx.gid = a.gid →
    s.waits = [w] → s.block (s.group a.gid).blk = some b → a.join < b.joins.length → a.lane < (s.group a.gid).lanes.length →
    a.blk = (s.group a.gid).blk →
    let x := s.join (s.group a.gid).blk a.join
    (s.secondPhase a.blk a.join = true → exec (.heldArrival a) s = .next (s.send (.heldArrival a)))
    ∧ (s.secondPhase a.blk a.join = false → ∃ t, exec (.heldArrival a) s = .next t ∧ (∀ r, a.token = some r → (t.lane a.gid a.lane).vReg r = x.t)
      ∧ (x.a + 1 < x.e → (t.join (s.group a.gid).blk a.join).a = x.a + 1 ∧ (t.join (s.group a.gid).blk a.join).t = x.t
        ∧ ((t.lane a.gid a.lane).park = none ↔ a.waits = false))
      ∧ (x.e ≤ x.a + 1 → (t.join (s.group a.gid).blk a.join).a = 0 ∧ (t.join (s.group a.gid).blk a.join).t = x.t + 1
        ∧ (t.lane a.gid a.lane).park = none ∧ (a.waits = true → (t.group a.gid).hold = true))))
  ∧ ∀ (f : PageStop) (s : State) (p : Parked), s.ms.parked.find? (fun p => p.id == f.park) = some p → s.sys.pendingFq = [] →
    (∀ g, .pageFault g ∈ s.due → f.park ≤ g.park) →
    ∃ bs, fieldAt bs 0 2 = 1 ∧ fieldAt bs 2 2 = 0x15 ∧ fieldAt bs 24 8 = f.va.toNat ∧ fieldAt bs 32 8 = f.va.toNat
      ∧ fieldAt bs 40 4 = f.lanes.toNat ∧ fieldAt bs 48 4 = f.park % 2 ^ 32 ∧ bs.length = 256 ∧
      let u := s.count (cntRecord 0x15 (if f.agent = 0 ∧ isSysGid f.gid = false then coreOf f.gid else 0xFFFF))
      let r : PendingRec := ⟨p.part, bs, if f.agent = 0 then .lanes f.gid f.lanes else .other⟩
      exec (.pageFault f) s = .next (match u.fqTry r with
        | some v => v
        | none => { u with sys := { u.sys with pendingFq := [r] } })

/-! ## Collectives and optics -/

/-- R383, R386 to R389, R398 to R401, R410: COLLOAD loads a valid graph and refuses the others by number; COLRUN starts a loaded graph's
ready nodes; COLWAIT returns the status of ended runs or parks; COLQ reads a status word or a domain's generation; RPUT and RGET set out
on a port that is UP. A stale generation traps with cause 0x38. That the slot which a refused COLLOAD leaves empty has the status word
0x1 is the model's reading (log entry 39). -/
def Obligations.CollectiveWords : Prop :=
  ∀ (f : EF) (s : State) (cx : Cx), LanesExist s cx → s.holdsDie (s.group cx.gid).part (dieOfGid cx.gid) = true →
    let s1 := s.start cx f.ctl
    let r := s1.releaseBy cx.gid (maskOf (s.taking cx f.ctl))
    let i := issOf s cx f.ctl
    let p := (s.group cx.gid).part
    let die := dieOfGid cx.gid
    let slot := f.x.toNat
    let back := fun (w : Instr) (t : State) (v : Word) => exec w s = .next t ∧ McResult s t cx f.ctl f.a.toNat v
    let stale := fun (w : Instr) (d : Nat) (g : Word) => CanTrap s cx.gid (s.taking cx f.ctl) → ∃ t, exec w s = .next t ∧
      ∀ l ∈ s.taking cx f.ctl, Entered (s.lane cx.gid l) (t.lane cx.gid l) (cx.at_ 0x38 (s.gen d ++ g)) (handlerOf s cx.gid)
    (Issues s cx f.ctl (some .mc) [f.a.toNat] 0 →
      (let a := (s1.readG cx.gid f.b.toNat).toNat
       let c := s1.readG cx.gid f.c.toNat
       let n := bits c 12 0
       ∀ s2 pages, a % 128 = 0 → s1.checkRange i .engineRead a (32 * n) = (s2, some pages) →
        ((s.graph die slot).run ≠ none → ∃ t, back (.colload f) t 1 ∧ t.fab = s.fab)
        ∧ ((s.graph die slot).run = none → (n = 0 ∨ 4096 < n ∨ bits c 31 13 ≠ 0) →
          ∃ t, back (.colload f) t 2 ∧ (t.graph die slot).n = 0 ∧ (t.graph die slot).status = 1)
        ∧ ((s.graph die slot).run = none → n ≠ 0 → n ≤ 4096 → bits c 31 13 = 0 →
          (∀ s3, s2.engineBytes pages a (32 * n) = (s3, none) → ∃ t, back (.colload f) t 3 ∧ (t.graph die slot).n = 0)
          ∧ ∀ s3 bs, s2.engineBytes pages a (32 * n) = (s3, some bs) →
            (∀ m, failingNode (nodesOf bs n) = some m →
              ∃ t, back (.colload f) t (BitVec.ofNat 32 (2 + m * 2 ^ 16)) ∧ (t.graph die slot).n = 0)
            ∧ (failingNode (nodesOf bs n) = none → ∃ t, back (.colload f) t 0 ∧ (t.graph die slot).n = n
              ∧ (t.graph die slot).bytes = bs ∧ (t.graph die slot).ghash = hi32 c ∧ (t.graph die slot).run = none)))
      ∧ (let c := r.readG cx.gid f.c.toNat
         let g := r.graph die slot
         let bases := (List.range 8).map fun k => r.readG cx.gid (f.b.toNat + k)
         let d := bits c 36 32
         let ports := (g.nodes.filter Node.isPort).map fun n => 4 * die + n.port
         (g.n = 0 → ∃ t, back (.colrun f) t 2 ∧ t.fab = s.fab)
         ∧ (g.n ≠ 0 → bits c 47 37 = 0 → g.run ≠ none → ∃ t, back (.colrun f) t 1 ∧ t.fab = s.fab)
         ∧ (g.n ≠ 0 → bits c 47 37 = 0 → g.run = none → ports ≠ [] → s.domOwner d = some p →
           (∀ q ∈ ports, ∃ e, s.portDom q = some e ∧ s.domEn e = true) → s.genOk d (lo32 c) = false → stale (.colrun f) d (lo32 c))
         ∧ (g.n ≠ 0 → bits c 47 37 = 0 → g.run = none → (∀ n ∈ g.nodes, ∀ x ∈ n.addrs bases, x.toNat % 32 = 0) →
           (ports ≠ [] → s.domOwner d = some p ∧ s.genOk d (lo32 c) = true ∧ ∀ q ∈ ports, s.portDom q = some d) →
           ∃ t w, back (.colrun f) t 0 ∧ (t.graph die slot).run = some w ∧ w.bases = bases ∧ w.gen = lo32 c ∧ w.dom = d
             ∧ w.epoch = c.extractLsb' 48 16 ∧ w.order = s.nextId ∧ w.deps = g.nodes.map (fun n => n.dep) ∧ w.started = [] ∧ w.completed = [] ∧ w.conds = 0
             ∧ ∀ m, m < g.n → (g.node m).dep = 0 → .nodeStart ⟨die, slot, m, s.nextId⟩ ∈ t.due))
      ∧ (f.flags.getLsbD 0 = false → ∃ t, back (.colq f) t (s.graph die slot).statusWord ∧ SameMemory s t)
      ∧ (let d := bits (s1.readG cx.gid f.b.toNat) 4 0
         f.flags.getLsbD 0 = true → s.domOwner d = some p →
        (s.winOpen d = false → ∃ t, back (.colq f) t (s.gen d) ∧ SameMemory s t)
        ∧ (s.winOpen d = true → ∃ t, exec (.colq f) s = .next t ∧ Counted s t cx .mc ∧ t.due = s.due ∧ SameMemory s t))
      ∧ (let x := r.readG cx.gid f.x.toNat
         let len := bits x 23 0
         let va := r.readG cx.gid f.b.toNat
         let rem := r.readG cx.gid f.c.toNat
         let port := 4 * die + f.imm8.toNat % 4
         let dom := (s.csr (portcfgKey port)).toNat / 2 ^ 8 % 32
         bits x 31 24 = 0 →
         (len = 0 → (∃ t, back (.rput f) t 0 ∧ t.fab = s.fab) ∧ ∃ t, back (.rget f) t 0 ∧ t.fab = s.fab)
         ∧ (len ≠ 0 → va.toNat % 32 = 0 → (va + BitVec.ofNat 64 len).toNat % 32 = 0 → rem.toNat % 32 = 0 → s.portDom port ≠ none →
           s.domOwner dom = some p →
           (s.genOk dom (hi32 x) = false → stale (.rput f) dom (hi32 x) ∧ stale (.rget f) dom (hi32 x))
           ∧ (s.genOk dom (hi32 x) = true → ∀ s2 pages,
             let flies := fun (t : State) (put : Bool) (data : List Byte) => Counted s t cx .mc
               ∧ t.sys.outbox = s.sys.outbox ++ [.remote port put s.nextId rem len data]
               ∧ ∃ o, t.fab.transfers = s.fab.transfers ++ [o] ∧ o.id = s.nextId ∧ o.port = port ∧ o.put = put ∧ o.va = va ∧ o.len = len
                 ∧ o.reg = f.a.toNat ∧ o.gid = cx.gid ∧ o.lanes = maskOf (s.taking cx f.ctl)
             (r.checkRangeBy (r.colWalker cx.gid die) i .engineRead va.toNat len = (s2, some pages) →
               (s.isUp port = false → ∃ t, back (.rput f) t 1 ∧ t.fab = s.fab)
               ∧ (s.isUp port = true → (∀ s3, s2.engineBytes pages va.toNat len = (s3, none) → ∃ t, back (.rput f) t 3 ∧ t.fab = s.fab)
                 ∧ ∀ s3 bs, s2.engineBytes pages va.toNat len = (s3, some bs) → ∃ t, exec (.rput f) s = .next t ∧ flies t true bs))
             ∧ (r.checkRangeBy (r.colWalker cx.gid die) i .engineWrite va.toNat len = (s2, some pages) →
               (s.isUp port = false → ∃ t, back (.rget f) t 1 ∧ t.fab = s.fab)
               ∧ (s.isUp port = true → ∃ t, exec (.rget f) s = .next t ∧ flies t false []))))))
    ∧ (Issues s cx f.ctl none [f.a.toNat] 1 →
      let slots := if f.flags.getLsbD 0 then [0, 1] else [slot]
      ((∀ k ∈ slots, (s.graph die k).run = none) → ∃ t, exec (.colwait f) s = .next t ∧ Passed t cx ∧ OtherGroups cx.gid s t
        ∧ (t.group cx.gid).hold = true
        ∧ ∀ l ∈ s.taking cx f.ctl, (t.lane cx.gid l).vReg f.a.toNat = slots.foldl (fun v k => v ||| (s.graph die k).status) 0)
      ∧ ((∃ k ∈ slots, (s.graph die k).run ≠ none) → ∃ t, exec (.colwait f) s = .next t ∧ SameRegs cx.gid s t ∧ OtherGroups cx.gid s t
        ∧ ∀ l ∈ s.taking cx f.ctl, (t.lane cx.gid l).park = some (s.nextId + 1)))

/-- R390, R392, R393, R398, R401, R404, R414, R422: a ready node starts, or stops its run on a stale generation; a SEND's chunk leaves on
its port; a RECV writes its chunk, behind what was delivered before it, and completes, which lowers its successors' counts and may end its
run; a step of a run that has ended does nothing. A chunk is taken by its node, kept in staging, held back at its port while staging is
full, with what comes behind it, or dropped with its run. A peer's request is answered, a put behind earlier deliveries; and a transfer ends
with its answer's status. -/
def Obligations.CollectiveEvents : Prop :=
  (∀ (n : NodeRef) (s : State), s.runOf n = none → exec (.nodeStart n) s = .next s ∧ exec (.nodeComplete n) s = .next s)
  ∧ (∀ (n : NodeRef) (s : State) (r : Run), (s.graph n.die n.slot).run = some r → r.order = n.run → s.fab.windows = [] → s.fab.inbox = [] →
    s.fab.waiting = [] →
    let g := s.graph n.die n.slot
    let nd := g.node n.node
    let port := 4 * n.die + nd.port
    let after := fun (t : State) => t.graph n.die n.slot
    (r.stopped = false → r.deps.getD n.node 1 = 0 → n.node ∉ r.started → (∀ m, m < n.node → r.deps.getD m 1 = 0 → m ∈ r.started) →
      ((nd.isPort = true → s.genOk r.dom r.gen = true) → (nd.spa = true → dieOf (nd.aoff % 512) = n.die) → ∃ t w, exec (.nodeStart n) s = .next t ∧ (after t).run = some w
        ∧ w.started = r.started ++ [n.node] ∧ w.completed = r.completed ∧ t.due = s.due ++ [.nodeComplete n] ∧ SameMemory s t)
      ∧ (nd.isPort = true → s.genOk r.dom r.gen = false → r.conds = 0 → r.mkind = 0 → (∀ m ∈ r.started, m ∈ r.completed) →
        ∃ t, exec (.nodeStart n) s = .next t ∧ (after t).run = none ∧ (after t).status = BitVec.ofNat 32 (n.node * 2 ^ 16 + 3)))
    ∧ (n.node ∈ r.started → n.node ∉ r.completed → nd.spa = false →
      (∀ s2 pa s3 bs, nd.op = 0 → nd.resid = false → s.isUp port = true →
        s.nodePages n r .engineRead (spanFrom (opAddr r.bases nd.aoff nd.ab) nd.bytes) = .ok s2 pa →
        s2.engineBytes pa (opAddr r.bases nd.aoff nd.ab).toNat nd.bytes = (s3, some bs) →
        ∃ t, exec (.nodeComplete n) s = .next t ∧ t.sys.outbox = s.sys.outbox ++ [.chunk port ⟨nd.chan, nd.count, nd.ty, 0, 0, g.ghash, r.epoch, bs⟩]
          ∧ ⟨port, n⟩ ∈ t.fab.unacked ∧ (after t).run = some r)
      ∧ (∀ a, nd.isRecv = true → r.taken.lookup n.node = some a → s.writesBefore port a.num = true →
        exec (.nodeComplete n) s = .next (s.send (.nodeComplete n)))
      ∧ ∀ a s2 pa k, nd.op = 1 → r.taken.lookup n.node = some a → s.writesBefore port a.num = false → mkindOf nd g.ghash r.epoch a.chunk = 0 →
        nd.bytes ≤ a.chunk.payload.length →
        let d := opAddr r.bases nd.doff nd.db
        d.toNat % 4096 + nd.bytes ≤ 4096 → s.nodePages n r .engineWrite (spanFrom d nd.bytes) = .ok s2 [(d.toNat, pa, k)] →
        let fin := (∀ m ∈ r.started, m ∈ r.completed ∨ m = n.node) ∧ (r.stopped = true ∨ r.completed.length + 1 = g.n)
        ∃ t, exec (.nodeComplete n) s = .next t
          ∧ (Quiet s → pa % 128 + nd.bytes ≤ 128 → ∀ j, j < nd.bytes → t.peekByte (pa + j) = a.chunk.payload.getD j 0)
          ∧ (¬fin → ∃ w, (after t).run = some w ∧ w.completed = r.completed ++ [n.node]
            ∧ (∀ m, m < r.deps.length → w.deps.getD m 0 = r.deps.getD m 0 - nd.succs.count m)
            ∧ ∀ m ∈ nd.succs, m < r.deps.length → w.deps.getD m 0 = 0 → .nodeStart ⟨n.die, n.slot, m, n.run⟩ ∈ t.due)
          ∧ (fin → (after t).run = none ∧ (after t).status = BitVec.ofNat 32 (r.word + 1))))
  ∧ (∀ (port : Nat) (c : Chunk) (s : State),
    let a : Arrived := ⟨s.nextId, port, c⟩
    (s.isUp port = false → exec (.chunkArrival port c) s = .next s)
    ∧ (∀ c0, s.isUp port = true → s.fab.inbox = [] → s.fab.waiting = [(port, .chunkArrival port c0)] → s.chunkIn port c0 = none →
      ∃ t, exec (.chunkArrival port c) s = .next t ∧ t.fab.waiting = s.fab.waiting ++ [(port, .chunkArrival port c)] ∧ t.due = s.due
        ∧ t.fab.staging = s.fab.staging ∧ t.fab.graphs = s.fab.graphs)
    ∧ (s.isUp port = true → s.fab.inbox = [] → s.fab.waiting = [] →
      (∀ k m r, s.matchChunk a = some (k, m) → (s.graph (port / 4) k).run = some r → ∃ t w, exec (.chunkArrival port c) s = .next t
        ∧ (t.graph (port / 4) k).run = some w ∧ w.taken = r.taken ++ [(m, a)] ∧ t.fab.staging = s.fab.staging)
      ∧ (s.matchChunk a = none → s.isStaleChunk a = true → ∃ t, exec (.chunkArrival port c) s = .next t ∧ t.fab = s.fab)
      ∧ (s.matchChunk a = none → s.isStaleChunk a = false → s.staged (port / 4) + c.payload.length ≤ 256000 →
        ∃ t, exec (.chunkArrival port c) s = .next t ∧ t.fab.staging = s.fab.staging ++ [a])
      ∧ (s.matchChunk a = none → s.isStaleChunk a = false → 256000 < s.staged (port / 4) + c.payload.length →
        ∃ t, exec (.chunkArrival port c) s = .next t ∧ t.fab.waiting = [(port, .chunkArrival port c)] ∧ t.due = s.due
          ∧ t.fab.staging = s.fab.staging)))
  ∧ (∀ (q : RemoteReq) (s : State), (s.isUp q.port = false → exec (.remoteRequest q) s = .next s)
    ∧ (s.isUp q.port = true → s.fab.inbox = [] → s.fab.waiting = [] →
      let u : State := { s with nextId := s.nextId + 1, fab := { s.fab with inbox := [⟨s.nextId, q, false⟩] } }
      let w : Walker := { u.kernelWalker (424 + q.port) (s.ownerOf q.port) none with die := some (q.port / 4) }
      let answers := fun (status : Nat) (data : List Byte) => ∃ t, exec (.remoteRequest q) s = .next t ∧ t.fab.inbox = []
        ∧ t.sys.outbox = s.sys.outbox ++ [.remoteAnswer q.port q.tag status data]
      let found := u.xlateRange w (if q.put then .engineWrite else .engineRead) (q.len / 4096 + 2) q.addr.toNat (q.addr.toNat + q.len)
      (q.put = true → s.writesBefore q.port s.nextId = true → exec (.remoteRequest q) s = .next u)
      ∧ (q.put = false ∨ s.writesBefore q.port s.nextId = false →
        (∀ s2 a c, found = (s2, .error (a, .trap c)) → answers 2 [])
        ∧ (∀ s2 a lv bad, found = (s2, .error (a, .stop lv bad)) → ∃ t, exec (.remoteRequest q) s = .next t
          ∧ t.fab.inbox = [⟨s.nextId, q, true⟩] ∧ ∃ x, t.ms.parked = s.ms.parked ++ [x] ∧ x.agent = 424 + q.port)
        ∧ ∀ s2 pages, found = (s2, .ok pages) → (q.put = true → answers 0 [])
          ∧ (q.put = false → (∀ s3, s2.engineBytes pages q.addr.toNat q.len = (s3, none) → answers 3 [])
            ∧ ∀ s3 bs, s2.engineBytes pages q.addr.toNat q.len = (s3, some bs) → answers 0 bs))))
  ∧ ∀ (d : RemoteDone) (s : State) (x : Transfer), s.fab.windows = [] → s.fab.transfers.find? (fun x => x.id == d.xfer) = some x →
    ∃ t l, exec (.remoteTransferComplete d) s = .next t ∧ t.fab.transfers = s.fab.transfers.filter (fun y => y.id != d.xfer)
      ∧ t.due = l ++ [.resultReturn ⟨x.id, x.gid, some .mc, 0, (lanesOf x.lanes).map fun k => .v k x.reg (BitVec.ofNat 32 d.status), []⟩]
      ∧ (x.put = true ∨ d.status ≠ 0 → SameMemory s t)

/-- R415 to R419: RECIRC returns a refusal code with the generation; with nothing in flight an empty map raises the generation at
once, another map sends its request; else the window drains. A drain time-out ends what is in flight, a reconfiguration time-out closes the
window with code 2, a request is sent again after 100,000 ticks, and a reply trains the ports. The control port takes only frames that pass
its checks (R417, R418), learns the controller's link address from its advertisement, and answers a solicitation of its address. That the
controller's own solicitation gives its link address as well is the model's reading (log entry 40). -/
def Obligations.ReconfigurationWindows : Prop :=
  (∀ (f : EF) (s : State) (cx : Cx), LanesExist s cx → Issues s cx f.ctl (some .mc) (vNames true f.a) 0 →
    let s1 := s.start cx f.ctl
    let i := issOf s cx f.ctl
    let a := s1.readG cx.gid f.b.toNat
    let c := s1.readG cx.gid f.c.toNat
    let d := bits c 4 0
    a.toNat % 128 = 0 → s.domOwner d = some (s.group cx.gid).part → ∀ s2 pa k s3 l, s1.checkOne i .read a = (s2, some (pa, k)) →
    s2.engineRead (lineOf pa) 0 128 k = (s3, some l) →
    let bs := bytesOf l 0 128
    let result := fun (t : State) (v g : Word) => exec (.recirc f) s = .next t ∧ Counted s t cx .mc ∧ ∃ x, t.due = x ++ [.resultReturn
      ⟨s.nextId, cx.gid, some .mc, 0, (s.taking cx f.ctl).flatMap fun l => [.v l f.a.toNat v, .v l (f.a.toNat + 1) g], []⟩]
    (s.winOpen d = true → ∃ t, result t 5 (s.gen d) ∧ t.fab = s.fab)
    ∧ (s.winOpen d = false → s.gen d ≠ hi32 c → ∃ t, result t 4 (s.gen d) ∧ t.fab = s.fab)
    ∧ (s.winOpen d = false → s.gen d = hi32 c → s.mapOk d c bs = false → ∃ t, result t 3 (s.gen d) ∧ t.fab = s.fab)
    ∧ (s.winOpen d = false → s.gen d = hi32 c → s.mapOk d c bs = true → f.flags.getLsbD 0 = true → s.waits = [] →
      ∃ t, exec (.recirc f) s = .next t ∧ (t.group cx.gid).cnt = (s.group cx.gid).cnt.bump .mc ∧ Passed t cx
        ∧ ∀ x ∈ t.fab.transfers, x.port < 32 → s.portDom x.port ≠ some d)
    ∧ (s.winOpen d = false → s.gen d = hi32 c → s.mapOk d c bs = true → s.fab.windows = [] → f.flags.getLsbD 0 = false →
      let opened := fun (t : State) (w : Window) => exec (.recirc f) s = .next t ∧ Counted s t cx .mc ∧ t.winOpen d = true ∧ t.gen d = s.gen d
        ∧ t.fab.windows = [w] ∧ w.dom = d ∧ w.map = mapWords bs ∧ w.answer = none
      (s.domBusy d = true → ∃ t w x, opened t w ∧ w.drained = false ∧ t.due = x ++ [.drainTimeOut d s.nextId] ∧ t.sys.outbox = s.sys.outbox)
      ∧ (s.domBusy d = false → mapWords bs = [] → s.fab.genQueries = [] →
        ∃ t, result t 0 (s.gen d + 1) ∧ t.fab.windows = [] ∧ t.winOpen d = false ∧ t.gen d = s.gen d + 1)
      ∧ (s.domBusy d = false → mapWords bs ≠ [] → ∃ t w x o, opened t w ∧ w.drained = true ∧ w.req = some s.fab.reqCount
        ∧ t.due = x ++ [.reconfigurationTimeOut d s.nextId, .requestResend d s.nextId] ∧ t.sys.outbox = s.sys.outbox ++ [o])))
  ∧ (∀ (dom win : Nat) (s : State) (w : Window), s.window win = some w →
    (w.drained = true → exec (.drainTimeOut dom win) s = .next s)
    ∧ (w.drained = false → s.tick < w.t0 + s.dto dom → exec (.drainTimeOut dom win) s = .next (s.send (.drainTimeOut dom win)))
    ∧ (w.drained = false → w.t0 + s.dto dom ≤ s.tick → ∃ t, exec (.drainTimeOut dom win) s = .next t
      ∧ ∀ x ∈ t.fab.transfers, x.port < 32 → s.portDom x.port ≠ some dom)
    ∧ (s.tick < w.t0 + s.rto dom → exec (.reconfigurationTimeOut dom win) s = .next (s.send (.reconfigurationTimeOut dom win)))
    ∧ (w.t0 + s.rto dom ≤ s.tick → w.dom < 32 → s.fab.windows = [w] → s.fab.genQueries = [] →
      ∃ t x, exec (.reconfigurationTimeOut dom win) s = .next t ∧ t.fab.windows = [] ∧ t.gen w.dom = s.gen w.dom + 1 ∧ t.winOpen w.dom = false
        ∧ t.due = x ++ [.resultReturn ⟨w.access, w.gid, some .mc, 0,
          (lanesOf w.lanes).flatMap fun l => [.v l w.reg 2, .v l (w.reg + 1) (s.gen w.dom + 1)], []⟩])
    ∧ (w.req = none ∨ w.answer ≠ none → exec (.requestResend dom win) s = .next s)
    ∧ ∀ id, w.req = some id → w.answer = none →
      (s.tick < w.lastSent + 100000 → exec (.requestResend dom win) s = .next (s.send (.requestResend dom win)))
      ∧ (w.lastSent + 100000 ≤ s.tick → ∃ t o, exec (.requestResend dom win) s = .next t ∧ t.due = s.due ++ [.requestResend dom win]
        ∧ t.sys.outbox = s.sys.outbox ++ [o] ∧ t.groups = s.groups ∧ SameMemory s t))
  ∧ (∀ (bs : List Byte) (s : State),
    let be := fun (k n : Nat) => leNat ((bs.drop k).take n).reverse
    ((bs.length ≠ 12 ∨ be 0 4 ≠ 0x57435250 ∨ ∀ w ∈ s.fab.windows, w.req ≠ some (be 4 4)) →
      ∃ t, exec (.controllerReply bs) s = .next t ∧ t.fab = s.fab ∧ t.groups = s.groups ∧ SameMemory s t)
    ∧ ∀ w, bs.length = 12 → be 0 4 = 0x57435250 → s.fab.windows = [w] → w.req = some (be 4 4) → w.answer = none →
      (be 8 1 = 2 → ∃ t, exec (.controllerReply bs) s = .next t ∧ t.fab.windows = [{ w with lastSent := s.tick }])
      ∧ (be 8 1 < 2 → w.drained = true → (∃ p ∈ w.wanted, s.portDom p ≠ none) → ∃ t, exec (.controllerReply bs) s = .next t
        ∧ t.fab.windows = [{ w with answer := some (be 8 1) }] ∧ ∀ p ∈ w.wanted, s.portDom p ≠ none → t.lnk p = lnkTraining))
  ∧ (∀ (f : ControlFrame) (s : State),
    let c := s.sys.settings
    let passes := f.fcsGood = true ∧ (f.dst = c.mac ∨ f.dst.getLsbD 40 = true) ∧ (f.vlan = none ∨ f.vlan = c.vlan)
      ∧ f.length ≤ (if f.vlan = none then 1518 else 1522) ∧ ((f.ipv6Udp = true ∧ f.udpPort = c.udp) ∨ f.advert ≠ none)
      ∧ f.extensionOrFragment = false ∧ f.dstAddr = c.addr ∧ f.checksumGood = true
    (passes → f.advert = none → exec (.controlFrameReceive f) s = exec (.controllerReply f.payload) s)
    ∧ (∀ target mac, passes → f.advert = some (target, mac) → (target ≠ c.controller → exec (.controlFrameReceive f) s = .next s)
      ∧ (target = c.controller → ∃ t l, exec (.controlFrameReceive f) s = .next t ∧ t.sys.settings = { c with controllerMac := some mac }
        ∧ t.sys.outbox = s.sys.outbox ++ l ∧ t.groups = s.groups ∧ SameMemory s t
        ∧ ∀ w id, s.fab.windows = [w] → w.req = some id → w.left = false → w.answer = none →
          l = [.frame (controlFrame c mac (s.requestOf w id))]))
    ∧ (¬passes → exec (.controlFrameReceive f) s = .next s))
  ∧ ∀ (n : Solicit) (s : State), (n.target ≠ s.sys.settings.addr → exec (.neighbourSolicitation n) s = .next s)
    ∧ (n.target = s.sys.settings.addr → ∃ t l, exec (.neighbourSolicitation n) s = .next t ∧ t.groups = s.groups ∧ SameMemory s t
      ∧ t.sys.outbox = s.sys.outbox ++ .advertisement n.senderMac s.sys.settings.addr :: l
      ∧ if n.sender = s.sys.settings.controller then t.sys.settings = { s.sys.settings with controllerMac := some n.senderMac }
        else l = [] ∧ t.sys.settings = s.sys.settings)

/-- R405, R412 to R414, R420: a link that fails, loses its signal, or falls silent for 100 ticks, leaves UP and ends what is in flight on its port. A
training brings an enabled port UP on the lanes that work, or leaves it DOWN when two lanes have failed. A flit of the expected number
moves the receiver on, a damaged or misnumbered one is answered, and a retrain request is obeyed. -/
def Obligations.OpticalLinks : Prop :=
  ∀ (p : Nat) (s : State), p < 32 → s.fab.windows = [] → s.fab.inbox = [] →
    let ended := fun (t : State) => (∀ x ∈ t.fab.transfers, x.port ≠ p) ∧ ∀ u ∈ t.fab.unacked, u.port ≠ p
    let trains := if s.portDom p = none then lnkDown else lnkTraining
    (∃ t, exec (.linkDown p) s = .next t ∧ t.lnk p = lnkDown ∧ (s.isUp p = true → ended t))
    ∧ (∀ noSignal, let x : Silence := ⟨p, noSignal⟩; let silent := noSignal = true ∨ (s.link p).lastFlit + 100 ≤ s.tick
      (s.isUp p = true → silent → ∃ t, exec (.peerSilence x) s = .next t ∧ t.lnk p = trains ∧ ended t)
      ∧ (s.isUp p = false ∨ ¬silent → exec (.peerSilence x) s = .next s))
    ∧ (∀ x : Training, x.port = p →
      (s.lnk p ≠ lnkTraining ∨ s.portDom p = none → exec (.linkTrained x) s = .next s)
      ∧ (s.lnk p = lnkTraining → s.portDom p ≠ none →
        let bad := fun l => x.lanesOk.getLsbD l = false
        let up := fun (m : Nat) => ∃ t, exec (.linkTrained x) s = .next t ∧ t.lnk p = lnkUp ∧ bits (t.csr (lnkKey p)) 61 53 = m
          ∧ bits (t.csr (lnkKey p)) 52 48 = x.peerPort % 32 ∧ bits (t.csr (lnkKey p)) 47 16 = x.peerPart.toNat
        let down := ∃ t, exec (.linkTrained x) s = .next t ∧ t.lnk p = lnkDown ∧ (t.link p).dead = true
        ((s.link p).dead = true → down)
        ∧ ((s.link p).dead = false →
          ((∀ l, l < 8 → ¬bad l) → up 0xFF)
          ∧ (∀ l, l < 8 → bad l → (∀ k, k < 9 → k ≠ l → ¬bad k) → up (0x1FF - 2 ^ l))
          ∧ ∀ k l, k < l → l < 9 → bad k → bad l → down)))
    ∧ ∀ f : FlitIn,
      let bs := f.bytes
      let good := bs.length = 256 ∧ BitVec.ofNat 32 (fieldAt bs 252 4) = crc32 (bs.take 252) ∧ f.uncorr = 0
      let ty := fieldAt bs 0 1 % 16
      let seq := fieldAt bs 2 2 % 4096
      let naks := fun (t : State) => exec (.flitReceive p f) s = .next t
        ∧ t.sys.outbox = s.sys.outbox ++ [.linkControl p true (s.link p).expect] ∧ (t.link p).expect = (s.link p).expect
      (s.portDom p = none → exec (.flitReceive p f) s = .next s)
      ∧ (s.portDom p ≠ none → s.isUp p = true →
        (¬good → ∃ t, naks t)
        ∧ (good → ty = 6 → ∃ t, exec (.flitReceive p f) s = .next t ∧ t.lnk p = lnkTraining ∧ ended t)
        ∧ (good → ty ≠ 6 → seq ≠ (s.link p).expect → ∃ t, naks t)
        ∧ (good → ty < 5 → seq = (s.link p).expect → ∃ t, exec (.flitReceive p f) s = .next t
          ∧ (t.link p).expect = (seq + 1) % 4096 ∧ (t.link p).lastFlit = s.tick))

/-! ## The host, storage and management -/

/-- R326, R433 to R437, R441: the host's requests to its partition's BARs are served in order, refused outside an allowed TDISP state or
over a limit of R433, and wait for their quiet-mode slot, which lasts 100 ticks; its doorbell writes SYS_MBOX. LOCK_INTERFACE and
START_INTERFACE_REQUEST move the TDI, and a function-level reset unlocks it. The storage port takes a submission entry, posts its completion
and serves its data requests. The model's readings among these are: the keys that open an IDE stream (log entry 88), the places of the fields
of an NVMe completion and the error that ends a data request (log entry 54), the wait of SYS_NVDB for its slot (log entry 61), the request
that is malformed above 4,096 bytes of a read, and the reset of the physical function (log entry 85). -/
def Obligations.HostAndStorage : Prop :=
  (∀ (r : HostReq) (s : State),
    let shut := fun (bar0 : Bool) => s.sys.recovery = true ∨ s.part r.vf = none
      ∨ ((s.tdi r.vf = .configLocked ∨ s.tdi r.vf = .run) ∧ ¬(r.ide = true ∧ s.ideOpen r.vf = true)) ∨ (bar0 = false ∧ s.tdi r.vf ≠ .run)
    let waits := s.behind r = true ∨ s.notItsSlot r.vf = true
    let a := paddr r.vf r.off
    (∀ bs : List Byte, (waits → exec (.hostWrite r bs) s = .next (s.send (.hostWrite r bs)))
      ∧ (¬waits → (512 < bs.length ∨ shut r.bar0 ∨ (r.bar0 = false ∧ s.top r.vf < r.off + bs.length)) →
        ∃ t, exec (.hostWrite r bs) s = .next t ∧ SameMemory s t ∧ t.due = s.due ∧ t.sys.csr = s.sys.csr)
      ∧ (¬waits → bs.length ≤ 512 → ¬shut r.bar0 → r.bar0 = false → r.off + bs.length ≤ s.top r.vf →
        ∃ t, exec (.hostWrite r bs) s = .next t ∧ t.groups = s.groups
          ∧ (Quiet s → a % 128 + bs.length ≤ 128 → ∀ k, k < bs.length → t.peekByte (a + k) = bs.getD k 0))
      ∧ (¬waits → ¬shut true → r.bar0 = true → (∃ q, (s.quadsOf r.vf)[r.off / 256]? = some q) →
        (r.off % 256 = 0 → bs.length = 4 ∨ bs.length = 8 →
          exec (.hostWrite r bs) s = exec (.mailboxDoorbell r (BitVec.ofNat 32 (fieldAt bs 0 4))) s)
        ∧ (r.off % 256 = 4 → bs.length = 4 → exec (.hostWrite r bs) s = .next s)))
    ∧ (∀ n tag, (waits → exec (.hostRead r n tag) s = .next (s.send (.hostRead r n tag)))
      ∧ (¬waits → (4096 < n ∨ 2 ^ 14 ≤ tag) → ∃ t, exec (.hostRead r n tag) s = .next t ∧ SameMemory s t ∧ t.sys.outbox = s.sys.outbox)
      ∧ (¬waits → n ≤ 4096 → tag < 2 ^ 14 →
        ((shut r.bar0 ∨ (r.bar0 = false ∧ s.top r.vf < r.off + n)) → ∃ t, exec (.hostRead r n tag) s = .next t ∧ SameMemory s t
          ∧ t.sys.outbox = s.sys.outbox ++ [.unsupported r.vf tag])
        ∧ (¬shut r.bar0 → r.bar0 = false → r.off + n ≤ s.top r.vf → ∃ t l, exec (.hostRead r n tag) s = .next t ∧ t.groups = s.groups
          ∧ t.sys.outbox = s.sys.outbox ++ l
          ∧ (Quiet s → r.off % 4096 + n ≤ 4096 → t.mem = s.mem ∧ l = (List.range (max 1 ((n + 511) / 512))).map fun k =>
            .hostData r.vf tag (((Memory.readBytes s.mem a n).drop (512 * k)).take 512)))
        ∧ ∀ q, ¬shut true → r.bar0 = true → (s.quadsOf r.vf)[r.off / 256]? = some q → r.off % 256 + n ≤ 8 →
          ∃ t, exec (.hostRead r n tag) s = .next t ∧ SameMemory s t ∧ t.sys.outbox = s.sys.outbox
            ++ [.hostData r.vf tag (((leBytes 8 (s.csr (mboxKey q)).toNat).drop (r.off % 256)).take n)]))
    ∧ ∀ tail, (waits → exec (.mailboxDoorbell r tail) s = .next (s.send (.mailboxDoorbell r tail)))
      ∧ (¬waits → ((∀ q, (s.quadsOf r.vf)[r.off / 256]? = some q → shut true ∨ r.off % 256 ≠ 0) →
          ∃ t, exec (.mailboxDoorbell r tail) s = .next t ∧ t.sys.csr = s.sys.csr ∧ SameMemory s t)
        ∧ ∀ q, (s.quadsOf r.vf)[r.off / 256]? = some q → ¬shut true → r.off % 256 = 0 →
          let size := 16 * 2 ^ bits (s.csr (lqbaseKey q)) 3 0
          let head := hi32 (s.csr (mboxKey q))
          (size < (tail - head).toNat → ∃ t, exec (.mailboxDoorbell r tail) s = .next t ∧ t.csr (mboxKey q) = s.csr (mboxKey q))
          ∧ ((tail - head).toNat ≤ size → s.ringLive q = false →
            ∃ t, exec (.mailboxDoorbell r tail) s = .next t ∧ t.csr (mboxKey q) = head ++ tail ∧ SameMemory s t)))
  ∧ (∀ (vf : Nat) (s : State),
    (vf ≠ 0 → ∃ t, exec (.functionLevelReset vf) s = .next t ∧ t.groups = s.groups ∧ SameMemory s t ∧ t.tdi vf = .configUnlocked
      ∧ (∀ x, x ∈ t.sys.ideKeys ↔ x ∈ s.sys.ideKeys ∧ x.fn ≠ vf) ∧ (∀ r bs, .hostWrite r bs ∈ t.due → r.vf ≠ vf)
      ∧ (∀ r n tag, .hostRead r n tag ∈ t.due → r.vf ≠ vf) ∧ (∀ r tail, .mailboxDoorbell r tail ∈ t.due → r.vf ≠ vf)
      ∧ ∀ v, v ≠ vf → t.tdi v = s.tdi v)
    ∧ (∃ t, exec (.functionLevelReset 0) s = .next t ∧ t.groups = s.groups ∧ SameMemory s t ∧ t.sys.ideKeys = []
      ∧ (∀ p ∈ s.sys.parts, t.tdi p.num = .configUnlocked) ∧ ∀ r bs, .hostWrite r bs ∉ t.due)
    ∧ (let locks := s.tdi vf = .configUnlocked ∧ (∃ x, s.part vf = some x ∧ x.keyset = true)
          ∧ ∀ q ∈ s.quadsOf vf, (s.csr (csrKey 0x28 q)).getLsbD 0 = true
       (locks → ∃ t, exec (.lockInterface vf) s = .next t ∧ t.tdi vf = .configLocked ∧ t.groups = s.groups
         ∧ SameMemory s t ∧ t.sys.outbox = s.sys.outbox ++ [.tdisp vf true])
       ∧ (¬locks → ∃ t, exec (.lockInterface vf) s = .next t ∧ t.tdi vf = s.tdi vf ∧ t.sys.outbox = s.sys.outbox ++ [.tdisp vf false]))
    ∧ (s.tdi vf = .configLocked → ∃ t, exec (.startInterfaceRequest vf) s = .next t ∧ t.tdi vf = .run ∧ t.groups = s.groups
      ∧ SameMemory s t ∧ t.sys.outbox = s.sys.outbox ++ [.tdisp vf true])
    ∧ (s.tdi vf ≠ .configLocked → ∃ t, exec (.startInterfaceRequest vf) s = .next t ∧ t.tdi vf = s.tdi vf
      ∧ t.sys.outbox = s.sys.outbox ++ [.tdisp vf false])
    ∧ (s.sys.quiet = false → exec .quietModeSlot s = .next s)
    ∧ (s.sys.quiet = true → s.tick < s.sys.quietAt + 100 → exec .quietModeSlot s = .next (s.send .quietModeSlot))
    ∧ (s.sys.quiet = true → s.sys.quietAt + 100 ≤ s.tick → (∃ p ∈ s.sys.parts, s.sys.quietVf < p.num) →
      ∃ t, exec .quietModeSlot s = .next t ∧ t.groups = s.groups ∧ t.due = s.due ++ [.quietModeSlot] ∧ t.sys.quietAt = s.tick
      ∧ SameMemory s t ∧ s.sys.quietVf < t.sys.quietVf ∧ (∃ p ∈ s.sys.parts, p.num = t.sys.quietVf)
      ∧ ∀ p ∈ s.sys.parts, s.sys.quietVf < p.num → t.sys.quietVf ≤ p.num))
  ∧ (∀ (w : CsrWrite) (s : State),
    let pair := w.inst
    let p := s.pairOwner pair
    let x := s.nvPos pair
    let va := s.nvBase pair + 64 * x.fetched
    (s.notItsSlot p = true → exec (.sysNvdb w) s = .next (s.send (.sysNvdb w)))
    ∧ (s.notItsSlot p = false → (s.csr (nvqKey pair)).getLsbD 0 = false → exec (.sysNvdb w) s = .next s)
    ∧ (s.notItsSlot p = false → (s.csr (nvqKey pair)).getLsbD 0 = true →
      (x.fetched + 1) % s.nvSize pair = bits (s.csr (nvdbKey pair)) 31 0 % s.nvSize pair → x.fetched < s.nvSize pair →
      ∀ s1 pa k s2 e, s.xlate (s.kernelWalker storageAgent p none) (BitVec.ofNat 64 va) .engineRead = (s1, .ok pa k) →
      s1.engineBytes [(va, pa, k)] va 64 = (s2, some e) →
      ∃ t, exec (.sysNvdb w) s = .next t ∧ t.groups = s.groups ∧ (t.nvPos pair).fetched = (x.fetched + 1) % s.nvSize pair
        ∧ (∃ c, t.sys.nvme = s.sys.nvme ++ [c] ∧ c.pair = pair ∧ c.entry = e ∧ c.xlat = s.csr (csrPart p 0x06))
        ∧ (s.nvCheck pair e = none → t.sys.outbox = s.sys.outbox ++ [.nvme pair e])
        ∧ ∀ st, s.nvCheck pair e = some st → ∃ c, .nvmeCompletion c ∈ t.due ∧ c.pair = pair ∧ fieldAt c.entry 12 2 = fieldAt e 2 2
          ∧ fieldAt c.entry 14 2 / 2 = st))
  ∧ (∀ (c : NvmeDone) (s : State),
    let cid := fieldAt c.entry 12 2
    let p := s.pairOwner c.pair
    let x := s.nvPos c.pair
    let size := s.nvSize c.pair
    let mine := fun (k : NvCmd) => k.pair == c.pair && fieldAt k.entry 2 2 == cid
    (s.sys.nvme.find? mine = none → exec (.nvmeCompletion c) s = .next s)
    ∧ ∀ cmd, s.sys.nvme.find? mine = some cmd →
      (s.notItsSlot p = true ∨ s.nvData c.pair cid = true → exec (.nvmeCompletion c) s = .next (s.send (.nvmeCompletion c)))
      ∧ (s.notItsSlot p = false → s.nvData c.pair cid = false →
        (x.posted + size - bits (s.csr (nvdbKey c.pair)) 63 32 % size) % size ≠ size - 1 → ∀ s1 pa k,
        s.xlate (s.kernelWalker storageAgent p none) (BitVec.ofNat 64 (s.nvBase c.pair + 64 * size + 16 * (x.posted % size))) .engineWrite
          = (s1, .ok pa k) →
        ∃ t, exec (.nvmeCompletion c) s = .next t ∧ t.groups = s.groups ∧ (∀ y ∈ t.sys.nvme, y ≠ cmd) ∧ (t.nvPos c.pair).posted = x.posted + 1
          ∧ (∀ q qs, s.quadsOf p = q :: qs → (t.csr (evtKey q)).getLsbD 2 = true ∧ .eventModeEntry q ∈ t.due)
          ∧ (Quiet s → pa % 128 + 16 ≤ 128 → c.entry.length = 16 → ∀ j, j < 14 → t.peekByte (pa + j) = c.entry.getD j 0)))
  ∧ ∀ (d : StorageReq) (s : State),
    let p := s.pairOwner d.pair
    let mine := fun (k : NvCmd) => k.pair == d.pair && fieldAt k.entry 2 2 == d.cid
    let fails := ∃ t, exec (.storageDma d) s = .next t ∧ t.groups = s.groups ∧ (NoneLanding s → t.mem = s.mem) ∧ t.sys.outbox = s.sys.outbox ++ [.nvmeFail d.pair d.tag]
    (s.notItsSlot p = true → exec (.storageDma d) s = .next (s.send (.storageDma d)))
    ∧ (s.notItsSlot p = false → s.sys.nvme.find? mine = none → fails)
    ∧ ∀ cmd, s.sys.nvme.find? mine = some cmd → s.notItsSlot p = false →
      (d.fail = true → fails)
      ∧ (d.fail = false →
        let found := s.xlateRange (nvWalker p cmd.xlat) (if d.write then .engineWrite else .engineRead) (d.len / 4096 + 2) d.va.toNat
          (d.va.toNat + d.len)
        (∀ s1 a n, found = (s1, .error (a, .trap n)) → fails)
        ∧ ∀ s1 pages, found = (s1, .ok pages) →
          (d.write = true → ∃ t, exec (.storageDma d) s = .next t ∧ t.groups = s.groups ∧ t.sys.outbox = s.sys.outbox
            ∧ ∀ pa k, Quiet s → pages = [(d.va.toNat, pa, k)] → d.va.toNat % 4096 + d.len ≤ 4096 → pa % 128 + d.len ≤ 128 →
              ∀ j, j < d.len → t.peekByte (pa + j) = d.data.getD j 0)
          ∧ (d.write = false → ∀ s2 bs, s1.engineBytes pages d.va.toNat d.len = (s2, some bs) →
            ∃ t, exec (.storageDma d) s = .next t ∧ t.groups = s.groups ∧ t.sys.outbox = s.sys.outbox ++ [.nvmeData d.pair d.tag bs]))

/-- R440, R448: every request of the responder is answered with its code when what it needs stands, and with an error when it does not; in
recovery the requests but GET_VERSION and GET_MEASUREMENTS are left unanswered. A session opens, is established, moves its keys on and
ends; what is said in it is sealed with AES-256-GCM, and a request whose tag does not verify gets an error. The codes, the order of requests
and the keys, numbers and records of a session are SPDM's own, which the spec does not give (log entries 50 and 87). -/
def Obligations.SessionsAnswer : Prop :=
  ∀ (m : SpdmMsg) (s : State),
    let x := s.sys.spdm
    let good := s.authentic m.session m.body m.tag
    let wrap := fun (z : Session → Session) (bs : List Byte) => match s.session m.session with
      | some y => ((z y).seal true (z y).sent bs).1 ++ ((z y).seal true (z y).sent bs).2
      | none => bs
    let speaks := fun (w : Instr) (t : State) (z : Session → Session) (ver code : Byte) => exec w s = .next t ∧ t.groups = s.groups
      ∧ SameMemory s t ∧ ∃ rest, t.sys.outbox = s.sys.outbox ++ [.spdm m.session (wrap z (ver :: code :: rest))]
    let answered := fun (w : Instr) (t : State) (code : Byte) => speaks w t id 0x13 code
    let refused := fun (w : Instr) (err : Byte) => ∃ t, exec w s = .next t ∧ t.groups = s.groups ∧ SameMemory s t
      ∧ t.sys.outbox = s.sys.outbox ++ [.spdm m.session (wrap id [0x13, 0x7F, err, 0])]
    let needs := fun (w : Instr) (ok : Prop) => (s.sys.recovery = true → exec w s = .next s)
      ∧ (s.sys.recovery = false → (good = false → refused w 0x06) ∧ (good = true → ¬ok → refused w 0x04))
    let opens := fun (b : Bool) => ∃ y ∈ x.sessions, y.id = m.session ∧ y.established = b
    let moved := x.sessions.map fun y => if y.id = m.session then { y with got := y.got + 1, sent := y.sent + 1 } else y
    (∃ t, speaks (.getVersion m) t id 0x10 0x04 ∧ t.sys.spdm.version = true ∧ t.sys.spdm.algs = false)
    ∧ needs (.getCapabilities m) (x.version = true) ∧ needs (.negotiateAlgorithms m) (x.caps = true) ∧ needs (.getDigests m) (x.algs = true)
    ∧ needs (.getCertificate m) (x.algs = true) ∧ needs (.challenge m) (x.algs = true) ∧ needs (.keyExchange m) (x.algs = true)
    ∧ needs (.finish m) (opens false) ∧ needs (.heartbeat m) (opens true) ∧ needs (.keyUpdate m) (opens true) ∧ needs (.endSession m) (opens true)
    ∧ (s.sys.recovery = false → good = true →
      (x.version = true → ∃ t, answered (.getCapabilities m) t 0x61 ∧ t.sys.spdm.caps = true)
      ∧ (x.caps = true → ∃ t, answered (.negotiateAlgorithms m) t 0x63
        ∧ t.sys.spdm.algs = ((fieldAt m.body 6 4).testBit 3 && (fieldAt m.body 10 4).testBit 1))
      ∧ (x.algs = true → (∃ t, answered (.getDigests m) t 0x01) ∧ (∃ t, answered (.getCertificate m) t 0x02)
        ∧ (∃ t, answered (.challenge m) t 0x03)
        ∧ (m.session ≠ x.nextSession + 1 → ∃ t z, answered (.keyExchange m) t 0x64 ∧ t.sys.spdm.sessions = moved ++ [z]
          ∧ z.id = x.nextSession + 1 ∧ z.established = false ∧ z.generation = 0 ∧ z.got = 0 ∧ z.sent = 0))
      ∧ (opens false → ∃ t, answered (.finish m) t 0x65 ∧ ∀ y ∈ t.sys.spdm.sessions, y.id = m.session → y.established = true)
      ∧ (opens true → (∃ t, answered (.heartbeat m) t 0x68 ∧ t.sys.spdm.sessions = moved)
        ∧ (∃ t, speaks (.keyUpdate m) t (fun y => { y with generation := y.generation + 1, sent := 0 }) 0x13 0x69
          ∧ ∀ (n : Nat) (y : Session), x.sessions[n]? = some y → y.id = m.session →
            t.sys.spdm.sessions[n]? = some { y with generation := y.generation + 1, got := 0, sent := 1 })
        ∧ ∃ t, answered (.endSession m) t 0x6C ∧ ∀ y ∈ t.sys.spdm.sessions, y.id ≠ m.session))
    ∧ (let op := fieldAt m.body 1 1
       (good = true → x.algs = true ∨ s.sys.recovery = true → op = 0 ∨ op = 0xFF ∨ (s.measurement op).isSome = true →
        ∃ t, answered (.getMeasurements m) t 0x60 ∧ t.sys.parts = s.sys.parts)
       ∧ (good = false → refused (.getMeasurements m) 0x06)
       ∧ (good = true → x.algs = false → s.sys.recovery = false → refused (.getMeasurements m) 0x04))

/-- R436, R438, R446, R448: a delivered key waits in its partition's buffer and posts its event; a full buffer refuses it. A key for a part
of an IDE stream is programmed, taken into use in place of the other set's, and taken out (IDE_KM's own rules, log entry 88). A signed change
waits for the next package reset. A partition reset clears the partition's memory, groups, launches, keys, translations and gates, sets its
key and leaves its TDI in ERROR; other partitions' memory stands. A package reset boots a slot that verifies, or stays in recovery. -/
def Obligations.DeliveriesAndResets : Prop :=
  (∀ (s : State) (tag : List Byte), s.sys.recovery = false →
    (∀ session vf ticket model key, (s.part vf).isSome = true →
      let held := s.sys.delivery.countP fun d => d.part == vf
      let r := VendorReq.deliverKey session vf ticket model key
      let w := Instr.vendorDefinedRequest ⟨r, tag⟩
      let opens := s.authentic session (vendorBytes r) tag = true ∧ ∃ y ∈ s.sys.spdm.sessions, y.id = session ∧ y.established = true
      (opens → held < 64 → ∃ t x, exec w s = .next t ∧ t.groups = s.groups ∧ SameMemory s t
        ∧ t.sys.delivery = s.sys.delivery ++ [⟨vf, ticket, model, key⟩] ∧ t.sys.outbox = s.sys.outbox ++ [x]
        ∧ ∀ q qs, s.quadsOf vf = q :: qs → (t.csr (evtKey q)).getLsbD 1 = true)
      ∧ (¬opens ∨ 64 ≤ held → ∃ t, exec w s = .next t ∧ t.sys.delivery = s.sys.delivery))
    ∧ (∀ session fn set part key, (∃ y ∈ s.sys.spdm.sessions, y.id = session ∧ y.established = true) → fn = 0 ∨ (s.part fn).isSome = true →
      set < 2 → part < 6 →
      let named := fun (x : IdeKey) => x.fn = fn ∧ x.set = set ∧ x.part = part
      let does := fun (r : VendorReq) (P : State → Prop) => s.authentic session (vendorBytes r) tag = true →
        ∃ t, exec (.vendorDefinedRequest ⟨r, tag⟩) s = .next t ∧ t.groups = s.groups ∧ SameMemory s t ∧ P t
      does (.ideKeyProg session fn set part key) (fun t => (∀ x ∈ t.sys.ideKeys, named x → x = ⟨fn, set, part, key, false⟩)
        ∧ (∃ x ∈ t.sys.ideKeys, named x) ∧ ∀ x, ¬named x → (x ∈ t.sys.ideKeys ↔ x ∈ s.sys.ideKeys))
      ∧ ((∃ x ∈ s.sys.ideKeys, named x) → does (.ideSetGo session fn set part) fun t =>
        (∀ x ∈ t.sys.ideKeys, x.fn = fn → x.part = part → (x.go = true ↔ x.set = set)) ∧ ∃ x ∈ t.sys.ideKeys, named x)
      ∧ does (.ideSetStop session fn set part) fun t => ∀ x, x ∈ t.sys.ideKeys ↔ x ∈ s.sys.ideKeys ∧ ¬named x)
    ∧ ∀ slotB image sigA sigB, s.session 0 = none →
      let w := Instr.vendorDefinedRequest ⟨.setFirmware slotB image sigA sigB, tag⟩
      ∃ t, exec w s = .next t ∧ t.sys.firmware = s.sys.firmware ∧
        if Config.rsaOk image sigA = true ∧ Config.slhOk image sigB = true ∧ image.length + sigA.length + sigB.length ≤ 2 ^ 24 then
          (if slotB then t.sys.store.fwB else t.sys.store.fwA) = some ⟨image, sigA, sigB⟩
        else t.sys.store = s.sys.store)
  ∧ (∀ (p : Nat) (s : State), s.sys.recovery = true → exec (.partitionReset p) s = .next s)
  ∧ (∀ (p : Nat) (s : State) (x : Part), s.part p = some x → s.sys.recovery = false → ∃ t, exec (.partitionReset p) s = .next t
    ∧ (∀ a, a / 2 ^ 48 = p → Memory.read t.mem a = 0) ∧ (∀ a, a / 2 ^ 48 ≠ p → Memory.read t.mem a = Memory.read s.mem a)
    ∧ (∀ g ∈ t.groups, g.2.part ≠ p) ∧ (∀ l ∈ t.launches, l.part ≠ p) ∧ (∀ k ∈ t.sys.keys, k.part ≠ p) ∧ (∀ e ∈ t.ms.tlb, e.part ≠ p)
    ∧ (∀ d ∈ t.sys.delivery, d.part ≠ p) ∧ (∀ q ∈ s.quadsOf p, t.csr (csrKey 0x28 q) = 0 ∧
      ((∀ k, 0 < s.capacity k ∨ k ∈ s.sys.slicesOut) → t.csr (csrKey 0x09 q) = 0))
    ∧ t.tdi p = .error ∧ ∃ y, t.part p = some y ∧ y.keyset = true ∧ y.quads = x.quads)
  ∧ ∀ s : State, ∃ t, exec .packageReset s = .next t ∧ t.groups = [] ∧ t.mem = [] ∧
    match s.sys.store.boot with
    | none => t.sys.recovery = true
    | some f => t.sys.recovery = false ∧ t.sys.firmware = f ∧ t.launches = [] ∧ (∀ p ∈ t.sys.parts, t.tdi p.num = .error)
      ∧ (f = none ∨ ∃ y, f = some y ∧ Config.rsaOk y.image y.rsaSig = true ∧ Config.slhOk y.image y.slhSig = true)

/-- R187, R268, R269, R377, R441, R443, R444, R447, R449: an hour's snapshot replaces the older of the two, and a package reset that
cuts its write short leaves the other as it was; the clock steps by 10 MHz within its cap; the thermal state follows its thresholds, and the last one
resets the package. A core that fails its self-test or shows its 16th uncorrectable error within an hour ends the launches of its blocks and
is spared or mapped out; that the lines parked in its L1 read as uncorrectable from then on is the model's choice (log entry 55). A row is
spared at its fourth correctable error within an hour or at an uncorrectable one, or raises a replace request; and an error found at a
write-back ends the partition's launches once the fault queue has room for its record. -/
def Obligations.HealthEvents : Prop :=
  ∀ s : State,
    let ends := fun (t : State) (lid : Nat) => ∀ x, s.launch lid = some x → ∃ y, t.launch lid = some y ∧ y.ending = true
    let first := snapRank s.sys.snap0 ≤ snapRank s.sys.snap1
    (∃ t, exec .snapshot s = .next t ∧ t.groups = s.groups ∧ SameMemory s t ∧ t.sys.hours = s.sys.hours + 1
      ∧ (if first then t.sys.snap1 = s.sys.snap1 else t.sys.snap0 = s.sys.snap0)
      ∧ ∃ x, (if first then t.sys.snap0 else t.sys.snap1) = some x ∧ x.counts = s.sys.counts ∧ x.good = true
        ∧ ∀ y, (s.sys.snap0 = some y ∨ s.sys.snap1 = some y) → y.good = true → y.seq < x.seq)
    ∧ (∃ u : State, exec .packageReset s = .next (u.packageReset s.freeFailed) ∧ u.sys.hours = s.sys.hours
      ∧ if first then u.sys.snap1 = s.sys.snap1 else u.sys.snap0 = s.sys.snap0)
    ∧ (∀ p : PowerSample, ∃ t, exec (.powerWindow p) s = .next t ∧ t.groups = s.groups ∧ SameMemory s t
      ∧ t.sys.power.clock = if s.sys.quiet = true then s.sys.power.clock else if 3300 < p.watts then s.sys.power.clock - 10
        else min (s.sys.power.clock + 10) (if s.sys.power.state = 0 then 940 else if s.sys.power.state = 1 then 850 else 470))
    ∧ (∀ p celsius, s.sys.power.state < 4 →
      let hot := ((s.sys.power.temp.filter fun y => !(y.1 == p)) ++ [(p, celsius)]).foldl (fun a y => Nat.max a y.2) 0
      (125 ≤ hot → exec (.thermalStateChange p celsius) s = exec .packageReset s)
      ∧ (hot < 125 → ∃ t, exec (.thermalStateChange p celsius) s = .next t ∧ t.groups = s.groups ∧ SameMemory s t ∧ t.sys.power.state < 4
        ∧ ∀ k, 1 ≤ k → k < 4 → (k ≤ t.sys.power.state ↔ 85 + 10 * k ≤ hot ∨ (k ≤ s.sys.power.state ∧ 85 + 10 * k < hot + 5))))
    ∧ (∀ core, (∃ t, exec (.coreSpare ⟨core, .selfTest⟩) s = .next t ∧ (∀ g ∈ t.groups, coreOf g.1 = core → isSysGid g.1 = true)
        ∧ (∀ b ∈ s.blocks, core ∈ b.cores → ends t b.lid)
        ∧ ((∀ b ∈ s.blocks, core ∉ b.cores) → ∀ r ∈ s.ms.parks, r.site = .l1 core → r.line ∈ t.ms.bad)
        ∧ ((∀ c ∈ s.sys.sparesUsed, quadOf c ≠ quadOf core) → core ∈ t.sys.sparesUsed ∧ t.sys.mappedOut = s.sys.mappedOut)
        ∧ ((∃ c ∈ s.sys.sparesUsed, quadOf c = quadOf core) → core ∈ t.sys.mappedOut ∧ (∀ r ∈ t.ms.parks, r.mask.getLsbD core = false)
          ∧ ∃ r ∈ t.sys.repl, r.part = s.ownerOf (quadOf core) ∧ r.unit = 1 ∧ r.number = core))
      ∧ (∃ t, exec (.coreSpare ⟨core, .sram .corrected⟩) s = .next t ∧ t.groups = s.groups ∧ SameMemory s t ∧ t.launches = s.launches)
      ∧ ∀ e, e ≠ .corrected → ∃ t, exec (.coreSpare ⟨core, .sram e⟩) s = .next t
        ∧ (15 ≤ s.errorsOf core → core < 384 → core ∈ t.sys.sparesUsed ∨ core ∈ t.sys.mappedOut)
        ∧ (s.errorsOf core < 15 → t.sys.sparesUsed = s.sys.sparesUsed ∧ t.sys.mappedOut = s.sys.mappedOut
          ∧ t.errorsOf core = s.errorsOf core + 1))
    ∧ (∀ slice bank row line,
      let used := (s.sys.rowSpares.lookup (256 * slice + bank)).getD 0
      let spared := fun (t : State) => t.groups = s.groups ∧ t.mem = s.mem ∧
        if used < Config.spareRows slice bank then t.sys.rowSpares.lookup (256 * slice + bank) = some (used + 1)
        else t.sys.rowsOut.lookup slice = some ((s.sys.rowsOut.lookup slice).getD 0 + 1)
          ∧ ∃ r ∈ t.sys.repl, r.part = s.ownerOf (slice / 16) ∧ r.unit = 2 ∧ r.number = slice
      (∀ f, f ≠ .corrected → ∃ t, exec (.rowSpare (.row slice bank row line) f) s = .next t ∧ spared t
        ∧ ∀ l, s.lineOfChannel slice line = some l → l ∈ t.ms.bad)
      ∧ ∃ t, exec (.rowSpare (.row slice bank row line) .corrected) s = .next t ∧ (3 ≤ s.errorsOf (rowUnit slice bank row) → spared t)
        ∧ (s.errorsOf (rowUnit slice bank row) < 3 → SameMemory s t ∧ t.groups = s.groups ∧ t.sys.rowSpares = s.sys.rowSpares))
    ∧ (∀ site line,
      (∃ t, exec (.rowSpare (.frame site line) .corrected) s = .next t ∧ SameMemory s t ∧ t.groups = s.groups)
      ∧ (∃ t, exec (.rowSpare (.frame site line) .clean) s = .next t ∧ t.mem = s.mem ∧ t.ms.bad = s.ms.bad
        ∧ ∀ c, c ∈ t.ms.copies ↔ c ∈ s.ms.copies ∧ ¬(c.line = line ∧ c.site = site ∧ c.dirty = 0))
      ∧ (∃ t, exec (.rowSpare (.frame site line) .data) s = .next t ∧ t.mem = s.mem ∧ line ∈ t.ms.bad)
      ∧ ∃ t, exec (.rowSpare (.frame site line) .record) s = .next t ∧ t.due = s.due ++ [.writeBackError ⟨line, true⟩])
    ∧ ∀ e : BadLine,
      let p := e.line / 2 ^ 41
      let holds := s.fqRoom p = false ∨ ∃ r ∈ s.sys.pendingFq, r.part = p
      (holds → exec (.writeBackError e) s = .next (s.send (.writeBackError e)))
      ∧ (¬holds → ∃ t, exec (.writeBackError e) s = .next t ∧ ∀ lid x, s.launch lid = some x → x.part = p →
        ∃ y, t.launch lid = some y ∧ y.ending = true)

/-! ## The whole machine -/

/-- R46, R47, R62, R97, R105, R154 (that a step takes up one event in flight, one held access or one item of the clock, by a free choice, is
the model's choice: log entry 5): a step goes on with the items of its clock, else it runs the event in flight or the held access that the
choice names, or begins the next clock: the phases that are complete, arrivals held for it, then the slots of each unit. A slot that can issue runs the decoded word at
its program counter, checks the header of a clause it enters, and traps a word that does not decode or is misplaced; one that cannot is
passed over. -/
def Obligations.StepRunsTheDecodedInstruction : Prop :=
  (∀ s : State,
    let u : State := { s with free := s.free + 1 }
    (s.cycle.items ≠ [] → step s = taken s.cycle.items u)
    ∧ (s.cycle.items = [] →
      let v : State := { u with cycle := ⟨[], false, []⟩ }
      let k := v.pick 1 (v.openEvents.length + v.readyJobs.length + 1)
      (∀ n e, v.openEvents[k]? = some n → s.due[n]? = some e → step s = exec e { v with due := s.due.eraseIdx n })
      ∧ (∀ n j, v.openEvents.length ≤ k → v.readyJobs[k - v.openEvents.length]? = some n → s.ms.jobs[n]? = some j →
        step s = .next ((v.dropJob n).newId.runJob j).fqDrain)
      ∧ (v.openEvents.length + v.readyJobs.length ≤ k →
        let w := ({ v with clock := s.clock + 1, due := s.due.filter fun i => (heldOf i).isNone } : State).completeDue
        let r := State.allItems w.units w
        step s = taken ((s.due.filterMap heldOf).map CycleItem.held ++ r.2) { r.1 with cycle := ⟨[], false, []⟩ })))
  ∧ ∀ (v : State) (rest : List CycleItem),
    taken [] v = .next { v with cycle := ⟨[], false, []⟩ }
    ∧ (∀ a, taken (.held a :: rest) v = exec (.heldArrival a) { v with cycle := { v.cycle with items := rest, slotB := false } })
    ∧ (∀ unit isB, v.canIssue unit isB = none → taken (.slot unit isB :: rest) v = taken rest v)
    ∧ ∀ unit isB p, v.canIssue unit isB = some p →
      let out := taken (.slot unit isB :: rest) v
      let ls := (v.group p.gid).lanesAt p.pc p.pos
      let x := (v.group p.gid).lane (ls.headD 0)
      let v1 : State := { v with cycle := { v.cycle with items := rest, slotB := isB } }
      let v2 := (v1.setSlot unit isB (v1.placeAfter p x)).modGroup p.gid fun g => { g with hold := false }
      let runs := fun (b : State) (cx : Cx) => ∀ s2 pa k, b.xlate (b.laneWalker p.gid) cx.pc .fetch = (s2, .ok pa k) → lineOf pa ∉ s2.ms.bad →
        let w := BitVec.ofNat 64 (leNat (s2.peek pa 8))
        let at_ : Cx := { cx with word := w }
        let traps := fun (c : Nat) => out = .next (s2.trap p.gid (lanesOf (maskOf ls)) (at_.at_ c w))
        (∀ i, decode w = .ok i → wellPlaced at_ → out = exec i { s2 with cur := some at_ })
        ∧ (∀ i, decode w = .ok i → ¬wellPlaced at_ → traps 0x02)
        ∧ (decode w = .error .illegalVersion ∨ decode w = .error .unassignedOpcode → traps 0x01)
        ∧ (decode w = .error .reservedField → wellPlaced at_ → traps 0x01)
        ∧ (decode w = .error .reservedField → ¬wellPlaced at_ → traps 0x02)
      (p.pos ≠ 0 → runs v2 ⟨p.gid, maskOf ls, p.pc, p.pos, x.left, x.cls, 0⟩)
      ∧ (p.pos = 0 → p.pc.toNat % 8 ≠ 0 → out = .next (v2.trap p.gid (lanesOf (maskOf ls)) ⟨0x03, p.pc, p.pc, 0, x.left, x.cls, false⟩))
      ∧ (p.pos = 0 → p.pc.toNat % 8 = 0 → ∀ s2 pa k, v2.xlate (v2.laneWalker p.gid) p.pc .fetch = (s2, .ok pa k) → lineOf pa ∉ s2.ms.bad →
        let w := BitVec.ofNat 64 (leNat (s2.peek pa 8))
        (readHeader w = none → out = .next (s2.trap p.gid (lanesOf (maskOf ls)) ⟨0x03, p.pc, p.pc, 0, x.left, x.cls, false⟩))
        ∧ ∀ h, readHeader w = some h →
          let b := eachLane s2 (lanesOf (maskOf ls)) fun (t : State) l => t.modLane p.gid l fun y =>
            { y with pc := p.pc + 8, pos := 1, left := h.count, cls := h.cls }
          runs b ⟨p.gid, maskOf ls, p.pc + 8, 1, h.count, h.cls, 0⟩)

/-- No step stops: with no word waiting among the events in flight, every step of the machine answers a next state. -/
def Obligations.EveryStepGoesOn : Prop := ∀ s : State, (∀ i ∈ s.due, i.isWord = false) → Goes s

/-- R44, R48, R53 to R58: words written out bit by bit from the spec's encodings decode to the instructions they stand for, and a word of
the wrong version, of an opcode that is not assigned, or with a reserved field set does not. -/
def Obligations.WordsDecodeAsWritten : Prop :=
  let c : Ctl := ⟨false, false, false, 7⟩
  decode 0x0007060304002000 = .ok (.add ⟨c, 6, 3, 4, 0, .i32, .rne, false, false, false, 0⟩)
  ∧ decode 0x0207050120000007 = .ok (.addImm ⟨c, 5, 1, .i32, .rne, false, 0, 7⟩)
  ∧ decode 0x0657000000000000 = .ok (.exit ⟨c, 0, false, 0, 0⟩)
  ∧ decode 0x0807040202588080 = .ok (.ld ⟨c, 4, 2, 2, .gv, .dev, .relaxed, .b32, false, .none, 0x80⟩)
  ∧ decode 0x0A070406080AB400 = .ok (.mvec ⟨c, 4, 6, 8, 10, 0xB4, 0⟩)
  ∧ decode 0x0A87102002010000 = .ok (.mma ⟨c, 0x10, 0x20, 2, 1, 0, 0⟩)
  ∧ decode 0x0F27000000000000 = .ok (.eret ⟨c, 0, 0, 0, 0, 0, 0⟩)
  ∧ readHeader 0xC03FFFC000000000 = some ⟨0, 1, 15, 15, 15, 15⟩
  ∧ decode 0x8007060304002000 = .error .illegalVersion ∧ decode 0x1FF7000000000000 = .error .unassignedOpcode
  ∧ decode 0x0F27000000000001 = .error .reservedField

/-- R48, R53 to R58: decoding and encoding agree. The word of every well-formed instruction decodes to it, with every operand and flag at
every value that its encoding admits; and a word that decodes is the word of its instruction, so no bit of it is dropped. -/
def Obligations.DecodeAndEncodeAgree : Prop :=
  (∀ i : Instr, i.isWord = true → i.wf = true → ∃ w, encode i = some w ∧ decode w = .ok i)
  ∧ ∀ (w : DWord) (i : Instr), decode w = .ok i → encode i = some w ∧ i.isWord = true ∧ i.wf = true

/-- Every step keeps memory in its one form: addresses strictly rise, and no entry holds the byte that an unlisted address reads as. -/
def Obligations.MemoryStaysCanonical : Prop := ∀ s t : State, Memory.wf s.mem → step s = .next t → Memory.wf t.mem

/-- R251, R253, R408, R438: after reset memory reads as zero and is in its one form, nothing is in flight and no group runs; every
circuit domain has its time-outs and is not enabled; and every channel of a part without faults is in use. -/
def Obligations.ResetLeavesTheMachine : Prop :=
  let s := State.reset
  Memory.wf s.mem ∧ (∀ a, Memory.read s.mem a = 0) ∧ s.due = [] ∧ s.groups = [] ∧ s.blocks = [] ∧ s.launches = []
  ∧ (∀ d, d < 32 → s.dto d = 0x0186A0 ∧ s.rto d = 0x05F5E100 ∧ s.domEn d = false)
  ∧ (∀ p, p < 32 → s.portDom p = none ∧ s.lnk p = lnkDown)
  ∧ bits (s.csr (csrPart 1 0x18)) 9 0 = 512 ∧ bits (s.csr (csrPart 1 0x18)) 35 16 = 524288 ∧ bits (s.csr (csrPart 1 0x18)) 63 36 = 0
end

