-- ==== Sys2Proof/Laws/Map.lean ====
section
/-! SUPPORT. Reads after writes in sparse tables, and that every write keeps their canonical form. -/
namespace Sys2Proof.Machine.Map

variable {α : Type}

theorem get_insert_self (d : α) (m : List (Nat × α)) (i : Nat) (x : α) : get d (insert i x m) i = x := by
  induction m with
  | nil => simp [insert, get]
  | cons e m ih =>
    obtain ⟨k, y⟩ := e
    simp only [insert]
    split
    · simp [get]
    · split
      · simp [get]
      · rename_i h1 h2; simp [get, h2, ih]

theorem get_insert_other (d : α) (m : List (Nat × α)) {i j : Nat} (x : α) (h : j ≠ i) :
    get d (insert i x m) j = get d m j := by
  induction m with
  | nil => simp [insert, get, h]
  | cons e m ih =>
    obtain ⟨k, y⟩ := e
    simp only [insert]
    split
    · simp [get, h]
    · split
      · rename_i h2; subst h2; simp [get, h]
      · simp [get, ih]

/-- Every key of a canonical table lies above `lo`. -/
theorem get_below [DecidableEq α] (d : α) (m : List (Nat × α)) {lo i : Nat} (h : ok d (some lo) m = true) (hi : i ≤ lo) :
    get d m i = d := by
  induction m generalizing lo with
  | nil => rfl
  | cons e m ih =>
    obtain ⟨k, y⟩ := e
    simp only [ok, Bool.and_eq_true, decide_eq_true_eq] at h
    simp only [get]
    rw [if_neg (by omega)]
    exact ih h.2 (by omega)

theorem ok_tail [DecidableEq α] (d : α) {lo : Option Nat} {k : Nat} {y : α} {m : List (Nat × α)}
    (h : ok d lo ((k, y) :: m) = true) : ok d (some k) m = true := by
  cases lo <;> simp_all [ok]

theorem ok_ne [DecidableEq α] (d : α) {lo : Option Nat} {k : Nat} {y : α} {m : List (Nat × α)}
    (h : ok d lo ((k, y) :: m) = true) : y ≠ d := by
  cases lo <;> simp_all [ok]

theorem ok_weaken [DecidableEq α] (d : α) (m : List (Nat × α)) {lo lo' : Nat} (h : ok d (some lo) m = true) (hl : lo' ≤ lo) :
    ok d (some lo') m = true := by
  cases m with
  | nil => rfl
  | cons e m =>
    obtain ⟨k, y⟩ := e
    simp only [ok, Bool.and_eq_true, decide_eq_true_eq] at h ⊢
    exact ⟨⟨by omega, h.1.2⟩, h.2⟩

theorem ok_none [DecidableEq α] (d : α) (m : List (Nat × α)) {lo : Nat} (h : ok d (some lo) m = true) : ok d none m = true := by
  cases m with
  | nil => rfl
  | cons e m =>
    obtain ⟨k, y⟩ := e
    simp only [ok, Bool.and_eq_true, decide_eq_true_eq] at h ⊢
    exact ⟨h.1.2, h.2⟩

theorem ok_erase_some [DecidableEq α] (d : α) (m : List (Nat × α)) (i lo : Nat) (h : ok d (some lo) m = true) :
    ok d (some lo) (erase i m) = true := by
  induction m generalizing lo with
  | nil => rfl
  | cons e m ih =>
    obtain ⟨k, y⟩ := e
    simp only [ok, Bool.and_eq_true, decide_eq_true_eq] at h
    simp only [erase]
    split
    · exact ok_weaken d _ (ih k h.2) (by omega)
    · simp only [ok, Bool.and_eq_true, decide_eq_true_eq]
      exact ⟨h.1, ih k h.2⟩

theorem ok_erase [DecidableEq α] (d : α) (m : List (Nat × α)) (i : Nat) (h : ok d none m = true) :
    ok d none (erase i m) = true := by
  cases m with
  | nil => rfl
  | cons e m =>
    obtain ⟨k, y⟩ := e
    simp only [ok, Bool.and_eq_true, decide_eq_true_eq] at h
    simp only [erase]
    split
    · exact ok_none d _ (ok_erase_some d m i k h.2)
    · simp only [ok, Bool.and_eq_true, decide_eq_true_eq]
      exact ⟨h.1, ok_erase_some d m i k h.2⟩

theorem ok_insert_some [DecidableEq α] (d : α) (m : List (Nat × α)) (i lo : Nat) (x : α) (hx : x ≠ d) (hi : lo < i)
    (h : ok d (some lo) m = true) : ok d (some lo) (insert i x m) = true := by
  induction m generalizing lo with
  | nil => simp [insert, ok, hi, hx]
  | cons e m ih =>
    obtain ⟨k, y⟩ := e
    simp only [ok, Bool.and_eq_true, decide_eq_true_eq] at h
    simp only [insert]
    split
    · rename_i hk
      simp only [ok, Bool.and_eq_true, decide_eq_true_eq]
      exact ⟨⟨hi, hx⟩, ⟨hk, h.1.2⟩, h.2⟩
    · split
      · rename_i hk; subst hk
        simp only [ok, Bool.and_eq_true, decide_eq_true_eq]
        exact ⟨⟨hi, hx⟩, h.2⟩
      · simp only [ok, Bool.and_eq_true, decide_eq_true_eq]
        exact ⟨h.1, ih k (by omega) h.2⟩

theorem ok_insert [DecidableEq α] (d : α) (m : List (Nat × α)) (i : Nat) (x : α) (hx : x ≠ d) (h : ok d none m = true) :
    ok d none (insert i x m) = true := by
  cases m with
  | nil => simp [insert, ok, hx]
  | cons e m =>
    obtain ⟨k, y⟩ := e
    simp only [ok, Bool.and_eq_true, decide_eq_true_eq] at h
    simp only [insert]
    split
    · rename_i hk
      simp only [ok, Bool.and_eq_true, decide_eq_true_eq]
      exact ⟨hx, ⟨hk, h.1⟩, h.2⟩
    · split
      · simp only [ok, Bool.and_eq_true, decide_eq_true_eq]
        rename_i hk; subst hk
        exact ⟨hx, h.2⟩
      · simp only [ok, Bool.and_eq_true, decide_eq_true_eq]
        exact ⟨h.1, ok_insert_some d m i k x hx (by omega) h.2⟩

/-- A write keeps the canonical form. -/
theorem ok_set [DecidableEq α] (d : α) (m : List (Nat × α)) (i : Nat) (x : α) (h : ok d none m = true) :
    ok d none (set d m i x) = true := by
  unfold set
  split
  · exact ok_erase d m i h
  · rename_i hx; exact ok_insert d m i x hx h

theorem ok_filter_some [DecidableEq α] (d : α) (m : List (Nat × α)) (p : Nat × α → Bool) (lo : Nat)
    (h : ok d (some lo) m = true) : ok d (some lo) (m.filter p) = true := by
  induction m generalizing lo with
  | nil => rfl
  | cons e m ih =>
    obtain ⟨k, y⟩ := e
    simp only [ok, Bool.and_eq_true, decide_eq_true_eq] at h
    rw [List.filter_cons]
    split
    · simp only [ok, Bool.and_eq_true, decide_eq_true_eq]
      exact ⟨h.1, ih k h.2⟩
    · exact ok_weaken d _ (ih k h.2) (by omega)

/-- Unlisting keys keeps the canonical form. -/
theorem ok_filter [DecidableEq α] (d : α) (m : List (Nat × α)) (p : Nat × α → Bool) (h : ok d none m = true) :
    ok d none (m.filter p) = true := by
  cases m with
  | nil => rfl
  | cons e m =>
    obtain ⟨k, y⟩ := e
    simp only [ok, Bool.and_eq_true, decide_eq_true_eq] at h
    rw [List.filter_cons]
    split
    · simp only [ok, Bool.and_eq_true, decide_eq_true_eq]
      exact ⟨h.1, ok_filter_some d m p k h.2⟩
    · exact ok_none d _ (ok_filter_some d m p k h.2)

theorem get_erase_self (d : α) (m : List (Nat × α)) (i : Nat) : get d (erase i m) i = d := by
  induction m with
  | nil => rfl
  | cons e m ih =>
    obtain ⟨k, y⟩ := e
    simp only [erase]
    split
    · exact ih
    · rename_i hk; simp [get, hk, ih]

theorem get_erase_other (d : α) (m : List (Nat × α)) {i j : Nat} (h : j ≠ i) : get d (erase i m) j = get d m j := by
  induction m with
  | nil => rfl
  | cons e m ih =>
    obtain ⟨k, y⟩ := e
    simp only [erase]
    split
    · rename_i hk; subst hk; simp [get, h, ih]
    · simp [get, ih]

/-- A read after a write to the same key. -/
theorem get_set_self [DecidableEq α] (d : α) (m : List (Nat × α)) (i : Nat) (x : α) : get d (set d m i x) i = x := by
  unfold set
  split
  · rename_i hx; rw [get_erase_self, hx]
  · exact get_insert_self d m i x

/-- A read after a write to another key. -/
theorem get_set_other [DecidableEq α] (d : α) (m : List (Nat × α)) {i j : Nat} (x : α) (h : j ≠ i) :
    get d (set d m i x) j = get d m j := by
  unfold set
  split
  · exact get_erase_other d m h
  · exact get_insert_other d m x h

/-- A read after a write. -/
theorem get_set [DecidableEq α] (d : α) (m : List (Nat × α)) (i j : Nat) (x : α) :
    get d (set d m i x) j = if j = i then x else get d m j := by
  split
  · rename_i h; subst h; exact get_set_self d m j x
  · rename_i h; exact get_set_other d m x h

theorem get_insert (d : α) (m : List (Nat × α)) (i j : Nat) (x : α) :
    get d (insert i x m) j = if j = i then x else get d m j := by
  split
  · rename_i h; subst h; exact get_insert_self d m j x
  · rename_i h; exact get_insert_other d m x h

theorem get_erase (d : α) (m : List (Nat × α)) (i j : Nat) :
    get d (erase i m) j = if j = i then d else get d m j := by
  split
  · rename_i h; subst h; exact get_erase_self d m j
  · rename_i h; exact get_erase_other d m h

end Sys2Proof.Machine.Map
end

