-- ==== Sys2Proof/Laws/State.lean ====
section
/-! SUPPORT. What each plain update of the state leaves alone, field by field. -/
namespace Sys2Proof.Machine

/-! ### State.setGroup -/
@[simp] theorem setGroup_cur (s : State) (gid : Nat) (g : Group) : (s.setGroup gid g).cur = s.cur := rfl
@[simp] theorem setGroup_due (s : State) (gid : Nat) (g : Group) : (s.setGroup gid g).due = s.due := rfl
@[simp] theorem setGroup_after (s : State) (gid : Nat) (g : Group) : (s.setGroup gid g).after = s.after := rfl
@[simp] theorem setGroup_free (s : State) (gid : Nat) (g : Group) : (s.setGroup gid g).free = s.free := rfl
@[simp] theorem setGroup_nextId (s : State) (gid : Nat) (g : Group) : (s.setGroup gid g).nextId = s.nextId := rfl
@[simp] theorem setGroup_clock (s : State) (gid : Nat) (g : Group) : (s.setGroup gid g).clock = s.clock := rfl
@[simp] theorem setGroup_cycle (s : State) (gid : Nat) (g : Group) : (s.setGroup gid g).cycle = s.cycle := rfl
@[simp] theorem setGroup_subs (s : State) (gid : Nat) (g : Group) : (s.setGroup gid g).subs = s.subs := rfl
@[simp] theorem setGroup_waits (s : State) (gid : Nat) (g : Group) : (s.setGroup gid g).waits = s.waits := rfl
@[simp] theorem setGroup_blocks (s : State) (gid : Nat) (g : Group) : (s.setGroup gid g).blocks = s.blocks := rfl
@[simp] theorem setGroup_launches (s : State) (gid : Nat) (g : Group) : (s.setGroup gid g).launches = s.launches := rfl
@[simp] theorem setGroup_sched (s : State) (gid : Nat) (g : Group) : (s.setGroup gid g).sched = s.sched := rfl
@[simp] theorem setGroup_mem (s : State) (gid : Nat) (g : Group) : (s.setGroup gid g).mem = s.mem := rfl
@[simp] theorem setGroup_ms (s : State) (gid : Nat) (g : Group) : (s.setGroup gid g).ms = s.ms := rfl
@[simp] theorem setGroup_eng (s : State) (gid : Nat) (g : Group) : (s.setGroup gid g).eng = s.eng := rfl
@[simp] theorem setGroup_fab (s : State) (gid : Nat) (g : Group) : (s.setGroup gid g).fab = s.fab := rfl
@[simp] theorem setGroup_sys (s : State) (gid : Nat) (g : Group) : (s.setGroup gid g).sys = s.sys := rfl

/-! ### State.modGroup -/
@[simp] theorem modGroup_cur (s : State) (gid : Nat) (f : Group → Group) : (s.modGroup gid f).cur = s.cur := rfl
@[simp] theorem modGroup_due (s : State) (gid : Nat) (f : Group → Group) : (s.modGroup gid f).due = s.due := rfl
@[simp] theorem modGroup_after (s : State) (gid : Nat) (f : Group → Group) : (s.modGroup gid f).after = s.after := rfl
@[simp] theorem modGroup_free (s : State) (gid : Nat) (f : Group → Group) : (s.modGroup gid f).free = s.free := rfl
@[simp] theorem modGroup_nextId (s : State) (gid : Nat) (f : Group → Group) : (s.modGroup gid f).nextId = s.nextId := rfl
@[simp] theorem modGroup_clock (s : State) (gid : Nat) (f : Group → Group) : (s.modGroup gid f).clock = s.clock := rfl
@[simp] theorem modGroup_cycle (s : State) (gid : Nat) (f : Group → Group) : (s.modGroup gid f).cycle = s.cycle := rfl
@[simp] theorem modGroup_subs (s : State) (gid : Nat) (f : Group → Group) : (s.modGroup gid f).subs = s.subs := rfl
@[simp] theorem modGroup_waits (s : State) (gid : Nat) (f : Group → Group) : (s.modGroup gid f).waits = s.waits := rfl
@[simp] theorem modGroup_blocks (s : State) (gid : Nat) (f : Group → Group) : (s.modGroup gid f).blocks = s.blocks := rfl
@[simp] theorem modGroup_launches (s : State) (gid : Nat) (f : Group → Group) : (s.modGroup gid f).launches = s.launches := rfl
@[simp] theorem modGroup_sched (s : State) (gid : Nat) (f : Group → Group) : (s.modGroup gid f).sched = s.sched := rfl
@[simp] theorem modGroup_mem (s : State) (gid : Nat) (f : Group → Group) : (s.modGroup gid f).mem = s.mem := rfl
@[simp] theorem modGroup_ms (s : State) (gid : Nat) (f : Group → Group) : (s.modGroup gid f).ms = s.ms := rfl
@[simp] theorem modGroup_eng (s : State) (gid : Nat) (f : Group → Group) : (s.modGroup gid f).eng = s.eng := rfl
@[simp] theorem modGroup_fab (s : State) (gid : Nat) (f : Group → Group) : (s.modGroup gid f).fab = s.fab := rfl
@[simp] theorem modGroup_sys (s : State) (gid : Nat) (f : Group → Group) : (s.modGroup gid f).sys = s.sys := rfl

/-! ### State.modLane -/
@[simp] theorem modLane_cur (s : State) (gid l : Nat) (f : Lane → Lane) : (s.modLane gid l f).cur = s.cur := rfl
@[simp] theorem modLane_due (s : State) (gid l : Nat) (f : Lane → Lane) : (s.modLane gid l f).due = s.due := rfl
@[simp] theorem modLane_after (s : State) (gid l : Nat) (f : Lane → Lane) : (s.modLane gid l f).after = s.after := rfl
@[simp] theorem modLane_free (s : State) (gid l : Nat) (f : Lane → Lane) : (s.modLane gid l f).free = s.free := rfl
@[simp] theorem modLane_nextId (s : State) (gid l : Nat) (f : Lane → Lane) : (s.modLane gid l f).nextId = s.nextId := rfl
@[simp] theorem modLane_clock (s : State) (gid l : Nat) (f : Lane → Lane) : (s.modLane gid l f).clock = s.clock := rfl
@[simp] theorem modLane_cycle (s : State) (gid l : Nat) (f : Lane → Lane) : (s.modLane gid l f).cycle = s.cycle := rfl
@[simp] theorem modLane_subs (s : State) (gid l : Nat) (f : Lane → Lane) : (s.modLane gid l f).subs = s.subs := rfl
@[simp] theorem modLane_waits (s : State) (gid l : Nat) (f : Lane → Lane) : (s.modLane gid l f).waits = s.waits := rfl
@[simp] theorem modLane_blocks (s : State) (gid l : Nat) (f : Lane → Lane) : (s.modLane gid l f).blocks = s.blocks := rfl
@[simp] theorem modLane_launches (s : State) (gid l : Nat) (f : Lane → Lane) : (s.modLane gid l f).launches = s.launches := rfl
@[simp] theorem modLane_sched (s : State) (gid l : Nat) (f : Lane → Lane) : (s.modLane gid l f).sched = s.sched := rfl
@[simp] theorem modLane_mem (s : State) (gid l : Nat) (f : Lane → Lane) : (s.modLane gid l f).mem = s.mem := rfl
@[simp] theorem modLane_ms (s : State) (gid l : Nat) (f : Lane → Lane) : (s.modLane gid l f).ms = s.ms := rfl
@[simp] theorem modLane_eng (s : State) (gid l : Nat) (f : Lane → Lane) : (s.modLane gid l f).eng = s.eng := rfl
@[simp] theorem modLane_fab (s : State) (gid l : Nat) (f : Lane → Lane) : (s.modLane gid l f).fab = s.fab := rfl
@[simp] theorem modLane_sys (s : State) (gid l : Nat) (f : Lane → Lane) : (s.modLane gid l f).sys = s.sys := rfl

/-! ### State.writeG -/
@[simp] theorem writeG_cur (s : State) (gid r : Nat) (x : DWord) : (s.writeG gid r x).cur = s.cur := by unfold State.writeG; split <;> rfl
@[simp] theorem writeG_due (s : State) (gid r : Nat) (x : DWord) : (s.writeG gid r x).due = s.due := by unfold State.writeG; split <;> rfl
@[simp] theorem writeG_after (s : State) (gid r : Nat) (x : DWord) : (s.writeG gid r x).after = s.after := by unfold State.writeG; split <;> rfl
@[simp] theorem writeG_free (s : State) (gid r : Nat) (x : DWord) : (s.writeG gid r x).free = s.free := by unfold State.writeG; split <;> rfl
@[simp] theorem writeG_nextId (s : State) (gid r : Nat) (x : DWord) : (s.writeG gid r x).nextId = s.nextId := by unfold State.writeG; split <;> rfl
@[simp] theorem writeG_clock (s : State) (gid r : Nat) (x : DWord) : (s.writeG gid r x).clock = s.clock := by unfold State.writeG; split <;> rfl
@[simp] theorem writeG_subs (s : State) (gid r : Nat) (x : DWord) : (s.writeG gid r x).subs = s.subs := by unfold State.writeG; split <;> rfl
@[simp] theorem writeG_waits (s : State) (gid r : Nat) (x : DWord) : (s.writeG gid r x).waits = s.waits := by unfold State.writeG; split <;> rfl
@[simp] theorem writeG_blocks (s : State) (gid r : Nat) (x : DWord) : (s.writeG gid r x).blocks = s.blocks := by unfold State.writeG; split <;> rfl
@[simp] theorem writeG_launches (s : State) (gid r : Nat) (x : DWord) : (s.writeG gid r x).launches = s.launches := by unfold State.writeG; split <;> rfl
@[simp] theorem writeG_sched (s : State) (gid r : Nat) (x : DWord) : (s.writeG gid r x).sched = s.sched := by unfold State.writeG; split <;> rfl
@[simp] theorem writeG_mem (s : State) (gid r : Nat) (x : DWord) : (s.writeG gid r x).mem = s.mem := by unfold State.writeG; split <;> rfl
@[simp] theorem writeG_ms (s : State) (gid r : Nat) (x : DWord) : (s.writeG gid r x).ms = s.ms := by unfold State.writeG; split <;> rfl
@[simp] theorem writeG_eng (s : State) (gid r : Nat) (x : DWord) : (s.writeG gid r x).eng = s.eng := by unfold State.writeG; split <;> rfl
@[simp] theorem writeG_fab (s : State) (gid r : Nat) (x : DWord) : (s.writeG gid r x).fab = s.fab := by unfold State.writeG; split <;> rfl
@[simp] theorem writeG_sys (s : State) (gid r : Nat) (x : DWord) : (s.writeG gid r x).sys = s.sys := by unfold State.writeG; split <;> rfl

/-! ### State.bump -/
@[simp] theorem bump_cur (s : State) (gid : Nat) (c : Ctr) : (s.bump gid c).cur = s.cur := rfl
@[simp] theorem bump_due (s : State) (gid : Nat) (c : Ctr) : (s.bump gid c).due = s.due := rfl
@[simp] theorem bump_after (s : State) (gid : Nat) (c : Ctr) : (s.bump gid c).after = s.after := rfl
@[simp] theorem bump_free (s : State) (gid : Nat) (c : Ctr) : (s.bump gid c).free = s.free := rfl
@[simp] theorem bump_nextId (s : State) (gid : Nat) (c : Ctr) : (s.bump gid c).nextId = s.nextId := rfl
@[simp] theorem bump_clock (s : State) (gid : Nat) (c : Ctr) : (s.bump gid c).clock = s.clock := rfl
@[simp] theorem bump_cycle (s : State) (gid : Nat) (c : Ctr) : (s.bump gid c).cycle = s.cycle := rfl
@[simp] theorem bump_subs (s : State) (gid : Nat) (c : Ctr) : (s.bump gid c).subs = s.subs := rfl
@[simp] theorem bump_waits (s : State) (gid : Nat) (c : Ctr) : (s.bump gid c).waits = s.waits := rfl
@[simp] theorem bump_blocks (s : State) (gid : Nat) (c : Ctr) : (s.bump gid c).blocks = s.blocks := rfl
@[simp] theorem bump_launches (s : State) (gid : Nat) (c : Ctr) : (s.bump gid c).launches = s.launches := rfl
@[simp] theorem bump_sched (s : State) (gid : Nat) (c : Ctr) : (s.bump gid c).sched = s.sched := rfl
@[simp] theorem bump_mem (s : State) (gid : Nat) (c : Ctr) : (s.bump gid c).mem = s.mem := rfl
@[simp] theorem bump_ms (s : State) (gid : Nat) (c : Ctr) : (s.bump gid c).ms = s.ms := rfl
@[simp] theorem bump_eng (s : State) (gid : Nat) (c : Ctr) : (s.bump gid c).eng = s.eng := rfl
@[simp] theorem bump_fab (s : State) (gid : Nat) (c : Ctr) : (s.bump gid c).fab = s.fab := rfl
@[simp] theorem bump_sys (s : State) (gid : Nat) (c : Ctr) : (s.bump gid c).sys = s.sys := rfl

/-! ### State.fallCtr -/
@[simp] theorem fallCtr_cur (s : State) (gid : Nat) (c : Ctr) : (s.fallCtr gid c).cur = s.cur := rfl
@[simp] theorem fallCtr_due (s : State) (gid : Nat) (c : Ctr) : (s.fallCtr gid c).due = s.due := rfl
@[simp] theorem fallCtr_after (s : State) (gid : Nat) (c : Ctr) : (s.fallCtr gid c).after = s.after := rfl
@[simp] theorem fallCtr_free (s : State) (gid : Nat) (c : Ctr) : (s.fallCtr gid c).free = s.free := rfl
@[simp] theorem fallCtr_nextId (s : State) (gid : Nat) (c : Ctr) : (s.fallCtr gid c).nextId = s.nextId := rfl
@[simp] theorem fallCtr_clock (s : State) (gid : Nat) (c : Ctr) : (s.fallCtr gid c).clock = s.clock := rfl
@[simp] theorem fallCtr_cycle (s : State) (gid : Nat) (c : Ctr) : (s.fallCtr gid c).cycle = s.cycle := rfl
@[simp] theorem fallCtr_subs (s : State) (gid : Nat) (c : Ctr) : (s.fallCtr gid c).subs = s.subs := rfl
@[simp] theorem fallCtr_waits (s : State) (gid : Nat) (c : Ctr) : (s.fallCtr gid c).waits = s.waits := rfl
@[simp] theorem fallCtr_blocks (s : State) (gid : Nat) (c : Ctr) : (s.fallCtr gid c).blocks = s.blocks := rfl
@[simp] theorem fallCtr_launches (s : State) (gid : Nat) (c : Ctr) : (s.fallCtr gid c).launches = s.launches := rfl
@[simp] theorem fallCtr_sched (s : State) (gid : Nat) (c : Ctr) : (s.fallCtr gid c).sched = s.sched := rfl
@[simp] theorem fallCtr_mem (s : State) (gid : Nat) (c : Ctr) : (s.fallCtr gid c).mem = s.mem := rfl
@[simp] theorem fallCtr_ms (s : State) (gid : Nat) (c : Ctr) : (s.fallCtr gid c).ms = s.ms := rfl
@[simp] theorem fallCtr_eng (s : State) (gid : Nat) (c : Ctr) : (s.fallCtr gid c).eng = s.eng := rfl
@[simp] theorem fallCtr_fab (s : State) (gid : Nat) (c : Ctr) : (s.fallCtr gid c).fab = s.fab := rfl
@[simp] theorem fallCtr_sys (s : State) (gid : Nat) (c : Ctr) : (s.fallCtr gid c).sys = s.sys := rfl

/-! ### State.goTo -/
@[simp] theorem goTo_cur (s : State) (gid l : Nat) (a : DWord) : (s.goTo gid l a).cur = s.cur := rfl
@[simp] theorem goTo_due (s : State) (gid l : Nat) (a : DWord) : (s.goTo gid l a).due = s.due := rfl
@[simp] theorem goTo_after (s : State) (gid l : Nat) (a : DWord) : (s.goTo gid l a).after = s.after := rfl
@[simp] theorem goTo_free (s : State) (gid l : Nat) (a : DWord) : (s.goTo gid l a).free = s.free := rfl
@[simp] theorem goTo_nextId (s : State) (gid l : Nat) (a : DWord) : (s.goTo gid l a).nextId = s.nextId := rfl
@[simp] theorem goTo_clock (s : State) (gid l : Nat) (a : DWord) : (s.goTo gid l a).clock = s.clock := rfl
@[simp] theorem goTo_cycle (s : State) (gid l : Nat) (a : DWord) : (s.goTo gid l a).cycle = s.cycle := rfl
@[simp] theorem goTo_subs (s : State) (gid l : Nat) (a : DWord) : (s.goTo gid l a).subs = s.subs := rfl
@[simp] theorem goTo_waits (s : State) (gid l : Nat) (a : DWord) : (s.goTo gid l a).waits = s.waits := rfl
@[simp] theorem goTo_blocks (s : State) (gid l : Nat) (a : DWord) : (s.goTo gid l a).blocks = s.blocks := rfl
@[simp] theorem goTo_launches (s : State) (gid l : Nat) (a : DWord) : (s.goTo gid l a).launches = s.launches := rfl
@[simp] theorem goTo_sched (s : State) (gid l : Nat) (a : DWord) : (s.goTo gid l a).sched = s.sched := rfl
@[simp] theorem goTo_mem (s : State) (gid l : Nat) (a : DWord) : (s.goTo gid l a).mem = s.mem := rfl
@[simp] theorem goTo_ms (s : State) (gid l : Nat) (a : DWord) : (s.goTo gid l a).ms = s.ms := rfl
@[simp] theorem goTo_eng (s : State) (gid l : Nat) (a : DWord) : (s.goTo gid l a).eng = s.eng := rfl
@[simp] theorem goTo_fab (s : State) (gid l : Nat) (a : DWord) : (s.goTo gid l a).fab = s.fab := rfl
@[simp] theorem goTo_sys (s : State) (gid l : Nat) (a : DWord) : (s.goTo gid l a).sys = s.sys := rfl

/-! ### State.modLaunch -/
@[simp] theorem modLaunch_cur (s : State) (lid : Nat) (f : Launch → Launch) : (s.modLaunch lid f).cur = s.cur := rfl
@[simp] theorem modLaunch_due (s : State) (lid : Nat) (f : Launch → Launch) : (s.modLaunch lid f).due = s.due := rfl
@[simp] theorem modLaunch_after (s : State) (lid : Nat) (f : Launch → Launch) : (s.modLaunch lid f).after = s.after := rfl
@[simp] theorem modLaunch_free (s : State) (lid : Nat) (f : Launch → Launch) : (s.modLaunch lid f).free = s.free := rfl
@[simp] theorem modLaunch_nextId (s : State) (lid : Nat) (f : Launch → Launch) : (s.modLaunch lid f).nextId = s.nextId := rfl
@[simp] theorem modLaunch_clock (s : State) (lid : Nat) (f : Launch → Launch) : (s.modLaunch lid f).clock = s.clock := rfl
@[simp] theorem modLaunch_cycle (s : State) (lid : Nat) (f : Launch → Launch) : (s.modLaunch lid f).cycle = s.cycle := rfl
@[simp] theorem modLaunch_groups (s : State) (lid : Nat) (f : Launch → Launch) : (s.modLaunch lid f).groups = s.groups := rfl
@[simp] theorem modLaunch_subs (s : State) (lid : Nat) (f : Launch → Launch) : (s.modLaunch lid f).subs = s.subs := rfl
@[simp] theorem modLaunch_waits (s : State) (lid : Nat) (f : Launch → Launch) : (s.modLaunch lid f).waits = s.waits := rfl
@[simp] theorem modLaunch_blocks (s : State) (lid : Nat) (f : Launch → Launch) : (s.modLaunch lid f).blocks = s.blocks := rfl
@[simp] theorem modLaunch_sched (s : State) (lid : Nat) (f : Launch → Launch) : (s.modLaunch lid f).sched = s.sched := rfl
@[simp] theorem modLaunch_mem (s : State) (lid : Nat) (f : Launch → Launch) : (s.modLaunch lid f).mem = s.mem := rfl
@[simp] theorem modLaunch_ms (s : State) (lid : Nat) (f : Launch → Launch) : (s.modLaunch lid f).ms = s.ms := rfl
@[simp] theorem modLaunch_eng (s : State) (lid : Nat) (f : Launch → Launch) : (s.modLaunch lid f).eng = s.eng := rfl
@[simp] theorem modLaunch_fab (s : State) (lid : Nat) (f : Launch → Launch) : (s.modLaunch lid f).fab = s.fab := rfl
@[simp] theorem modLaunch_sys (s : State) (lid : Nat) (f : Launch → Launch) : (s.modLaunch lid f).sys = s.sys := rfl

/-! ### State.modBlock -/
@[simp] theorem modBlock_cur (s : State) (b : BlockRef) (f : Block → Block) : (s.modBlock b f).cur = s.cur := rfl
@[simp] theorem modBlock_due (s : State) (b : BlockRef) (f : Block → Block) : (s.modBlock b f).due = s.due := rfl
@[simp] theorem modBlock_after (s : State) (b : BlockRef) (f : Block → Block) : (s.modBlock b f).after = s.after := rfl
@[simp] theorem modBlock_free (s : State) (b : BlockRef) (f : Block → Block) : (s.modBlock b f).free = s.free := rfl
@[simp] theorem modBlock_nextId (s : State) (b : BlockRef) (f : Block → Block) : (s.modBlock b f).nextId = s.nextId := rfl
@[simp] theorem modBlock_clock (s : State) (b : BlockRef) (f : Block → Block) : (s.modBlock b f).clock = s.clock := rfl
@[simp] theorem modBlock_cycle (s : State) (b : BlockRef) (f : Block → Block) : (s.modBlock b f).cycle = s.cycle := rfl
@[simp] theorem modBlock_groups (s : State) (b : BlockRef) (f : Block → Block) : (s.modBlock b f).groups = s.groups := rfl
@[simp] theorem modBlock_subs (s : State) (b : BlockRef) (f : Block → Block) : (s.modBlock b f).subs = s.subs := rfl
@[simp] theorem modBlock_waits (s : State) (b : BlockRef) (f : Block → Block) : (s.modBlock b f).waits = s.waits := rfl
@[simp] theorem modBlock_launches (s : State) (b : BlockRef) (f : Block → Block) : (s.modBlock b f).launches = s.launches := rfl
@[simp] theorem modBlock_sched (s : State) (b : BlockRef) (f : Block → Block) : (s.modBlock b f).sched = s.sched := rfl
@[simp] theorem modBlock_mem (s : State) (b : BlockRef) (f : Block → Block) : (s.modBlock b f).mem = s.mem := rfl
@[simp] theorem modBlock_ms (s : State) (b : BlockRef) (f : Block → Block) : (s.modBlock b f).ms = s.ms := rfl
@[simp] theorem modBlock_eng (s : State) (b : BlockRef) (f : Block → Block) : (s.modBlock b f).eng = s.eng := rfl
@[simp] theorem modBlock_fab (s : State) (b : BlockRef) (f : Block → Block) : (s.modBlock b f).fab = s.fab := rfl
@[simp] theorem modBlock_sys (s : State) (b : BlockRef) (f : Block → Block) : (s.modBlock b f).sys = s.sys := rfl

/-! ### State.setJoin -/
@[simp] theorem setJoin_cur (s : State) (b : BlockRef) (j : Nat) (x : Join) : (s.setJoin b j x).cur = s.cur := by unfold State.setJoin; split <;> rfl
@[simp] theorem setJoin_due (s : State) (b : BlockRef) (j : Nat) (x : Join) : (s.setJoin b j x).due = s.due := by unfold State.setJoin; split <;> rfl
@[simp] theorem setJoin_after (s : State) (b : BlockRef) (j : Nat) (x : Join) : (s.setJoin b j x).after = s.after := by unfold State.setJoin; split <;> rfl
@[simp] theorem setJoin_free (s : State) (b : BlockRef) (j : Nat) (x : Join) : (s.setJoin b j x).free = s.free := by unfold State.setJoin; split <;> rfl
@[simp] theorem setJoin_nextId (s : State) (b : BlockRef) (j : Nat) (x : Join) : (s.setJoin b j x).nextId = s.nextId := by unfold State.setJoin; split <;> rfl
@[simp] theorem setJoin_clock (s : State) (b : BlockRef) (j : Nat) (x : Join) : (s.setJoin b j x).clock = s.clock := by unfold State.setJoin; split <;> rfl
@[simp] theorem setJoin_cycle (s : State) (b : BlockRef) (j : Nat) (x : Join) : (s.setJoin b j x).cycle = s.cycle := by unfold State.setJoin; split <;> rfl
@[simp] theorem setJoin_groups (s : State) (b : BlockRef) (j : Nat) (x : Join) : (s.setJoin b j x).groups = s.groups := by unfold State.setJoin; split <;> rfl
@[simp] theorem setJoin_subs (s : State) (b : BlockRef) (j : Nat) (x : Join) : (s.setJoin b j x).subs = s.subs := by unfold State.setJoin; split <;> rfl
@[simp] theorem setJoin_waits (s : State) (b : BlockRef) (j : Nat) (x : Join) : (s.setJoin b j x).waits = s.waits := by unfold State.setJoin; split <;> rfl
@[simp] theorem setJoin_launches (s : State) (b : BlockRef) (j : Nat) (x : Join) : (s.setJoin b j x).launches = s.launches := by unfold State.setJoin; split <;> rfl
@[simp] theorem setJoin_sched (s : State) (b : BlockRef) (j : Nat) (x : Join) : (s.setJoin b j x).sched = s.sched := by unfold State.setJoin; split <;> rfl
@[simp] theorem setJoin_mem (s : State) (b : BlockRef) (j : Nat) (x : Join) : (s.setJoin b j x).mem = s.mem := by unfold State.setJoin; split <;> rfl
@[simp] theorem setJoin_ms (s : State) (b : BlockRef) (j : Nat) (x : Join) : (s.setJoin b j x).ms = s.ms := by unfold State.setJoin; split <;> rfl
@[simp] theorem setJoin_eng (s : State) (b : BlockRef) (j : Nat) (x : Join) : (s.setJoin b j x).eng = s.eng := by unfold State.setJoin; split <;> rfl
@[simp] theorem setJoin_fab (s : State) (b : BlockRef) (j : Nat) (x : Join) : (s.setJoin b j x).fab = s.fab := by unfold State.setJoin; split <;> rfl

/-! ### State.setMem -/
@[simp] theorem setMem_cur (s : State) (m : Memory) : (s.setMem m).cur = s.cur := rfl
@[simp] theorem setMem_due (s : State) (m : Memory) : (s.setMem m).due = s.due := rfl
@[simp] theorem setMem_after (s : State) (m : Memory) : (s.setMem m).after = s.after := rfl
@[simp] theorem setMem_free (s : State) (m : Memory) : (s.setMem m).free = s.free := rfl
@[simp] theorem setMem_nextId (s : State) (m : Memory) : (s.setMem m).nextId = s.nextId := rfl
@[simp] theorem setMem_clock (s : State) (m : Memory) : (s.setMem m).clock = s.clock := rfl
@[simp] theorem setMem_cycle (s : State) (m : Memory) : (s.setMem m).cycle = s.cycle := rfl
@[simp] theorem setMem_groups (s : State) (m : Memory) : (s.setMem m).groups = s.groups := rfl
@[simp] theorem setMem_subs (s : State) (m : Memory) : (s.setMem m).subs = s.subs := rfl
@[simp] theorem setMem_waits (s : State) (m : Memory) : (s.setMem m).waits = s.waits := rfl
@[simp] theorem setMem_blocks (s : State) (m : Memory) : (s.setMem m).blocks = s.blocks := rfl
@[simp] theorem setMem_launches (s : State) (m : Memory) : (s.setMem m).launches = s.launches := rfl
@[simp] theorem setMem_sched (s : State) (m : Memory) : (s.setMem m).sched = s.sched := rfl
@[simp] theorem setMem_ms (s : State) (m : Memory) : (s.setMem m).ms = s.ms := rfl
@[simp] theorem setMem_eng (s : State) (m : Memory) : (s.setMem m).eng = s.eng := rfl
@[simp] theorem setMem_fab (s : State) (m : Memory) : (s.setMem m).fab = s.fab := rfl
@[simp] theorem setMem_sys (s : State) (m : Memory) : (s.setMem m).sys = s.sys := rfl

/-! ### State.setCopies -/
@[simp] theorem setCopies_cur (s : State) (l : List Copy) : (s.setCopies l).cur = s.cur := rfl
@[simp] theorem setCopies_due (s : State) (l : List Copy) : (s.setCopies l).due = s.due := rfl
@[simp] theorem setCopies_after (s : State) (l : List Copy) : (s.setCopies l).after = s.after := rfl
@[simp] theorem setCopies_free (s : State) (l : List Copy) : (s.setCopies l).free = s.free := rfl
@[simp] theorem setCopies_nextId (s : State) (l : List Copy) : (s.setCopies l).nextId = s.nextId := rfl
@[simp] theorem setCopies_clock (s : State) (l : List Copy) : (s.setCopies l).clock = s.clock := rfl
@[simp] theorem setCopies_cycle (s : State) (l : List Copy) : (s.setCopies l).cycle = s.cycle := rfl
@[simp] theorem setCopies_groups (s : State) (l : List Copy) : (s.setCopies l).groups = s.groups := rfl
@[simp] theorem setCopies_subs (s : State) (l : List Copy) : (s.setCopies l).subs = s.subs := rfl
@[simp] theorem setCopies_waits (s : State) (l : List Copy) : (s.setCopies l).waits = s.waits := rfl
@[simp] theorem setCopies_blocks (s : State) (l : List Copy) : (s.setCopies l).blocks = s.blocks := rfl
@[simp] theorem setCopies_launches (s : State) (l : List Copy) : (s.setCopies l).launches = s.launches := rfl
@[simp] theorem setCopies_sched (s : State) (l : List Copy) : (s.setCopies l).sched = s.sched := rfl
@[simp] theorem setCopies_mem (s : State) (l : List Copy) : (s.setCopies l).mem = s.mem := rfl
@[simp] theorem setCopies_eng (s : State) (l : List Copy) : (s.setCopies l).eng = s.eng := rfl
@[simp] theorem setCopies_fab (s : State) (l : List Copy) : (s.setCopies l).fab = s.fab := rfl
@[simp] theorem setCopies_sys (s : State) (l : List Copy) : (s.setCopies l).sys = s.sys := rfl

/-! ### State.setParks -/
@[simp] theorem setParks_cur (s : State) (l : List ParkRec) : (s.setParks l).cur = s.cur := rfl
@[simp] theorem setParks_due (s : State) (l : List ParkRec) : (s.setParks l).due = s.due := rfl
@[simp] theorem setParks_after (s : State) (l : List ParkRec) : (s.setParks l).after = s.after := rfl
@[simp] theorem setParks_free (s : State) (l : List ParkRec) : (s.setParks l).free = s.free := rfl
@[simp] theorem setParks_nextId (s : State) (l : List ParkRec) : (s.setParks l).nextId = s.nextId := rfl
@[simp] theorem setParks_clock (s : State) (l : List ParkRec) : (s.setParks l).clock = s.clock := rfl
@[simp] theorem setParks_cycle (s : State) (l : List ParkRec) : (s.setParks l).cycle = s.cycle := rfl
@[simp] theorem setParks_groups (s : State) (l : List ParkRec) : (s.setParks l).groups = s.groups := rfl
@[simp] theorem setParks_subs (s : State) (l : List ParkRec) : (s.setParks l).subs = s.subs := rfl
@[simp] theorem setParks_waits (s : State) (l : List ParkRec) : (s.setParks l).waits = s.waits := rfl
@[simp] theorem setParks_blocks (s : State) (l : List ParkRec) : (s.setParks l).blocks = s.blocks := rfl
@[simp] theorem setParks_launches (s : State) (l : List ParkRec) : (s.setParks l).launches = s.launches := rfl
@[simp] theorem setParks_sched (s : State) (l : List ParkRec) : (s.setParks l).sched = s.sched := rfl
@[simp] theorem setParks_mem (s : State) (l : List ParkRec) : (s.setParks l).mem = s.mem := rfl
@[simp] theorem setParks_eng (s : State) (l : List ParkRec) : (s.setParks l).eng = s.eng := rfl
@[simp] theorem setParks_fab (s : State) (l : List ParkRec) : (s.setParks l).fab = s.fab := rfl
@[simp] theorem setParks_sys (s : State) (l : List ParkRec) : (s.setParks l).sys = s.sys := rfl

/-! ### State.setCells -/
@[simp] theorem setCells_cur (s : State) (l : List TCell) : (s.setCells l).cur = s.cur := rfl
@[simp] theorem setCells_due (s : State) (l : List TCell) : (s.setCells l).due = s.due := rfl
@[simp] theorem setCells_after (s : State) (l : List TCell) : (s.setCells l).after = s.after := rfl
@[simp] theorem setCells_free (s : State) (l : List TCell) : (s.setCells l).free = s.free := rfl
@[simp] theorem setCells_nextId (s : State) (l : List TCell) : (s.setCells l).nextId = s.nextId := rfl
@[simp] theorem setCells_clock (s : State) (l : List TCell) : (s.setCells l).clock = s.clock := rfl
@[simp] theorem setCells_cycle (s : State) (l : List TCell) : (s.setCells l).cycle = s.cycle := rfl
@[simp] theorem setCells_groups (s : State) (l : List TCell) : (s.setCells l).groups = s.groups := rfl
@[simp] theorem setCells_subs (s : State) (l : List TCell) : (s.setCells l).subs = s.subs := rfl
@[simp] theorem setCells_waits (s : State) (l : List TCell) : (s.setCells l).waits = s.waits := rfl
@[simp] theorem setCells_blocks (s : State) (l : List TCell) : (s.setCells l).blocks = s.blocks := rfl
@[simp] theorem setCells_launches (s : State) (l : List TCell) : (s.setCells l).launches = s.launches := rfl
@[simp] theorem setCells_sched (s : State) (l : List TCell) : (s.setCells l).sched = s.sched := rfl
@[simp] theorem setCells_mem (s : State) (l : List TCell) : (s.setCells l).mem = s.mem := rfl
@[simp] theorem setCells_eng (s : State) (l : List TCell) : (s.setCells l).eng = s.eng := rfl
@[simp] theorem setCells_fab (s : State) (l : List TCell) : (s.setCells l).fab = s.fab := rfl
@[simp] theorem setCells_sys (s : State) (l : List TCell) : (s.setCells l).sys = s.sys := rfl

/-! ### State.setCurd -/
@[simp] theorem setCurd_cur (s : State) (l : List CurdWord) : (s.setCurd l).cur = s.cur := rfl
@[simp] theorem setCurd_due (s : State) (l : List CurdWord) : (s.setCurd l).due = s.due := rfl
@[simp] theorem setCurd_after (s : State) (l : List CurdWord) : (s.setCurd l).after = s.after := rfl
@[simp] theorem setCurd_free (s : State) (l : List CurdWord) : (s.setCurd l).free = s.free := rfl
@[simp] theorem setCurd_nextId (s : State) (l : List CurdWord) : (s.setCurd l).nextId = s.nextId := rfl
@[simp] theorem setCurd_clock (s : State) (l : List CurdWord) : (s.setCurd l).clock = s.clock := rfl
@[simp] theorem setCurd_cycle (s : State) (l : List CurdWord) : (s.setCurd l).cycle = s.cycle := rfl
@[simp] theorem setCurd_groups (s : State) (l : List CurdWord) : (s.setCurd l).groups = s.groups := rfl
@[simp] theorem setCurd_subs (s : State) (l : List CurdWord) : (s.setCurd l).subs = s.subs := rfl
@[simp] theorem setCurd_waits (s : State) (l : List CurdWord) : (s.setCurd l).waits = s.waits := rfl
@[simp] theorem setCurd_blocks (s : State) (l : List CurdWord) : (s.setCurd l).blocks = s.blocks := rfl
@[simp] theorem setCurd_launches (s : State) (l : List CurdWord) : (s.setCurd l).launches = s.launches := rfl
@[simp] theorem setCurd_sched (s : State) (l : List CurdWord) : (s.setCurd l).sched = s.sched := rfl
@[simp] theorem setCurd_mem (s : State) (l : List CurdWord) : (s.setCurd l).mem = s.mem := rfl
@[simp] theorem setCurd_eng (s : State) (l : List CurdWord) : (s.setCurd l).eng = s.eng := rfl
@[simp] theorem setCurd_fab (s : State) (l : List CurdWord) : (s.setCurd l).fab = s.fab := rfl
@[simp] theorem setCurd_sys (s : State) (l : List CurdWord) : (s.setCurd l).sys = s.sys := rfl

/-! ### State.setTlb -/
@[simp] theorem setTlb_cur (s : State) (l : List TlbEntry) : (s.setTlb l).cur = s.cur := rfl
@[simp] theorem setTlb_due (s : State) (l : List TlbEntry) : (s.setTlb l).due = s.due := rfl
@[simp] theorem setTlb_after (s : State) (l : List TlbEntry) : (s.setTlb l).after = s.after := rfl
@[simp] theorem setTlb_free (s : State) (l : List TlbEntry) : (s.setTlb l).free = s.free := rfl
@[simp] theorem setTlb_nextId (s : State) (l : List TlbEntry) : (s.setTlb l).nextId = s.nextId := rfl
@[simp] theorem setTlb_clock (s : State) (l : List TlbEntry) : (s.setTlb l).clock = s.clock := rfl
@[simp] theorem setTlb_cycle (s : State) (l : List TlbEntry) : (s.setTlb l).cycle = s.cycle := rfl
@[simp] theorem setTlb_groups (s : State) (l : List TlbEntry) : (s.setTlb l).groups = s.groups := rfl
@[simp] theorem setTlb_subs (s : State) (l : List TlbEntry) : (s.setTlb l).subs = s.subs := rfl
@[simp] theorem setTlb_waits (s : State) (l : List TlbEntry) : (s.setTlb l).waits = s.waits := rfl
@[simp] theorem setTlb_blocks (s : State) (l : List TlbEntry) : (s.setTlb l).blocks = s.blocks := rfl
@[simp] theorem setTlb_launches (s : State) (l : List TlbEntry) : (s.setTlb l).launches = s.launches := rfl
@[simp] theorem setTlb_sched (s : State) (l : List TlbEntry) : (s.setTlb l).sched = s.sched := rfl
@[simp] theorem setTlb_mem (s : State) (l : List TlbEntry) : (s.setTlb l).mem = s.mem := rfl
@[simp] theorem setTlb_eng (s : State) (l : List TlbEntry) : (s.setTlb l).eng = s.eng := rfl
@[simp] theorem setTlb_fab (s : State) (l : List TlbEntry) : (s.setTlb l).fab = s.fab := rfl
@[simp] theorem setTlb_sys (s : State) (l : List TlbEntry) : (s.setTlb l).sys = s.sys := rfl

/-! ### State.stamp -/
@[simp] theorem stamp_cur (s : State) (line : Nat) : (s.stamp line).cur = s.cur := rfl
@[simp] theorem stamp_due (s : State) (line : Nat) : (s.stamp line).due = s.due := rfl
@[simp] theorem stamp_after (s : State) (line : Nat) : (s.stamp line).after = s.after := rfl
@[simp] theorem stamp_free (s : State) (line : Nat) : (s.stamp line).free = s.free := rfl
@[simp] theorem stamp_nextId (s : State) (line : Nat) : (s.stamp line).nextId = s.nextId := rfl
@[simp] theorem stamp_clock (s : State) (line : Nat) : (s.stamp line).clock = s.clock := rfl
@[simp] theorem stamp_cycle (s : State) (line : Nat) : (s.stamp line).cycle = s.cycle := rfl
@[simp] theorem stamp_groups (s : State) (line : Nat) : (s.stamp line).groups = s.groups := rfl
@[simp] theorem stamp_subs (s : State) (line : Nat) : (s.stamp line).subs = s.subs := rfl
@[simp] theorem stamp_waits (s : State) (line : Nat) : (s.stamp line).waits = s.waits := rfl
@[simp] theorem stamp_blocks (s : State) (line : Nat) : (s.stamp line).blocks = s.blocks := rfl
@[simp] theorem stamp_launches (s : State) (line : Nat) : (s.stamp line).launches = s.launches := rfl
@[simp] theorem stamp_sched (s : State) (line : Nat) : (s.stamp line).sched = s.sched := rfl
@[simp] theorem stamp_mem (s : State) (line : Nat) : (s.stamp line).mem = s.mem := rfl
@[simp] theorem stamp_eng (s : State) (line : Nat) : (s.stamp line).eng = s.eng := rfl
@[simp] theorem stamp_fab (s : State) (line : Nat) : (s.stamp line).fab = s.fab := rfl
@[simp] theorem stamp_sys (s : State) (line : Nat) : (s.stamp line).sys = s.sys := rfl

/-! ### State.overtake -/
@[simp] theorem overtake_cur (s : State) (gid lane reg : Nat) : (s.overtake gid lane reg).cur = s.cur := rfl
@[simp] theorem overtake_due (s : State) (gid lane reg : Nat) : (s.overtake gid lane reg).due = s.due := rfl
@[simp] theorem overtake_after (s : State) (gid lane reg : Nat) : (s.overtake gid lane reg).after = s.after := rfl
@[simp] theorem overtake_free (s : State) (gid lane reg : Nat) : (s.overtake gid lane reg).free = s.free := rfl
@[simp] theorem overtake_nextId (s : State) (gid lane reg : Nat) : (s.overtake gid lane reg).nextId = s.nextId := rfl
@[simp] theorem overtake_clock (s : State) (gid lane reg : Nat) : (s.overtake gid lane reg).clock = s.clock := rfl
@[simp] theorem overtake_cycle (s : State) (gid lane reg : Nat) : (s.overtake gid lane reg).cycle = s.cycle := rfl
@[simp] theorem overtake_groups (s : State) (gid lane reg : Nat) : (s.overtake gid lane reg).groups = s.groups := rfl
@[simp] theorem overtake_subs (s : State) (gid lane reg : Nat) : (s.overtake gid lane reg).subs = s.subs := rfl
@[simp] theorem overtake_waits (s : State) (gid lane reg : Nat) : (s.overtake gid lane reg).waits = s.waits := rfl
@[simp] theorem overtake_blocks (s : State) (gid lane reg : Nat) : (s.overtake gid lane reg).blocks = s.blocks := rfl
@[simp] theorem overtake_launches (s : State) (gid lane reg : Nat) : (s.overtake gid lane reg).launches = s.launches := rfl
@[simp] theorem overtake_sched (s : State) (gid lane reg : Nat) : (s.overtake gid lane reg).sched = s.sched := rfl
@[simp] theorem overtake_mem (s : State) (gid lane reg : Nat) : (s.overtake gid lane reg).mem = s.mem := rfl
@[simp] theorem overtake_eng (s : State) (gid lane reg : Nat) : (s.overtake gid lane reg).eng = s.eng := rfl
@[simp] theorem overtake_fab (s : State) (gid lane reg : Nat) : (s.overtake gid lane reg).fab = s.fab := rfl
@[simp] theorem overtake_sys (s : State) (gid lane reg : Nat) : (s.overtake gid lane reg).sys = s.sys := rfl

/-! ### State.setCsr -/
@[simp] theorem setCsr_cur (s : State) (k : Nat) (x : DWord) : (s.setCsr k x).cur = s.cur := rfl
@[simp] theorem setCsr_due (s : State) (k : Nat) (x : DWord) : (s.setCsr k x).due = s.due := rfl
@[simp] theorem setCsr_after (s : State) (k : Nat) (x : DWord) : (s.setCsr k x).after = s.after := rfl
@[simp] theorem setCsr_free (s : State) (k : Nat) (x : DWord) : (s.setCsr k x).free = s.free := rfl
@[simp] theorem setCsr_nextId (s : State) (k : Nat) (x : DWord) : (s.setCsr k x).nextId = s.nextId := rfl
@[simp] theorem setCsr_clock (s : State) (k : Nat) (x : DWord) : (s.setCsr k x).clock = s.clock := rfl
@[simp] theorem setCsr_cycle (s : State) (k : Nat) (x : DWord) : (s.setCsr k x).cycle = s.cycle := rfl
@[simp] theorem setCsr_groups (s : State) (k : Nat) (x : DWord) : (s.setCsr k x).groups = s.groups := rfl
@[simp] theorem setCsr_subs (s : State) (k : Nat) (x : DWord) : (s.setCsr k x).subs = s.subs := rfl
@[simp] theorem setCsr_waits (s : State) (k : Nat) (x : DWord) : (s.setCsr k x).waits = s.waits := rfl
@[simp] theorem setCsr_blocks (s : State) (k : Nat) (x : DWord) : (s.setCsr k x).blocks = s.blocks := rfl
@[simp] theorem setCsr_launches (s : State) (k : Nat) (x : DWord) : (s.setCsr k x).launches = s.launches := rfl
@[simp] theorem setCsr_sched (s : State) (k : Nat) (x : DWord) : (s.setCsr k x).sched = s.sched := rfl
@[simp] theorem setCsr_mem (s : State) (k : Nat) (x : DWord) : (s.setCsr k x).mem = s.mem := rfl
@[simp] theorem setCsr_ms (s : State) (k : Nat) (x : DWord) : (s.setCsr k x).ms = s.ms := rfl
@[simp] theorem setCsr_eng (s : State) (k : Nat) (x : DWord) : (s.setCsr k x).eng = s.eng := rfl
@[simp] theorem setCsr_fab (s : State) (k : Nat) (x : DWord) : (s.setCsr k x).fab = s.fab := rfl

/-! ### State.count -/
@[simp] theorem count_cur (s : State) (k : Nat) : (s.count k).cur = s.cur := rfl
@[simp] theorem count_due (s : State) (k : Nat) : (s.count k).due = s.due := rfl
@[simp] theorem count_after (s : State) (k : Nat) : (s.count k).after = s.after := rfl
@[simp] theorem count_free (s : State) (k : Nat) : (s.count k).free = s.free := rfl
@[simp] theorem count_nextId (s : State) (k : Nat) : (s.count k).nextId = s.nextId := rfl
@[simp] theorem count_clock (s : State) (k : Nat) : (s.count k).clock = s.clock := rfl
@[simp] theorem count_cycle (s : State) (k : Nat) : (s.count k).cycle = s.cycle := rfl
@[simp] theorem count_groups (s : State) (k : Nat) : (s.count k).groups = s.groups := rfl
@[simp] theorem count_subs (s : State) (k : Nat) : (s.count k).subs = s.subs := rfl
@[simp] theorem count_waits (s : State) (k : Nat) : (s.count k).waits = s.waits := rfl
@[simp] theorem count_blocks (s : State) (k : Nat) : (s.count k).blocks = s.blocks := rfl
@[simp] theorem count_launches (s : State) (k : Nat) : (s.count k).launches = s.launches := rfl
@[simp] theorem count_sched (s : State) (k : Nat) : (s.count k).sched = s.sched := rfl
@[simp] theorem count_mem (s : State) (k : Nat) : (s.count k).mem = s.mem := rfl
@[simp] theorem count_ms (s : State) (k : Nat) : (s.count k).ms = s.ms := rfl
@[simp] theorem count_eng (s : State) (k : Nat) : (s.count k).eng = s.eng := rfl
@[simp] theorem count_fab (s : State) (k : Nat) : (s.count k).fab = s.fab := rfl

/-! ### State.send -/
@[simp] theorem send_cur (s : State) (i : Instr) : (s.send i).cur = s.cur := rfl
@[simp] theorem send_after (s : State) (i : Instr) : (s.send i).after = s.after := rfl
@[simp] theorem send_free (s : State) (i : Instr) : (s.send i).free = s.free := rfl
@[simp] theorem send_nextId (s : State) (i : Instr) : (s.send i).nextId = s.nextId := rfl
@[simp] theorem send_clock (s : State) (i : Instr) : (s.send i).clock = s.clock := rfl
@[simp] theorem send_cycle (s : State) (i : Instr) : (s.send i).cycle = s.cycle := rfl
@[simp] theorem send_groups (s : State) (i : Instr) : (s.send i).groups = s.groups := rfl
@[simp] theorem send_subs (s : State) (i : Instr) : (s.send i).subs = s.subs := rfl
@[simp] theorem send_waits (s : State) (i : Instr) : (s.send i).waits = s.waits := rfl
@[simp] theorem send_blocks (s : State) (i : Instr) : (s.send i).blocks = s.blocks := rfl
@[simp] theorem send_launches (s : State) (i : Instr) : (s.send i).launches = s.launches := rfl
@[simp] theorem send_sched (s : State) (i : Instr) : (s.send i).sched = s.sched := rfl
@[simp] theorem send_mem (s : State) (i : Instr) : (s.send i).mem = s.mem := rfl
@[simp] theorem send_ms (s : State) (i : Instr) : (s.send i).ms = s.ms := rfl
@[simp] theorem send_eng (s : State) (i : Instr) : (s.send i).eng = s.eng := rfl
@[simp] theorem send_fab (s : State) (i : Instr) : (s.send i).fab = s.fab := rfl
@[simp] theorem send_sys (s : State) (i : Instr) : (s.send i).sys = s.sys := rfl

/-! ### State.dropWrites -/
@[simp] theorem dropWrites_cur (s : State) (gid : Nat) (f : Ret → RegWrite → Bool) : (s.dropWrites gid f).cur = s.cur := rfl
@[simp] theorem dropWrites_after (s : State) (gid : Nat) (f : Ret → RegWrite → Bool) : (s.dropWrites gid f).after = s.after := rfl
@[simp] theorem dropWrites_free (s : State) (gid : Nat) (f : Ret → RegWrite → Bool) : (s.dropWrites gid f).free = s.free := rfl
@[simp] theorem dropWrites_nextId (s : State) (gid : Nat) (f : Ret → RegWrite → Bool) : (s.dropWrites gid f).nextId = s.nextId := rfl
@[simp] theorem dropWrites_clock (s : State) (gid : Nat) (f : Ret → RegWrite → Bool) : (s.dropWrites gid f).clock = s.clock := rfl
@[simp] theorem dropWrites_cycle (s : State) (gid : Nat) (f : Ret → RegWrite → Bool) : (s.dropWrites gid f).cycle = s.cycle := rfl
@[simp] theorem dropWrites_groups (s : State) (gid : Nat) (f : Ret → RegWrite → Bool) : (s.dropWrites gid f).groups = s.groups := rfl
@[simp] theorem dropWrites_subs (s : State) (gid : Nat) (f : Ret → RegWrite → Bool) : (s.dropWrites gid f).subs = s.subs := rfl
@[simp] theorem dropWrites_waits (s : State) (gid : Nat) (f : Ret → RegWrite → Bool) : (s.dropWrites gid f).waits = s.waits := rfl
@[simp] theorem dropWrites_blocks (s : State) (gid : Nat) (f : Ret → RegWrite → Bool) : (s.dropWrites gid f).blocks = s.blocks := rfl
@[simp] theorem dropWrites_launches (s : State) (gid : Nat) (f : Ret → RegWrite → Bool) : (s.dropWrites gid f).launches = s.launches := rfl
@[simp] theorem dropWrites_sched (s : State) (gid : Nat) (f : Ret → RegWrite → Bool) : (s.dropWrites gid f).sched = s.sched := rfl
@[simp] theorem dropWrites_mem (s : State) (gid : Nat) (f : Ret → RegWrite → Bool) : (s.dropWrites gid f).mem = s.mem := rfl
@[simp] theorem dropWrites_ms (s : State) (gid : Nat) (f : Ret → RegWrite → Bool) : (s.dropWrites gid f).ms = s.ms := rfl
@[simp] theorem dropWrites_eng (s : State) (gid : Nat) (f : Ret → RegWrite → Bool) : (s.dropWrites gid f).eng = s.eng := rfl
@[simp] theorem dropWrites_fab (s : State) (gid : Nat) (f : Ret → RegWrite → Bool) : (s.dropWrites gid f).fab = s.fab := rfl
@[simp] theorem dropWrites_sys (s : State) (gid : Nat) (f : Ret → RegWrite → Bool) : (s.dropWrites gid f).sys = s.sys := rfl

/-! ### State.whenDone -/
@[simp] theorem whenDone_cur (s : State) (id : Nat) (k : AfterKind) : (s.whenDone id k).cur = s.cur := rfl
@[simp] theorem whenDone_due (s : State) (id : Nat) (k : AfterKind) : (s.whenDone id k).due = s.due := rfl
@[simp] theorem whenDone_free (s : State) (id : Nat) (k : AfterKind) : (s.whenDone id k).free = s.free := rfl
@[simp] theorem whenDone_nextId (s : State) (id : Nat) (k : AfterKind) : (s.whenDone id k).nextId = s.nextId := rfl
@[simp] theorem whenDone_clock (s : State) (id : Nat) (k : AfterKind) : (s.whenDone id k).clock = s.clock := rfl
@[simp] theorem whenDone_cycle (s : State) (id : Nat) (k : AfterKind) : (s.whenDone id k).cycle = s.cycle := rfl
@[simp] theorem whenDone_groups (s : State) (id : Nat) (k : AfterKind) : (s.whenDone id k).groups = s.groups := rfl
@[simp] theorem whenDone_subs (s : State) (id : Nat) (k : AfterKind) : (s.whenDone id k).subs = s.subs := rfl
@[simp] theorem whenDone_waits (s : State) (id : Nat) (k : AfterKind) : (s.whenDone id k).waits = s.waits := rfl
@[simp] theorem whenDone_blocks (s : State) (id : Nat) (k : AfterKind) : (s.whenDone id k).blocks = s.blocks := rfl
@[simp] theorem whenDone_launches (s : State) (id : Nat) (k : AfterKind) : (s.whenDone id k).launches = s.launches := rfl
@[simp] theorem whenDone_sched (s : State) (id : Nat) (k : AfterKind) : (s.whenDone id k).sched = s.sched := rfl
@[simp] theorem whenDone_mem (s : State) (id : Nat) (k : AfterKind) : (s.whenDone id k).mem = s.mem := rfl
@[simp] theorem whenDone_ms (s : State) (id : Nat) (k : AfterKind) : (s.whenDone id k).ms = s.ms := rfl
@[simp] theorem whenDone_eng (s : State) (id : Nat) (k : AfterKind) : (s.whenDone id k).eng = s.eng := rfl
@[simp] theorem whenDone_fab (s : State) (id : Nat) (k : AfterKind) : (s.whenDone id k).fab = s.fab := rfl
@[simp] theorem whenDone_sys (s : State) (id : Nat) (k : AfterKind) : (s.whenDone id k).sys = s.sys := rfl

/-! ### State.setSlot -/
@[simp] theorem setSlot_cur (s : State) (unit : Nat) (isB : Bool) (p : Option SlotPc) : (s.setSlot unit isB p).cur = s.cur := rfl
@[simp] theorem setSlot_due (s : State) (unit : Nat) (isB : Bool) (p : Option SlotPc) : (s.setSlot unit isB p).due = s.due := rfl
@[simp] theorem setSlot_after (s : State) (unit : Nat) (isB : Bool) (p : Option SlotPc) : (s.setSlot unit isB p).after = s.after := rfl
@[simp] theorem setSlot_free (s : State) (unit : Nat) (isB : Bool) (p : Option SlotPc) : (s.setSlot unit isB p).free = s.free := rfl
@[simp] theorem setSlot_nextId (s : State) (unit : Nat) (isB : Bool) (p : Option SlotPc) : (s.setSlot unit isB p).nextId = s.nextId := rfl
@[simp] theorem setSlot_clock (s : State) (unit : Nat) (isB : Bool) (p : Option SlotPc) : (s.setSlot unit isB p).clock = s.clock := rfl
@[simp] theorem setSlot_cycle (s : State) (unit : Nat) (isB : Bool) (p : Option SlotPc) : (s.setSlot unit isB p).cycle = s.cycle := rfl
@[simp] theorem setSlot_groups (s : State) (unit : Nat) (isB : Bool) (p : Option SlotPc) : (s.setSlot unit isB p).groups = s.groups := rfl
@[simp] theorem setSlot_waits (s : State) (unit : Nat) (isB : Bool) (p : Option SlotPc) : (s.setSlot unit isB p).waits = s.waits := rfl
@[simp] theorem setSlot_blocks (s : State) (unit : Nat) (isB : Bool) (p : Option SlotPc) : (s.setSlot unit isB p).blocks = s.blocks := rfl
@[simp] theorem setSlot_launches (s : State) (unit : Nat) (isB : Bool) (p : Option SlotPc) : (s.setSlot unit isB p).launches = s.launches := rfl
@[simp] theorem setSlot_sched (s : State) (unit : Nat) (isB : Bool) (p : Option SlotPc) : (s.setSlot unit isB p).sched = s.sched := rfl
@[simp] theorem setSlot_mem (s : State) (unit : Nat) (isB : Bool) (p : Option SlotPc) : (s.setSlot unit isB p).mem = s.mem := rfl
@[simp] theorem setSlot_ms (s : State) (unit : Nat) (isB : Bool) (p : Option SlotPc) : (s.setSlot unit isB p).ms = s.ms := rfl
@[simp] theorem setSlot_eng (s : State) (unit : Nat) (isB : Bool) (p : Option SlotPc) : (s.setSlot unit isB p).eng = s.eng := rfl
@[simp] theorem setSlot_fab (s : State) (unit : Nat) (isB : Bool) (p : Option SlotPc) : (s.setSlot unit isB p).fab = s.fab := rfl
@[simp] theorem setSlot_sys (s : State) (unit : Nat) (isB : Bool) (p : Option SlotPc) : (s.setSlot unit isB p).sys = s.sys := rfl

/-! ### State.setSlots -/
@[simp] theorem setSlots_cur (s : State) (unit : Nat) (k : SubCore) : (s.setSlots unit k).cur = s.cur := rfl
@[simp] theorem setSlots_due (s : State) (unit : Nat) (k : SubCore) : (s.setSlots unit k).due = s.due := rfl
@[simp] theorem setSlots_after (s : State) (unit : Nat) (k : SubCore) : (s.setSlots unit k).after = s.after := rfl
@[simp] theorem setSlots_free (s : State) (unit : Nat) (k : SubCore) : (s.setSlots unit k).free = s.free := rfl
@[simp] theorem setSlots_nextId (s : State) (unit : Nat) (k : SubCore) : (s.setSlots unit k).nextId = s.nextId := rfl
@[simp] theorem setSlots_clock (s : State) (unit : Nat) (k : SubCore) : (s.setSlots unit k).clock = s.clock := rfl
@[simp] theorem setSlots_cycle (s : State) (unit : Nat) (k : SubCore) : (s.setSlots unit k).cycle = s.cycle := rfl
@[simp] theorem setSlots_groups (s : State) (unit : Nat) (k : SubCore) : (s.setSlots unit k).groups = s.groups := rfl
@[simp] theorem setSlots_waits (s : State) (unit : Nat) (k : SubCore) : (s.setSlots unit k).waits = s.waits := rfl
@[simp] theorem setSlots_blocks (s : State) (unit : Nat) (k : SubCore) : (s.setSlots unit k).blocks = s.blocks := rfl
@[simp] theorem setSlots_launches (s : State) (unit : Nat) (k : SubCore) : (s.setSlots unit k).launches = s.launches := rfl
@[simp] theorem setSlots_sched (s : State) (unit : Nat) (k : SubCore) : (s.setSlots unit k).sched = s.sched := rfl
@[simp] theorem setSlots_mem (s : State) (unit : Nat) (k : SubCore) : (s.setSlots unit k).mem = s.mem := rfl
@[simp] theorem setSlots_ms (s : State) (unit : Nat) (k : SubCore) : (s.setSlots unit k).ms = s.ms := rfl
@[simp] theorem setSlots_eng (s : State) (unit : Nat) (k : SubCore) : (s.setSlots unit k).eng = s.eng := rfl
@[simp] theorem setSlots_fab (s : State) (unit : Nat) (k : SubCore) : (s.setSlots unit k).fab = s.fab := rfl
@[simp] theorem setSlots_sys (s : State) (unit : Nat) (k : SubCore) : (s.setSlots unit k).sys = s.sys := rfl

/-! ### State.dropHost -/
@[simp] theorem dropHost_cur (s : State) (lid span : Nat) : (s.dropHost lid span).cur = s.cur := rfl
@[simp] theorem dropHost_due (s : State) (lid span : Nat) : (s.dropHost lid span).due = s.due := rfl
@[simp] theorem dropHost_after (s : State) (lid span : Nat) : (s.dropHost lid span).after = s.after := rfl
@[simp] theorem dropHost_free (s : State) (lid span : Nat) : (s.dropHost lid span).free = s.free := rfl
@[simp] theorem dropHost_nextId (s : State) (lid span : Nat) : (s.dropHost lid span).nextId = s.nextId := rfl
@[simp] theorem dropHost_clock (s : State) (lid span : Nat) : (s.dropHost lid span).clock = s.clock := rfl
@[simp] theorem dropHost_cycle (s : State) (lid span : Nat) : (s.dropHost lid span).cycle = s.cycle := rfl
@[simp] theorem dropHost_groups (s : State) (lid span : Nat) : (s.dropHost lid span).groups = s.groups := rfl
@[simp] theorem dropHost_subs (s : State) (lid span : Nat) : (s.dropHost lid span).subs = s.subs := rfl
@[simp] theorem dropHost_waits (s : State) (lid span : Nat) : (s.dropHost lid span).waits = s.waits := rfl
@[simp] theorem dropHost_blocks (s : State) (lid span : Nat) : (s.dropHost lid span).blocks = s.blocks := rfl
@[simp] theorem dropHost_launches (s : State) (lid span : Nat) : (s.dropHost lid span).launches = s.launches := rfl
@[simp] theorem dropHost_mem (s : State) (lid span : Nat) : (s.dropHost lid span).mem = s.mem := rfl
@[simp] theorem dropHost_ms (s : State) (lid span : Nat) : (s.dropHost lid span).ms = s.ms := rfl
@[simp] theorem dropHost_eng (s : State) (lid span : Nat) : (s.dropHost lid span).eng = s.eng := rfl
@[simp] theorem dropHost_fab (s : State) (lid span : Nat) : (s.dropHost lid span).fab = s.fab := rfl
@[simp] theorem dropHost_sys (s : State) (lid span : Nat) : (s.dropHost lid span).sys = s.sys := rfl

/-! ### State.setHost -/
@[simp] theorem setHost_cur (s : State) (lid span core : Nat) : (s.setHost lid span core).cur = s.cur := rfl
@[simp] theorem setHost_due (s : State) (lid span core : Nat) : (s.setHost lid span core).due = s.due := rfl
@[simp] theorem setHost_after (s : State) (lid span core : Nat) : (s.setHost lid span core).after = s.after := rfl
@[simp] theorem setHost_free (s : State) (lid span core : Nat) : (s.setHost lid span core).free = s.free := rfl
@[simp] theorem setHost_nextId (s : State) (lid span core : Nat) : (s.setHost lid span core).nextId = s.nextId := rfl
@[simp] theorem setHost_clock (s : State) (lid span core : Nat) : (s.setHost lid span core).clock = s.clock := rfl
@[simp] theorem setHost_cycle (s : State) (lid span core : Nat) : (s.setHost lid span core).cycle = s.cycle := rfl
@[simp] theorem setHost_groups (s : State) (lid span core : Nat) : (s.setHost lid span core).groups = s.groups := rfl
@[simp] theorem setHost_subs (s : State) (lid span core : Nat) : (s.setHost lid span core).subs = s.subs := rfl
@[simp] theorem setHost_waits (s : State) (lid span core : Nat) : (s.setHost lid span core).waits = s.waits := rfl
@[simp] theorem setHost_blocks (s : State) (lid span core : Nat) : (s.setHost lid span core).blocks = s.blocks := rfl
@[simp] theorem setHost_launches (s : State) (lid span core : Nat) : (s.setHost lid span core).launches = s.launches := rfl
@[simp] theorem setHost_mem (s : State) (lid span core : Nat) : (s.setHost lid span core).mem = s.mem := rfl
@[simp] theorem setHost_ms (s : State) (lid span core : Nat) : (s.setHost lid span core).ms = s.ms := rfl
@[simp] theorem setHost_eng (s : State) (lid span core : Nat) : (s.setHost lid span core).eng = s.eng := rfl
@[simp] theorem setHost_fab (s : State) (lid span core : Nat) : (s.setHost lid span core).fab = s.fab := rfl
@[simp] theorem setHost_sys (s : State) (lid span core : Nat) : (s.setHost lid span core).sys = s.sys := rfl

/-! ### State.setQueue -/
@[simp] theorem setQueue_cur (s : State) (x : TaskQueue) : (s.setQueue x).cur = s.cur := rfl
@[simp] theorem setQueue_due (s : State) (x : TaskQueue) : (s.setQueue x).due = s.due := rfl
@[simp] theorem setQueue_after (s : State) (x : TaskQueue) : (s.setQueue x).after = s.after := rfl
@[simp] theorem setQueue_free (s : State) (x : TaskQueue) : (s.setQueue x).free = s.free := rfl
@[simp] theorem setQueue_nextId (s : State) (x : TaskQueue) : (s.setQueue x).nextId = s.nextId := rfl
@[simp] theorem setQueue_clock (s : State) (x : TaskQueue) : (s.setQueue x).clock = s.clock := rfl
@[simp] theorem setQueue_cycle (s : State) (x : TaskQueue) : (s.setQueue x).cycle = s.cycle := rfl
@[simp] theorem setQueue_groups (s : State) (x : TaskQueue) : (s.setQueue x).groups = s.groups := rfl
@[simp] theorem setQueue_subs (s : State) (x : TaskQueue) : (s.setQueue x).subs = s.subs := rfl
@[simp] theorem setQueue_waits (s : State) (x : TaskQueue) : (s.setQueue x).waits = s.waits := rfl
@[simp] theorem setQueue_blocks (s : State) (x : TaskQueue) : (s.setQueue x).blocks = s.blocks := rfl
@[simp] theorem setQueue_launches (s : State) (x : TaskQueue) : (s.setQueue x).launches = s.launches := rfl
@[simp] theorem setQueue_mem (s : State) (x : TaskQueue) : (s.setQueue x).mem = s.mem := rfl
@[simp] theorem setQueue_ms (s : State) (x : TaskQueue) : (s.setQueue x).ms = s.ms := rfl
@[simp] theorem setQueue_eng (s : State) (x : TaskQueue) : (s.setQueue x).eng = s.eng := rfl
@[simp] theorem setQueue_fab (s : State) (x : TaskQueue) : (s.setQueue x).fab = s.fab := rfl
@[simp] theorem setQueue_sys (s : State) (x : TaskQueue) : (s.setQueue x).sys = s.sys := rfl

/-! ### State.newId -/
@[simp] theorem newId_cur (s : State) : (s.newId).cur = s.cur := rfl
@[simp] theorem newId_due (s : State) : (s.newId).due = s.due := rfl
@[simp] theorem newId_after (s : State) : (s.newId).after = s.after := rfl
@[simp] theorem newId_free (s : State) : (s.newId).free = s.free := rfl
@[simp] theorem newId_clock (s : State) : (s.newId).clock = s.clock := rfl
@[simp] theorem newId_cycle (s : State) : (s.newId).cycle = s.cycle := rfl
@[simp] theorem newId_groups (s : State) : (s.newId).groups = s.groups := rfl
@[simp] theorem newId_subs (s : State) : (s.newId).subs = s.subs := rfl
@[simp] theorem newId_waits (s : State) : (s.newId).waits = s.waits := rfl
@[simp] theorem newId_blocks (s : State) : (s.newId).blocks = s.blocks := rfl
@[simp] theorem newId_launches (s : State) : (s.newId).launches = s.launches := rfl
@[simp] theorem newId_sched (s : State) : (s.newId).sched = s.sched := rfl
@[simp] theorem newId_mem (s : State) : (s.newId).mem = s.mem := rfl
@[simp] theorem newId_ms (s : State) : (s.newId).ms = s.ms := rfl
@[simp] theorem newId_eng (s : State) : (s.newId).eng = s.eng := rfl
@[simp] theorem newId_fab (s : State) : (s.newId).fab = s.fab := rfl
@[simp] theorem newId_sys (s : State) : (s.newId).sys = s.sys := rfl

/-! ### State.emitOut -/
@[simp] theorem emitOut_cur (s : State) (o : Out) : (s.emitOut o).cur = s.cur := rfl
@[simp] theorem emitOut_due (s : State) (o : Out) : (s.emitOut o).due = s.due := rfl
@[simp] theorem emitOut_after (s : State) (o : Out) : (s.emitOut o).after = s.after := rfl
@[simp] theorem emitOut_free (s : State) (o : Out) : (s.emitOut o).free = s.free := rfl
@[simp] theorem emitOut_nextId (s : State) (o : Out) : (s.emitOut o).nextId = s.nextId := rfl
@[simp] theorem emitOut_clock (s : State) (o : Out) : (s.emitOut o).clock = s.clock := rfl
@[simp] theorem emitOut_cycle (s : State) (o : Out) : (s.emitOut o).cycle = s.cycle := rfl
@[simp] theorem emitOut_groups (s : State) (o : Out) : (s.emitOut o).groups = s.groups := rfl
@[simp] theorem emitOut_subs (s : State) (o : Out) : (s.emitOut o).subs = s.subs := rfl
@[simp] theorem emitOut_waits (s : State) (o : Out) : (s.emitOut o).waits = s.waits := rfl
@[simp] theorem emitOut_blocks (s : State) (o : Out) : (s.emitOut o).blocks = s.blocks := rfl
@[simp] theorem emitOut_launches (s : State) (o : Out) : (s.emitOut o).launches = s.launches := rfl
@[simp] theorem emitOut_sched (s : State) (o : Out) : (s.emitOut o).sched = s.sched := rfl
@[simp] theorem emitOut_mem (s : State) (o : Out) : (s.emitOut o).mem = s.mem := rfl
@[simp] theorem emitOut_ms (s : State) (o : Out) : (s.emitOut o).ms = s.ms := rfl
@[simp] theorem emitOut_eng (s : State) (o : Out) : (s.emitOut o).eng = s.eng := rfl
@[simp] theorem emitOut_fab (s : State) (o : Out) : (s.emitOut o).fab = s.fab := rfl

/-! ### State.setLink -/
@[simp] theorem setLink_cur (s : State) (x : Link) : (s.setLink x).cur = s.cur := rfl
@[simp] theorem setLink_due (s : State) (x : Link) : (s.setLink x).due = s.due := rfl
@[simp] theorem setLink_after (s : State) (x : Link) : (s.setLink x).after = s.after := rfl
@[simp] theorem setLink_free (s : State) (x : Link) : (s.setLink x).free = s.free := rfl
@[simp] theorem setLink_nextId (s : State) (x : Link) : (s.setLink x).nextId = s.nextId := rfl
@[simp] theorem setLink_clock (s : State) (x : Link) : (s.setLink x).clock = s.clock := rfl
@[simp] theorem setLink_cycle (s : State) (x : Link) : (s.setLink x).cycle = s.cycle := rfl
@[simp] theorem setLink_groups (s : State) (x : Link) : (s.setLink x).groups = s.groups := rfl
@[simp] theorem setLink_subs (s : State) (x : Link) : (s.setLink x).subs = s.subs := rfl
@[simp] theorem setLink_waits (s : State) (x : Link) : (s.setLink x).waits = s.waits := rfl
@[simp] theorem setLink_blocks (s : State) (x : Link) : (s.setLink x).blocks = s.blocks := rfl
@[simp] theorem setLink_launches (s : State) (x : Link) : (s.setLink x).launches = s.launches := rfl
@[simp] theorem setLink_sched (s : State) (x : Link) : (s.setLink x).sched = s.sched := rfl
@[simp] theorem setLink_mem (s : State) (x : Link) : (s.setLink x).mem = s.mem := rfl
@[simp] theorem setLink_ms (s : State) (x : Link) : (s.setLink x).ms = s.ms := rfl
@[simp] theorem setLink_eng (s : State) (x : Link) : (s.setLink x).eng = s.eng := rfl
@[simp] theorem setLink_sys (s : State) (x : Link) : (s.setLink x).sys = s.sys := rfl

/-! ### State.modLink -/
@[simp] theorem modLink_cur (s : State) (p : Nat) (f : Link → Link) : (s.modLink p f).cur = s.cur := rfl
@[simp] theorem modLink_due (s : State) (p : Nat) (f : Link → Link) : (s.modLink p f).due = s.due := rfl
@[simp] theorem modLink_after (s : State) (p : Nat) (f : Link → Link) : (s.modLink p f).after = s.after := rfl
@[simp] theorem modLink_free (s : State) (p : Nat) (f : Link → Link) : (s.modLink p f).free = s.free := rfl
@[simp] theorem modLink_nextId (s : State) (p : Nat) (f : Link → Link) : (s.modLink p f).nextId = s.nextId := rfl
@[simp] theorem modLink_clock (s : State) (p : Nat) (f : Link → Link) : (s.modLink p f).clock = s.clock := rfl
@[simp] theorem modLink_cycle (s : State) (p : Nat) (f : Link → Link) : (s.modLink p f).cycle = s.cycle := rfl
@[simp] theorem modLink_groups (s : State) (p : Nat) (f : Link → Link) : (s.modLink p f).groups = s.groups := rfl
@[simp] theorem modLink_subs (s : State) (p : Nat) (f : Link → Link) : (s.modLink p f).subs = s.subs := rfl
@[simp] theorem modLink_waits (s : State) (p : Nat) (f : Link → Link) : (s.modLink p f).waits = s.waits := rfl
@[simp] theorem modLink_blocks (s : State) (p : Nat) (f : Link → Link) : (s.modLink p f).blocks = s.blocks := rfl
@[simp] theorem modLink_launches (s : State) (p : Nat) (f : Link → Link) : (s.modLink p f).launches = s.launches := rfl
@[simp] theorem modLink_sched (s : State) (p : Nat) (f : Link → Link) : (s.modLink p f).sched = s.sched := rfl
@[simp] theorem modLink_mem (s : State) (p : Nat) (f : Link → Link) : (s.modLink p f).mem = s.mem := rfl
@[simp] theorem modLink_ms (s : State) (p : Nat) (f : Link → Link) : (s.modLink p f).ms = s.ms := rfl
@[simp] theorem modLink_eng (s : State) (p : Nat) (f : Link → Link) : (s.modLink p f).eng = s.eng := rfl
@[simp] theorem modLink_sys (s : State) (p : Nat) (f : Link → Link) : (s.modLink p f).sys = s.sys := rfl

/-! ### State.setLnk -/
@[simp] theorem setLnk_cur (s : State) (p st : Nat) : (s.setLnk p st).cur = s.cur := rfl
@[simp] theorem setLnk_due (s : State) (p st : Nat) : (s.setLnk p st).due = s.due := rfl
@[simp] theorem setLnk_after (s : State) (p st : Nat) : (s.setLnk p st).after = s.after := rfl
@[simp] theorem setLnk_free (s : State) (p st : Nat) : (s.setLnk p st).free = s.free := rfl
@[simp] theorem setLnk_nextId (s : State) (p st : Nat) : (s.setLnk p st).nextId = s.nextId := rfl
@[simp] theorem setLnk_clock (s : State) (p st : Nat) : (s.setLnk p st).clock = s.clock := rfl
@[simp] theorem setLnk_cycle (s : State) (p st : Nat) : (s.setLnk p st).cycle = s.cycle := rfl
@[simp] theorem setLnk_groups (s : State) (p st : Nat) : (s.setLnk p st).groups = s.groups := rfl
@[simp] theorem setLnk_subs (s : State) (p st : Nat) : (s.setLnk p st).subs = s.subs := rfl
@[simp] theorem setLnk_waits (s : State) (p st : Nat) : (s.setLnk p st).waits = s.waits := rfl
@[simp] theorem setLnk_blocks (s : State) (p st : Nat) : (s.setLnk p st).blocks = s.blocks := rfl
@[simp] theorem setLnk_launches (s : State) (p st : Nat) : (s.setLnk p st).launches = s.launches := rfl
@[simp] theorem setLnk_sched (s : State) (p st : Nat) : (s.setLnk p st).sched = s.sched := rfl
@[simp] theorem setLnk_mem (s : State) (p st : Nat) : (s.setLnk p st).mem = s.mem := rfl
@[simp] theorem setLnk_ms (s : State) (p st : Nat) : (s.setLnk p st).ms = s.ms := rfl
@[simp] theorem setLnk_eng (s : State) (p st : Nat) : (s.setLnk p st).eng = s.eng := rfl
@[simp] theorem setLnk_fab (s : State) (p st : Nat) : (s.setLnk p st).fab = s.fab := rfl

/-! ### State.optCount -/
@[simp] theorem optCount_cur (s : State) (p lo n : Nat) : (s.optCount p lo n).cur = s.cur := rfl
@[simp] theorem optCount_due (s : State) (p lo n : Nat) : (s.optCount p lo n).due = s.due := rfl
@[simp] theorem optCount_after (s : State) (p lo n : Nat) : (s.optCount p lo n).after = s.after := rfl
@[simp] theorem optCount_free (s : State) (p lo n : Nat) : (s.optCount p lo n).free = s.free := rfl
@[simp] theorem optCount_nextId (s : State) (p lo n : Nat) : (s.optCount p lo n).nextId = s.nextId := rfl
@[simp] theorem optCount_clock (s : State) (p lo n : Nat) : (s.optCount p lo n).clock = s.clock := rfl
@[simp] theorem optCount_cycle (s : State) (p lo n : Nat) : (s.optCount p lo n).cycle = s.cycle := rfl
@[simp] theorem optCount_groups (s : State) (p lo n : Nat) : (s.optCount p lo n).groups = s.groups := rfl
@[simp] theorem optCount_subs (s : State) (p lo n : Nat) : (s.optCount p lo n).subs = s.subs := rfl
@[simp] theorem optCount_waits (s : State) (p lo n : Nat) : (s.optCount p lo n).waits = s.waits := rfl
@[simp] theorem optCount_blocks (s : State) (p lo n : Nat) : (s.optCount p lo n).blocks = s.blocks := rfl
@[simp] theorem optCount_launches (s : State) (p lo n : Nat) : (s.optCount p lo n).launches = s.launches := rfl
@[simp] theorem optCount_sched (s : State) (p lo n : Nat) : (s.optCount p lo n).sched = s.sched := rfl
@[simp] theorem optCount_mem (s : State) (p lo n : Nat) : (s.optCount p lo n).mem = s.mem := rfl
@[simp] theorem optCount_ms (s : State) (p lo n : Nat) : (s.optCount p lo n).ms = s.ms := rfl
@[simp] theorem optCount_eng (s : State) (p lo n : Nat) : (s.optCount p lo n).eng = s.eng := rfl
@[simp] theorem optCount_fab (s : State) (p lo n : Nat) : (s.optCount p lo n).fab = s.fab := rfl

/-! ### State.onWire -/
@[simp] theorem onWire_cur (s : State) (p : Nat) (f : SentFlit) : (s.onWire p f).cur = s.cur := rfl
@[simp] theorem onWire_due (s : State) (p : Nat) (f : SentFlit) : (s.onWire p f).due = s.due := rfl
@[simp] theorem onWire_after (s : State) (p : Nat) (f : SentFlit) : (s.onWire p f).after = s.after := rfl
@[simp] theorem onWire_free (s : State) (p : Nat) (f : SentFlit) : (s.onWire p f).free = s.free := rfl
@[simp] theorem onWire_nextId (s : State) (p : Nat) (f : SentFlit) : (s.onWire p f).nextId = s.nextId := rfl
@[simp] theorem onWire_clock (s : State) (p : Nat) (f : SentFlit) : (s.onWire p f).clock = s.clock := rfl
@[simp] theorem onWire_cycle (s : State) (p : Nat) (f : SentFlit) : (s.onWire p f).cycle = s.cycle := rfl
@[simp] theorem onWire_groups (s : State) (p : Nat) (f : SentFlit) : (s.onWire p f).groups = s.groups := rfl
@[simp] theorem onWire_subs (s : State) (p : Nat) (f : SentFlit) : (s.onWire p f).subs = s.subs := rfl
@[simp] theorem onWire_waits (s : State) (p : Nat) (f : SentFlit) : (s.onWire p f).waits = s.waits := rfl
@[simp] theorem onWire_blocks (s : State) (p : Nat) (f : SentFlit) : (s.onWire p f).blocks = s.blocks := rfl
@[simp] theorem onWire_launches (s : State) (p : Nat) (f : SentFlit) : (s.onWire p f).launches = s.launches := rfl
@[simp] theorem onWire_sched (s : State) (p : Nat) (f : SentFlit) : (s.onWire p f).sched = s.sched := rfl
@[simp] theorem onWire_mem (s : State) (p : Nat) (f : SentFlit) : (s.onWire p f).mem = s.mem := rfl
@[simp] theorem onWire_ms (s : State) (p : Nat) (f : SentFlit) : (s.onWire p f).ms = s.ms := rfl
@[simp] theorem onWire_eng (s : State) (p : Nat) (f : SentFlit) : (s.onWire p f).eng = s.eng := rfl
@[simp] theorem onWire_sys (s : State) (p : Nat) (f : SentFlit) : (s.onWire p f).sys = s.sys := rfl

/-! ### State.modWindow -/
@[simp] theorem modWindow_cur (s : State) (id : Nat) (f : Window → Window) : (s.modWindow id f).cur = s.cur := rfl
@[simp] theorem modWindow_due (s : State) (id : Nat) (f : Window → Window) : (s.modWindow id f).due = s.due := rfl
@[simp] theorem modWindow_after (s : State) (id : Nat) (f : Window → Window) : (s.modWindow id f).after = s.after := rfl
@[simp] theorem modWindow_free (s : State) (id : Nat) (f : Window → Window) : (s.modWindow id f).free = s.free := rfl
@[simp] theorem modWindow_nextId (s : State) (id : Nat) (f : Window → Window) : (s.modWindow id f).nextId = s.nextId := rfl
@[simp] theorem modWindow_clock (s : State) (id : Nat) (f : Window → Window) : (s.modWindow id f).clock = s.clock := rfl
@[simp] theorem modWindow_cycle (s : State) (id : Nat) (f : Window → Window) : (s.modWindow id f).cycle = s.cycle := rfl
@[simp] theorem modWindow_groups (s : State) (id : Nat) (f : Window → Window) : (s.modWindow id f).groups = s.groups := rfl
@[simp] theorem modWindow_subs (s : State) (id : Nat) (f : Window → Window) : (s.modWindow id f).subs = s.subs := rfl
@[simp] theorem modWindow_waits (s : State) (id : Nat) (f : Window → Window) : (s.modWindow id f).waits = s.waits := rfl
@[simp] theorem modWindow_blocks (s : State) (id : Nat) (f : Window → Window) : (s.modWindow id f).blocks = s.blocks := rfl
@[simp] theorem modWindow_launches (s : State) (id : Nat) (f : Window → Window) : (s.modWindow id f).launches = s.launches := rfl
@[simp] theorem modWindow_sched (s : State) (id : Nat) (f : Window → Window) : (s.modWindow id f).sched = s.sched := rfl
@[simp] theorem modWindow_mem (s : State) (id : Nat) (f : Window → Window) : (s.modWindow id f).mem = s.mem := rfl
@[simp] theorem modWindow_ms (s : State) (id : Nat) (f : Window → Window) : (s.modWindow id f).ms = s.ms := rfl
@[simp] theorem modWindow_eng (s : State) (id : Nat) (f : Window → Window) : (s.modWindow id f).eng = s.eng := rfl
@[simp] theorem modWindow_sys (s : State) (id : Nat) (f : Window → Window) : (s.modWindow id f).sys = s.sys := rfl

/-! ### State.setTdi -/
@[simp] theorem setTdi_cur (s : State) (vf : Nat) (t : Tdi) : (s.setTdi vf t).cur = s.cur := rfl
@[simp] theorem setTdi_due (s : State) (vf : Nat) (t : Tdi) : (s.setTdi vf t).due = s.due := rfl
@[simp] theorem setTdi_after (s : State) (vf : Nat) (t : Tdi) : (s.setTdi vf t).after = s.after := rfl
@[simp] theorem setTdi_free (s : State) (vf : Nat) (t : Tdi) : (s.setTdi vf t).free = s.free := rfl
@[simp] theorem setTdi_nextId (s : State) (vf : Nat) (t : Tdi) : (s.setTdi vf t).nextId = s.nextId := rfl
@[simp] theorem setTdi_clock (s : State) (vf : Nat) (t : Tdi) : (s.setTdi vf t).clock = s.clock := rfl
@[simp] theorem setTdi_cycle (s : State) (vf : Nat) (t : Tdi) : (s.setTdi vf t).cycle = s.cycle := rfl
@[simp] theorem setTdi_groups (s : State) (vf : Nat) (t : Tdi) : (s.setTdi vf t).groups = s.groups := rfl
@[simp] theorem setTdi_subs (s : State) (vf : Nat) (t : Tdi) : (s.setTdi vf t).subs = s.subs := rfl
@[simp] theorem setTdi_waits (s : State) (vf : Nat) (t : Tdi) : (s.setTdi vf t).waits = s.waits := rfl
@[simp] theorem setTdi_blocks (s : State) (vf : Nat) (t : Tdi) : (s.setTdi vf t).blocks = s.blocks := rfl
@[simp] theorem setTdi_launches (s : State) (vf : Nat) (t : Tdi) : (s.setTdi vf t).launches = s.launches := rfl
@[simp] theorem setTdi_sched (s : State) (vf : Nat) (t : Tdi) : (s.setTdi vf t).sched = s.sched := rfl
@[simp] theorem setTdi_mem (s : State) (vf : Nat) (t : Tdi) : (s.setTdi vf t).mem = s.mem := rfl
@[simp] theorem setTdi_ms (s : State) (vf : Nat) (t : Tdi) : (s.setTdi vf t).ms = s.ms := rfl
@[simp] theorem setTdi_eng (s : State) (vf : Nat) (t : Tdi) : (s.setTdi vf t).eng = s.eng := rfl
@[simp] theorem setTdi_fab (s : State) (vf : Nat) (t : Tdi) : (s.setTdi vf t).fab = s.fab := rfl

/-! ### State.setIde -/
@[simp] theorem setIde_cur (s : State) (l : List IdeKey) : (s.setIde l).cur = s.cur := rfl
@[simp] theorem setIde_due (s : State) (l : List IdeKey) : (s.setIde l).due = s.due := rfl
@[simp] theorem setIde_after (s : State) (l : List IdeKey) : (s.setIde l).after = s.after := rfl
@[simp] theorem setIde_free (s : State) (l : List IdeKey) : (s.setIde l).free = s.free := rfl
@[simp] theorem setIde_nextId (s : State) (l : List IdeKey) : (s.setIde l).nextId = s.nextId := rfl
@[simp] theorem setIde_clock (s : State) (l : List IdeKey) : (s.setIde l).clock = s.clock := rfl
@[simp] theorem setIde_cycle (s : State) (l : List IdeKey) : (s.setIde l).cycle = s.cycle := rfl
@[simp] theorem setIde_groups (s : State) (l : List IdeKey) : (s.setIde l).groups = s.groups := rfl
@[simp] theorem setIde_subs (s : State) (l : List IdeKey) : (s.setIde l).subs = s.subs := rfl
@[simp] theorem setIde_waits (s : State) (l : List IdeKey) : (s.setIde l).waits = s.waits := rfl
@[simp] theorem setIde_blocks (s : State) (l : List IdeKey) : (s.setIde l).blocks = s.blocks := rfl
@[simp] theorem setIde_launches (s : State) (l : List IdeKey) : (s.setIde l).launches = s.launches := rfl
@[simp] theorem setIde_sched (s : State) (l : List IdeKey) : (s.setIde l).sched = s.sched := rfl
@[simp] theorem setIde_mem (s : State) (l : List IdeKey) : (s.setIde l).mem = s.mem := rfl
@[simp] theorem setIde_ms (s : State) (l : List IdeKey) : (s.setIde l).ms = s.ms := rfl
@[simp] theorem setIde_eng (s : State) (l : List IdeKey) : (s.setIde l).eng = s.eng := rfl
@[simp] theorem setIde_fab (s : State) (l : List IdeKey) : (s.setIde l).fab = s.fab := rfl

/-! ### State.aerSet -/
@[simp] theorem aerSet_cur (s : State) (fn bit : Nat) : (s.aerSet fn bit).cur = s.cur := rfl
@[simp] theorem aerSet_due (s : State) (fn bit : Nat) : (s.aerSet fn bit).due = s.due := rfl
@[simp] theorem aerSet_after (s : State) (fn bit : Nat) : (s.aerSet fn bit).after = s.after := rfl
@[simp] theorem aerSet_free (s : State) (fn bit : Nat) : (s.aerSet fn bit).free = s.free := rfl
@[simp] theorem aerSet_nextId (s : State) (fn bit : Nat) : (s.aerSet fn bit).nextId = s.nextId := rfl
@[simp] theorem aerSet_clock (s : State) (fn bit : Nat) : (s.aerSet fn bit).clock = s.clock := rfl
@[simp] theorem aerSet_cycle (s : State) (fn bit : Nat) : (s.aerSet fn bit).cycle = s.cycle := rfl
@[simp] theorem aerSet_groups (s : State) (fn bit : Nat) : (s.aerSet fn bit).groups = s.groups := rfl
@[simp] theorem aerSet_subs (s : State) (fn bit : Nat) : (s.aerSet fn bit).subs = s.subs := rfl
@[simp] theorem aerSet_waits (s : State) (fn bit : Nat) : (s.aerSet fn bit).waits = s.waits := rfl
@[simp] theorem aerSet_blocks (s : State) (fn bit : Nat) : (s.aerSet fn bit).blocks = s.blocks := rfl
@[simp] theorem aerSet_launches (s : State) (fn bit : Nat) : (s.aerSet fn bit).launches = s.launches := rfl
@[simp] theorem aerSet_sched (s : State) (fn bit : Nat) : (s.aerSet fn bit).sched = s.sched := rfl
@[simp] theorem aerSet_mem (s : State) (fn bit : Nat) : (s.aerSet fn bit).mem = s.mem := rfl
@[simp] theorem aerSet_ms (s : State) (fn bit : Nat) : (s.aerSet fn bit).ms = s.ms := rfl
@[simp] theorem aerSet_eng (s : State) (fn bit : Nat) : (s.aerSet fn bit).eng = s.eng := rfl
@[simp] theorem aerSet_fab (s : State) (fn bit : Nat) : (s.aerSet fn bit).fab = s.fab := rfl

/-! ### State.dropWrite -/
@[simp] theorem dropWrite_cur (s : State) (fn bit : Nat) : (s.dropWrite fn bit).cur = s.cur := rfl
@[simp] theorem dropWrite_due (s : State) (fn bit : Nat) : (s.dropWrite fn bit).due = s.due := rfl
@[simp] theorem dropWrite_after (s : State) (fn bit : Nat) : (s.dropWrite fn bit).after = s.after := rfl
@[simp] theorem dropWrite_free (s : State) (fn bit : Nat) : (s.dropWrite fn bit).free = s.free := rfl
@[simp] theorem dropWrite_nextId (s : State) (fn bit : Nat) : (s.dropWrite fn bit).nextId = s.nextId := rfl
@[simp] theorem dropWrite_clock (s : State) (fn bit : Nat) : (s.dropWrite fn bit).clock = s.clock := rfl
@[simp] theorem dropWrite_cycle (s : State) (fn bit : Nat) : (s.dropWrite fn bit).cycle = s.cycle := rfl
@[simp] theorem dropWrite_groups (s : State) (fn bit : Nat) : (s.dropWrite fn bit).groups = s.groups := rfl
@[simp] theorem dropWrite_subs (s : State) (fn bit : Nat) : (s.dropWrite fn bit).subs = s.subs := rfl
@[simp] theorem dropWrite_waits (s : State) (fn bit : Nat) : (s.dropWrite fn bit).waits = s.waits := rfl
@[simp] theorem dropWrite_blocks (s : State) (fn bit : Nat) : (s.dropWrite fn bit).blocks = s.blocks := rfl
@[simp] theorem dropWrite_launches (s : State) (fn bit : Nat) : (s.dropWrite fn bit).launches = s.launches := rfl
@[simp] theorem dropWrite_sched (s : State) (fn bit : Nat) : (s.dropWrite fn bit).sched = s.sched := rfl
@[simp] theorem dropWrite_mem (s : State) (fn bit : Nat) : (s.dropWrite fn bit).mem = s.mem := rfl
@[simp] theorem dropWrite_ms (s : State) (fn bit : Nat) : (s.dropWrite fn bit).ms = s.ms := rfl
@[simp] theorem dropWrite_eng (s : State) (fn bit : Nat) : (s.dropWrite fn bit).eng = s.eng := rfl
@[simp] theorem dropWrite_fab (s : State) (fn bit : Nat) : (s.dropWrite fn bit).fab = s.fab := rfl

/-! ### State.setSpdm -/
@[simp] theorem setSpdm_cur (s : State) (x : Spdm) : (s.setSpdm x).cur = s.cur := rfl
@[simp] theorem setSpdm_due (s : State) (x : Spdm) : (s.setSpdm x).due = s.due := rfl
@[simp] theorem setSpdm_after (s : State) (x : Spdm) : (s.setSpdm x).after = s.after := rfl
@[simp] theorem setSpdm_free (s : State) (x : Spdm) : (s.setSpdm x).free = s.free := rfl
@[simp] theorem setSpdm_nextId (s : State) (x : Spdm) : (s.setSpdm x).nextId = s.nextId := rfl
@[simp] theorem setSpdm_clock (s : State) (x : Spdm) : (s.setSpdm x).clock = s.clock := rfl
@[simp] theorem setSpdm_cycle (s : State) (x : Spdm) : (s.setSpdm x).cycle = s.cycle := rfl
@[simp] theorem setSpdm_groups (s : State) (x : Spdm) : (s.setSpdm x).groups = s.groups := rfl
@[simp] theorem setSpdm_subs (s : State) (x : Spdm) : (s.setSpdm x).subs = s.subs := rfl
@[simp] theorem setSpdm_waits (s : State) (x : Spdm) : (s.setSpdm x).waits = s.waits := rfl
@[simp] theorem setSpdm_blocks (s : State) (x : Spdm) : (s.setSpdm x).blocks = s.blocks := rfl
@[simp] theorem setSpdm_launches (s : State) (x : Spdm) : (s.setSpdm x).launches = s.launches := rfl
@[simp] theorem setSpdm_sched (s : State) (x : Spdm) : (s.setSpdm x).sched = s.sched := rfl
@[simp] theorem setSpdm_mem (s : State) (x : Spdm) : (s.setSpdm x).mem = s.mem := rfl
@[simp] theorem setSpdm_ms (s : State) (x : Spdm) : (s.setSpdm x).ms = s.ms := rfl
@[simp] theorem setSpdm_eng (s : State) (x : Spdm) : (s.setSpdm x).eng = s.eng := rfl
@[simp] theorem setSpdm_fab (s : State) (x : Spdm) : (s.setSpdm x).fab = s.fab := rfl

/-! ### State.modSession -/
@[simp] theorem modSession_cur (s : State) (id : Nat) (f : Session → Session) : (s.modSession id f).cur = s.cur := rfl
@[simp] theorem modSession_due (s : State) (id : Nat) (f : Session → Session) : (s.modSession id f).due = s.due := rfl
@[simp] theorem modSession_after (s : State) (id : Nat) (f : Session → Session) : (s.modSession id f).after = s.after := rfl
@[simp] theorem modSession_free (s : State) (id : Nat) (f : Session → Session) : (s.modSession id f).free = s.free := rfl
@[simp] theorem modSession_nextId (s : State) (id : Nat) (f : Session → Session) : (s.modSession id f).nextId = s.nextId := rfl
@[simp] theorem modSession_clock (s : State) (id : Nat) (f : Session → Session) : (s.modSession id f).clock = s.clock := rfl
@[simp] theorem modSession_cycle (s : State) (id : Nat) (f : Session → Session) : (s.modSession id f).cycle = s.cycle := rfl
@[simp] theorem modSession_groups (s : State) (id : Nat) (f : Session → Session) : (s.modSession id f).groups = s.groups := rfl
@[simp] theorem modSession_subs (s : State) (id : Nat) (f : Session → Session) : (s.modSession id f).subs = s.subs := rfl
@[simp] theorem modSession_waits (s : State) (id : Nat) (f : Session → Session) : (s.modSession id f).waits = s.waits := rfl
@[simp] theorem modSession_blocks (s : State) (id : Nat) (f : Session → Session) : (s.modSession id f).blocks = s.blocks := rfl
@[simp] theorem modSession_launches (s : State) (id : Nat) (f : Session → Session) : (s.modSession id f).launches = s.launches := rfl
@[simp] theorem modSession_sched (s : State) (id : Nat) (f : Session → Session) : (s.modSession id f).sched = s.sched := rfl
@[simp] theorem modSession_mem (s : State) (id : Nat) (f : Session → Session) : (s.modSession id f).mem = s.mem := rfl
@[simp] theorem modSession_ms (s : State) (id : Nat) (f : Session → Session) : (s.modSession id f).ms = s.ms := rfl
@[simp] theorem modSession_eng (s : State) (id : Nat) (f : Session → Session) : (s.modSession id f).eng = s.eng := rfl
@[simp] theorem modSession_fab (s : State) (id : Nat) (f : Session → Session) : (s.modSession id f).fab = s.fab := rfl

/-! ### State.say -/
@[simp] theorem say_cur (s : State) (session : Nat) (bs : List Byte) : (s.say session bs).cur = s.cur := rfl
@[simp] theorem say_due (s : State) (session : Nat) (bs : List Byte) : (s.say session bs).due = s.due := rfl
@[simp] theorem say_after (s : State) (session : Nat) (bs : List Byte) : (s.say session bs).after = s.after := rfl
@[simp] theorem say_free (s : State) (session : Nat) (bs : List Byte) : (s.say session bs).free = s.free := rfl
@[simp] theorem say_nextId (s : State) (session : Nat) (bs : List Byte) : (s.say session bs).nextId = s.nextId := rfl
@[simp] theorem say_clock (s : State) (session : Nat) (bs : List Byte) : (s.say session bs).clock = s.clock := rfl
@[simp] theorem say_cycle (s : State) (session : Nat) (bs : List Byte) : (s.say session bs).cycle = s.cycle := rfl
@[simp] theorem say_groups (s : State) (session : Nat) (bs : List Byte) : (s.say session bs).groups = s.groups := rfl
@[simp] theorem say_subs (s : State) (session : Nat) (bs : List Byte) : (s.say session bs).subs = s.subs := rfl
@[simp] theorem say_waits (s : State) (session : Nat) (bs : List Byte) : (s.say session bs).waits = s.waits := rfl
@[simp] theorem say_blocks (s : State) (session : Nat) (bs : List Byte) : (s.say session bs).blocks = s.blocks := rfl
@[simp] theorem say_launches (s : State) (session : Nat) (bs : List Byte) : (s.say session bs).launches = s.launches := rfl
@[simp] theorem say_sched (s : State) (session : Nat) (bs : List Byte) : (s.say session bs).sched = s.sched := rfl
@[simp] theorem say_mem (s : State) (session : Nat) (bs : List Byte) : (s.say session bs).mem = s.mem := rfl
@[simp] theorem say_ms (s : State) (session : Nat) (bs : List Byte) : (s.say session bs).ms = s.ms := rfl
@[simp] theorem say_eng (s : State) (session : Nat) (bs : List Byte) : (s.say session bs).eng = s.eng := rfl
@[simp] theorem say_fab (s : State) (session : Nat) (bs : List Byte) : (s.say session bs).fab = s.fab := rfl

/-! ### State.setStore -/
@[simp] theorem setStore_cur (s : State) (x : Store) : (s.setStore x).cur = s.cur := rfl
@[simp] theorem setStore_due (s : State) (x : Store) : (s.setStore x).due = s.due := rfl
@[simp] theorem setStore_after (s : State) (x : Store) : (s.setStore x).after = s.after := rfl
@[simp] theorem setStore_free (s : State) (x : Store) : (s.setStore x).free = s.free := rfl
@[simp] theorem setStore_nextId (s : State) (x : Store) : (s.setStore x).nextId = s.nextId := rfl
@[simp] theorem setStore_clock (s : State) (x : Store) : (s.setStore x).clock = s.clock := rfl
@[simp] theorem setStore_cycle (s : State) (x : Store) : (s.setStore x).cycle = s.cycle := rfl
@[simp] theorem setStore_groups (s : State) (x : Store) : (s.setStore x).groups = s.groups := rfl
@[simp] theorem setStore_subs (s : State) (x : Store) : (s.setStore x).subs = s.subs := rfl
@[simp] theorem setStore_waits (s : State) (x : Store) : (s.setStore x).waits = s.waits := rfl
@[simp] theorem setStore_blocks (s : State) (x : Store) : (s.setStore x).blocks = s.blocks := rfl
@[simp] theorem setStore_launches (s : State) (x : Store) : (s.setStore x).launches = s.launches := rfl
@[simp] theorem setStore_sched (s : State) (x : Store) : (s.setStore x).sched = s.sched := rfl
@[simp] theorem setStore_mem (s : State) (x : Store) : (s.setStore x).mem = s.mem := rfl
@[simp] theorem setStore_ms (s : State) (x : Store) : (s.setStore x).ms = s.ms := rfl
@[simp] theorem setStore_eng (s : State) (x : Store) : (s.setStore x).eng = s.eng := rfl
@[simp] theorem setStore_fab (s : State) (x : Store) : (s.setStore x).fab = s.fab := rfl

/-! ### State.noteError -/
@[simp] theorem noteError_cur (s : State) (unit : Nat) : (s.noteError unit).cur = s.cur := rfl
@[simp] theorem noteError_due (s : State) (unit : Nat) : (s.noteError unit).due = s.due := rfl
@[simp] theorem noteError_after (s : State) (unit : Nat) : (s.noteError unit).after = s.after := rfl
@[simp] theorem noteError_free (s : State) (unit : Nat) : (s.noteError unit).free = s.free := rfl
@[simp] theorem noteError_nextId (s : State) (unit : Nat) : (s.noteError unit).nextId = s.nextId := rfl
@[simp] theorem noteError_clock (s : State) (unit : Nat) : (s.noteError unit).clock = s.clock := rfl
@[simp] theorem noteError_cycle (s : State) (unit : Nat) : (s.noteError unit).cycle = s.cycle := rfl
@[simp] theorem noteError_groups (s : State) (unit : Nat) : (s.noteError unit).groups = s.groups := rfl
@[simp] theorem noteError_subs (s : State) (unit : Nat) : (s.noteError unit).subs = s.subs := rfl
@[simp] theorem noteError_waits (s : State) (unit : Nat) : (s.noteError unit).waits = s.waits := rfl
@[simp] theorem noteError_blocks (s : State) (unit : Nat) : (s.noteError unit).blocks = s.blocks := rfl
@[simp] theorem noteError_launches (s : State) (unit : Nat) : (s.noteError unit).launches = s.launches := rfl
@[simp] theorem noteError_sched (s : State) (unit : Nat) : (s.noteError unit).sched = s.sched := rfl
@[simp] theorem noteError_mem (s : State) (unit : Nat) : (s.noteError unit).mem = s.mem := rfl
@[simp] theorem noteError_ms (s : State) (unit : Nat) : (s.noteError unit).ms = s.ms := rfl
@[simp] theorem noteError_eng (s : State) (unit : Nat) : (s.noteError unit).eng = s.eng := rfl
@[simp] theorem noteError_fab (s : State) (unit : Nat) : (s.noteError unit).fab = s.fab := rfl

/-! ### State.calm -/
@[simp] theorem calm_cur (s : State) (unit : Nat) : (s.calm unit).cur = s.cur := rfl
@[simp] theorem calm_due (s : State) (unit : Nat) : (s.calm unit).due = s.due := rfl
@[simp] theorem calm_after (s : State) (unit : Nat) : (s.calm unit).after = s.after := rfl
@[simp] theorem calm_free (s : State) (unit : Nat) : (s.calm unit).free = s.free := rfl
@[simp] theorem calm_nextId (s : State) (unit : Nat) : (s.calm unit).nextId = s.nextId := rfl
@[simp] theorem calm_clock (s : State) (unit : Nat) : (s.calm unit).clock = s.clock := rfl
@[simp] theorem calm_cycle (s : State) (unit : Nat) : (s.calm unit).cycle = s.cycle := rfl
@[simp] theorem calm_groups (s : State) (unit : Nat) : (s.calm unit).groups = s.groups := rfl
@[simp] theorem calm_subs (s : State) (unit : Nat) : (s.calm unit).subs = s.subs := rfl
@[simp] theorem calm_waits (s : State) (unit : Nat) : (s.calm unit).waits = s.waits := rfl
@[simp] theorem calm_blocks (s : State) (unit : Nat) : (s.calm unit).blocks = s.blocks := rfl
@[simp] theorem calm_launches (s : State) (unit : Nat) : (s.calm unit).launches = s.launches := rfl
@[simp] theorem calm_sched (s : State) (unit : Nat) : (s.calm unit).sched = s.sched := rfl
@[simp] theorem calm_mem (s : State) (unit : Nat) : (s.calm unit).mem = s.mem := rfl
@[simp] theorem calm_ms (s : State) (unit : Nat) : (s.calm unit).ms = s.ms := rfl
@[simp] theorem calm_eng (s : State) (unit : Nat) : (s.calm unit).eng = s.eng := rfl
@[simp] theorem calm_fab (s : State) (unit : Nat) : (s.calm unit).fab = s.fab := rfl

/-! ### State.loseLines -/
@[simp] theorem loseLines_cur (s : State) (ls : List Nat) : (s.loseLines ls).cur = s.cur := rfl
@[simp] theorem loseLines_due (s : State) (ls : List Nat) : (s.loseLines ls).due = s.due := rfl
@[simp] theorem loseLines_after (s : State) (ls : List Nat) : (s.loseLines ls).after = s.after := rfl
@[simp] theorem loseLines_free (s : State) (ls : List Nat) : (s.loseLines ls).free = s.free := rfl
@[simp] theorem loseLines_nextId (s : State) (ls : List Nat) : (s.loseLines ls).nextId = s.nextId := rfl
@[simp] theorem loseLines_clock (s : State) (ls : List Nat) : (s.loseLines ls).clock = s.clock := rfl
@[simp] theorem loseLines_cycle (s : State) (ls : List Nat) : (s.loseLines ls).cycle = s.cycle := rfl
@[simp] theorem loseLines_groups (s : State) (ls : List Nat) : (s.loseLines ls).groups = s.groups := rfl
@[simp] theorem loseLines_subs (s : State) (ls : List Nat) : (s.loseLines ls).subs = s.subs := rfl
@[simp] theorem loseLines_waits (s : State) (ls : List Nat) : (s.loseLines ls).waits = s.waits := rfl
@[simp] theorem loseLines_blocks (s : State) (ls : List Nat) : (s.loseLines ls).blocks = s.blocks := rfl
@[simp] theorem loseLines_launches (s : State) (ls : List Nat) : (s.loseLines ls).launches = s.launches := rfl
@[simp] theorem loseLines_sched (s : State) (ls : List Nat) : (s.loseLines ls).sched = s.sched := rfl
@[simp] theorem loseLines_mem (s : State) (ls : List Nat) : (s.loseLines ls).mem = s.mem := rfl
@[simp] theorem loseLines_eng (s : State) (ls : List Nat) : (s.loseLines ls).eng = s.eng := rfl
@[simp] theorem loseLines_fab (s : State) (ls : List Nat) : (s.loseLines ls).fab = s.fab := rfl
@[simp] theorem loseLines_sys (s : State) (ls : List Nat) : (s.loseLines ls).sys = s.sys := rfl

/-! ### State.modCopy -/
@[simp] theorem modCopy_cur (s : State) (id : Nat) (f : CopyCmd → CopyCmd) : (s.modCopy id f).cur = s.cur := rfl
@[simp] theorem modCopy_due (s : State) (id : Nat) (f : CopyCmd → CopyCmd) : (s.modCopy id f).due = s.due := rfl
@[simp] theorem modCopy_after (s : State) (id : Nat) (f : CopyCmd → CopyCmd) : (s.modCopy id f).after = s.after := rfl
@[simp] theorem modCopy_free (s : State) (id : Nat) (f : CopyCmd → CopyCmd) : (s.modCopy id f).free = s.free := rfl
@[simp] theorem modCopy_nextId (s : State) (id : Nat) (f : CopyCmd → CopyCmd) : (s.modCopy id f).nextId = s.nextId := rfl
@[simp] theorem modCopy_clock (s : State) (id : Nat) (f : CopyCmd → CopyCmd) : (s.modCopy id f).clock = s.clock := rfl
@[simp] theorem modCopy_cycle (s : State) (id : Nat) (f : CopyCmd → CopyCmd) : (s.modCopy id f).cycle = s.cycle := rfl
@[simp] theorem modCopy_groups (s : State) (id : Nat) (f : CopyCmd → CopyCmd) : (s.modCopy id f).groups = s.groups := rfl
@[simp] theorem modCopy_subs (s : State) (id : Nat) (f : CopyCmd → CopyCmd) : (s.modCopy id f).subs = s.subs := rfl
@[simp] theorem modCopy_waits (s : State) (id : Nat) (f : CopyCmd → CopyCmd) : (s.modCopy id f).waits = s.waits := rfl
@[simp] theorem modCopy_blocks (s : State) (id : Nat) (f : CopyCmd → CopyCmd) : (s.modCopy id f).blocks = s.blocks := rfl
@[simp] theorem modCopy_launches (s : State) (id : Nat) (f : CopyCmd → CopyCmd) : (s.modCopy id f).launches = s.launches := rfl
@[simp] theorem modCopy_sched (s : State) (id : Nat) (f : CopyCmd → CopyCmd) : (s.modCopy id f).sched = s.sched := rfl
@[simp] theorem modCopy_mem (s : State) (id : Nat) (f : CopyCmd → CopyCmd) : (s.modCopy id f).mem = s.mem := rfl
@[simp] theorem modCopy_ms (s : State) (id : Nat) (f : CopyCmd → CopyCmd) : (s.modCopy id f).ms = s.ms := rfl
@[simp] theorem modCopy_fab (s : State) (id : Nat) (f : CopyCmd → CopyCmd) : (s.modCopy id f).fab = s.fab := rfl
@[simp] theorem modCopy_sys (s : State) (id : Nat) (f : CopyCmd → CopyCmd) : (s.modCopy id f).sys = s.sys := rfl

/-! ### State.stall -/
@[simp] theorem stall_due (s : State) : (s.stall).due = s.due := by unfold State.stall; split <;> rfl
@[simp] theorem stall_after (s : State) : (s.stall).after = s.after := by unfold State.stall; split <;> rfl
@[simp] theorem stall_free (s : State) : (s.stall).free = s.free := by unfold State.stall; split <;> rfl
@[simp] theorem stall_nextId (s : State) : (s.stall).nextId = s.nextId := by unfold State.stall; split <;> rfl
@[simp] theorem stall_clock (s : State) : (s.stall).clock = s.clock := by unfold State.stall; split <;> rfl
@[simp] theorem stall_cycle (s : State) : (s.stall).cycle = s.cycle := by unfold State.stall; split <;> rfl
@[simp] theorem stall_groups (s : State) : (s.stall).groups = s.groups := by unfold State.stall; split <;> rfl
@[simp] theorem stall_waits (s : State) : (s.stall).waits = s.waits := by unfold State.stall; split <;> rfl
@[simp] theorem stall_blocks (s : State) : (s.stall).blocks = s.blocks := by unfold State.stall; split <;> rfl
@[simp] theorem stall_launches (s : State) : (s.stall).launches = s.launches := by unfold State.stall; split <;> rfl
@[simp] theorem stall_sched (s : State) : (s.stall).sched = s.sched := by unfold State.stall; split <;> rfl
@[simp] theorem stall_mem (s : State) : (s.stall).mem = s.mem := by unfold State.stall; split <;> rfl
@[simp] theorem stall_ms (s : State) : (s.stall).ms = s.ms := by unfold State.stall; split <;> rfl
@[simp] theorem stall_eng (s : State) : (s.stall).eng = s.eng := by unfold State.stall; split <;> rfl
@[simp] theorem stall_fab (s : State) : (s.stall).fab = s.fab := by unfold State.stall; split <;> rfl
@[simp] theorem stall_sys (s : State) : (s.stall).sys = s.sys := by unfold State.stall; split <;> rfl

/-! ### The field that each update writes -/
@[simp] theorem send_due (s : State) (i : Instr) : (s.send i).due = s.due ++ [i] := rfl
@[simp] theorem whenDone_after (s : State) (id : Nat) (k : AfterKind) : (s.whenDone id k).after = s.after ++ [⟨id, k⟩] := rfl
@[simp] theorem newId_nextId (s : State) : s.newId.nextId = s.nextId + 1 := rfl
@[simp] theorem stall_cur (s : State) : s.stall.cur = none := by
  unfold State.stall; split
  · assumption
  · rfl
@[simp] theorem setMem_mem (s : State) (m : Memory) : (s.setMem m).mem = m := rfl
@[simp] theorem setCopies_copies (s : State) (l : List Copy) : (s.setCopies l).ms.copies = l := rfl
@[simp] theorem setParks_parks (s : State) (l : List ParkRec) : (s.setParks l).ms.parks = l := rfl
@[simp] theorem setCells_cells (s : State) (l : List TCell) : (s.setCells l).ms.cells = l := rfl
@[simp] theorem setCurd_curd (s : State) (l : List CurdWord) : (s.setCurd l).ms.curd = l := rfl
@[simp] theorem setTlb_tlb (s : State) (l : List TlbEntry) : (s.setTlb l).ms.tlb = l := rfl

end Sys2Proof.Machine
end

