-- ==== Sys2Proof/Laws/Lanes.lean ====
section
/-! SUPPORT. Groups and lanes: what a lane reads after an update of a group, a lane, or each lane of a set, and the fields that
such updates leave alone. -/
namespace Sys2Proof.Machine

theorem group_setGroup (s : State) (gid k : Nat) (g : Group) :
    (s.setGroup gid g).group k = if k = gid then g else s.group k := Map.get_insert _ _ _ _ _

theorem group_modGroup (s : State) (gid k : Nat) (f : Group → Group) :
    (s.modGroup gid f).group k = if k = gid then f (s.group gid) else s.group k := group_setGroup s gid k _

@[simp] theorem group_modGroup_self (s : State) (gid : Nat) (f : Group → Group) :
    (s.modGroup gid f).group gid = f (s.group gid) := by rw [group_modGroup, if_pos rfl]

theorem group_modLane (s : State) (gid l k : Nat) (f : Lane → Lane) :
    (s.modLane gid l f).group k = if k = gid then (s.group gid).setLane l (f ((s.group gid).lane l)) else s.group k :=
  group_setGroup s gid k _

theorem lane_setLane (g : Group) (l k : Nat) (x : Lane) :
    (g.setLane l x).lane k = if k = l ∧ l < g.lanes.length then x else g.lane k := by
  unfold Group.setLane Group.lane
  simp only [List.getD_eq_getElem?_getD, List.getElem?_set]
  by_cases h : k = l
  · subst h
    by_cases h2 : k < g.lanes.length <;> simp [h2]
  · rw [if_neg (fun h' => h h'.symm), if_neg (fun h' => h h'.1)]

@[simp] theorem setLane_length (g : Group) (l : Nat) (x : Lane) : (g.setLane l x).lanes.length = g.lanes.length := by
  simp [Group.setLane]

/-- A lane after an update of one lane. -/
theorem lane_modLane (s : State) (gid l k : Nat) (f : Lane → Lane) :
    (s.modLane gid l f).lane gid k = if k = l ∧ l < (s.group gid).lanes.length then f (s.lane gid l) else s.lane gid k := by
  unfold State.lane
  rw [group_modLane, if_pos rfl, lane_setLane]

theorem length_modLane (s : State) (gid l k : Nat) (f : Lane → Lane) :
    ((s.modLane gid l f).group k).lanes.length = (s.group k).lanes.length := by
  rw [group_modLane]; split
  · rename_i h; subst h; simp
  · rfl

/-- What an update of one lane leaves of its group. -/
theorem group_modLane_with (s : State) (gid l k : Nat) (f : Lane → Lane) :
    (s.modLane gid l f).group k = { s.group k with lanes := ((s.modLane gid l f).group k).lanes } := by
  rw [group_modLane]; split
  · rename_i h; subst h; rfl
  · rfl

theorem eachLane_nil (s : State) (f : State → Nat → State) : eachLane s [] f = s := rfl
theorem eachLane_cons (s : State) (l : Nat) (ls : List Nat) (f : State → Nat → State) :
    eachLane s (l :: ls) f = eachLane (f s l) ls f := rfl

/-- A relation between states that each action of a lane keeps, all of them together keep. -/
theorem eachLane_rel {R : State → State → Prop} (hr : ∀ s, R s s) (ht : ∀ a b c, R a b → R b c → R a c)
    {f : State → Nat → State} (h : ∀ s l, R s (f s l)) (s : State) (ls : List Nat) : R s (eachLane s ls f) := by
  induction ls generalizing s with
  | nil => exact hr s
  | cons l ls ih => exact ht _ _ _ (h s l) (ih _)

/-- A projection of the state that no action of a lane changes. -/
theorem eachLane_proj {β : Type} (p : State → β) {f : State → Nat → State} (h : ∀ s l, p (f s l) = p s) (s : State)
    (ls : List Nat) : p (eachLane s ls f) = p s :=
  eachLane_rel (R := fun a b => p b = p a) (fun _ => rfl) (fun _ _ _ h1 h2 => h2.trans h1) h s ls

theorem lanesOf_nodup (m : LaneMask) : (lanesOf m).Nodup := List.Nodup.filter _ List.nodup_range
theorem mem_lanesOf (m : LaneMask) (l : Nat) : l ∈ lanesOf m ↔ l < 32 ∧ m.getLsbD l = true := by
  simp [lanesOf, List.mem_filter]

/-- A lane after one update of each lane of a set. -/
theorem lane_eachLane_modLane (gid : Nat) (f : Nat → Lane → Lane) (ls : List Nat) (hn : ls.Nodup) (s : State) (k : Nat) :
    (eachLane s ls fun s l => s.modLane gid l (f l)).lane gid k
      = if k ∈ ls ∧ k < (s.group gid).lanes.length then f k (s.lane gid k) else s.lane gid k := by
  induction ls generalizing s with
  | nil => simp [eachLane]
  | cons l ls ih =>
    rw [eachLane_cons, ih (List.nodup_cons.mp hn).2, length_modLane, lane_modLane]
    by_cases hk : k = l
    · subst hk
      have : k ∉ ls := (List.nodup_cons.mp hn).1
      simp [this]
    · simp [hk]

/-- A write of a g register does not stand where slot B makes it in a clock in which slot A wrote the register (R95). -/
def State.gLost (s : State) (gid r : Nat) : Bool := s.cycle.slotB && s.cycle.wrote.contains (gid, r)

theorem writeG_lost {s : State} {gid r : Nat} (h : s.gLost gid r = true) (x : DWord) : s.writeG gid r x = s := if_pos h

theorem writeG_stands {s : State} {gid r : Nat} (h : s.gLost gid r = false) (x : DWord) :
    s.writeG gid r x = { (s.modGroup gid fun g => { g with g := Map.set 0 g.g r x }) with
      cycle := { s.cycle with wrote := s.cycle.wrote ++ [(gid, r)] } } := if_neg (fun hh => Bool.noConfusion (h.symm.trans hh))

/-- A group register after a write (R95). -/
theorem readG_writeG (s : State) (gid r k : Nat) (x : DWord) :
    (s.writeG gid r x).readG gid k = if k = r ∧ s.gLost gid r = false then x else s.readG gid k := by
  cases h : s.gLost gid r
  · rw [writeG_stands h]
    unfold State.readG Group.gReg
    show Map.get 0 ((s.modGroup gid fun g => { g with g := Map.set 0 g.g r x }).group gid).g k = _
    rw [group_modGroup_self]
    simpa using Map.get_set _ _ _ _ _
  · rw [writeG_lost h]; simp

theorem vReg_putV (x : Lane) (r k : Nat) (val : Word) : (x.putV r val).vReg k = if k = r then val else x.vReg k :=
  Map.get_set _ _ _ _ _

/-- A predicate after a write: p7 stays true (R52, R95). -/
theorem pReg_putP (x : Lane) (p k : Nat) (val : Bool) :
    (x.putP p val).pReg k = if k = p ∧ p < 7 then val else x.pReg k := by
  have one : ∀ i : Nat, (1 : BitVec 7).getLsbD i = decide (i = 0) := by
    intro i; simp [BitVec.getLsbD_one]
  unfold Lane.putP Lane.pReg
  by_cases hp : p < 7
  · by_cases hk : k = p
    · subst hk
      have h7 : (k == 7) = false := by simp; omega
      cases val <;> simp [h7, hp]
    · rw [if_pos hp, if_neg (show ¬(k = p ∧ p < 7) from fun h => hk h.1)]
      congr 1
      by_cases h7 : k < 7
      · have hs : ((1 : BitVec 7) <<< p).getLsbD k = false := by
          rw [BitVec.getLsbD_shiftLeft, one]
          by_cases h : k < p
          · simp [h]
          · have : k - p ≠ 0 := by omega
            simp [this]
        cases val
        · rw [if_neg (by simp), BitVec.getLsbD_and, BitVec.getLsbD_not, hs]; simp [h7]
        · rw [if_pos rfl, BitVec.getLsbD_or, hs, Bool.or_false]
      · rw [BitVec.getLsbD_of_ge _ _ (by omega), BitVec.getLsbD_of_ge _ _ (by omega)]
  · rw [if_neg hp, if_neg (show ¬(k = p ∧ p < 7) from fun h => hp h.2)]

end Sys2Proof.Machine
end

