-- ==== Sys2Proof/Laws/Issue.lean ====
section
/-! SUPPORT. What issuing a word does (R43, R45, R51, R95, R146), and what reads and writes of registers do. -/
namespace Sys2Proof.Machine

/-! ## Issue -/

/-- A word that issues runs its body. -/
theorem issue_runs {s : State} {c : Ctl} {ctr : Option Ctr} {names : List Nat} {writes : Nat} {body : State → Iss → State} {cx : Cx}
    (hc : s.cur = some cx) (hl : s.taking cx c ≠ []) (hh : s.holdsIssue cx.gid (s.taking cx c) ctr writes = false)
    (hn : s.nameTrap cx.gid names = none) :
    issue s c ctr names writes body = .next (body (s.start cx c) ⟨cx, s.nextId, s.taking cx c⟩) := by
  simp [issue, hc, hl, hh, hn]

/-- A word that names a register it may not traps (R95, R320). -/
theorem issue_traps {s : State} {c : Ctl} {ctr : Option Ctr} {names : List Nat} {writes : Nat} {body : State → Iss → State} {cx : Cx}
    {x : Nat × Nat} (hc : s.cur = some cx) (hl : s.taking cx c ≠ [])
    (hh : s.holdsIssue cx.gid (s.taking cx c) ctr writes = false) (hn : s.nameTrap cx.gid names = some x) :
    issue s c ctr names writes body
      = .next ((s.start cx c).trap cx.gid (s.taking cx c) (cx.at_ x.1 (BitVec.ofNat 64 x.2))) := by
  simp [issue, hc, hl, hh, hn]

/-- A word whose counter is full stands where it is (R45, R375). -/
theorem issue_holds {s : State} {c : Ctl} {ctr : Option Ctr} {names : List Nat} {writes : Nat} {body : State → Iss → State} {cx : Cx}
    (hc : s.cur = some cx) (hh : s.holdsIssue cx.gid (s.taking cx c) ctr writes = true) :
    issue s c ctr names writes body = .next s.stall := by
  simp [issue, hc, hh]

/-- A word in which no lane takes part is passed (R51). -/
theorem issue_passes {s : State} {c : Ctl} {ctr : Option Ctr} {names : List Nat} {writes : Nat} {body : State → Iss → State} {cx : Cx}
    (hc : s.cur = some cx) (hl : s.taking cx c = []) : issue s c ctr names writes body = .next (s.start cx c) := by
  simp [issue, hc, hl, State.holdsIssue]

theorem issuePriv_traps {s : State} {c : Ctl} {ctr : Option Ctr} {names : List Nat} {writes : Nat} {body : State → Iss → State}
    {cx : Cx} (hc : s.cur = some cx) (hg : isSysGid cx.gid = false) :
    issuePriv s c ctr names writes body = .next (({ s with cur := none } : State).trap cx.gid (lanesOf cx.mask) (cx.at_ 0x04 cx.word)) := by
  simp [issuePriv, hc, hg]

theorem issuePriv_runs {s : State} {c : Ctl} {ctr : Option Ctr} {names : List Nat} {writes : Nat} {body : State → Iss → State}
    {cx : Cx} (hc : s.cur = some cx) (hg : isSysGid cx.gid = true) :
    issuePriv s c ctr names writes body = issue s c ctr names writes body := by
  simp [issuePriv, hc, hg]

/-- A class 0 word that issues computes. -/
theorem issueLane_runs {s : State} {c : Ctl} {w : Instr} {op : LaneOp} {cx : Cx} (hc : s.cur = some cx)
    (hl : s.taking cx c ≠ []) (hh : s.holdsIssue cx.gid (s.taking cx c) none op.dst.writes = false)
    (hn : s.laneTrap cx.gid op = none) :
    issueLane s c w op = .next ((s.start cx c).laneGo 5 ⟨cx, s.nextId, s.taking cx c⟩ w op []) := by
  simp [issueLane, hc, hl, hh, hn]

theorem taking_nodup (s : State) (cx : Cx) (c : Ctl) : (s.taking cx c).Nodup := List.Nodup.filter _ (lanesOf_nodup _)
theorem taking_mask {s : State} {cx : Cx} {c : Ctl} {l : Nat} (h : l ∈ s.taking cx c) : l ∈ lanesOf cx.mask :=
  List.mem_of_mem_filter h

/-! ## Passing a word -/

/-- A lane that passes a word (R43, R146). -/
def passWord (cx : Cx) (clock : Nat) (x : Lane) : Lane :=
  { x with pc := cx.pc + 8, pos := (nextPos cx.pos cx.left).1, left := (nextPos cx.pos cx.left).2, cls := cx.cls, since := clock }

/-- The lanes of the issuing program counter pass the word. -/
def State.passAll (s : State) (cx : Cx) : State :=
  eachLane { s with cur := none, nextId := s.nextId + 1 } (lanesOf cx.mask) fun s l => s.modLane cx.gid l (passWord cx s.clock)

theorem start_passAll (s : State) (cx : Cx) (c : Ctl) :
    s.start cx c = if c.sw || c.compat then (s.passAll cx).modGroup cx.gid fun g => { g with hold := true } else s.passAll cx := rfl

theorem passAll_form (cx : Cx) (ls : List Nat) (t : State) : ∃ gs : List (Nat × Group),
    (eachLane t ls fun s l => s.modLane cx.gid l (passWord cx s.clock)) = { t with groups := gs } := by
  induction ls generalizing t with
  | nil => exact ⟨t.groups, rfl⟩
  | cons l ls ih =>
    obtain ⟨gs, h⟩ := ih (t.modLane cx.gid l (passWord cx t.clock))
    exact ⟨gs, by rw [eachLane_cons, h]; rfl⟩

/-- Starting a word changes groups, and takes a name. -/
theorem start_eq (s : State) (cx : Cx) (c : Ctl) : ∃ gs : List (Nat × Group),
    s.start cx c = { s with cur := none, nextId := s.nextId + 1, groups := gs } := by
  obtain ⟨gs, h⟩ := passAll_form cx (lanesOf cx.mask) { s with cur := none, nextId := s.nextId + 1 }
  rw [start_passAll]
  split
  · exact ⟨_, by unfold State.passAll; rw [h]; rfl⟩
  · exact ⟨gs, h⟩

theorem start_after (s : State) (cx : Cx) (c : Ctl) : (s.start cx c).after = s.after := by
  obtain ⟨_, h⟩ := start_eq s cx c; rw [h]
theorem start_cycle (s : State) (cx : Cx) (c : Ctl) : (s.start cx c).cycle = s.cycle := by
  obtain ⟨_, h⟩ := start_eq s cx c; rw [h]
theorem start_cur (s : State) (cx : Cx) (c : Ctl) : (s.start cx c).cur = none := by
  obtain ⟨_, h⟩ := start_eq s cx c; rw [h]
theorem start_due (s : State) (cx : Cx) (c : Ctl) : (s.start cx c).due = s.due := by
  obtain ⟨_, h⟩ := start_eq s cx c; rw [h]
theorem start_free (s : State) (cx : Cx) (c : Ctl) : (s.start cx c).free = s.free := by
  obtain ⟨_, h⟩ := start_eq s cx c; rw [h]
theorem start_nextId (s : State) (cx : Cx) (c : Ctl) : (s.start cx c).nextId = s.nextId + 1 := by
  obtain ⟨_, h⟩ := start_eq s cx c; rw [h]
theorem start_clock (s : State) (cx : Cx) (c : Ctl) : (s.start cx c).clock = s.clock := by
  obtain ⟨_, h⟩ := start_eq s cx c; rw [h]
theorem start_subs (s : State) (cx : Cx) (c : Ctl) : (s.start cx c).subs = s.subs := by
  obtain ⟨_, h⟩ := start_eq s cx c; rw [h]
theorem start_waits (s : State) (cx : Cx) (c : Ctl) : (s.start cx c).waits = s.waits := by
  obtain ⟨_, h⟩ := start_eq s cx c; rw [h]
theorem start_blocks (s : State) (cx : Cx) (c : Ctl) : (s.start cx c).blocks = s.blocks := by
  obtain ⟨_, h⟩ := start_eq s cx c; rw [h]
theorem start_launches (s : State) (cx : Cx) (c : Ctl) : (s.start cx c).launches = s.launches := by
  obtain ⟨_, h⟩ := start_eq s cx c; rw [h]
theorem start_sched (s : State) (cx : Cx) (c : Ctl) : (s.start cx c).sched = s.sched := by
  obtain ⟨_, h⟩ := start_eq s cx c; rw [h]
theorem start_mem (s : State) (cx : Cx) (c : Ctl) : (s.start cx c).mem = s.mem := by
  obtain ⟨_, h⟩ := start_eq s cx c; rw [h]
theorem start_ms (s : State) (cx : Cx) (c : Ctl) : (s.start cx c).ms = s.ms := by
  obtain ⟨_, h⟩ := start_eq s cx c; rw [h]
theorem start_eng (s : State) (cx : Cx) (c : Ctl) : (s.start cx c).eng = s.eng := by
  obtain ⟨_, h⟩ := start_eq s cx c; rw [h]
theorem start_fab (s : State) (cx : Cx) (c : Ctl) : (s.start cx c).fab = s.fab := by
  obtain ⟨_, h⟩ := start_eq s cx c; rw [h]
theorem start_sys (s : State) (cx : Cx) (c : Ctl) : (s.start cx c).sys = s.sys := by
  obtain ⟨_, h⟩ := start_eq s cx c; rw [h]

theorem lane_modGroup_hold (s : State) (gid k : Nat) (b : Bool) :
    (s.modGroup gid fun g => { g with hold := b }).lane gid k = s.lane gid k := by
  unfold State.lane; rw [group_modGroup_self]; rfl

/-- The lanes of the issuing program counter pass the word; the others stand. -/
theorem start_lane (s : State) (cx : Cx) (c : Ctl) (l : Nat) :
    (s.start cx c).lane cx.gid l
      = if l ∈ lanesOf cx.mask ∧ l < (s.group cx.gid).lanes.length then passWord cx s.clock (s.lane cx.gid l) else s.lane cx.gid l := by
  have hcl : ∀ (ls : List Nat) (t : State), (eachLane t ls fun s l => s.modLane cx.gid l (passWord cx s.clock))
      = eachLane t ls fun s l => s.modLane cx.gid l (passWord cx t.clock) := by
    intro ls
    induction ls with
    | nil => intro t; rfl
    | cons a ls ih => intro t; rw [eachLane_cons, eachLane_cons, ih]; rfl
  have h : (s.passAll cx).lane cx.gid l
      = if l ∈ lanesOf cx.mask ∧ l < (s.group cx.gid).lanes.length then passWord cx s.clock (s.lane cx.gid l)
        else s.lane cx.gid l := by
    unfold State.passAll
    rw [hcl]
    exact lane_eachLane_modLane cx.gid (fun _ => passWord cx s.clock) _ (lanesOf_nodup _) _ l
  rw [start_passAll]
  split
  · rw [lane_modGroup_hold, h]
  · exact h

/-- Other groups stand. -/
theorem start_group_other (s : State) (cx : Cx) (c : Ctl) (k : Nat) (h : k ≠ cx.gid) : (s.start cx c).group k = s.group k := by
  have h2 : (s.passAll cx).group k = s.group k := by
    unfold State.passAll
    exact eachLane_proj (fun t : State => t.group k) (fun t l => by rw [group_modLane, if_neg h]) _ _
  rw [start_passAll]
  split
  · rw [group_modGroup, if_neg h]; exact h2
  · exact h2

theorem passAll_group (cx : Cx) (ls : List Nat) (t : State) : ∃ xs : List Lane,
    (eachLane t ls fun s l => s.modLane cx.gid l (passWord cx s.clock)).group cx.gid = { t.group cx.gid with lanes := xs }
      ∧ xs.length = (t.group cx.gid).lanes.length := by
  induction ls generalizing t with
  | nil => exact ⟨_, rfl, rfl⟩
  | cons a ls ih =>
    obtain ⟨xs, hx, hl⟩ := ih (t.modLane cx.gid a (passWord cx t.clock))
    refine ⟨xs, ?_, ?_⟩
    · rw [eachLane_cons, hx, group_modLane, if_pos rfl]; rfl
    · rw [hl, length_modLane]

/-- The issuing group keeps all but its lanes and its hold. -/
theorem start_group (s : State) (cx : Cx) (c : Ctl) : ∃ (ls : List Lane) (b : Bool),
    (s.start cx c).group cx.gid = { s.group cx.gid with lanes := ls, hold := b } ∧ ls.length = (s.group cx.gid).lanes.length := by
  obtain ⟨xs, hx, hl⟩ := passAll_group cx (lanesOf cx.mask) { s with cur := none, nextId := s.nextId + 1 }
  rw [start_passAll]
  split
  · refine ⟨xs, true, ?_, hl⟩
    rw [group_modGroup_self]; unfold State.passAll; rw [hx]; rfl
  · exact ⟨xs, (s.group cx.gid).hold, by unfold State.passAll; rw [hx]; rfl, hl⟩

theorem start_length (s : State) (cx : Cx) (c : Ctl) (k : Nat) :
    ((s.start cx c).group k).lanes.length = (s.group k).lanes.length := by
  by_cases h : k = cx.gid
  · subst h; obtain ⟨ls, b, h1, h2⟩ := start_group s cx c; rw [h1]; exact h2
  · rw [start_group_other s cx c k h]

theorem passWord_vReg (cx : Cx) (n : Nat) (x : Lane) (r : Nat) : (passWord cx n x).vReg r = x.vReg r := rfl
theorem passWord_pReg (cx : Cx) (n : Nat) (x : Lane) (r : Nat) : (passWord cx n x).pReg r = x.pReg r := rfl

theorem start_vReg (s : State) (cx : Cx) (c : Ctl) (l r : Nat) :
    ((s.start cx c).lane cx.gid l).vReg r = (s.lane cx.gid l).vReg r := by
  rw [start_lane]; split <;> rfl
theorem start_pReg (s : State) (cx : Cx) (c : Ctl) (l r : Nat) :
    ((s.start cx c).lane cx.gid l).pReg r = (s.lane cx.gid l).pReg r := by
  rw [start_lane]; split <;> rfl
theorem start_readG (s : State) (cx : Cx) (c : Ctl) (r : Nat) : (s.start cx c).readG cx.gid r = s.readG cx.gid r := by
  obtain ⟨_, _, h, _⟩ := start_group s cx c
  unfold State.readG Group.gReg; rw [h]

/-! ## Register reads (R100) -/

/-- Without an outstanding write a lane reads what the register holds. -/
theorem readV_settled {s : State} {gid l op r : Nat} (h : s.pendingV gid l r = []) : s.readV gid l op r = (s.lane gid l).vReg r := by
  simp [State.readV, State.mixPending, h]
theorem readP_settled {s : State} {gid l op p : Nat} (h : s.pendingP gid l p = []) : s.readP gid l op p = (s.lane gid l).pReg p := by
  unfold State.readP; rw [h]; simp

theorem start_pendingV (s : State) (cx : Cx) (c : Ctl) (g l r : Nat) : (s.start cx c).pendingV g l r = s.pendingV g l r := by
  unfold State.pendingV State.elemBits; rw [start_due, start_eng]
theorem start_pendingP (s : State) (cx : Cx) (c : Ctl) (g l r : Nat) : (s.start cx c).pendingP g l r = s.pendingP g l r := by
  unfold State.pendingP; rw [start_due]

/-! ## Register writes -/

/-- The state with other results on their way and other held accesses: what a register write may change beside its lane. -/
def State.withResults (s : State) (due : List Instr) (jobs : List Job) : State := { s with due := due, ms := { s.ms with jobs := jobs } }

theorem withResults_self (s : State) : s = s.withResults s.due s.ms.jobs := rfl

/-- What a write over outstanding writes does to its state: it mixes with them, or held accesses are overtaken. -/
theorem overV_form (s : State) (gid l r : Nat) (val : Word) : ∃ due jobs, s.overV gid l r val = s.withResults due jobs := by
  unfold State.overV
  simp only
  split
  · exact ⟨_, _, rfl⟩
  · exact ⟨_, _, rfl⟩

theorem past_vReg (x : Lane) (on : Bool) (n r k : Nat) : (x.past on n r).vReg k = x.vReg k := by unfold Lane.past; split <;> rfl
theorem past_pReg (x : Lane) (on : Bool) (n r k : Nat) : (x.past on n r).pReg k = x.pReg k := by unfold Lane.past; split <;> rfl

/-- What a write of a v register does to its state beside the lane: nothing but to the outstanding writes. -/
theorem writeV_form (s : State) (gid l r : Nat) (val : Word) : ∃ (due : List Instr) (jobs : List Job) (f : Lane → Lane),
    s.writeV gid l r val = (s.withResults due jobs).modLane gid l f
      ∧ (∀ x k, (f x).vReg k = if k = r then val else x.vReg k) ∧ (∀ x k, (f x).pReg k = x.pReg k)
      ∧ (∀ x, f x = { x with v := (f x).v, undo := (f x).undo, olds := (f x).olds }) := by
  obtain ⟨d, js, h⟩ : ∃ d js, (if (s.pendingV gid l r).isEmpty && !s.jobWrites gid l r then s else s.overV gid l r val)
      = s.withResults d js := by
    split
    · exact ⟨_, _, withResults_self s⟩
    · exact overV_form ..
  unfold State.writeV
  simp only
  rw [h]
  refine ⟨d, js, _, rfl, ?_, ?_, ?_⟩
  · intro x k; rw [vReg_putV, past_vReg]; split
    · rfl
    · split <;> rfl
  · intro x k
    show ((Lane.past _ _ _ _).pReg k) = _
    rw [past_pReg]; split <;> rfl
  · intro x; unfold Lane.past; split <;> split <;> rfl

/-- Likewise for a predicate. -/
theorem writeP_form (s : State) (gid l p : Nat) (val : Bool) : ∃ (due : List Instr) (jobs : List Job) (f : Lane → Lane),
    s.writeP gid l p val = (s.withResults due jobs).modLane gid l f
      ∧ (∀ x k, (f x).pReg k = if k = p ∧ p < 7 then val else x.pReg k) ∧ (∀ x k, (f x).vReg k = x.vReg k)
      ∧ (∀ x, f x = { x with p := (f x).p, undo := (f x).undo }) := by
  unfold State.writeP
  simp only
  generalize hs : (if (s.pendingP gid l p).isEmpty && !s.jobWrites gid l (256 + p) then s
    else if s.coin (262144 + 64 * p + l) then (s.overtake gid l (256 + p)).dropWrites gid _ else s) = s1
  obtain ⟨d, js, h⟩ : ∃ d js, s1 = s.withResults d js := by
    subst hs
    split
    · exact ⟨_, _, withResults_self s⟩
    · split
      · exact ⟨_, _, rfl⟩
      · exact ⟨_, _, withResults_self s⟩
  rw [h]
  refine ⟨d, js, _, rfl, ?_, ?_, ?_⟩
  · intro x k; rw [pReg_putP]; split
    · rfl
    · split <;> rfl
  · intro x k; unfold Lane.putP; split <;> split <;> rfl
  · intro x; unfold Lane.putP; split <;> split <;> rfl

theorem lane_results (s : State) (d : List Instr) (js : List Job) (g l : Nat) : (s.withResults d js).lane g l = s.lane g l := rfl
theorem group_results (s : State) (d : List Instr) (js : List Job) (g : Nat) : (s.withResults d js).group g = s.group g := rfl

/-- A v register after a write of one. -/
theorem writeV_vReg (s : State) (gid l r : Nat) (val : Word) (k j : Nat) :
    ((s.writeV gid l r val).lane gid k).vReg j
      = if k = l ∧ l < (s.group gid).lanes.length ∧ j = r then val else (s.lane gid k).vReg j := by
  obtain ⟨d, js, f, h, hv, _, _⟩ := writeV_form s gid l r val
  rw [h, lane_modLane, group_results, lane_results, lane_results]
  by_cases h1 : k = l ∧ l < (s.group gid).lanes.length
  · rw [if_pos h1, hv]
    by_cases h2 : j = r
    · rw [if_pos h2, if_pos ⟨h1.1, h1.2, h2⟩]
    · rw [if_neg h2, if_neg (fun h => h2 h.2.2), h1.1]
  · rw [if_neg h1, if_neg (fun h => h1 ⟨h.1, h.2.1⟩)]

theorem writeV_pReg (s : State) (gid l r : Nat) (val : Word) (k j : Nat) :
    ((s.writeV gid l r val).lane gid k).pReg j = (s.lane gid k).pReg j := by
  obtain ⟨d, js, f, h, _, hp, _⟩ := writeV_form s gid l r val
  rw [h, lane_modLane, group_results, lane_results, lane_results]
  split
  · rename_i h1; rw [hp, h1.1]
  · rfl

/-- A predicate after a write of one: p7 keeps its value. -/
theorem writeP_pReg (s : State) (gid l p : Nat) (val : Bool) (k j : Nat) :
    ((s.writeP gid l p val).lane gid k).pReg j
      = if k = l ∧ l < (s.group gid).lanes.length ∧ j = p ∧ p < 7 then val else (s.lane gid k).pReg j := by
  obtain ⟨d, js, f, h, hp, _, _⟩ := writeP_form s gid l p val
  rw [h, lane_modLane, group_results, lane_results, lane_results]
  by_cases h1 : k = l ∧ l < (s.group gid).lanes.length
  · rw [if_pos h1, hp]
    by_cases h2 : j = p ∧ p < 7
    · rw [if_pos h2, if_pos ⟨h1.1, h1.2, h2⟩]
    · rw [if_neg h2, if_neg (fun h => h2 h.2.2), h1.1]
  · rw [if_neg h1, if_neg (fun h => h1 ⟨h.1, h.2.1⟩)]

theorem writeP_vReg (s : State) (gid l p : Nat) (val : Bool) (k j : Nat) :
    ((s.writeP gid l p val).lane gid k).vReg j = (s.lane gid k).vReg j := by
  obtain ⟨d, js, f, h, _, hv, _⟩ := writeP_form s gid l p val
  rw [h, lane_modLane, group_results, lane_results, lane_results]
  split
  · rename_i h1; rw [hv, h1.1]
  · rfl

theorem writeV_length (s : State) (gid l r : Nat) (val : Word) (k : Nat) :
    ((s.writeV gid l r val).group k).lanes.length = (s.group k).lanes.length := by
  obtain ⟨d, js, f, h, _⟩ := writeV_form s gid l r val
  rw [h, length_modLane, group_results]
theorem writeP_length (s : State) (gid l p : Nat) (val : Bool) (k : Nat) :
    ((s.writeP gid l p val).group k).lanes.length = (s.group k).lanes.length := by
  obtain ⟨d, js, f, h, _⟩ := writeP_form s gid l p val
  rw [h, length_modLane, group_results]

end Sys2Proof.Machine
end

