-- ==== Sys2Proof/Laws/Frame.lean ====
section
/-! SUPPORT. What register writes of one group leave alone, and what a class 0 instruction writes to its destination. -/
namespace Sys2Proof.Machine

/-- What register writes of lanes of one group keep; of the memory system they change at most what held accesses will write. -/
structure Kept (gid : Nat) (s t : State) : Prop where
  base : { t.group gid with lanes := [], g := [], cnt := ⟨0, 0, 0, 0⟩, hold := false }
    = { s.group gid with lanes := [], g := [], cnt := ⟨0, 0, 0, 0⟩, hold := false }
  others : ∀ k, k ≠ gid → t.group k = s.group k
  mem : t.mem = s.mem
  ms : { t.ms with jobs := [] } = { s.ms with jobs := [] }
  after : t.after = s.after
  subs : t.subs = s.subs
  blocks : t.blocks = s.blocks
  launches : t.launches = s.launches
  sched : t.sched = s.sched
  eng : t.eng = s.eng
  fab : t.fab = s.fab
  sys : t.sys = s.sys
  waits : t.waits = s.waits
  free : t.free = s.free
  clock : t.clock = s.clock
  nextId : t.nextId = s.nextId
  len : (t.group gid).lanes.length = (s.group gid).lanes.length
  pcs : ∀ l, (t.lane gid l).pc = (s.lane gid l).pc ∧ (t.lane gid l).pos = (s.lane gid l).pos
    ∧ (t.lane gid l).left = (s.lane gid l).left

theorem Kept.refl (gid : Nat) (s : State) : Kept gid s s :=
  ⟨rfl, fun _ _ => rfl, rfl, rfl, rfl, rfl, rfl, rfl, rfl, rfl, rfl, rfl, rfl, rfl, rfl, rfl, rfl, fun _ => ⟨rfl, rfl, rfl⟩⟩

theorem Kept.trans {gid : Nat} {a b c : State} (h : Kept gid a b) (k : Kept gid b c) : Kept gid a c where
  base := k.base.trans h.base
  others := fun j hj => (k.others j hj).trans (h.others j hj)
  mem := k.mem.trans h.mem
  ms := k.ms.trans h.ms
  after := k.after.trans h.after
  subs := k.subs.trans h.subs
  blocks := k.blocks.trans h.blocks
  launches := k.launches.trans h.launches
  sched := k.sched.trans h.sched
  eng := k.eng.trans h.eng
  fab := k.fab.trans h.fab
  sys := k.sys.trans h.sys
  waits := k.waits.trans h.waits
  free := k.free.trans h.free
  clock := k.clock.trans h.clock
  nextId := k.nextId.trans h.nextId
  len := k.len.trans h.len
  pcs := fun l => ⟨(k.pcs l).1.trans (h.pcs l).1, (k.pcs l).2.1.trans (h.pcs l).2.1, (k.pcs l).2.2.trans (h.pcs l).2.2⟩

/-- A relation that each step of a fold keeps. -/
theorem Kept.fold {α : Type} {gid : Nat} {f : State → α → State} (h : ∀ s a, Kept gid s (f s a)) (l : List α) (s : State) :
    Kept gid s (l.foldl f s) := by
  induction l generalizing s with
  | nil => exact Kept.refl gid s
  | cons a l ih => exact (h s a).trans (ih _)

theorem kept_modLane (gid l : Nat) (s : State) (d : List Instr) (js : List Job) (f : Lane → Lane)
    (hf : ∀ x, (f x).pc = x.pc ∧ (f x).pos = x.pos ∧ (f x).left = x.left) :
    Kept gid s ((s.withResults d js).modLane gid l f) := by
  refine ⟨?_, ?_, rfl, rfl, rfl, rfl, rfl, rfl, rfl, rfl, rfl, rfl, rfl, rfl, rfl, rfl, ?_, ?_⟩
  · rw [group_modLane, if_pos rfl]; rfl
  · intro k hk; rw [group_modLane, if_neg hk]; rfl
  · rw [length_modLane]; rfl
  · intro k; rw [lane_modLane, lane_results, lane_results]; split
    · rename_i h; rw [h.1]; exact hf _
    · exact ⟨rfl, rfl, rfl⟩

theorem kept_writeV (s : State) (gid l r : Nat) (val : Word) : Kept gid s (s.writeV gid l r val) := by
  obtain ⟨d, js, f, h, _, _, hf⟩ := writeV_form s gid l r val
  rw [h]; apply kept_modLane
  intro x
  have h1 := congrArg Lane.pc (hf x)
  have h2 := congrArg Lane.pos (hf x)
  have h3 := congrArg Lane.left (hf x)
  exact ⟨h1, h2, h3⟩

theorem kept_writeP (s : State) (gid l r : Nat) (val : Bool) : Kept gid s (s.writeP gid l r val) := by
  obtain ⟨d, js, f, h, _, _, hf⟩ := writeP_form s gid l r val
  rw [h]; apply kept_modLane
  intro x
  have h1 := congrArg Lane.pc (hf x)
  have h2 := congrArg Lane.pos (hf x)
  have h3 := congrArg Lane.left (hf x)
  exact ⟨h1, h2, h3⟩

/-- A write of a g register changes at most its group's g registers and what the clock remembers of such writes. -/
theorem writeG_form (s : State) (gid r : Nat) (val : DWord) : ∃ (gs : List (Nat × DWord)) (c : Cycle),
    s.writeG gid r val = { (s.modGroup gid fun g => { g with g := gs }) with cycle := c } ∨ s.writeG gid r val = s := by
  cases h : s.gLost gid r
  · exact ⟨_, _, .inl (writeG_stands h val)⟩
  · exact ⟨[], s.cycle, .inr (writeG_lost h val)⟩

theorem lane_writeG (s : State) (gid r : Nat) (val : DWord) (k : Nat) : (s.writeG gid r val).lane gid k = s.lane gid k := by
  obtain ⟨gs, c, h | h⟩ := writeG_form s gid r val
  · rw [h]
    show ((s.modGroup gid fun g => { g with g := gs }).group gid).lane k = _
    rw [group_modGroup_self]; rfl
  · rw [h]

theorem kept_writeG (s : State) (gid r : Nat) (val : DWord) : Kept gid s (s.writeG gid r val) := by
  obtain ⟨gs, c, h | h⟩ := writeG_form s gid r val
  · have e : ∀ k, (s.writeG gid r val).group k = (s.modGroup gid fun g => { g with g := gs }).group k := fun k => by rw [h]; rfl
    rw [h]
    refine ⟨?_, ?_, rfl, rfl, rfl, rfl, rfl, rfl, rfl, rfl, rfl, rfl, rfl, rfl, rfl, rfl, ?_, ?_⟩
    · rw [← h, e, group_modGroup_self]
    · intro k hk; rw [← h, e, group_modGroup, if_neg hk]
    · rw [← h, e, group_modGroup_self]
    · intro l; rw [← h, lane_writeG]; exact ⟨rfl, rfl, rfl⟩
  · rw [h]; exact Kept.refl ..

/-- A lane's write of a g register is one of the group, and may record the former value in the lane (R375). -/
theorem writeGOf_form (s : State) (gid lane r : Nat) (x : DWord) : ∃ f : Lane → Lane,
    s.writeGOf gid lane r x = ((s.withResults s.due s.ms.jobs).modLane gid lane f).writeG gid r x
      ∧ ∀ y, f y = { y with undo := (f y).undo } :=
  ⟨_, rfl, fun y => by split <;> rfl⟩

theorem lane_writeGOf (s : State) (gid a r : Nat) (val : DWord) (k : Nat) :
    ∃ u, (s.writeGOf gid a r val).lane gid k = { s.lane gid k with undo := u } := by
  obtain ⟨f, h, hf⟩ := writeGOf_form s gid a r val
  rw [h, lane_writeG, lane_modLane, lane_results, lane_results]
  split
  · rename_i h1; rw [h1.1]; exact ⟨_, hf _⟩
  · exact ⟨_, rfl⟩

theorem writeGOf_vReg (s : State) (gid a r : Nat) (val : DWord) (k j : Nat) :
    ((s.writeGOf gid a r val).lane gid k).vReg j = (s.lane gid k).vReg j := by
  obtain ⟨u, h⟩ := lane_writeGOf s gid a r val k
  rw [h]; rfl
theorem writeGOf_pReg (s : State) (gid a r : Nat) (val : DWord) (k j : Nat) :
    ((s.writeGOf gid a r val).lane gid k).pReg j = (s.lane gid k).pReg j := by
  obtain ⟨u, h⟩ := lane_writeGOf s gid a r val k
  rw [h]; rfl

theorem kept_writeGOf (s : State) (gid lane r : Nat) (val : DWord) : Kept gid s (s.writeGOf gid lane r val) := by
  obtain ⟨f, h, hf⟩ := writeGOf_form s gid lane r val
  rw [h]
  exact (kept_modLane gid lane s _ _ f fun x => by rw [hf x]; exact ⟨rfl, rfl, rfl⟩).trans
    (kept_writeG ..)

/-- A group register after a lane's write of one. -/
theorem readG_writeGOf (s : State) (gid lane r k : Nat) (x : DWord) :
    (s.writeGOf gid lane r x).readG gid k = if k = r ∧ s.gLost gid r = false then x else s.readG gid k := by
  obtain ⟨f, h, _⟩ := writeGOf_form s gid lane r x
  rw [h, readG_writeG]
  have e : ((s.withResults s.due s.ms.jobs).modLane gid lane f).readG gid k = s.readG gid k := by
    unfold State.readG Group.gReg; rw [group_modLane, if_pos rfl]; rfl
  rw [e]; rfl

theorem kept_putDst (s : State) (i : Iss) (l : Nat) (d : Dst) (x : DWord) : Kept i.gid s (s.putDst i l d x) := by
  unfold State.putDst; split
  · unfold State.writeVW; simp only; split
    · exact (kept_writeV ..).trans (kept_writeV ..)
    · exact kept_writeV ..
  · exact kept_writeP ..
  · exact kept_writeGOf ..

theorem readG_writeV (s : State) (gid l r : Nat) (val : Word) (k : Nat) :
    (s.writeV gid l r val).readG gid k = s.readG gid k := by
  obtain ⟨d, js, f, h, _⟩ := writeV_form s gid l r val
  rw [h]; unfold State.readG Group.gReg; rw [group_modLane, if_pos rfl]; rfl

theorem readG_writeP (s : State) (gid l r : Nat) (val : Bool) (k : Nat) :
    (s.writeP gid l r val).readG gid k = s.readG gid k := by
  obtain ⟨d, js, f, h, _⟩ := writeP_form s gid l r val
  rw [h]; unfold State.readG Group.gReg; rw [group_modLane, if_pos rfl]; rfl

/-- The word that a destination leaves in v register `k`; none where it does not write it. -/
def dstWord (d : Dst) (x : DWord) (k : Nat) : Option Word :=
  match d with
  | .v true r => if k = r + 1 then some (hi32 x) else if k = r then some (lo32 x) else none
  | .v false r => if k = r then some (lo32 x) else none
  | .p _ => none
  | .g _ => none
/-- Likewise for a predicate. -/
def dstPred (d : Dst) (x : DWord) (k : Nat) : Option Bool :=
  match d with
  | .p r => if k = r ∧ r < 7 then some (x.getLsbD 0) else none
  | .v _ _ => none
  | .g _ => none

theorem putDst_vReg (s : State) (i : Iss) (a : Nat) (d : Dst) (x : DWord) (ha : a < (s.group i.gid).lanes.length) (l k : Nat) :
    ((s.putDst i a d x).lane i.gid l).vReg k = if l = a then (dstWord d x k).getD ((s.lane i.gid l).vReg k) else (s.lane i.gid l).vReg k := by
  cases d with
  | v b r =>
    cases b <;> simp only [State.putDst, State.writeVW, writeV_vReg, writeV_length, Bool.false_eq_true, if_false, if_true, dstWord, lo32, hi32]
    · by_cases h1 : l = a
      · by_cases h2 : k = r <;> simp [h1, h2, ha]
      · simp [h1]
    · by_cases h1 : l = a
      · by_cases h2 : k = r + 1
        · simp [h1, h2, ha]
        · by_cases h3 : k = r <;> simp [h1, h2, h3, ha]
      · simp [h1]
  | p r => simp [State.putDst, writeP_vReg, dstWord]
  | g r => simp [State.putDst, writeGOf_vReg, dstWord]

theorem putDst_pReg (s : State) (i : Iss) (a : Nat) (d : Dst) (x : DWord) (ha : a < (s.group i.gid).lanes.length) (l k : Nat) :
    ((s.putDst i a d x).lane i.gid l).pReg k = if l = a then (dstPred d x k).getD ((s.lane i.gid l).pReg k) else (s.lane i.gid l).pReg k := by
  cases d with
  | v b r => cases b <;> simp [State.putDst, State.writeVW, writeV_pReg, dstPred]
  | p r =>
    simp only [State.putDst, writeP_pReg, dstPred]
    by_cases h1 : l = a
    · by_cases h2 : k = r ∧ r < 7
      · simp [h1, h2, ha]
      · rw [if_neg (fun h => h2 h.2.2), if_pos h1, if_neg h2]; rfl
    · rw [if_neg (fun h => h1 h.1), if_neg h1]
  | g r => simp [State.putDst, writeGOf_pReg, dstPred]

/-- A destination written in each of several lanes. -/
theorem putAll (i : Iss) (d : Dst) (x : Nat → DWord) (ls : List Nat) (hn : ls.Nodup) (s : State)
    (hl : ∀ l ∈ ls, l < (s.group i.gid).lanes.length) (t : State)
    (ht : t = (ls.map fun l => (l, x l)).foldl (fun (s : State) (y : Nat × DWord) => s.putDst i y.1 d y.2) s) :
    Kept i.gid s t
    ∧ (∀ l k, (t.lane i.gid l).vReg k = if l ∈ ls then (dstWord d (x l) k).getD ((s.lane i.gid l).vReg k) else (s.lane i.gid l).vReg k)
    ∧ (∀ l k, (t.lane i.gid l).pReg k = if l ∈ ls then (dstPred d (x l) k).getD ((s.lane i.gid l).pReg k) else (s.lane i.gid l).pReg k)
    ∧ ((∀ r, d ≠ .g r) → ∀ k, t.readG i.gid k = s.readG i.gid k) := by
  subst ht
  induction ls generalizing s with
  | nil => exact ⟨Kept.refl .., by simp, by simp, fun _ _ => rfl⟩
  | cons a ls ih =>
    have hk := kept_putDst s i a d (x a)
    obtain ⟨i1, i2, i3, i4⟩ := ih (List.nodup_cons.mp hn).2 (s.putDst i a d (x a))
      (fun l hm => by rw [hk.len]; exact hl l (List.mem_cons_of_mem _ hm))
    have ha : a ∉ ls := (List.nodup_cons.mp hn).1
    have hal : a < (s.group i.gid).lanes.length := hl a (List.mem_cons_self ..)
    refine ⟨hk.trans i1, ?_, ?_, ?_⟩
    · intro l k; simp only [List.map_cons, List.foldl_cons]
      rw [i2, putDst_vReg _ _ _ _ _ hal]
      by_cases h1 : l = a
      · subst h1; simp [ha]
      · simp [h1]
    · intro l k; simp only [List.map_cons, List.foldl_cons]
      rw [i3, putDst_pReg _ _ _ _ _ hal]
      by_cases h1 : l = a
      · subst h1; simp [ha]
      · simp [h1]
    · intro hd k; simp only [List.map_cons, List.foldl_cons]
      rw [i4 hd]
      cases d with
      | v b r => cases b <;> simp [State.putDst, State.writeVW, readG_writeV]
      | p r => simp [State.putDst, readG_writeP]
      | g r => exact absurd rfl (hd r)

/-! ## Results on their way -/

theorem kept_bump (s : State) (gid : Nat) (c : Ctr) : Kept gid s (s.bump gid c) := by
  refine ⟨?_, ?_, rfl, rfl, rfl, rfl, rfl, rfl, rfl, rfl, rfl, rfl, rfl, rfl, rfl, rfl, ?_, ?_⟩
  · unfold State.bump; rw [group_modGroup_self]
  · intro k hk; unfold State.bump; rw [group_modGroup, if_neg hk]
  · unfold State.bump; rw [group_modGroup_self]
  · intro l; unfold State.bump State.lane; rw [group_modGroup_self]; exact ⟨rfl, rfl, rfl⟩

theorem kept_send (s : State) (gid : Nat) (i : Instr) : Kept gid s (s.send i) :=
  ⟨rfl, fun _ _ => rfl, rfl, rfl, rfl, rfl, rfl, rfl, rfl, rfl, rfl, rfl, rfl, rfl, rfl, rfl, rfl, fun _ => ⟨rfl, rfl, rfl⟩⟩

theorem kept_later (s : State) (gid id : Nat) (c : Ctr) (ws : List RegWrite) : Kept gid s (s.later gid id c ws) :=
  (kept_bump s gid c).trans (kept_send _ gid _)

theorem group_bump (s : State) (gid : Nat) (c : Ctr) :
    (s.bump gid c).group gid = { s.group gid with cnt := (s.group gid).cnt.bump c } := group_modGroup_self ..

theorem group_later (s : State) (gid id : Nat) (c : Ctr) (ws : List RegWrite) :
    (s.later gid id c ws).group gid = { s.group gid with cnt := (s.group gid).cnt.bump c } := group_bump s gid c

theorem later_due (s : State) (gid id : Nat) (c : Ctr) (ws : List RegWrite) :
    (s.later gid id c ws).due = s.due ++ [.resultReturn ⟨id, gid, some c, 0, ws, []⟩] := rfl

theorem later_lane (s : State) (gid id : Nat) (c : Ctr) (ws : List RegWrite) (l : Nat) :
    (s.later gid id c ws).lane gid l = s.lane gid l := by
  unfold State.lane; rw [group_later]; rfl

theorem later_readG (s : State) (gid id : Nat) (c : Ctr) (ws : List RegWrite) (k : Nat) :
    (s.later gid id c ws).readG gid k = s.readG gid k := by
  unfold State.readG Group.gReg; rw [group_later]

end Sys2Proof.Machine
end

