-- ==== Sys2Proof/Laws/Memory.lean ====
section
/-! SUPPORT. Memory: a byte reads as it was last written, every write keeps the canonical form, and the operations that leave
memory alone. -/
namespace Sys2Proof.Machine

theorem read_write (m : Memory) (a b : Nat) (x : Byte) :
    Memory.read (Memory.write m a x) b = if b = a then x else Memory.read m b := Map.get_set _ _ _ _ _

theorem wf_write (m : Memory) (a : Nat) (x : Byte) (h : Memory.wf m = true) : Memory.wf (Memory.write m a x) = true :=
  Map.ok_set _ _ _ _ h

theorem wf_reset : Memory.wf State.reset.mem = true := rfl

theorem wf_writeBytes (bs : List Byte) (m : Memory) (a : Nat) (h : Memory.wf m = true) :
    Memory.wf (Memory.writeBytes m a bs) = true := by
  induction bs generalizing m a with
  | nil => exact h
  | cons b bs ih => exact ih _ _ (wf_write m a b h)

theorem wf_filter (m : Memory) (p : Host.Cell → Bool) (h : Memory.wf m = true) : Memory.wf (m.filter p) = true :=
  Map.ok_filter _ _ _ h

theorem wf_setLineAt (m : Memory) (line : Nat) (d : BitVec 1024) (h : Memory.wf m = true) :
    Memory.wf (setLineAt m line d) = true := wf_writeBytes _ _ _ h

/-- A write of bytes changes the bytes from its address up, and no other. -/
theorem read_writeBytes (bs : List Byte) (m : Memory) (a b : Nat) :
    Memory.read (Memory.writeBytes m a bs) b = if a ≤ b ∧ b < a + bs.length then bs.getD (b - a) 0 else Memory.read m b := by
  induction bs generalizing m a with
  | nil => simp [Memory.writeBytes]
  | cons x bs ih =>
    simp only [Memory.writeBytes, ih, List.length_cons]
    by_cases h1 : b = a
    · subst h1
      rw [if_neg (by omega), if_pos (by omega), read_write]
      simp
    · by_cases h2 : a + 1 ≤ b ∧ b < a + 1 + bs.length
      · rw [if_pos h2, if_pos (by omega)]
        obtain ⟨k, rfl⟩ : ∃ k, b = a + 1 + k := ⟨b - (a + 1), by omega⟩
        have e1 : a + 1 + k - (a + 1) = k := by omega
        have e2 : a + 1 + k - a = k + 1 := by omega
        rw [e1, e2]; rfl
      · rw [if_neg h2, if_neg (by omega), read_write, if_neg h1]

theorem leBytes_length (n x : Nat) : (leBytes n x).length = n := by
  induction n generalizing x with
  | zero => rfl
  | succ n ih => simp [leBytes, ih]

/-- A line write leaves every byte outside the line. -/
theorem read_setLineAt_other (m : Memory) (line : Nat) (d : BitVec 1024) (a : Nat) (h : a / 128 ≠ line) :
    Memory.read (setLineAt m line d) a = Memory.read m a := by
  unfold setLineAt
  rw [read_writeBytes, leBytes_length, if_neg]
  omega

end Sys2Proof.Machine
end

