-- ==== Sys2Proof/Tests/Slice0.lean ====
section
/-! SUPPORT. Tests: what is ill-formed, words written out from the spec's encodings, values and steps that the spec works out, and
states that meet the hypotheses of the statements. -/
namespace Sys2Proof.Tests
-- one test after another, so that their kernel evaluations do not add up in memory
set_option Elab.async false
set_option maxRecDepth 100000
open Sys2Proof.Machine Sys2Proof.Claims

/-! ## Small states -/

/-- The control fields of a word without guard or marker. -/
def c7 : Ctl := ⟨false, false, false, 7⟩
/-- A lane that stands at the only word of a clause at 0x10000. -/
def lane1 : Lane := { Lane.fresh with live := true, pc := 0x10008, pos := 1, left := 1 }
/-- A group of two lanes of launch 1 in partition 1; lane 1 stands elsewhere. -/
def group1 : Group := { Group.fresh with lid := 1, part := 1, lanes := [lane1, { lane1 with pc := 0x20000, pos := 0, left := 0 }] }
def record1 : Record := ⟨0x10000, 0, 0x30000, 0, 0, 1, 4096, 32, 64, 1, 0, false, false, 100, 1⟩
def launch1 : Launch := ⟨1, 1, 0, 0x40000, record1, 0, 0, [], [], 1, [0], false, false, 0, 0⟩
def block1 : Block := ⟨1, 0, 0, [0], [0], 0, [], [], [], List.replicate 16 Join.fresh, List.replicate 16 Cc.fresh, [], 0⟩
def cx1 : Cx := ⟨0, 1, 0x10008, 1, 1, 0, 0⟩
/-- A translation of the page at 0x10000 to itself in partition 1, of a kind, in the TLB of an agent. -/
def page1 (agent : Nat) (k : PageKind) : TlbEntry := ⟨agent, 1, 0, 0x10000, 2 ^ 16, 0x10000, k, true, true, true, none, 0⟩
/-- The group issues its word on core 0 of partition 1, which translates one page of a kind. -/
def s1k (k : PageKind) : State :=
  let r := State.reset
  { r with cur := some cx1, groups := [(0, group1)], blocks := [block1], launches := [launch1], ms := { r.ms with tlb := [page1 0 k] } }
def s1 : State := s1k .shared
/-- The group changed. -/
def withGroup (s : State) (f : Group → Group) : State := s.modGroup 0 f
/-- Lane 0 changed. -/
def withLane (s : State) (f : Lane → Lane) : State := s.modLane 0 0 f
/-- v register `r` of lane 0 holds `x`. -/
def withV (s : State) (r : Nat) (x : Word) : State := withLane s fun y => { y with v := Map.set 0 y.v r x }
/-- g register `r` holds `x`. -/
def withG (s : State) (r : Nat) (x : DWord) : State := withGroup s fun g => { g with g := Map.set 0 g.g r x }
/-- A join register changed. -/
def withJoin (s : State) (j : Nat) (x : Join) : State := s.setJoin ⟨1, 0⟩ j x

def rrr (ty : Ty) (opx : BitVec 6) : RRR := ⟨c7, 6, 3, 4, 0, ty, .rne, false, false, false, opx⟩
def ef (a b c x imm flags : BitVec 8) : EF := ⟨c7, a, b, c, x, imm, flags⟩
def bf (off : BitVec 32) (reg : BitVec 8) : BF := ⟨c7, reg, false, 0, off⟩
def mf (ty : MTy) (aux : BitVec 8) : MF := ⟨c7, 4, 2, aux, .g, .grp, .relaxed, ty, false, .none, 0⟩

/-! ## Values and steps that the spec works out -/

/-- R115, R120: 32-bit sums wrap, and `.sat` clamps them. -/
theorem test_add_wraps : (opAdd (rrr .i32 0)).fn [0x7FFFFFFF, 1] = 0x80000000
    ∧ (opAdd { rrr .i32 0 with sat := true }).fn [0x7FFFFFFF, 1] = 0x7FFFFFFF := by decide +kernel
/-- R121: `mulhi.i32` of −2 and 3 writes 0xFFFF_FFFF. -/
theorem test_mulhi : (opMulhi (rrr .i32 0)).fn [0xFFFFFFFE, 3] = 0xFFFFFFFF := by decide +kernel
/-- R116: IMM = −1 under `.n32` reads 0xFFFF_FFFF. -/
theorem test_add_immediate : (opAddImm ⟨c7, 6, 3, .n32, .rne, false, 0, 0xFFFFF⟩).fn [1] = 0 := by decide +kernel
/-- R79: −0.3125 in E4M3 is 0xAA; 460 rounds to 0x7E; 470 gives NaN under RNE and 0x7E under RZ or with `.sat`. -/
theorem test_e4m3 : Fl.place Fmt.e4m3 .rne false (.fin true 5 (-4)) = 0xAA ∧ Fl.place Fmt.e4m3 .rne false (.fin false 460 0) = 0x7E
    ∧ Fl.place Fmt.e4m3 .rne false (.fin false 470 0) = 0x7F ∧ Fl.place Fmt.e4m3 .rz false (.fin false 470 0) = 0x7E
    ∧ Fl.place Fmt.e4m3 .rne true (.fin false 470 0) = 0x7E := by decide +kernel
/-- R134: `cvtx.e4m3.i4` of 0x0000_F307 writes 0xB8_44_00_4E. -/
theorem test_cvtx : (opCvtx (rrr .e4m3 0)).fn [0xF307] = 0xB844004E := by decide +kernel
/-- R161: h(0x0040_0000) is 64. -/
theorem test_line_hash : lineHash 0x400000 = 64 := by decide +kernel
/-- R28, R170: `rset.cores(100, 103)` is 0x6000_8090, and `rset.cores(96, 99)` is 0x6000_8009. -/
theorem test_reader_sets : (readerCores s1 0 0x60008090).map coresOf = some [100, 103]
    ∧ (readerCores s1 0 0x60008009).map coresOf = some [96, 99] := by decide +kernel
/-- ADD writes v6 in the lane that takes part, and the lane goes on. -/
theorem test_add_steps : match exec (.add (rrr .i32 0)) (withV (withV s1 3 5) 4 7) with
    | .next t => (t.lane 0 0).vReg 6 = 12 ∧ (t.lane 0 0).pc = 0x10010 ∧ (t.lane 0 1).vReg 6 = 0
    | .fault _ => False
    | .refused _ => False := ⟨by decide +kernel, by decide +kernel, by decide +kernel⟩
/-- EXIT ends the lane; lane 1 stays (R149). -/
theorem test_exit_steps : match exec (.exit ⟨c7, 0, false, 0, 0⟩) s1 with
    | .next t => (t.lane 0 0).live = false ∧ (t.lane 0 1).live = true
    | .fault _ => False
    | .refused _ => False := ⟨by decide +kernel, by decide +kernel⟩
/-- A class 9 word on a compute core traps with cause 0x04 to the launch's handler (R61, R111). -/
theorem test_privileged_steps : match exec (.eret (ef 0 0 0 0 0 0)) s1 with
    | .next t => (t.lane 0 0).xcause = 4 ∧ (t.lane 0 0).pc = 0x30000 ∧ (t.lane 0 0).xpc = 0x10008
    | .fault _ => False
    | .refused _ => False := ⟨by decide +kernel, by decide +kernel, by decide +kernel⟩
/-- An aligned store and load of a word (R203, R204), little-endian. -/
theorem test_store_steps : (s1.poke (.host 1) .shared (2 ^ 48 + 0x10100) (leBytes 4 0x12345678)).peek (2 ^ 48 + 0x10100) 2 = [0x78, 0x56] := by
  decide +kernel
/-- The doublewords of the worked program's reduce-scatter and all-gather graphs (R422). -/
def graphRs : List Nat := [0, 0x100000000, 0x2000008003, 0,
  0, 0x100000000, 0x100002180048002, 0x40000,
  0, 0x1000100000000, 0x2200008003, 0x12100,
  0, 0x2000100000000, 0x2000008006, 0x100,
  0, 0x1000100000020, 0x100002180078005, 0x40000,
  0x2000000000, 0x1000100000000, 0x2200008006, 0x22200,
  0, 0x2000100000000, 0x2000000000, 0x200,
  0, 0x1000100000040, 0x100002100008008, 0x40000,
  0x4000000000, 0x1000100000000, 0x2200000000, 0x32300]
def graphAg : List Nat := [0, 0x100000000, 0x2000000000, 0x1,
  0, 0x100000000, 0x2100008003, 0x10001,
  0, 0x100000000, 0x100002000008003, 0x1,
  0, 0x2000100000000, 0x100002000000000, 0x101,
  0, 0x100000000, 0x100002100008005, 0x20001,
  0, 0x1000100000000, 0x100002100000000, 0x30001]
/-- Both graphs load: no node fails R386. -/
theorem test_worked_graphs : failingNode (nodesOf (graphRs.flatMap (leBytes 8)) 9) = none
    ∧ failingNode (nodesOf (graphAg.flatMap (leBytes 8)) 6) = none := by
  refine ⟨by decide +kernel, by decide +kernel⟩

/-- Words that the spec works out: STN (R206), WAITC, BRA, MSET, TSIGNAL, STAGE, RPUT, COLQ, MMA of an MX type, and a header. -/
theorem test_words_worked :
    decode 0x0867040209088010 = .ok (.stn ⟨c7, 4, 2, 9, .g, .core, .relaxed, .b32, false, .none, 0x10⟩)
    ∧ decode 0x09670A0814010006 = .ok (.waitc ⟨c7, 10, 8, 20, 1, 0, 6⟩)
    ∧ decode 0x06070000FFFFFFE9 = .ok (.bra ⟨c7, 0, false, 0, 0xFFFFFFE9⟩)
    ∧ decode 0x0697000000001500 = .ok (.mset ⟨c7, 0, 0, 0, 0, 21, 0⟩)
    ∧ decode 0x0D37060000000200 = .ok (.tsignal ⟨c7, 6, 0, 0, 0, 2, 0⟩)
    ∧ decode 0x0D67000000000305 = .ok (.stage ⟨c7, 0, 0, 0, 0, 3, 5⟩)
    ∧ decode 0x0E47090405060200 = .ok (.rput ⟨c7, 9, 4, 5, 6, 2, 0⟩)
    ∧ decode 0x0E37020900000001 = .ok (.colq ⟨c7, 2, 9, 0, 0, 0, 1⟩)
    ∧ decode 0x0A87400605030977 = .ok (.mma ⟨c7, 64, 6, 5, 3, 9, 0x77⟩)
    ∧ decode 0x0D050E0C00000000 = .ok (.launch ⟨⟨false, false, false, 5⟩, 14, 12, 0, 0, 0, 0⟩)
    ∧ decode 0x2987080A00000000 = .ok (.inval ⟨⟨false, true, false, 7⟩, 8, 10, 0, 0, 0, 0⟩)
    ∧ readHeader 0xC003FFC000000000 = some ⟨0, 1, 0, 15, 15, 15⟩ := by decide +kernel

/-! ## What WellFormed refuses: one term for each check -/

theorem test_illformed_class0 : ∀ i ∈ ([.add ⟨c7, 6, 3, 4, 1, .i32, .rne, false, false, false, 0⟩,
    .mul ⟨c7, 3, 4, 6, 0, .n64, .rne, true, false, false, 0⟩,
    .add ⟨c7, 6, 3, 4, 0, .i32, .rz, false, false, false, 0⟩,
    .min ⟨c7, 1, 2, 3, 0, .i8, .rne, true, false, false, 0⟩,
    .mulhi ⟨c7, 1, 2, 5, 0, .f32, .rne, false, false, false, 0⟩,
    .mad ⟨c7, 10, 11, 12, 13, .bf16, .rup, true, false, false, 1⟩,
    .fma ⟨c7, 14, 15, 16, 17, .i32, .rne, false, false, true, 0⟩,
    .abs ⟨c7, 1, 2, 1, 0, .i16, .rne, true, false, false, 0⟩,
    .neg ⟨c7, 1, 64, 0, 0, .f32, .rne, false, false, true, 0⟩,
    .and ⟨c7, 2, 4, 6, 0, .i32, .rne, false, false, false, 0⟩,
    .not ⟨c7, 1, 2, 0, 1, .b32, .rne, false, false, false, 0⟩,
    .ttbl ⟨c7, 1, 2, 3, 4, .n32, .rne, false, true, false, 15⟩,
    .shl ⟨c7, 2, 4, 5, 0, .i16, .rne, false, false, false, 0⟩,
    .popc ⟨c7, 1, 2, 0, 0, .b64, .rne, false, true, false, 0⟩,
    .bfe ⟨c7, 1, 2, 3, 0, .f32, .rne, false, false, false, 0⟩,
    .bfi ⟨c7, 1, 2, 3, 4, .b32, .rz, false, false, false, 0⟩,
    .setp ⟨c7, 5, 2, 3, 0, .f32, .rne, false, false, false, 8⟩,
    .sel ⟨c7, 1, 2, 3, 16, .b32, .rne, false, false, false, 0⟩,
    .plop ⟨c7, 1, 2, 11, 0, .i8, .rne, false, false, false, 16⟩,
    .plop ⟨c7, 8, 2, 11, 0, .i8, .rne, false, false, false, 8⟩,
    .cvt ⟨c7, 1, 2, 0, 0, .bf16, .rz, true, false, false, 16⟩,
    .cvtx ⟨c7, 1, 2, 0, 0, .e4m3, .rna, false, false, false, 3⟩,
    .pack ⟨c7, 1, 2, 0, 0, .e2m1, .rne, true, false, false, 8⟩,
    .unpack ⟨c7, 1, 2, 0, 0, .e5m2, .rne, true, false, false, 3⟩,
    .movg ⟨c7, 64, 2, 0, 0, .i32, .rne, false, false, false, 0⟩,
    .addImm ⟨c7, 5, 1, .f32, .rne, false, 0, 0x7⟩,
    .minImm ⟨c7, 1, 2, .i32, .rne, true, 0, 0x80000⟩,
    .andImm ⟨c7, 1, 2, .b32, .rne, false, 1, 0xFF⟩,
    .shlImm ⟨c7, 1, 2, .b32, .rne, false, 0, 64⟩,
    .bfeImm ⟨c7, 1, 2, .n32, .rne, false, 0, 0x10000⟩,
    .setpImm ⟨c7, 3, 2, .i32, .rne, false, 6, 0xFFFFB⟩,
    .movs ⟨c7, 1, 0, .b32, .rne, false, 0, 32⟩,
    .movi ⟨c7, 3, .b64, 0x3F800000⟩] : List Instr), i.wf = false := by decide +kernel
theorem test_illformed_classes1and2 : ∀ i ∈ ([.lxch ⟨c7, 1, 2, 0, 9, .b32, .rne, false, false, false, 0⟩,
    .pagg ⟨c7, 1, 10, 0, 0, .i8, .rne, false, false, false, 4⟩,
    .pmask ⟨c7, 4, 16, 0, 0, .i8, .rne, false, false, false, 1⟩,
    .xred ⟨c7, 1, 2, 0, 0, .n64, .rz, false, false, false, 0⟩,
    .qx ⟨c7, 2, 4, 0, 0, .b64, .rne, false, false, false, 0⟩,
    .rcp ⟨c7, 1, 2, 1, 0, .f32, .rne, false, false, false, 0⟩,
    .div ⟨c7, 1, 2, 3, 0, .i32, .rne, false, true, false, 0⟩,
    .bra ⟨⟨false, false, false, 1⟩, 0, false, 1, 0xFFFFFFFC⟩,
    .brx ⟨c7, 9, false, 0, 0x0⟩,
    .call ⟨c7, 0, true, 0, 0x40⟩,
    .callx ⟨c7, 10, false, 0, 1⟩,
    .ret ⟨c7, 1, false, 0, 0x0⟩,
    .yield ⟨c7, 1, 0, 0, 0, 0x20, 0x0⟩,
    .mset ⟨c7, 8, 255, 255, 255, 0xFC, 0x0⟩,
    .reconv ⟨c7, 3, 0, 0, 0, 1, 0x0⟩,
    .bar ⟨c7, 4, 2, 0, 15, 0x0, 0b10001⟩,
    .arrive ⟨c7, 4, 0, 0, 16, 0x0, 0x0⟩,
    .jset ⟨c7, 4, 0, 0, 3, 0x0, 2⟩] : List Instr), i.wf = false := by decide +kernel
theorem test_illformed_class3 : ∀ i ∈ ([.ld ⟨c7, 4, 2, 0x2, .v, .dev, .relaxed, .b32, false, .none, 0x80⟩,
    .ld ⟨c7, 4, 2, 0x2, .gv, .dev, .rel, .b32, false, .none, 0x80⟩,
    .st ⟨c7, 9, 2, 0x0, .vv, .sys, .rel, .b128, false, .nt, 0x3F0⟩,
    .lds ⟨c7, 4, 9, 0x0, .v, .dev, .acq, .n8, false, .none, 0x3⟩,
    .sts ⟨c7, 4, 63, 0x1, .g, .quad, .acq, .bf16, false, .none, 0x0⟩,
    .ldss ⟨c7, 4, 9, 0x7, .gv, .core, .relaxed, .b32, true, .none, 0x0⟩,
    .stss ⟨c7, 4, 9, 0x7, .g, .quad, .relaxed, .f16, true, .none, 0x0⟩,
    .stn ⟨c7, 4, 2, 0x9, .g, .dev, .rel, .b32, false, .nt, 0x10⟩,
    .repark ⟨c7, 2, 2, 0x9, .g, .grp, .relaxed, .n8, false, .none, 0x0⟩,
    .locate ⟨c7, 1, 4, 0x0, .vv, .grp, .relaxed, .n8, false, .none, 0x0⟩,
    .parkq ⟨c7, 4, 2, 0x0, .g, .grp, .relaxed, .n8, false, .none, 0x80⟩,
    .rstld ⟨c7, 4, 2, 0x0, .v, .grp, .relaxed, .n8, false, .none, 0x10⟩,
    .ldfe ⟨c7, 4, 9, 2, .v, .grp, .relaxed, .b32, false, .none, 0x0⟩,
    .stfe ⟨c7, 4, 9, 0xFF, .v, .grp, .rel, .b32, false, .none, 0x3FF⟩,
    .feset ⟨c7, 4, 9, 0x1, .g, .grp, .relaxed, .b64, false, .none, 0x0⟩,
    .tst ⟨c7, 4, 2, 0x5, .g, .dev, .rel, .n8, false, .none, 0x0⟩,
    .retract ⟨c7, 0, 2, 8, .g, .grp, .relaxed, .b64, false, .none, 0x0⟩,
    .commit ⟨c7, 0, 2, 0x3, .gv, .grp, .relaxed, .n16, false, .none, 0x0⟩,
    .atom ⟨c7, 4, 2, 0x70, .g, .dev, .acqrel, .i32, false, .none, 0x0⟩,
    .atomc ⟨c7, 4, 2, 0x6, .vv, .sys, .relaxed, .n32, false, .none, 0x0⟩,
    .atoms ⟨c7, 5, 9, 0x90, .v, .grp, .relaxed, .b32, false, .none, 0x0⟩,
    .red ⟨c7, 5, 2, 0x70, .g, .quad, .rel, .bf16, false, .nt, 0x0⟩,
    .fence ⟨c7, 0, 0, 0x0, .g, .dev, .relaxed, .n8, false, .none, 0x1⟩,
    .waitc ⟨c7, 10, 7, 20, 5, 0x0, 0x2⟩,
    .clean ⟨c7, 6, 8, 1, 0, 0x0, 0x0⟩,
    .pref ⟨c7, 3, 6, 0x0, .g, .grp, .relaxed, .n8, false, .none, 0x40⟩] : List Instr), i.wf = false := by decide +kernel
theorem test_illformed_classes4and5 : ∀ i ∈ ([.mvec ⟨c7, 4, 6, 8, 10, 0xB5, 0x0⟩,
    .mvwait ⟨c7, 7, 0, 0, 4, 0x0, 0x6⟩,
    .mma ⟨c7, 16, 32, 2, 1, 0x0, 0x46⟩,
    .accz ⟨c7, 1, 0, 2, 0, 0x0, 0x1⟩,
    .accld ⟨c7, 241, 0, 3, 0, 0x5, 0x0⟩,
    .accmv ⟨c7, 32, 4, 3, 1, 4, 0xCB⟩,
    .accst ⟨c7, 6, 60, 3, 4, 0xC, 0x0⟩,
    .accrel ⟨c7, 0, 0, 16, 0, 0x0, 0x0⟩,
    .mmq ⟨c7, 1, 9, 3, 1, 0x55, 0x1D⟩,
    .opfence ⟨c7, 1, 0, 0, 0, 0x0, 0x0⟩,
    .mwait ⟨c7, 0, 0, 2, 0, 0x0, 4⟩,
    .tidld ⟨c7, 6, 0, 0, 1, 0x21, 0x0⟩,
    .tidinv ⟨c7, 1, 0, 0, 0, 0x21, 0x0⟩] : List Instr), i.wf = false := by decide +kernel
theorem test_illformed_classes6and7 : ∀ i ∈ ([.cpy ⟨c7, 6, 8, 1, 2, 0x9, 0x0⟩,
    .cpyg ⟨c7, 8, 9, 0, 2, 9, 0x0⟩,
    .cpywait ⟨c7, 7, 0, 0, 2, 0x0, 1⟩,
    .cpydec ⟨c7, 6, 7, 8, 64, 0xF, 0x0⟩,
    .strmb ⟨c7, 247, 7, 0, 0, 0x0, 0x1⟩,
    .strmu ⟨c7, 250, 0, 0, 0, 0x0, 1⟩,
    .strmq ⟨c7, 4, 3, 0, 0, 0x0, 0x0⟩,
    .launch ⟨c7, 7, 6, 0, 0, 0x0, 2⟩,
    .lwait ⟨c7, 7, 8, 0, 0, 0x0, 9⟩,
    .tspawn ⟨c7, 6, 8, 9, 0, 0x0, 0x1⟩,
    .tsignal ⟨c7, 6, 0, 0, 0, 16, 0x0⟩,
    .tdone ⟨c7, 1, 0, 0, 0, 0x0, 0x0⟩,
    .stloop ⟨c7, 10, 6, 0, 2, 0, 0x0⟩,
    .stage ⟨c7, 0, 0, 0, 0, 0x3, 3⟩,
    .waitl ⟨c7, 0, 0, 0, 0, 0x1, 0⟩,
    .stend ⟨c7, 11, 0, 0, 0, 0x0, 2⟩] : List Instr), i.wf = false := by decide +kernel
theorem test_illformed_classes8and9 : ∀ i ∈ ([.colload ⟨c7, 7, 6, 8, 2, 0x0, 0x0⟩,
    .colrun ⟨c7, 7, 57, 8, 1, 0x0, 0x0⟩,
    .colwait ⟨c7, 7, 0, 0, 1, 0x0, 10⟩,
    .colq ⟨c7, 7, 9, 0, 1, 0x0, 0x1⟩,
    .rput ⟨c7, 9, 4, 5, 6, 4, 0x0⟩,
    .recirc ⟨c7, 5, 6, 8, 0, 0x0, 0x0⟩,
    .csrr ⟨c7, 4, 0, 0, 0, 0x13, 0x0⟩,
    .eret ⟨c7, 0, 0, 0, 0, 0x0, 1⟩,
    .preempt ⟨c7, 5, 6, 0, 1, 0x0, 0x0⟩,
    .keyld ⟨c7, 5, 7, 0, 64, 0x0, 0x0⟩,
    .tlbinv ⟨c7, 4, 5, 0, 0, 0x0, 4⟩,
    .tlblock ⟨c7, 7, 64, 5, 0, 0x0, 0x0⟩,
    .tlbunlk ⟨c7, 4, 0, 0, 0, 0x0, 2⟩,
    .tlbpre ⟨c7, 4, 5, 1, 0, 0x0, 0x0⟩,
    .resume ⟨c7, 3, 4, 1, 0, 0x0, 0x0⟩] : List Instr), i.wf = false := by decide +kernel

/-! ## Words written out from the encodings -/

theorem test_words_class0_registers :
    decode 0x0007060304002000 = .ok (.add ⟨c7, 6, 3, 4, 0, .i32, .rne, false, false, false, 0⟩)
    ∧ decode 0x201707080900A200 = .ok (.sub ⟨⟨false, true, false, 7⟩, 7, 8, 9, 0, .f32, .rz, false, false, false, 0⟩)
    ∧ decode 0x0027020406007100 = .ok (.mul ⟨c7, 2, 4, 6, 0, .n64, .rne, true, false, false, 0⟩)
    ∧ decode 0x0037010205006080 = .ok (.mulhi ⟨c7, 1, 2, 5, 0, .n32, .rne, false, true, false, 0⟩)
    ∧ decode 0x00470A0B0C0DB700 = .ok (.mad ⟨c7, 10, 11, 12, 13, .bf16, .rup, true, false, false, 0⟩)
    ∧ decode 0x00570E0F1011C840 = .ok (.fma ⟨c7, 14, 15, 16, 17, .f16, .rna, false, false, true, 0⟩)
    ∧ decode 0x0067010203000000 = .ok (.min ⟨c7, 1, 2, 3, 0, .i8, .rne, false, false, false, 0⟩)
    ∧ decode 0x007A010203005000 = .ok (.max ⟨⟨false, false, true, 2⟩, 1, 2, 3, 0, .n16, .rne, false, false, false, 0⟩)
    ∧ decode 0x0087010200001100 = .ok (.abs ⟨c7, 1, 2, 0, 0, .i16, .rne, true, false, false, 0⟩)
    ∧ decode 0x009701020000A040 = .ok (.neg ⟨c7, 1, 2, 0, 0, .f32, .rne, false, false, true, 0⟩)
    ∧ decode 0x00A7020406009000 = .ok (.and ⟨c7, 2, 4, 6, 0, .b64, .rne, false, false, false, 0⟩)
    ∧ decode 0x00B7010203008000 = .ok (.or ⟨c7, 1, 2, 3, 0, .b32, .rne, false, false, false, 0⟩)
    ∧ decode 0x00C701023F008080 = .ok (.xor ⟨c7, 1, 2, 63, 0, .b32, .rne, false, true, false, 0⟩)
    ∧ decode 0x00D7010200008000 = .ok (.not ⟨c7, 1, 2, 0, 0, .b32, .rne, false, false, false, 0⟩)
    ∧ decode 0x00E701020304808F = .ok (.ttbl ⟨c7, 1, 2, 3, 4, .b32, .rne, false, true, false, 15⟩)
    ∧ decode 0x00F7020405003000 = .ok (.shl ⟨c7, 2, 4, 5, 0, .i64, .rne, false, false, false, 0⟩)
    ∧ decode 0x0107010203002000 = .ok (.shr ⟨c7, 1, 2, 3, 0, .i32, .rne, false, false, false, 0⟩)
    ∧ decode 0x0117010203008000 = .ok (.rot ⟨c7, 1, 2, 3, 0, .b32, .rne, false, false, false, 0⟩)
    ∧ decode 0x0127010200009000 = .ok (.popc ⟨c7, 1, 2, 0, 0, .b64, .rne, false, false, false, 0⟩)
    ∧ decode 0x0137010200008000 = .ok (.clz ⟨c7, 1, 2, 0, 0, .b32, .rne, false, false, false, 0⟩)
    ∧ decode 0x0147020400009000 = .ok (.brev ⟨c7, 2, 4, 0, 0, .b64, .rne, false, false, false, 0⟩)
    ∧ decode 0x0157010203006000 = .ok (.bfe ⟨c7, 1, 2, 3, 0, .n32, .rne, false, false, false, 0⟩)
    ∧ decode 0x0167010203048000 = .ok (.bfi ⟨c7, 1, 2, 3, 4, .b32, .rne, false, false, false, 0⟩)
    ∧ decode 0x017705020300A007 = .ok (.setp ⟨c7, 5, 2, 3, 0, .f32, .rne, false, false, false, 7⟩)
    ∧ decode 0x0187010203098000 = .ok (.sel ⟨c7, 1, 2, 3, 9, .b32, .rne, false, false, false, 0⟩)
    ∧ decode 0x019701020B000008 = .ok (.plop ⟨c7, 1, 2, 11, 0, .i8, .rne, false, false, false, 8⟩) := by decide +kernel

theorem test_words_class0_immediates :
    decode 0x0207050120000007 = .ok (.addImm ⟨c7, 5, 1, .i32, .rne, false, 0, 0x7⟩)
    ∧ decode 0x02170602310FFFFF = .ok (.subImm ⟨c7, 6, 2, .i64, .rne, true, 0, 0xFFFFF⟩)
    ∧ decode 0x0227010240000003 = .ok (.mulImm ⟨c7, 1, 2, .n8, .rne, false, 0, 0x3⟩)
    ∧ decode 0x0237010220080000 = .ok (.minImm ⟨c7, 1, 2, .i32, .rne, false, 0, 0x80000⟩)
    ∧ decode 0x024701022007FFFF = .ok (.maxImm ⟨c7, 1, 2, .i32, .rne, false, 0, 0x7FFFF⟩)
    ∧ decode 0x02570102800000FF = .ok (.andImm ⟨c7, 1, 2, .b32, .rne, false, 0, 0xFF⟩)
    ∧ decode 0x0267010220000001 = .ok (.orImm ⟨c7, 1, 2, .i32, .rne, false, 0, 0x1⟩)
    ∧ decode 0x02770204900FFFFE = .ok (.xorImm ⟨c7, 2, 4, .b64, .rne, false, 0, 0xFFFFE⟩)
    ∧ decode 0x028701028000001F = .ok (.shlImm ⟨c7, 1, 2, .b32, .rne, false, 0, 0x1F⟩)
    ∧ decode 0x029702043000003F = .ok (.shrImm ⟨c7, 2, 4, .i64, .rne, false, 0, 0x3F⟩)
    ∧ decode 0x02A7010280000008 = .ok (.rotImm ⟨c7, 1, 2, .b32, .rne, false, 0, 0x8⟩)
    ∧ decode 0x02B70302202FFFFB = .ok (.setpImm ⟨c7, 3, 2, .i32, .rne, false, 2, 0xFFFFB⟩)
    ∧ decode 0x02C7010260000804 = .ok (.bfeImm ⟨c7, 1, 2, .n32, .rne, false, 0, 0x804⟩) := by decide +kernel

theorem test_words_class0_moves :
    decode 0x030701020000B30A = .ok (.cvt ⟨c7, 1, 2, 0, 0, .bf16, .rz, true, false, false, 10⟩)
    ∧ decode 0x031701020000D802 = .ok (.cvtx ⟨c7, 1, 2, 0, 0, .e4m3, .rna, false, false, false, 2⟩)
    ∧ decode 0x032701020000F107 = .ok (.pack ⟨c7, 1, 2, 0, 0, .e2m1, .rne, true, false, false, 7⟩)
    ∧ decode 0x033701020000E003 = .ok (.unpack ⟨c7, 1, 2, 0, 0, .e5m2, .rne, false, false, false, 3⟩)
    ∧ decode 0x0347010200008000 = .ok (.mov ⟨c7, 1, 2, 0, 0, .b32, .rne, false, false, false, 0⟩)
    ∧ decode 0x0377010200002000 = .ok (.movg ⟨c7, 1, 2, 0, 0, .i32, .rne, false, false, false, 0⟩)
    ∧ decode 0x036701008000001F = .ok (.movs ⟨c7, 1, 0, .b32, .rne, false, 0, 0x1F⟩)
    ∧ decode 0x035709A03F800000 = .ok (.movi ⟨c7, 9, .f32, 0x3F800000⟩) := by decide +kernel

theorem test_words_class1 :
    decode 0x0407010200098037 = .ok (.lxch ⟨c7, 1, 2, 0, 9, .b32, .rne, false, false, false, 55⟩)
    ∧ decode 0x0417010A00000002 = .ok (.pagg ⟨c7, 1, 10, 0, 0, .i8, .rne, false, false, false, 2⟩)
    ∧ decode 0x0427040300000001 = .ok (.pmask ⟨c7, 4, 3, 0, 0, .i8, .rne, false, false, false, 1⟩)
    ∧ decode 0x043701020000A200 = .ok (.xred ⟨c7, 1, 2, 0, 0, .f32, .rz, false, false, false, 0⟩)
    ∧ decode 0x0447020400009007 = .ok (.qx ⟨c7, 2, 4, 0, 0, .b64, .rne, false, false, false, 7⟩)
    ∧ decode 0x045701020000A000 = .ok (.rcp ⟨c7, 1, 2, 0, 0, .f32, .rne, false, false, false, 0⟩)
    ∧ decode 0x046702030000B300 = .ok (.rsq ⟨c7, 2, 3, 0, 0, .bf16, .rz, true, false, false, 0⟩)
    ∧ decode 0x047703040000C400 = .ok (.sqrt ⟨c7, 3, 4, 0, 0, .f16, .rdn, false, false, false, 0⟩)
    ∧ decode 0x048704050000A700 = .ok (.exp2 ⟨c7, 4, 5, 0, 0, .f32, .rup, true, false, false, 0⟩)
    ∧ decode 0x049705060000B800 = .ok (.log2 ⟨c7, 5, 6, 0, 0, .bf16, .rna, false, false, false, 0⟩)
    ∧ decode 0x04A706070000C100 = .ok (.sin ⟨c7, 6, 7, 0, 0, .f16, .rne, true, false, false, 0⟩)
    ∧ decode 0x04B707080000A200 = .ok (.cos ⟨c7, 7, 8, 0, 0, .f32, .rz, false, false, false, 0⟩)
    ∧ decode 0x04C708090000B500 = .ok (.tanh ⟨c7, 8, 9, 0, 0, .bf16, .rdn, true, false, false, 0⟩)
    ∧ decode 0x04D701020300A080 = .ok (.div ⟨c7, 1, 2, 3, 0, .f32, .rne, false, true, false, 0⟩) := by decide +kernel

theorem test_words_class2 :
    decode 0x0601000DFFFFFFFC = .ok (.bra ⟨⟨false, false, false, 1⟩, 0, true, 5, 0xFFFFFFFC⟩)
    ∧ decode 0x0617080000000000 = .ok (.brx ⟨c7, 8, false, 0, 0x0⟩)
    ∧ decode 0x0627000000000040 = .ok (.call ⟨c7, 0, false, 0, 0x40⟩)
    ∧ decode 0x06370A0000000000 = .ok (.callx ⟨c7, 10, false, 0, 0x0⟩)
    ∧ decode 0x0647000000000000 = .ok (.ret ⟨c7, 0, false, 0, 0x0⟩)
    ∧ decode 0x0657000000000000 = .ok (.exit ⟨c7, 0, false, 0, 0x0⟩)
    ∧ decode 0x0667000000002000 = .ok (.yield ⟨c7, 0, 0, 0, 0, 0x20, 0x0⟩)
    ∧ decode 0x0677000000000700 = .ok (.trap ⟨c7, 0, 0, 0, 0, 0x7, 0x0⟩)
    ∧ decode 0x0687000000000100 = .ok (.bkpt ⟨c7, 0, 0, 0, 0, 0x1, 0x0⟩)
    ∧ decode 0x069703FFFFFFFC00 = .ok (.mset ⟨c7, 3, 255, 255, 255, 0xFC, 0x0⟩)
    ∧ decode 0x06A7030000000000 = .ok (.reconv ⟨c7, 3, 0, 0, 0, 0x0, 0x0⟩)
    ∧ decode 0x06B70402000F0025 = .ok (.bar ⟨c7, 4, 2, 0, 15, 0x0, 0x25⟩)
    ∧ decode 0x06C7040000030000 = .ok (.arrive ⟨c7, 4, 0, 0, 3, 0x0, 0x0⟩)
    ∧ decode 0x06D7040000030001 = .ok (.jset ⟨c7, 4, 0, 0, 3, 0x0, 0x1⟩)
    ∧ decode 0x06E7040000030001 = .ok (.jread ⟨c7, 4, 0, 0, 3, 0x0, 0x1⟩) := by decide +kernel

theorem test_words_class3 :
    decode 0x0807040202588080 = .ok (.ld ⟨c7, 4, 2, 0x2, .gv, .dev, .relaxed, .b32, false, .none, 0x80⟩)
    ∧ decode 0x0817080200A4CBF0 = .ok (.st ⟨c7, 8, 2, 0x0, .vv, .sys, .rel, .b128, false, .nt, 0x3F0⟩)
    ∧ decode 0x0827040900C20003 = .ok (.lds ⟨c7, 4, 9, 0x0, .v, .grp, .acq, .n8, false, .none, 0x3⟩)
    ∧ decode 0x0837043F01150000 = .ok (.sts ⟨c7, 4, 63, 0x1, .g, .quad, .rel, .bf16, false, .none, 0x0⟩)
    ∧ decode 0x0847040907C89000 = .ok (.ldss ⟨c7, 4, 9, 0x7, .v, .core, .relaxed, .b32, true, .none, 0x0⟩)
    ∧ decode 0x0857040907112000 = .ok (.stss ⟨c7, 4, 9, 0x7, .g, .quad, .relaxed, .f16, false, .none, 0x0⟩)
    ∧ decode 0x08670402091C8010 = .ok (.stn ⟨c7, 4, 2, 0x9, .g, .dev, .rel, .b32, false, .none, 0x10⟩)
    ∧ decode 0x0877010209000000 = .ok (.repark ⟨c7, 1, 2, 0x9, .g, .grp, .relaxed, .n8, false, .none, 0x0⟩)
    ∧ decode 0x0887000400800000 = .ok (.locate ⟨c7, 0, 4, 0x0, .vv, .grp, .relaxed, .n8, false, .none, 0x0⟩)
    ∧ decode 0x0897040200008080 = .ok (.parkq ⟨c7, 4, 2, 0x0, .g, .grp, .relaxed, .b32, false, .none, 0x80⟩)
    ∧ decode 0x08A7040200C0C010 = .ok (.rstld ⟨c7, 4, 2, 0x0, .v, .grp, .relaxed, .b128, false, .none, 0x10⟩)
    ∧ decode 0x08B7040901C08000 = .ok (.ldfe ⟨c7, 4, 9, 0x1, .v, .grp, .relaxed, .b32, false, .none, 0x0⟩)
    ∧ decode 0x08C70409FFC083FF = .ok (.stfe ⟨c7, 4, 9, 0xFF, .v, .grp, .relaxed, .b32, false, .none, 0x3FF⟩)
    ∧ decode 0x08D7040901008000 = .ok (.feset ⟨c7, 4, 9, 0x1, .g, .grp, .relaxed, .b32, false, .none, 0x0⟩)
    ∧ decode 0x08E70402051CA000 = .ok (.tst ⟨c7, 4, 2, 0x5, .g, .dev, .rel, .b64, false, .none, 0x0⟩)
    ∧ decode 0x08F700020500A000 = .ok (.retract ⟨c7, 0, 2, 0x5, .g, .grp, .relaxed, .b64, false, .none, 0x0⟩)
    ∧ decode 0x0907000203408000 = .ok (.commit ⟨c7, 0, 2, 0x3, .gv, .grp, .relaxed, .b32, false, .none, 0x0⟩)
    ∧ decode 0x09170402701F8000 = .ok (.atom ⟨c7, 4, 2, 0x70, .g, .dev, .acqrel, .n32, false, .none, 0x0⟩)
    ∧ decode 0x0927040206A0A000 = .ok (.atomc ⟨c7, 4, 2, 0x6, .vv, .sys, .relaxed, .b64, false, .none, 0x0⟩)
    ∧ decode 0x0937050960C08000 = .ok (.atoms ⟨c7, 5, 9, 0x60, .v, .grp, .relaxed, .b32, false, .none, 0x0⟩)
    ∧ decode 0x0947050200150800 = .ok (.red ⟨c7, 5, 2, 0x0, .g, .quad, .rel, .bf16, false, .nt, 0x0⟩)
    ∧ decode 0x09570000001E0001 = .ok (.fence ⟨c7, 0, 0, 0x0, .g, .dev, .acqrel, .n8, false, .none, 0x1⟩)
    ∧ decode 0x09670A0714020002 = .ok (.waitc ⟨c7, 10, 7, 20, 2, 0x0, 0x2⟩)
    ∧ decode 0x0977060800000000 = .ok (.clean ⟨c7, 6, 8, 0, 0, 0x0, 0x0⟩)
    ∧ decode 0x0987060800000000 = .ok (.inval ⟨c7, 6, 8, 0, 0, 0x0, 0x0⟩)
    ∧ decode 0x0997020600000040 = .ok (.pref ⟨c7, 2, 6, 0x0, .g, .grp, .relaxed, .n8, false, .none, 0x40⟩) := by decide +kernel

theorem test_words_classes4and5 :
    decode 0x0A070406080AB400 = .ok (.mvec ⟨c7, 4, 6, 8, 10, 0xB4, 0x0⟩)
    ∧ decode 0x0A17070000010006 = .ok (.mvwait ⟨c7, 7, 0, 0, 1, 0x0, 0x6⟩)
    ∧ decode 0x0A87102002010000 = .ok (.mma ⟨c7, 16, 32, 2, 1, 0x0, 0x0⟩)
    ∧ decode 0x0A87400605030977 = .ok (.mma ⟨c7, 64, 6, 5, 3, 0x9, 0x77⟩)
    ∧ decode 0x0A97000002000001 = .ok (.accz ⟨c7, 0, 0, 2, 0, 0x0, 0x1⟩)
    ∧ decode 0x0AA7200003000500 = .ok (.accld ⟨c7, 32, 0, 3, 0, 0x5, 0x0⟩)
    ∧ decode 0x0AB72004030103CB = .ok (.accmv ⟨c7, 32, 4, 3, 1, 0x3, 0xCB⟩)
    ∧ decode 0x0AC7063C03010C00 = .ok (.accst ⟨c7, 6, 60, 3, 1, 0xC, 0x0⟩)
    ∧ decode 0x0AD7000003000000 = .ok (.accrel ⟨c7, 0, 0, 3, 0, 0x0, 0x0⟩)
    ∧ decode 0x0AE700090301551D = .ok (.mmq ⟨c7, 0, 9, 3, 1, 0x55, 0x1D⟩)
    ∧ decode 0x0AF7000000000000 = .ok (.opfence ⟨c7, 0, 0, 0, 0, 0x0, 0x0⟩)
    ∧ decode 0x0B07000002000005 = .ok (.mwait ⟨c7, 0, 0, 2, 0, 0x0, 0x5⟩)
    ∧ decode 0x0B17060000002100 = .ok (.tidld ⟨c7, 6, 0, 0, 0, 0x21, 0x0⟩)
    ∧ decode 0x0B27000000002100 = .ok (.tidinv ⟨c7, 0, 0, 0, 0, 0x21, 0x0⟩) := by decide +kernel

theorem test_words_class6 :
    decode 0x0C07060800020900 = .ok (.cpy ⟨c7, 6, 8, 0, 2, 0x9, 0x0⟩)
    ∧ decode 0x0C17080900020800 = .ok (.cpyg ⟨c7, 8, 9, 0, 2, 0x8, 0x0⟩)
    ∧ decode 0x0C27080900020100 = .ok (.cpys ⟨c7, 8, 9, 0, 2, 0x1, 0x0⟩)
    ∧ decode 0x0C37070000020002 = .ok (.cpywait ⟨c7, 7, 0, 0, 2, 0x0, 0x2⟩)
    ∧ decode 0x0C470607083F0F00 = .ok (.cpydec ⟨c7, 6, 7, 8, 63, 0xF, 0x0⟩)
    ∧ decode 0x0C57FA0700000001 = .ok (.strmb ⟨c7, 250, 7, 0, 0, 0x0, 0x1⟩)
    ∧ decode 0x0C67FA0000000000 = .ok (.strmu ⟨c7, 250, 0, 0, 0, 0x0, 0x0⟩)
    ∧ decode 0x0C7704FA00000000 = .ok (.strmq ⟨c7, 4, 250, 0, 0, 0x0, 0x0⟩) := by decide +kernel

theorem test_words_class7 :
    decode 0x0D07070600000000 = .ok (.launch ⟨c7, 7, 6, 0, 0, 0x0, 0x0⟩)
    ∧ decode 0x0D17070800000008 = .ok (.lwait ⟨c7, 7, 8, 0, 0, 0x0, 0x8⟩)
    ∧ decode 0x0D27060309000001 = .ok (.tspawn ⟨c7, 6, 3, 9, 0, 0x0, 0x1⟩)
    ∧ decode 0x0D37060000000200 = .ok (.tsignal ⟨c7, 6, 0, 0, 0, 0x2, 0x0⟩)
    ∧ decode 0x0D47000000000000 = .ok (.tdone ⟨c7, 0, 0, 0, 0, 0x0, 0x0⟩)
    ∧ decode 0x0D570A0600020400 = .ok (.stloop ⟨c7, 10, 6, 0, 2, 0x4, 0x0⟩)
    ∧ decode 0x0D67000000000305 = .ok (.stage ⟨c7, 0, 0, 0, 0, 0x3, 0x5⟩)
    ∧ decode 0x0D77000000000101 = .ok (.waitl ⟨c7, 0, 0, 0, 0, 0x1, 0x1⟩)
    ∧ decode 0x0D870B0000000000 = .ok (.stend ⟨c7, 11, 0, 0, 0, 0x0, 0x0⟩) := by decide +kernel

theorem test_words_class8 :
    decode 0x0E07070608000000 = .ok (.colload ⟨c7, 7, 6, 8, 0, 0x0, 0x0⟩)
    ∧ decode 0x0E17071008010000 = .ok (.colrun ⟨c7, 7, 16, 8, 1, 0x0, 0x0⟩)
    ∧ decode 0x0E27070000010006 = .ok (.colwait ⟨c7, 7, 0, 0, 1, 0x0, 0x6⟩)
    ∧ decode 0x0E37070900000001 = .ok (.colq ⟨c7, 7, 9, 0, 0, 0x0, 0x1⟩)
    ∧ decode 0x0E47090405060200 = .ok (.rput ⟨c7, 9, 4, 5, 6, 0x2, 0x0⟩)
    ∧ decode 0x0E57090405060300 = .ok (.rget ⟨c7, 9, 4, 5, 6, 0x3, 0x0⟩)
    ∧ decode 0x0E67040608000000 = .ok (.recirc ⟨c7, 4, 6, 8, 0, 0x0, 0x0⟩) := by decide +kernel

theorem test_words_class9 :
    decode 0x0F07040000000600 = .ok (.csrr ⟨c7, 4, 0, 0, 0, 0x6, 0x0⟩)
    ∧ decode 0x0F17060008002801 = .ok (.csrw ⟨c7, 6, 0, 8, 0, 0x28, 0x1⟩)
    ∧ decode 0x0F27000000000000 = .ok (.eret ⟨c7, 0, 0, 0, 0, 0x0, 0x0⟩)
    ∧ decode 0x0F37000000000000 = .ok (.halt ⟨c7, 0, 0, 0, 0, 0x0, 0x0⟩)
    ∧ decode 0x0F47050600000000 = .ok (.preempt ⟨c7, 5, 6, 0, 0, 0x0, 0x0⟩)
    ∧ decode 0x0F57050700110000 = .ok (.keyld ⟨c7, 5, 7, 0, 17, 0x0, 0x0⟩)
    ∧ decode 0x0F67040500000000 = .ok (.tlbinv ⟨c7, 4, 5, 0, 0, 0x0, 0x0⟩)
    ∧ decode 0x0F77000000000000 = .ok (.tlbsync ⟨c7, 0, 0, 0, 0, 0x0, 0x0⟩)
    ∧ decode 0x0F87070405000000 = .ok (.tlblock ⟨c7, 7, 4, 5, 0, 0x0, 0x0⟩)
    ∧ decode 0x0F97040000000000 = .ok (.tlbunlk ⟨c7, 4, 0, 0, 0, 0x0, 0x0⟩)
    ∧ decode 0x0FA7040500000000 = .ok (.tlbpre ⟨c7, 4, 5, 0, 0, 0x0, 0x0⟩)
    ∧ decode 0x0FB7030400000000 = .ok (.resume ⟨c7, 3, 4, 0, 0, 0x0, 0x0⟩) := by decide +kernel

/-! ## States that meet the statements' hypotheses -/

/-! ## States that meet the statements' hypotheses -/

theorem unbound_of_no_streams (s : State) (gid : Nat) (h : (s.group gid).streams = []) : ∀ r, (s.group gid).bound r = none := by
  intro r
  simp [Group.bound, h]

theorem meets_LaneOperationsComplete :
    laneOpOf (.add (rrr .i32 0)) = some (opAdd (rrr .i32 0)) ∧ (∀ r, (s1.group 0).bound r = none) ∧ ctlOf (.add (rrr .i32 0)) = some c7
      ∧ s1.cur = some cx1 ∧ s1.taking cx1 c7 ≠ [] ∧ s1.holdsIssue 0 (s1.taking cx1 c7) none (opAdd (rrr .i32 0)).dst.writes = false
      ∧ s1.laneTrap 0 (opAdd (rrr .i32 0)) = none ∧ LanesExist s1 cx1 :=
  ⟨rfl, unbound_of_no_streams _ _ (by decide +kernel), by decide +kernel⟩
theorem meets_IntegerArithmetic : Ty.i8.isInt = true ∧ Ty.n64.isInt = true := by decide
theorem meets_BitOperations : 31 < Ty.b32.width ∧ 0 < Ty.b64.width ∧ Ty.b32.isWide = true ∧ Ty.i64.isWide = true := by decide
theorem meets_FloatArithmetic : (∀ t ∈ [Ty.f32, .bf16, .f16], FinVal t (if t = .f32 then 0x3F800000 else 0x3F80)
      ∧ FinVal t (if t = .f32 then 0x7F7FFFFF else 0x3C01))
    ∧ isNanBits .f32 0x7FC00001 ∧ isNanBits .bf16 0xFF81 ∧ isNanBits .f16 0x7C01 ∧ ¬isNanBits .f32 0x7F800000 := by
  refine ⟨by decide +kernel, ?_⟩
  simp [isNanBits]
/-- 1.0 and 0.5 of FP32, their sum, difference and product, and their FMA, are in its range. -/
theorem meets_FloatArithmetic_range : ∀ x : Rat, x ∈ [valOf .f32 0x3F800000 + valOf .f32 0x3F000000, valOf .f32 0x3F800000 - valOf .f32 0x3F000000,
      valOf .f32 0x3F800000 * valOf .f32 0x3F000000, valOf .f32 0x3F800000 * valOf .f32 0x3F000000 + valOf .f32 0x3F800000] →
    InRange (Ty.fmt .f32) x := by
  simp [InRange, valOf, ratOf, fltBits, Ty.fmt, Fmt.f32, Fmt.magBits, Ty.width]
  norm_num
theorem meets_CompareSelectAndMove : (rrr .i32 5).opx.toNat < 6 ∧ Ty.i32.isInt = true ∧ Ty.b64.is64 = true ∧ Ty.f32.is64 = false
    ∧ (Ty.ofCode (rrr .i32 2).opx.toNat).isInt = true ∧ Ty.bf16.width * ((rrr .bf16 1).opx.toNat + 1) ≤ 32
    ∧ 15 < Ty.bf16.width * (rrr .bf16 1).opx.toNat ∧ Ty.bf16.width * ((rrr .bf16 0).opx.toNat + 1) ≤ 31 := by decide
/-- Compares of finite values and of a NaN; conversions from an integer and from a finite value or a NaN; CVTX; UNPACK and PACK. -/
theorem meets_CompareSelectAndMove_floats :
    ((rrr .f16 7).opx.toNat < 8 ∧ FinVal .f16 0x3C00 ∧ FinVal .f16 0xBC01 ∧ isNanBits .f16 0x7C01)
    ∧ (Ty.f16.isFloat = true ∧ (Ty.ofCode (rrr .f16 2).opx.toNat).isFloat = false)
    ∧ (let f := rrr .i8 10
       f.ty.isInt = true ∧ (Ty.ofCode f.opx.toNat).isFloat = true ∧ FinVal (Ty.ofCode f.opx.toNat) 0x3F800000)
    ∧ (let f := rrr .f32 2
       f.ty.isFloat = true ∧ (Ty.ofCode f.opx.toNat).isFloat = false)
    ∧ ((rrr .e4m3 2).opx.toNat < 3 ∧ (rrr .e5m2 0).opx.toNat < 3)
    ∧ (let f := rrr .e2m1 7
       f.ty ∈ [Ty.bf16, .f16, .e4m3, .e5m2, .e2m1] ∧ f.ty.width * (f.opx.toNat + 1) ≤ 32
        ∧ FinBits (Ty.fmt f.ty) ((0xF0000000 : DWord).toNat / 2 ^ (f.ty.width * f.opx.toNat) % 2 ^ f.ty.width)) ∧ FinVal .f32 0x3F800000 := by
  refine ⟨⟨by decide +kernel, by decide +kernel, by decide +kernel, by simp [isNanBits]⟩, ?_⟩
  decide +kernel
theorem meets_RegisterRangeTraps :
    let f : RRR := { rrr .i32 0 with d := 64 }
    laneOpOf (.add f) = some (opAdd f) ∧ (∀ k, (s1.group 0).bound k = none) ∧ ctlOf (.add f) = some c7 ∧ s1.cur = some cx1
      ∧ s1.taking cx1 c7 ≠ [] ∧ s1.holdsIssue 0 (s1.taking cx1 c7) none (opAdd f).dst.writes = false
      ∧ (∃ x ∈ (opAdd f).dst.names ++ (opAdd f).srcs.flatMap Src.names, s1.regsOf (s1.group 0) ≤ x.1)
      ∧ CanTrap s1 0 (s1.taking cx1 c7) ∧ StacksOnChip s1 0 (s1.taking cx1 c7) :=
  ⟨rfl, unbound_of_no_streams _ _ (by decide +kernel), by decide +kernel⟩

theorem meets_CrossLaneReturns : LanesExist s1 cx1 ∧ s1.cur = some cx1
    ∧ (let f := rrr .b32 0x14
       f.opx.toNat / 4 % 8 ∈ [1, 2, 3, 4, 5] ∧ Issues s1 cx1 f.ctl (some .xc)
        (namesDA f f.ty.is64 ++ (if f.opx.getLsbD 5 || f.bg then [] else [f.b.toNat])) (vNames f.ty.is64 f.d).length)
    ∧ (Issues s1 cx1 c7 (some .xc) [] 1 ∧ (rrr .i8 3).opx.toNat < 4) ∧ Issues s1 cx1 c7 (some .xc) [(rrr .i8 0).d.toNat] 1
    ∧ (let f := rrr .f32 2
       Issues s1 cx1 f.ctl (some .xc) (namesDA f false) 1 ∧ f.opx.toNat < 3)
    ∧ (let f := rrr .b32 5
       Issues s1 cx1 f.ctl (some .xc) (namesDA f false) 1 ∧ 3 ≤ f.opx.toNat ∧ f.opx.toNat < 6)
    ∧ (let f := rrr .b32 7
       0 < f.opx.toNat ∧ f.opx.toNat < 8 ∧ Issues s1 cx1 f.ctl (some .xc) (namesDA f f.ty.is64) (vNames f.ty.is64 f.d).length) := by
  decide +kernel
theorem meets_SpecialFunctionsReturn : LanesExist s1 cx1 ∧ Issues s1 cx1 c7 (some .xc) (namesDA (rrr .f32 0) false) 1
    ∧ Issues s1 cx1 c7 (some .xc) (namesDA (rrr .f32 0) false ++ [4]) 1 := by decide +kernel
theorem meets_BranchesGo : LanesExist s1 cx1 ∧ Issues s1 cx1 c7 none [] 0 ∧ Issues s1 cx1 c7 none [8, 9] 0 := by decide +kernel
/-- Lane 0 has a call frame on its stack, or 64. -/
def called (n : Nat) (trap : Bool) : State := withLane s1 fun y => { y with stack := List.replicate n ⟨0x20000, trap, 0, 0, 0⟩ }
/-- Partition 1 has its call-stack region at 0x10000, and lane 0 a stack of call frames. -/
def deep (n : Nat) : State := ((called n false).setCsr (stkKey 1) 0x10001).setCsr (csrPart 1 0x06) 1
abbrev frameAt (s : State) (acc : Access) : Prop :=
  let x := s.xlate (s.kernelWalker (keyOf 0) (s.group 0).part (some (quadOfGid 0))) 0x10000 acc
  x.2 = .ok (2 ^ 48 + 0x10000) .shared ∧ (2 ^ 48 + 0x10000) % 128 + 8 ≤ 128 ∧ Quiet x.1
theorem meets_CallsAndReturns_region :
    (0 < ((deep 4).group 0).lanes.length ∧ ((deep 4).lane 0 0).stack.length = 4 ∧ ((deep 4).lane 0 0).stack[3]? ≠ none
      ∧ (deep 4).frameVa 0 0 0 = some 0x10000
      ∧ frameAt ((deep 4).modLane 0 0 fun x => { x with stack := ⟨0x10010, false, 0, 0, 0⟩ :: x.stack }) .write)
    ∧ ((deep 5).lane 0 0).stack.length = 5 ∧ 0 < ((deep 5).group 0).lanes.length ∧ (deep 5).frameVa 0 0 0 = some 0x10000
      ∧ frameAt ((deep 5).modLane 0 0 fun x => { x with stack := x.stack.drop 1 }) .read := by
  refine ⟨by decide +kernel, by decide +kernel⟩
theorem meets_CallsAndReturns : LanesExist s1 cx1 ∧ (s1.group 0).sys = false ∧ Issues s1 cx1 c7 none [] 0
    ∧ Issues s1 cx1 c7 none [8, 9] 0 ∧ (∀ l ∈ s1.taking cx1 c7, (s1.lane 0 l).stack.length < 64) ∧ StacksOnChip s1 0 (s1.taking cx1 c7)
    ∧ (LanesExist (called 64 false) cx1 ∧ (called 64 false).taking cx1 c7 = [0] ∧ Issues (called 64 false) cx1 c7 none [] 0
      ∧ 64 ≤ ((called 64 false).lane 0 0).stack.length)
    ∧ (LanesExist (called 1 true) cx1 ∧ Issues (called 1 true) cx1 c7 none [] 0 ∧ ((called 1 true).lane 0 0).stack ≠ []) := by
  decide +kernel
theorem meets_ExitEndsLanes : LanesExist s1 cx1 ∧ Issues s1 cx1 c7 none [] 0 ∧ (1 < (s1.group 0).lanes.length ∧ 1 ∉ s1.taking cx1 c7
    ∧ (s1.lane 0 1).live = true) := by decide +kernel
/-- Lane 0 is the group's last, and nothing of the group is in flight. -/
theorem meets_ExitEndsLanes_last :
    let s := withGroup s1 fun g => { g with lanes := [lane1] }
    LanesExist s cx1 ∧ Issues s cx1 c7 none [] 0 ∧ (∀ l, l < (s.group 0).lanes.length → l ∈ s.taking cx1 c7) ∧ s.hasGroup 0 = true
      ∧ (s.group 0).sys = false ∧ (s.group 0).cnt.zero = true ∧ (s.group 0).task = none ∧ (∀ j, j < 16 → (s.join (s.group 0).blk j).phase = none)
      ∧ s.eng.mat = [] ∧ s.ms.bank = [] := by decide +kernel
theorem meets_TrapsEnterTheHandlerOrEndTheLaunch : Issues s1 cx1 c7 none [] 0 ∧ CanTrap s1 0 (s1.taking cx1 c7)
    ∧ (let s := called 1 true
       Issues s cx1 c7 none [] 0 ∧ (s.group 0).sys = false ∧ (s.group 0).serving = false ∧ s.launch (s.group 0).lid = some launch1
        ∧ launch1.ending = false ∧ 0 ∈ s.taking cx1 c7 ∧ ∃ r ∈ (s.lane 0 0).stack, r.trap = true)
    ∧ (Issues (called 64 false) cx1 c7 none [] 0 ∧ 64 ≤ ((called 64 false).lane 0 0).stack.length) := by decide +kernel
theorem meets_PrivilegedWordsTrap : s1.cur = some cx1 ∧ isSysGid 0 = false ∧ CanTrap s1 0 (lanesOf cx1.mask)
    ∧ (LanesExist s1 cx1 ∧ Issues s1 cx1 c7 (some .mc) [(ef 7 4 5 0 0 0).a.toNat] 0 ∧ Issues s1 cx1 c7 none [] 0
      ∧ Issues s1 cx1 c7 (some .mc) [] 0)
    ∧ (let s := { s1 with mem := [(2 ^ 48 + 0x10008, 0xFF), (2 ^ 48 + 0x1000F, 0x1F)] }
       ∃ pa k, (s.xlate (s.laneWalker 0) cx1.pc .fetch).2 = .ok pa k
        ∧ opClass (opcodeOf (BitVec.ofNat 64 (leNat ((s.xlate (s.laneWalker 0) cx1.pc .fetch).1.peek pa 8)))) = none) := by
  refine ⟨by decide +kernel, by decide +kernel, by decide +kernel, by decide +kernel, ?_⟩
  exact ⟨2 ^ 48 + 0x10008, .shared, by decide +kernel⟩
/-- Lane 0 of the group yields, for no clock or until the next pick. -/
def yields (pick : Option Nat) : State :=
  { withLane s1 fun y => { y with park := some 7 } with waits := [⟨7, 0, 1, 0, cx1, .yield 0 pick, false⟩] }
theorem meets_YieldParksAndExpires : LanesExist s1 cx1 ∧ Issues s1 cx1 c7 none [] 0
    ∧ ∀ p ∈ [none, some 3], let s := yields p
      (s.wait 7).map (fun w => (w.kind, w.id, w.gid, w.lanes)) = some (.yield 0 p, 7, 0, 1) ∧ 0 ≤ s.clock ∧ (s.group 0).picked ≠ 3
        ∧ 0 ∈ lanesOf (1 : LaneMask) ∧ (s.lane 0 0).park = some 7 := by decide +kernel
/-- Mask register 3 holds lanes at an address. -/
def masked (m : LaneMask) (a : DWord) : State := withGroup s1 fun g => { g with m := g.m.set 3 ⟨m, a⟩ }
/-- Slot B issues in a clock in which slot A has written the mask. -/
def inSlotB : State := { s1 with cycle := ⟨[], true, [(0, 64 + 3)]⟩ }
theorem meets_ConvergenceMasks :
    let f := ef 3 0 0 0 0 0
    (∀ s ∈ [s1, inSlotB], LanesExist s cx1 ∧ Issues s cx1 c7 none [] 0 ∧ f.a.toNat < (s.group 0).m.length)
    ∧ (s1.cycle.slotB = false ∧ (inSlotB.cycle.slotB && inSlotB.cycle.wrote.contains (0, 64 + f.a.toNat)) = true)
    ∧ (let s := masked 1 0x50000
       Issues s cx1 c7 none [] 0 ∧ f.a.toNat < (s.group 0).m.length ∧ ((s.group 0).m.getD 3 ⟨0, 0⟩).mask ≠ 0
        ∧ ((s.group 0).m.getD 3 ⟨0, 0⟩).addr ≠ cx1.pc ∧ CanTrap s 0 (s.taking cx1 c7))
    ∧ (let s := masked 2 0x10008
       Issues s cx1 c7 none [] 0 ∧ ((s.group 0).m.getD 3 ⟨0, 0⟩).addr = cx1.pc
        ∧ ∀ l ∈ s.taking cx1 c7, ((s.group 0).m.getD 3 ⟨0, 0⟩).mask.getLsbD l = false)
    ∧ (let s := masked 3 0x10008
       Issues s cx1 c7 none [] 0 ∧ LanesExist s cx1 ∧ ((s.group 0).m.getD 3 ⟨0, 0⟩).addr = cx1.pc
        ∧ ((s.group 0).m.getD 3 ⟨0, 0⟩).mask.getLsbD 1 = true ∧ 1 ∉ s.taking cx1 c7 ∧ s.waits = []) := by decide +kernel
/-- Lane 0 arrives as the last of its mask: alone, or with lane 1 parked there. -/
theorem meets_ConvergenceMasks_released :
    let alone := masked 1 0x10008
    let both := { (masked 3 0x10008).modLane 0 1 (fun y => { y with park := some 7 }) with waits := [⟨7, 0, 2, 0, cx1, .reconv 3, false⟩] }
    (∀ s ∈ [alone, both], LanesExist s cx1 ∧ Issues s cx1 c7 none [] 0 ∧ ((s.group 0).m.getD 3 ⟨0, 0⟩).addr = cx1.pc
      ∧ (∃ l ∈ s.taking cx1 c7, ((s.group 0).m.getD 3 ⟨0, 0⟩).mask.getLsbD l = true))
    ∧ (∀ l, l < 32 → ((alone.group 0).m.getD 3 ⟨0, 0⟩).mask.getLsbD l = true → l ∈ alone.taking cx1 c7)
    ∧ (∀ l, l < 32 → ((both.group 0).m.getD 3 ⟨0, 0⟩).mask.getLsbD l = true → l ∈ both.taking cx1 c7 ∨ ∃ w ∈ both.waits, w.gid = 0
      ∧ w.kind = .reconv 3 ∧ w.lanes.getLsbD l = true ∧ (both.lane 0 l).park = some w.id) := by decide +kernel
/-- Join register 3 holds a value, and v2 of lane 0 a count or a token. -/
def joined (x : Join) (v2 : Word) : State := withV (withJoin s1 3 x) 2 v2
/-- Issue conditions of a word over v2. -/
abbrev ready (s : State) (n : Nat) : Prop := LanesExist s cx1 ∧ Issues s cx1 c7 none [2] n

/-- The group without a block, as on a system core. -/
def onSystem : State := { s1 with blocks := [] }
/-- A lane of another group of the block waits in WAITC on the token of join register 3. -/
def asked1 : State :=
  { s1 with groups := s1.groups ++ [(1, group1)], waits := [⟨9, 1, 1, 0, cx1, .waitc [⟨1, 0, false, 3, 0, 0, 0, .shared⟩] false 100 8 .core, false⟩] }
theorem meets_JoinRegistersAreSetAndRead :
    let f := ef 2 0 0 3 0 0
    let x := s1.join ⟨1, 0⟩ 3
    (ready s1 0 ∧ s1.block (s1.group 0).blk = some block1 ∧ f.x.toNat < block1.joins.length)
    ∧ (((s1.start cx1 c7).readV 0 (issOf s1 cx1 c7).low 1 2).toNat ≤ 12288 ∧ x.a = 0 ∧ s1.waits = [] ∧ x.phase = none)
    ∧ (let s := joined { Join.fresh with a := 1 } 12289
       ready s 0 ∧ (∃ b, s.block (s.group 0).blk = some b ∧ f.x.toNat < b.joins.length) ∧ CanTrap s 0 (s.taking cx1 c7)
        ∧ 12288 < ((s.start cx1 c7).readV 0 (issOf s cx1 c7).low 1 2).toNat)
    ∧ (let s := joined { Join.fresh with a := 1 } 12288
       ready s 0 ∧ (∃ b, s.block (s.group 0).blk = some b ∧ f.x.toNat < b.joins.length) ∧ CanTrap s 0 (s.taking cx1 c7)
        ∧ (s.join (s.group 0).blk 3).a ≠ 0)
    ∧ ready s1 1 ∧ (LanesExist onSystem cx1 ∧ Issues onSystem cx1 c7 none [2] 1 ∧ Issues onSystem cx1 c7 none [2] 0
      ∧ onSystem.block (onSystem.group 0).blk = none ∧ onSystem.waits = [] ∧ onSystem.join (onSystem.group 0).blk 3 = Join.fresh)
    ∧ (ready asked1 0 ∧ CanTrap asked1 0 (asked1.taking cx1 c7) ∧ ∃ w ∈ asked1.waits, (asked1.group w.gid).blk = (asked1.group 0).blk
      ∧ w.kind = .waitc [⟨1, 0, false, 3, 0, 0, 0, .shared⟩] false 100 8 .core ∧ (asked1.join (asked1.group 0).blk 3).t = 0) := by
  refine ⟨by decide +kernel, by decide +kernel, ?_, ?_, by decide +kernel, by decide +kernel, by decide +kernel⟩
  · refine ⟨by decide +kernel, ⟨_, rfl, by decide +kernel⟩, by decide +kernel⟩
  · refine ⟨by decide +kernel, ⟨_, rfl, by decide +kernel⟩, by decide +kernel⟩

theorem meets_ArrivalsCompletePhases :
    let f := ef 2 0 0 3 0 0b10000
    let last := joined { Join.fresh with e := 2, a := 1 } 0
    let more := joined { Join.fresh with e := 3, a := 1 } 0
    let second := joined { Join.fresh with e := 2, a := 1, last := 1 } 0
    (∀ s ∈ [last, more, second], ready s 1 ∧ Issues s cx1 c7 none [] 0 ∧ (∀ b ∈ s.blocks, f.x.toNat < b.joins.length)
      ∧ (s.block (s.group 0).blk).isSome = true ∧ (∀ l ∈ lanesOf cx1.mask, (s.lane 0 l).park = none)
      ∧ (s.join (s.group 0).blk 3).mode = false ∧ (s.join (s.group 0).blk 3).a + (s.taking cx1 c7).length ≤ (s.join (s.group 0).blk 3).e)
    ∧ ((second.join (second.group 0).blk 3).last = second.clock + 1 ∧ (second.join (second.group 0).blk 3).a + 1 = (second.join (second.group 0).blk 3).e)
    ∧ ((last.join (last.group 0).blk 3).last ≠ last.clock + 1 ∧ (more.join (more.group 0).blk 3).last ≠ more.clock + 1)
    ∧ (onSystem.block (onSystem.group 0).blk = none ∧ ∀ l ∈ lanesOf cx1.mask, (onSystem.lane 0 l).park = none)
    ∧ (last.join (last.group 0).blk 3).a + (last.taking cx1 c7).length = (last.join (last.group 0).blk 3).e
    ∧ (more.join (more.group 0).blk 3).a + (more.taking cx1 c7).length < (more.join (more.group 0).blk 3).e
    ∧ f.flags.getLsbD 0 = false ∧ f.flags.getLsbD 4 = true := by decide +kernel

/-- A lane of group 1, of the same block, waits on a token at join register 3, with its status in p2. -/
def waitsBar (t : Word) : State :=
  { joined { Join.fresh with e := 2, a := 1, t := 5 } 0 with
    groups := [(0, group1), (1, { group1 with num := 1, lanes := [{ lane1 with park := some 9 }] })]
    waits := [⟨9, 1, 1, 0, cx1, .bar 3 t .core (some 2), false⟩] }
/-- BAR on a token that it holds in v2, against a register whose token is 8. -/
def tokens (t : Word) : State := joined { Join.fresh with t := 8 } t
abbrev asks (t : Word) (d : Nat → Prop) : Prop :=
  ready (tokens t) 0 ∧ (tokens t).taking cx1 c7 = [0] ∧ ((tokens t).join ⟨1, 0⟩ 3).mode = false
    ∧ d (((tokens t).join ⟨1, 0⟩ 3).t - ((tokens t).start cx1 c7).readV 0 0 1 2).toNat
theorem meets_BarWaitsOnTokens_waits :
    let f := ef 2 2 0 3 0 0b100001
    (f.flags.getLsbD 0 = true ∧ f.flags.getLsbD 4 = false ∧ f.flags.getLsbD 5 = true ∧ f.b.toNat < 7)
    ∧ asks 7 (fun d => d = 1) ∧ asks 8 (fun d => d = 0) ∧ asks 9 (fun d => d = 4294967295) := by
  refine ⟨by decide +kernel, by decide +kernel, by decide +kernel, by decide +kernel⟩
theorem meets_BarWaitsOnTokens_signing :
    let s := joined { Join.fresh with mode := true } 0
    (s.join (s.group 0).blk 3).mode = true ∧ s.taking cx1 c7 = [0] ∧ CanTrap s 0 [0] ∧ ready s 0 ∧ ready s 1 := by decide +kernel
abbrev releases (t : Word) : Prop :=
  (LanesExist (waitsBar t) cx1 ∧ (waitsBar t).taking cx1 c7 = [0] ∧ Issues (waitsBar t) cx1 c7 none [2] 1)
    ∧ ((waitsBar t).block ((waitsBar t).group 0).blk = (waitsBar t).blocks[0]? ∧ ∀ b ∈ (waitsBar t).blocks, 3 < b.joins.length)
    ∧ (waitsBar t).waits = [⟨9, 1, 1, 0, cx1, .bar 3 t .core (some 2), false⟩]
    ∧ (1 ≠ cx1.gid ∧ ((waitsBar t).group 1).blk = ((waitsBar t).group 0).blk
      ∧ ∀ k ∈ lanesOf 1, k < ((waitsBar t).group 1).lanes.length ∧ ((waitsBar t).lane 1 k).park = some 9)
    ∧ ((waitsBar t).join ⟨1, 0⟩ 3).mode = false ∧ ((waitsBar t).join ⟨1, 0⟩ 3).e = ((waitsBar t).join ⟨1, 0⟩ 3).a + 1
    ∧ ((waitsBar t).join ⟨1, 0⟩ 3).t = 5 ∧ ((waitsBar t).join ⟨1, 0⟩ 3).last ≠ (waitsBar t).clock + 1
theorem meets_BarWaitsOnTokens_released : releases 5 ∧ releases 6 := by
  refine ⟨by decide +kernel, by decide +kernel⟩

/-! ### Memory instructions: g2 holds an address of the page -/

/-- g2 of the group holds an address; the page has a kind. -/
def at2 (k : PageKind) (a : DWord) : State := withG (s1k k) 2 a
/-- A memory word issues with its names, and its lane passes the checks, alone in its line. -/
abbrev passes (s : State) (f : MF) (ctr : Ctr) (names : List Nat) (writes : Nat) (acc : Access) (n : Nat) (second : Bool) : Prop :=
  LanesExist s cx1 ∧ Issues s cx1 f.ctl (some ctr) names writes ∧ AllPass s cx1 f acc n second ∧ Quiet s
    ∧ ((check s cx1 f acc n second).ok.length = 1 ∧ InLine (check s cx1 f acc n second).ok n)
    ∧ s.taking cx1 f.ctl = [0] ∧ isSysGid cx1.gid = false ∧ NoneHeld s 0 [0] ∧ Ungated s 0 (check s cx1 f acc n second).ok

theorem meets_LoadsReturnMemory :
    passes (at2 .shared 0x10100) (mf .b32 0) .ldc (dataNames (mf .b32 0) ++ addrNames (mf .b32 0)) (MTy.regs .b32) .read 4 false
    ∧ passes (at2 .shared 0x10100) (mf .b128 0) .ldc (dataNames (mf .b128 0) ++ addrNames (mf .b128 0)) (MTy.regs .b128) .read 16 false
    ∧ (0 < (s1.group 0).lanes.length ∧ (s1.lane 0 0).live = true ∧ s1.after = [] ∧ (s1.lane 0 0).exited = false)
    ∧ ((withLane s1 fun y => { y with exited := true }).lane 0 0).exited = true := by decide +kernel
theorem meets_StoresSetOutAndStand :
    passes (at2 .shared 0x10100) (mf .b32 0) .stc (dataNames (mf .b32 0) ++ addrNames (mf .b32 0)) 0 .write 4 false
    ∧ Plain [⟨4, 7, 0⟩, ⟨127, 8, 0⟩] ∧ Quiet s1 ∧ Plain ((List.range 16).map fun k => ⟨64 + k, 7, 0⟩) := by decide +kernel
/-- g2 holds a scratchpad offset, and v0 the group's own block and quad place 0. -/
theorem meets_ScratchpadAccesses :
    let s := withG s1 2 0x40
    let f := mf .b32 0
    let i := issOf s cx1 c7
    LanesExist s cx1
    ∧ (Issues s cx1 c7 (some .ldc) (dataNames f ++ addrNames f) (MTy.regs f.ty) ∧ (checkS s cx1 f false ((s.start cx1 c7).ownBlock i)).2 = [])
    ∧ (Issues s cx1 c7 (some .ldc) (dataNames f ++ addrNames f ++ [f.aux.toNat]) (MTy.regs f.ty)
      ∧ (checkS s cx1 f true ((s.start cx1 c7).auxBlock i f)).2 = [])
    ∧ (Issues s cx1 c7 (some .stc) (dataNames f ++ addrNames f) 0 ∧ (checkS s cx1 f false ((s.start cx1 c7).ownBlock i)).2 = []
      ∧ (checkS s cx1 f false ((s.start cx1 c7).ownBlock i)).1.map (fun a => (a.lane, a.blk, a.off)) = [(0, ⟨1, 0⟩, 0x40)]
      ∧ (s.block ⟨1, 0⟩).isSome = true)
    ∧ (Issues s cx1 c7 (some .stc) (dataNames f ++ addrNames f ++ [f.aux.toNat]) 0 ∧ (checkS s cx1 f true ((s.start cx1 c7).auxBlock i f)).2 = []
      ∧ (checkS s cx1 f true ((s.start cx1 c7).auxBlock i f)).1.map (fun a => (a.lane, a.blk, a.off)) = [(0, ⟨1, 0⟩, 0x40)])
    ∧ (Quiet s ∧ s.taking cx1 c7 = [0] ∧ NoneHeld s 0 [0] ∧ f.ty ≠ .b128) := by
  decide +kernel
/-- Under `.lax` an LDSS whose offset lies beyond the scratchpad. -/
theorem meets_ScratchpadAccesses_lax :
    let s := withG s1 2 0x1000
    let f : MF := { mf .b32 0 with lax := true }
    let c := checkS s cx1 f true ((s.start cx1 c7).auxBlock (issOf s cx1 c7) f)
    LanesExist s cx1 ∧ Issues s cx1 c7 (some .ldc) (dataNames f ++ addrNames f ++ [f.aux.toNat]) (MTy.regs f.ty)
      ∧ f.lax = true ∧ c.2.map (fun x => x.2.1) = [0x11] ∧ Quiet s := by decide +kernel
/-- g2 holds the scratchpad offset 0x40, v4 the count 2, and the granule there has a bit. -/
def granule (full : Bool) : State :=
  let s := withV (withG s1 2 0x40) 4 2
  if full then s.modBlock ⟨1, 0⟩ fun b => { b with full := [(4, true)] } else s
/-- One lane alone passes the scratchpad checks at 0x40. -/
abbrev alone (s : State) (f : MF) (second : Bool) : Prop :=
  LanesExist s cx1 ∧ s.taking cx1 f.ctl = [0] ∧ NoneHeld s 0 [0]
    ∧ (let c := checkS s cx1 f second ((s.start cx1 f.ctl).ownBlock (issOf s cx1 f.ctl))
       c.1.map (fun a => (a.lane, a.blk, a.off)) = [(0, ⟨1, 0⟩, 0x40)] ∧ c.2 = [])
    ∧ (s.block (s.group 0).blk).isSome = true ∧ s.waits = [] ∧ (∀ y ∈ (s.group 0).lanes, y.park = none) ∧ isSysGid cx1.gid = false
    ∧ Quiet s
theorem parked_none (s : State) (h : ∀ y ∈ (s.group 0).lanes, y.park = none) (l : Nat) : (s.lane 0 l).park = none := by
  unfold State.lane Group.lane
  rcases Nat.lt_or_ge l (s.group 0).lanes.length with hl | hl
  · simpa [List.getD, hl] using h _ (List.getElem_mem hl)
  · simp [List.getD, hl, Lane.fresh]
abbrev granuleOk (b : Bool) : Prop :=
  let f := mf .b32 0
  alone (granule b) f false ∧ alone (granule b) f true ∧ Issues (granule b) cx1 c7 (some .stc) (dataNames f ++ addrNames f) 0
    ∧ Issues (granule b) cx1 c7 (some .ldc) (dataNames f ++ addrNames f) (MTy.regs f.ty)
    ∧ ((granule b).block ⟨1, 0⟩).map (fun x => x.isFull (0x40 / 16)) = some b
theorem meets_FullEmptyBits :
    let f := mf .b32 0
    let s := granule false
    (∀ l, (s.lane 0 l).park = none) ∧ granuleOk true ∧ granuleOk false ∧ Issues s cx1 c7 (some .stc) (f.data.toNat :: addrNames f) 0
      ∧ (s.start cx1 c7).offs (issOf s cx1 c7) f true = [(0, 0x40)] ∧ 0x40 % 16 = 0
      ∧ 0x40 + 16 * ((s.start cx1 c7).readV 0 0 16 f.data.toNat).toNat ≤ s.scratchSize (s.group 0).blk := by
  refine ⟨parked_none _ (by decide +kernel), ?_, ?_, by decide +kernel⟩
  · exact ⟨by decide +kernel, by decide +kernel, by decide +kernel⟩
  · exact ⟨by decide +kernel, by decide +kernel, by decide +kernel⟩
theorem meets_AtomicsReturnTheOldValue :
    let f := mf .i32 0
    passes (at2 .shared 0x10100) f .ldc (dataNames f ++ addrNames f) (MTy.regs f.ty) .atomic 4 true
    ∧ Issues (at2 .shared 0x10100) cx1 c7 (some .ldc) (dataNames f ++ addrNames f ++ vNames (4 == 8) f.aux) (MTy.regs f.ty)
    ∧ alone (granule true) f true ∧ f.ty ≠ .b128 ∧ Issues (granule true) cx1 c7 (some .ldc) (dataNames f ++ addrNames f) (MTy.regs f.ty) := by
  decide +kernel
theorem meets_ReductionsRestAndApply :
    let f := mf .i32 0
    passes (at2 .shared 0x10100) f .stc (dataNames f ++ addrNames f) 0 .atomic 4 true
    ∧ (∀ a ∈ (check (at2 .shared 0x10100) cx1 f .atomic 4 true).ok, a.kind ≠ .ms) ∧ f.ord ≠ .rel ∧ isSysGid 0 = false
    ∧ Quiet s1 ∧ lineOf 0x10100 = 0x202 ∧ 0x10100 % 128 + MTy.bytes .i64 ≤ 128 ∧ MTy.bytes .i64 ≤ 8 := by decide +kernel
/-- v5 of lane 0 holds a reader word. -/
def reads (k : PageKind) (w : Word) : State := withV (at2 k 0x10100) 5 w
/-- The line is parked in core 1's L1. -/
def parks (st : ParkState) : State :=
  let s := at2 .shared 0x10100
  { s with ms := { s.ms with parks := [⟨lineOf (2 ^ 48 + 0x10100), .l1 1, 2, 2, 1, st, false, 7, .shared, 0⟩] } }
abbrev parksOk (s : State) (kind : PageKind) (w : Word) (m : Option (BitVec 384)) : Prop :=
  let f := mf .b32 5
  passes s f .stc (dataNames f ++ addrNames f ++ [f.aux.toNat]) 0 .write (MTy.bytes f.ty) true
    ∧ Issues s cx1 c7 (some .stc) (addrNames f ++ [f.aux.toNat]) 0 ∧ AllPass s cx1 f .write 1 true
    ∧ (check s cx1 f .write 1 true).ok.map (fun a => (a.lane, a.pa, a.kind)) = [(0, 2 ^ 48 + 0x10100, kind)]
    ∧ Ungated s 0 (check s cx1 f .write 1 true).ok ∧ (s.start cx1 c7).readV 0 0 3 5 = w
    ∧ s.readerSet 0 w = m
theorem meets_ParkedLines_parking : parksOk (reads .shared (2 ^ 29)) .shared (2 ^ 29) (some 1) ∧ leavesQuad .shared 1 = false
    ∧ parksOk (reads .shared 0) .shared 0 none ∧ parksOk (reads .ms 0) .ms 0 none := by
  refine ⟨by decide +kernel, by decide +kernel, by decide +kernel, by decide +kernel⟩
theorem meets_ParkedLines_located :
    let f := mf .b32 0
    let s := parks .parked
    LanesExist s cx1 ∧ Issues s cx1 c7 (some .ldc) (addrNames f) 0 ∧ Issues s cx1 c7 (some .ldc) (f.data.toNat :: addrNames f) 1
    ∧ (∀ n ∈ [1, 4], AllPass s cx1 f .read n false ∧ Ungated s 0 (check s cx1 f .read n false).ok
      ∧ (check s cx1 f .read n false).ok.map (fun a => (a.lane, a.pa)) = [(0, 2 ^ 48 + 0x10100)])
    ∧ s.due = [] ∧ s.ms.copies = [] ∧ s.ms.curd = [] ∧ NoneHeld s 0 [0] ∧ (∀ r ∈ s.ms.parks, r.line = lineOf (2 ^ 48 + 0x10100) ∧ r.state ≠ .returning
      ∧ r.set.getLsbD (keyOf 0) = false ∧ r.site = .l1 1) ∧ keyOf 0 < 384
    ∧ (s.parkOf (lineOf (2 ^ 48 + 0x10100))).isSome = true := by decide +kernel
theorem meets_ParkedLines_notices : Quiet s1 ∧ Plain [⟨4, 7, 0⟩]
    ∧ ((parks .returning).parkOf (lineOf (2 ^ 48 + 0x10100))).map (fun r => r.state) = some .returning
    ∧ (parks .moving).ms.parks.map (fun r => (r.line, r.state)) = [(lineOf (2 ^ 48 + 0x10100), .moving)] ∧ (parks .moving).due = []
    ∧ ((parks .parked).ms.parks.map (fun r => r.line) = [lineOf (2 ^ 48 + 0x10100)] ∧ (parks .parked).ms.copies = [] ∧ (parks .parked).due = [])
    ∧ (∀ k ∈ [NoteKind.whole, .split, .second true, .second false], k ≠ .moved) := by decide +kernel
/-- Lane 0 has a tentative cell at its address. -/
def cell (observed : Bool) : State :=
  let s := at2 .shared 0x10100
  { s with ms := { s.ms with cells := [⟨2 ^ 48 + 0x10100, 4, 9, (s.group 0).name 0, observed⟩] } }
theorem meets_TentativeStores_sets :
    let f := mf .b32 3
    MTy.bytes f.ty ≤ 8 ∧ s1.ms.monitors = []
    ∧ passes (at2 .shared 0x10100) f .stc (dataNames f ++ addrNames f) 1 .write 4 true
    ∧ passes (at2 .ms 0x10100) f .stc (dataNames f ++ addrNames f) 1 .write 4 true
    ∧ passes (at2 .shared 0x10100) f .ldc (addrNames f) 1 .write 4 true
    ∧ (check (at2 .shared 0x10100) cx1 f .write 4 true).ok.map (fun a => a.kind) = [.shared]
    ∧ (check (at2 .ms 0x10100) cx1 f .write 4 true).ok.map (fun a => a.kind) = [.ms] := by
  refine ⟨by decide +kernel, by decide +kernel, by decide +kernel, by decide +kernel, by decide +kernel, by decide +kernel, by decide +kernel⟩
abbrev holdsCell (s : State) : Prop :=
  let f := mf .b32 0
  LanesExist s cx1 ∧ Issues s cx1 c7 (some .ldc) (addrNames f) 1 ∧ Issues s cx1 c7 (some .stc) (addrNames f) 0
    ∧ AllPass s cx1 f .write 4 true ∧ AllPass s cx1 f .write 4 false ∧ Quiet { s with ms := { s.ms with cells := [] } }
    ∧ (∀ second ∈ [true, false], (check s cx1 f .write 4 second).ok.map (fun a => (a.lane, a.pa)) = [(0, 2 ^ 48 + 0x10100)]
      ∧ InLine (check s cx1 f .write 4 second).ok 4 ∧ Ungated s 0 (check s cx1 f .write 4 second).ok)
    ∧ NoneHeld s 0 [0] ∧ s.ms.monitors = []
    ∧ s.ms.cells.map (fun c => (c.addr, c.width, c.who)) = [(2 ^ 48 + 0x10100, 4, (s.group 0).name 0)]
theorem meets_TentativeStores_ends : holdsCell (cell true) ∧ holdsCell (cell false) := by
  refine ⟨by decide +kernel, by decide +kernel⟩
/-- The group has a bank vector command that is not done. -/
def banked : State :=
  { s1 with nextId := 9, ms := { s1.ms with bank := [⟨7, 0, 0, 0, .f32, .rne, false, 0, [⟨0, 4, 2 ^ 48 + 0x10100, 2 ^ 48 + 0x10200, 2 ^ 48 + 0x10300, .shared⟩], false, 1⟩] } }
/-- An earlier load of lane 0 is on its way. -/
def loadsFirst : State := { s1 with nextId := 5, due := [.resultReturn ⟨2, 0, some .ldc, 1, [], []⟩] }
/-- What a core holds for lane 0 under the instruction `id`. -/
def jobOf (id : Nat) (i : Instr) : Job := ⟨⟨cx1, id, [0]⟩, i, [⟨0, 0x40, 0, .shared, ⟨1, 0⟩, 0x40, [], 0, none, none⟩], [], [], [], 1⟩
theorem meets_TablePrefetchAndFence :
    let f := mf .b32 0
    let s := withG s1 2 0x40
    (LanesExist s cx1 ∧ Issues s cx1 c7 (some .ldc) (dataNames f ++ addrNames f) (MTy.regs f.ty) ∧ s.launch (s.group 0).lid = some launch1
      ∧ s.ms.jobs = [] ∧ s.due = [] ∧ ∀ o ∈ (s.start cx1 c7).offs (issOf s cx1 c7) f false, o.2 % 4 = 0 ∧ o.2 + 4 ≤ 3072)
    ∧ (Issues s cx1 c7 none (addrNames f) 0 ∧ Quiet s)
    ∧ (Issues s cx1 c7 (some .stc) [] 0 ∧ f.disp.getLsbD 0 = false ∧ NoneHeld s 0 (s.taking cx1 c7))
    ∧ (LanesExist banked cx1 ∧ Issues banked cx1 c7 (some .stc) [] 0 ∧ ∃ c ∈ banked.ms.bank, c.gid = 0 ∧ c.id < banked.nextId)
    ∧ (let s := { s1 with nextId := 9, ms := { s1.ms with jobs := [{ jobOf 3 (.clean (ef 2 3 0 0 0 0)) with accs := [] }] } }
       LanesExist s cx1 ∧ Issues s cx1 c7 (some .stc) [] 0 ∧ NoneHeld s 0 (s.taking cx1 c7)
        ∧ ∃ j ∈ s.ms.jobs, j.iss.gid = 0 ∧ j.iss.id < s.nextId ∧ isMaintenance j.instr = true)
    ∧ (LanesExist loadsFirst cx1 ∧ Issues loadsFirst cx1 c7 (some .stc) [] 0 ∧ ¬NoneHeld loadsFirst 0 (loadsFirst.taking cx1 c7)) := by
  decide +kernel
/-- g10 and g11 hold a condition, and p2 of the group's block is set up for it. -/
def asksFor (d w : DWord) : State := withG (withG s1 10 d) 11 w
abbrev waits (s : State) (f : EF) : List (DWord × DWord) :=
  (List.range f.x.toNat).map fun k => ((s.start cx1 c7).readG 0 (f.a.toNat + 2 * k), (s.start cx1 c7).readG 0 (f.a.toNat + 2 * k + 1))
abbrev oneCond (d w : DWord) : Prop :=
  LanesExist (asksFor d w) cx1 ∧ Issues (asksFor d w) cx1 c7 none [7] 1 ∧ waits (asksFor d w) (ef 10 7 0 1 0 0) = [(d, w)]
    ∧ CanTrap (asksFor d w) 0 ((asksFor d w).taking cx1 c7) ∧ Quiet (asksFor d w) ∧ NoneHeld (asksFor d w) 0 ((asksFor d w).taking cx1 c7)
/-- A bad descriptor; a join register's token that has passed, and one that has not; a word of memory. -/
theorem meets_WaitsOnConditions_words :
    (oneCond 0x70000000 0 ∧ condOk 0x70000000 = false)
    ∧ (let holds := fun (d : DWord) => (let s := asksFor d 0
        (s.satMask (s.block (s.group 0).blk) (s.group 0) [condOf d 0]).2.toOption)
       oneCond 0x30000000 0 ∧ condOk 0x30000000 = true ∧ (condOf 0x30000000 0).kind = 3 ∧ holds 0x30000000 = some 1
        ∧ oneCond 0x31000001 0 ∧ condOk 0x31000001 = true ∧ holds 0x31000001 = some 0)
    ∧ (oneCond 0 0x10100 ∧ condOk 0 = true ∧ (condOf 0 0x10100).kind = 0 ∧ (0x10100 : DWord).toNat % 4 = 0
      ∧ (((asksFor 0 0x10100).start cx1 c7).checkOne (issOf (asksFor 0 0x10100) cx1 c7) .read 0x10100).2 = some (2 ^ 48 + 0x10100, .shared)) := by
  refine ⟨by decide +kernel, by decide +kernel, by decide +kernel⟩
/-- A wait of lane 0 on a join register's token, 300 ticks old. -/
def waiting (token : Word) : State :=
  { withLane s1 fun y => { y with park := some 7 } with
    clock := 3000
    waits := [⟨7, 0, 1, 0, cx1, .waitc [⟨1, 0, false, 3, token, 0, 0, .shared⟩] false 100 8 .core, false⟩] }
abbrev reviewed (token : Word) (sat : Nat) : Prop :=
  let s := waiting token
  (s.wait 7).map (fun w => (w.id, w.gid, w.lanes, w.kind))
      = some (7, 0, 1, .waitc [⟨1, 0, false, 3, token, 0, 0, .shared⟩] false 100 8 .core)
    ∧ 256 ≤ s.tick - 0 ∧ 100 ≤ s.tick - 0 ∧ 0 ∈ lanesOf (1 : LaneMask) ∧ 0 < (s.group 0).lanes.length ∧ (s.lane 0 0).park = some 7
    ∧ s.unarmed ⟨0, 7⟩ = true ∧ (∀ l ∈ lanesOf (1 : LaneMask), s.heldBack 0 l 7 = false)
    ∧ (s.satMask (s.block (s.group 0).blk) (s.group 0) [⟨1, 0, false, 3, token, 0, 0, .shared⟩]).2.toOption = some sat
theorem meets_WaitsOnConditions_events : reviewed 0 0 ∧ reviewed 0xFFFFFFFF 1
    ∧ ({ waiting 0 with due := [.monitorPoll ⟨0, 7⟩] } : State).unarmed ⟨0, 7⟩ = false := by
  refine ⟨by decide +kernel, by decide +kernel, by decide +kernel⟩
abbrev maintains (s : State) : Prop :=
  let r := (s.start cx1 c7).checkRange (issOf s cx1 c7) .read 0x10100 0x200
  LanesExist s cx1 ∧ Issues s cx1 c7 (some .stc) [] 0 ∧ ((s.start cx1 c7).readG 0 2).toNat = 0x10100
    ∧ ((s.start cx1 c7).readG 0 3).toNat = 0x200 ∧ r.2.isSome = true ∧ r.1.mem = s.mem ∧ r.1.due = s.due ∧ r.1.ms.jobs = s.ms.jobs
/-- CLEAN and INVAL over 512 bytes and over none, in lanes with no earlier access open and behind a load. -/
theorem meets_CacheMaintenance :
    let s := withG (at2 .shared 0x10100) 3 0x200
    let late := { s with nextId := 5, due := loadsFirst.due }
    (LanesExist s1 cx1 ∧ Issues s1 cx1 c7 (some .stc) [] 0 ∧ ((s1.start cx1 c7).readG 0 3).toNat = 0 ∧ NoneHeld s1 0 (s1.taking cx1 c7) ∧ s1.due = [])
    ∧ (LanesExist loadsFirst cx1 ∧ Issues loadsFirst cx1 c7 (some .stc) [] 0 ∧ ((loadsFirst.start cx1 c7).readG 0 3).toNat = 0
      ∧ ¬NoneHeld loadsFirst 0 (loadsFirst.taking cx1 c7))
    ∧ (maintains s ∧ NoneHeld s 0 (s.taking cx1 c7) ∧ s.due = [])
    ∧ (maintains late ∧ ¬NoneHeld late 0 (late.taking cx1 c7)) := by
  refine ⟨by decide +kernel, by decide +kernel, by decide +kernel, by decide +kernel⟩
/-! ### Bank vectors and the matrix engine -/

/-- MVEC's operands: destination, sources and length in g4, g6, g8 and g10. -/
def vectors (d a b n : DWord) : State := withG (withG (withG (withG s1 4 d) 6 a) 8 b) 10 n
abbrev mvecReady (s : State) (f : EF) : Prop :=
  LanesExist s cx1 ∧ Issues s cx1 c7 (some .mc) [] 0 ∧ (s.group 0).tag (mvecOf f).tag ≠ 0 ∧ (mvecOf f).tag < (s.group 0).tags.length
    ∧ CanTrap s 0 (s.taking cx1 c7)
abbrev stepsFor (s : State) (f : EF) (stop_ : Nat) : List BankStep :=
  let l := ((s.start cx1 c7).mvecCheck (issOf s cx1 c7) f).2.getD []
  stepsOf stop_ (l.getD 0 []) (l.getD 1 []) (l.getD 2 [])
theorem meets_BankVectorCommands_stops :
    let f := ef 4 6 8 10 0xB4 0
    (let s := vectors 0x10100 0x10100 0x10100 0
     mvecReady s f ∧ ((s.start cx1 c7).readG 0 10).toNat = 0)
    ∧ (let s := vectors 0x10101 0x10100 0x10100 40
       mvecReady s f ∧ ((s.start cx1 c7).readG 0 10).toNat = 40)
    ∧ (let s := vectors 0x10100 0x11100 0x11100 64
       mvecReady s f ∧ ((s.start cx1 c7).readG 0 10).toNat ≠ 0 ∧ ((s.start cx1 c7).mvecCheck (issOf s cx1 c7) f).2.isSome = true
        ∧ ∃ st ∈ stepsFor s f (0x10100 + 64), s.placed (mvecOf f) st = false) := by decide +kernel
theorem meets_BankVectorCommands_runs :
    let f := ef 4 6 8 10 0xB4 0
    (let s := vectors 0x10100 0x10100 0x10100 64
     mvecReady s f ∧ ((s.start cx1 c7).readG 0 10).toNat ≠ 0 ∧ ((s.start cx1 c7).mvecCheck (issOf s cx1 c7) f).2.isSome = true
      ∧ stepsFor s f (0x10100 + 64) ≠ [] ∧ ∀ st ∈ stepsFor s f (0x10100 + 64), s.placed (mvecOf f) st = true)
    ∧ (Issues s1 cx1 c7 none [4] 1 ∧ 0 ∉ [(s1.group 0).tag 0])
    ∧ (let s := withGroup s1 fun g => { g with tags := [0, 1, 1, 1] }
       Issues s cx1 c7 none [4] 1 ∧ 0 ∈ [(s.group 0).tag 0])
    ∧ (let s := withGroup (vectors 0x10100 0x10100 0x10100 64) fun g => { g with tags := [0, 0, 0, 0] }
       LanesExist s cx1 ∧ s.cur = some cx1 ∧ s.taking cx1 c7 ≠ [] ∧ (s.group 0).tag (mvecOf f).tag = 0
        ∧ (s.mvecCheck (issOf s cx1 c7) f).2 ≠ none) := by decide +kernel
def step0 : BankStep := ⟨0, 4, 2 ^ 48 + 0x10100, 2 ^ 48 + 0x10200, 2 ^ 48 + 0x10300, .shared⟩
def step1 : BankStep := { step0 with num := 1, dst := 2 ^ 48 + 0x10110 }
def command (l : List BankStep) : BankCmd := ⟨7, 0, 0, 0, .f32, .rne, false, 0, l, false, 1⟩
def runsVector (l : List BankStep) : State := { s1 with ms := { s1.ms with bank := [command l] } }
/-- A core holds an earlier FENCE `.ms` of the group. -/
def fencedFirst : State := { runsVector [step0] with ms := { (runsVector [step0]).ms with jobs := [jobOf 3 (.fence { mf .n8 0 with disp := 1 })] } }
theorem meets_GranuleStepsWriteElements :
    (let s := runsVector [step0]
     let c := command [step0]
     s.ms.bank.find? (fun x => x.id == 7) = some c ∧ Quiet s ∧ s.fenceHolds c = false ∧ fencedFirst.fenceHolds c = true
      ∧ fencedFirst.ms.bank.find? (fun x => x.id == 7) = some c ∧ step0.dst % 128 + step0.len ≤ 128 ∧ 0 < step0.len
      ∧ step0.len % (c.ty.width / 8) = 0 ∧ step0.a % 128 = step0.dst % 128 ∧ step0.b % 128 = step0.dst % 128 ∧ c.op ≤ 9
      ∧ c.dataerr = false ∧ s.waits = [] ∧ (0 < (s.group c.gid).lanes.length ∧ (s.lane c.gid 0).live = true) ∧ s.hasGroup c.gid = true)
    ∧ (let s := runsVector [step0, step1]
       let c := command [step0, step1]
       s.ms.bank.find? (fun x => x.id == 7) = some c ∧ step1 ∈ c.steps ∧ c.steps.find? (fun y => y.num == step1.num) = some step1
        ∧ step0 ∈ c.steps ∧ step0.num < step1.num ∧ s.channel step0.dst = s.channel step1.dst) := by decide +kernel

/-- A tensor of 4 by 4 FP32 elements at an address, in the scratchpad or in memory. -/
def tensorBytes (base : Nat) (scratch : Bool) (fmt : Nat) : List Byte :=
  leBytes 8 base ++ leBytes 16 0 ++ leBytes 4 4 ++ leBytes 4 4 ++ leBytes 12 0 ++ leBytes 4 16 ++ leBytes 12 0
    ++ leBytes 4 (fmt + 2 * 16 + (if scratch then 128 else 0))
/-- Launch 1 has a tensor 9. -/
def tensed (s : State) (bs : List Byte) : State := s.setTensor 1 9 (some bs)
/-- Handle 2 is bound to slot 3, of a kind. -/
def bound (i32 : Bool) : State := (withGroup s1 fun g => { g with acc := [(2, 4)] }).setAcc ⟨0, 3, true, i32, [(0, 5)]⟩
/-- Every slot of the sub-core is bound, none to handle 2. -/
def fullSlots : State := (List.range 8).foldl (fun s k => s.setAcc ⟨0, k, true, false, []⟩) s1
abbrev image16 : List Nat := (List.range 16).map fun k => 16 + k
abbrev accReady (s : State) : Prop :=
  LanesExist s cx1 ∧ Issues s cx1 c7 (some .mc) [] 0 ∧ Issues s cx1 c7 (some .mc) image16 0 ∧ Issues s cx1 c7 (some .mc) (image16 ++ []) 16
    ∧ Issues s cx1 c7 none [] 0 ∧ CanTrap s 0 (s.taking cx1 c7)
theorem meets_AccumulatorWords_binding :
    (accReady s1 ∧ s1.bindTrap 0 2 false = none ∧ (s1.group 0).slotOf 2 = none)
    ∧ (accReady (bound false) ∧ (bound false).bindTrap 0 2 false = none ∧ ((bound false).group 0).slotOf 2 = some 3)
    ∧ (accReady (bound true) ∧ ((bound true).group 0).slotOf 2 = some 3 ∧ ((bound true).accSlot (subKey 0) 3).i32 ≠ false)
    ∧ accReady fullSlots ∧ (fullSlots.group 0).slotOf 2 = none ∧ ∀ k, k < 8 → (fullSlots.accSlot (subKey 0) k).bound = true := by
  refine ⟨by decide +kernel, by decide +kernel, by decide +kernel, by decide +kernel⟩
theorem meets_AccumulatorWords_reading :
    (Mat.admits ((bound false).accSlot (subKey 0) 3).i32 .f32 = true ∧ ((bound false).holdsDie ((bound false).group 0).part (dieOf (coreOf 0))) = true
      ∧ ((bound false).tilesOf (coreOf 0)).length < 2)
    ∧ (let s := { bound false with eng := { (bound false).eng with
        tiles := [⟨1, 0, 0, 0, 0, 0, 0, false, []⟩, ⟨2, 0, 0, 0, 1, 0, 0, false, []⟩] } }
       accReady s ∧ (s.group 0).slotOf 2 = some 3 ∧ s.holdsDie (s.group 0).part (dieOf (coreOf 0)) = true ∧ 2 ≤ (s.tilesOf (coreOf 0)).length) := by
  refine ⟨by decide +kernel, by decide +kernel⟩
abbrev storesTile (s : State) (bs : List Byte) : Prop :=
  accReady s ∧ (s.group 0).slotOf 2 = some 3 ∧ s.tensor (s.group 0).lid 9 = some bs ∧ Mat.fmtTy (tensorOf bs).fmt = some .f32
    ∧ 2 ≤ (tensorOf bs).ndim ∧ Mat.admits (s.accSlot (subKey 0) 3).i32 .f32 = true ∧ s.after = []
theorem meets_AccumulatorWords_storing :
    let f := ef 6 0 2 0 9 0
    (let bs := tensorBytes 0x100 true 0
     let s := tensed (bound false) bs
     storesTile s bs ∧ (tensorOf bs).scratch = true
      ∧ ∀ x ∈ tileElems f (tensorOf bs) 0 0, x.2.2 + (tensorOf bs).bits / 8 ≤ s.scratchSize (s.group 0).blk)
    ∧ (let bs := tensorBytes 0x10100 false 0
       let s := tensed (bound false) bs
       storesTile s bs ∧ (tensorOf bs).scratch = false
        ∧ ((s.start cx1 c7).tilePages (issOf s cx1 c7) ((tensorOf bs).bits / 8) ((tileElems f (tensorOf bs) 0 0).map fun x => x.2.2)).2.isSome = true) := by
  refine ⟨by decide +kernel, by decide +kernel⟩
/-- OPFENCE while its lane's scratchpad store or acquire stands in the core, and while none does. -/
theorem meets_AccumulatorWords_fence :
    (LanesExist s1 cx1 ∧ Issues s1 cx1 c7 none [] 0 ∧ s1.ms.jobs = [])
    ∧ ∀ w ∈ [Instr.sts (mf .b32 0), .ld { mf .b32 0 with ord := .acq }],
      let s := { s1 with ms := { s1.ms with jobs := [jobOf 0 w] } }
      LanesExist s cx1 ∧ Issues s cx1 c7 none [] 0 ∧ ∃ j ∈ s.ms.jobs, j.iss.gid = 0 ∧ (writesScratch j.instr = true ∨ acquires j.instr = true)
        ∧ ∃ a ∈ j.accs, a.lane ∈ s.taking cx1 c7 := by
  refine ⟨by decide +kernel, by decide +kernel⟩
/-- MMA's word signs join register 1 with its operands at v16 and v32. -/
def mma1 : EF := ef 16 32 2 1 0 0
def signs (e a : Nat) (mode : Bool) : State := withJoin s1 1 { Join.fresh with e := e, a := a, mode := mode }
abbrev signReady (s : State) : Prop :=
  LanesExist s cx1 ∧ s.taking cx1 c7 = [0] ∧ Issues s cx1 c7 (some .mc) [] 0 ∧ (s.block (s.group 0).blk).isSome = true
    ∧ (∀ b ∈ s.blocks, (Mat.mmaOf mma1).join < b.joins.length) ∧ CanTrap s 0 [0] ∧ s.waits = []
theorem meets_SignaturesCompletePhases :
    (let s := signs 2 0 true
     signReady s ∧ (s.start cx1 c7).signTrap 0 0 mma1 = none ∧ (s.join (s.group 0).blk 1).phase = none
      ∧ (s.join (s.group 0).blk 1).a + 1 < min (s.join (s.group 0).blk 1).e ((s.group 0).lanes.countP fun y => !y.exited))
    ∧ (let s := signs 1 0 true
       signReady s ∧ (s.start cx1 c7).signTrap 0 0 mma1 = none
        ∧ min (s.join (s.group 0).blk 1).e ((s.group 0).lanes.countP fun y => !y.exited) ≤ (s.join (s.group 0).blk 1).a + 1)
    ∧ signReady (signs 1 0 false) ∧ ((signs 1 0 false).join ((signs 1 0 false).group 0).blk 1).mode = false := by
  refine ⟨by decide +kernel, by decide +kernel, by decide +kernel⟩
def matOp1 (id : Nat) (kind : MatKind) : MatOp := ⟨id, 0, 0, 2, 3, kind, 0, false, false, false, [], true, BitVec.allOnes 32, 1, [], [], ⟨1, 0⟩⟩
def engaged (l : List MatOp) : State := { bound true with eng := { (bound true).eng with mat := l } }
theorem meets_MatrixOperationsRun :
    let z := matOp1 7 (.accz true)
    let m := matOp1 8 (.accmv (ef 16 0 2 0 3 2))
    let ld := matOp1 9 (.accld (ef 16 0 2 0 3 1))
    let s := engaged [z, m, ld]
    (s.matOp 7 = some z ∧ s.matOp 8 = some m ∧ s.matOp 9 = some ld ∧ (s.eng.mat.find? fun x => x.sub == z.sub) = some z ∧ z.id ≠ 8)
    ∧ (Ty.ofCode ((ef 16 0 2 0 3 2).flags.toNat % 16) = .i32 ∧ (s.accSlot m.sub m.slot).i32 = true ∧ s.waits = []
      ∧ 0 < (s.group m.gid).lanes.length ∧ (s.lane m.gid 0).live = true ∧ (s.lane m.gid 0).olds = [])
    ∧ (s.behindOp z = false ∧ s.behindOp m = true ∧ (engaged [m]).behindOp m = false ∧ (engaged [m]).matOp 8 = some m)
    ∧ s.emitted z = false ∧ ({ s with due := [.resultReturn ⟨8, 0, none, 0, [], []⟩] } : State).emitted m = true := by decide +kernel
/-- Two FP16 products, 1 and 2^(-30), and their chunk sum; MMAs of FP16 and of INT8 from register images. -/
theorem meets_MatrixOperationsRun_sums :
    ChunkSum [.fin false 1 0, .fin false 1 (-30)] (-34) (2 ^ 34 + 2 ^ 4)
    ∧ ∀ f ∈ [ef 16 32 2 1 0 0, ef 16 32 2 1 0 6],
      let o := matOp1 7 (.mma f none 0 0)
      let s := engaged [o]
      s.matOp 7 = some o ∧ o.kind = .mma f none 0 0 ∧ s.emitted o = false ∧ (s.lane o.gid 0).live = true
        ∧ ((Mat.mmaOf f).ety = 6 ∨ (Mat.mmaOf f).ety < 6 ∧ (Mat.mmaOf f).ks = false) := by
  refine ⟨⟨⟨_, List.mem_cons_self .., false, 1, 0, rfl, by decide, by decide⟩, ?_, by decide⟩, by decide +kernel⟩
  simp only [List.mem_cons, List.not_mem_nil, or_false, forall_eq_or_imp, forall_eq]
  exact ⟨⟨false, 1, 0, rfl, fun _ => by decide⟩, false, 1, -30, rfl, fun _ => by decide⟩
/-- A wait of lane 0, of a kind, 300 or 0 ticks old. -/
def waits7 (kind : WaitKind) (old : Bool) : State :=
  { withLane (signs 2 1 true) fun y => { y with park := some 7 } with
    clock := if old then 3000 else 0
    waits := [⟨7, 0, 1, 0, cx1, kind, false⟩] }
def phase1 : Phase := ⟨9, 0, mma1, 1, none, 0, 0, 3, [], [], []⟩
theorem meets_MatrixWaitsAndTimeOuts_words :
    let f := ef 0 0 2 0 0 0
    let s := engaged [matOp1 7 (.accz true)]
    (LanesExist s1 cx1 ∧ s1.taking cx1 c7 = [0] ∧ Issues s1 cx1 c7 none [] 0 ∧ f.flags.getLsbD 1 = false ∧ (s1.group 0).slotOf (ef4 f) = none)
    ∧ (LanesExist (bound true) cx1 ∧ (bound true).taking cx1 c7 = [0] ∧ Issues (bound true) cx1 c7 none [] 0
      ∧ (((bound true).waitsOn 0 0 f).filter fun o => (bound true).opOutstanding false o) = [] ∧ ((bound true).group 0).slotOf (ef4 f) = some 3)
    ∧ LanesExist s cx1 ∧ s.taking cx1 c7 = [0] ∧ Issues s cx1 c7 none [] 0 ∧ ((s.waitsOn 0 0 f).filter fun o => s.opOutstanding false o) = [7]
      ∧ (s.group 0).slotOf (ef4 f) = some 3 := by
  refine ⟨by decide +kernel, by decide +kernel, by decide +kernel⟩
abbrev timesOut (kind : WaitKind) : Prop :=
  (∀ b ∈ [true, false], CanTrap (waits7 kind b) 0 (lanesOf 1) ∧ (waits7 kind b).waits = [⟨7, 0, 1, 0, cx1, kind, false⟩])
    ∧ ¬(waits7 kind true).tick - 0 < (waits7 kind true).bto 1 ∧ (waits7 kind false).tick - 0 < (waits7 kind false).bto 1
theorem meets_MatrixWaitsAndTimeOuts_events : timesOut (.bar 1 0 .core none) ∧ timesOut (.waitl 3 0 2 3) ∧ timesOut (.mwait [9] false .core)
    ∧ (let s := (waits7 (.mwait [9] false .core) true).setJoin ⟨1, 0⟩ 1 { Join.fresh with e := 2, a := 1, mode := true, phase := some phase1 }
       CanTrap s 0 (lanesOf 1) ∧ s.waits = [⟨7, 0, 1, 0, cx1, .mwait [9] false .core, false⟩]
        ∧ s.openOf 0 [9] = some (1, phase1)) := by
  refine ⟨by decide +kernel, by decide +kernel, by decide +kernel, by decide +kernel⟩
/-! ### Copies, streams, loops -/

/-- CPY's operands: the corner in g6 and the box in g8. -/
def boxed : State := tensed (withG s1 8 0x0002000400000040) (tensorBytes 0x10100 false 0)
theorem meets_CopyWordsQueueCommands_box : ∀ out ∈ [(0 : BitVec 8), 1],
    let f := ef 6 8 0 2 9 out
    let s1 := boxed.start cx1 c7
    let t := tensorOf (tensorBytes 0x10100 false 0)
    let g := s1.readG 0 8
    (LanesExist boxed cx1 ∧ Issues boxed cx1 c7 none [] 0 ∧ (∀ b ∈ boxed.blocks, 2 < b.ccs.length) ∧ boxed.copyHolds 0 2 = false)
    ∧ (boxed.block (boxed.group 0).blk).isSome = true
    ∧ boxed.after = [] ∧ (boxed.tensor (boxed.group 0).lid f.imm8.toNat = some (tensorBytes 0x10100 false 0) ∧ t.scratch = false ∧ 2 ≤ t.ndim ∧ t.fmt ≠ 5)
    ∧ (bits g 47 32 = 4 ∧ bits g 63 48 = 2 ∧ bits g 31 0 = 0x40 ∧ 4 * t.bits % 128 = 0
      ∧ 0x40 + 2 * (4 * t.bits / 8) ≤ boxed.scratchSize (boxed.group 0).blk ∧ corner (s1.readG 0 6) = (0, 0))
    ∧ (boxMoves t 0 0 0x40 4 2).2 = []
    ∧ (s1.copyPlaces (issOf boxed cx1 c7) (if out.getLsbD 0 then .engineWrite else .engineRead)
        ((boxMoves t 0 0 0x40 4 2).1.map fun x => x.addr)).2.isSome = true := by decide +kernel
/-- CPYG's and CPYS's operands: an address in v8:9 and an offset in v10. -/
def gathers : State := withV (withV s1 8 0x10100) 10 0x40
theorem meets_CopyWordsQueueCommands_lanes :
    let f := ef 8 10 0 2 2 0
    let s1 := gathers.start cx1 c7
    let i := issOf gathers cx1 c7
    LanesExist gathers cx1 ∧ Issues gathers cx1 c7 none (vNames true f.a ++ [f.b.toNat]) 0 ∧ (∀ b ∈ gathers.blocks, 2 < b.ccs.length)
    ∧ gathers.copyHolds 0 2 = false
    ∧ ∃ m, s1.gather i f = .ok m ∧ (s1.copyPlaces i .engineRead (m.map fun x => x.addr)).2.isSome = true
      ∧ (s1.copyPlaces i .engineWrite (m.map fun x => x.addr)).2.isSome = true := by
  refine ⟨by decide +kernel, by decide +kernel, by decide +kernel, by decide +kernel, _, rfl, by decide +kernel⟩
/-- CPYDEC's operands: an address, an offset and a length in g6 to g8. -/
def decrypts (keys : List KeySlot) : State :=
  let s := withG (withG (withG s1 6 0x10100) 7 0x40) 8 16
  { s with sys := { s.sys with keys := keys } }
def key5 : KeySlot := ⟨5, 1, 3, 0⟩
theorem meets_CopyWordsQueueCommands_keys : ∀ k ∈ [[], [key5]],
    let s := decrypts k
    let s1 := s.start cx1 c7
    LanesExist s cx1 ∧ Issues s cx1 c7 none [] 0 ∧ (∀ b ∈ s.blocks, 2 < b.ccs.length) ∧ s.copyHolds 0 2 = false
    ∧ ((s1.readG 0 6).toNat = 0x10100 ∧ (s1.readG 0 7).toNat = 0x40 ∧ (s1.readG 0 8).toNat = 16)
    ∧ s.keyAt (s.group 0).part 5 = k.head? ∧ CanTrap s 0 (s.taking cx1 c7) ∧ 0x40 + 16 ≤ s.scratchSize (s.group 0).blk
    ∧ (s1.copyPlaces (issOf s cx1 c7) .engineRead ((List.range (16 + 32)).map fun n => 0x10100 + n)).2.isSome = true := by decide +kernel
/-- Completion counter 2 holds a count. -/
def counting (n : Nat) : State := s1.setCc ⟨1, 0⟩ 2 { Cc.fresh with count := n }
theorem meets_CopyWordsQueueCommands_counts :
    ((counting 65535).cur = some cx1 ∧ (counting 65535).taking cx1 c7 ≠ [] ∧ (counting 65535).copyHolds 0 2 = true)
    ∧ (LanesExist (counting 3) cx1 ∧ Issues (counting 3) cx1 c7 none [7] 1 ∧ ((counting 3).cc ((counting 3).group 0).blk 2).count ≤ 3
      ∧ ¬((counting 3).cc ((counting 3).group 0).blk 2).count ≤ 2) := by decide +kernel
def piece1 : Piece := ⟨0, some (2 ^ 48 + 0x10100, .shared), 0, [(0, 0x40), (1, 0x41)]⟩
def copyCmd (kind : CopyKind) (l : List Piece) : CopyCmd := ⟨7, 0, ⟨1, 0⟩, 2, kind, l, [], [], [], false, false, false, none⟩
def copying (kind : CopyKind) (l : List Piece) : State := { counting 1 with eng := { (counting 1).eng with copies := [copyCmd kind l] } }
abbrev copyReady (kind : CopyKind) (l : List Piece) : Prop :=
  (copying kind l).eng.copies.find? (fun x => x.id == 7) = some (copyCmd kind l) ∧ (copying kind l).copyFirst (copyCmd kind l) = true
    ∧ ((copying kind l).block ⟨1, 0⟩).isSome = true ∧ (copying kind l).waits = [] ∧ Quiet (copying kind l)
abbrev pieceReady (kind : CopyKind) (p : Piece) : Prop :=
  copyReady kind [p] ∧ [p].find? (fun q => q.num == p.num) = some p ∧ (p.moves.map fun m => m.2).Nodup ∧ ∀ m ∈ p.moves, m.1 < 128
theorem meets_CopyCommandsMoveBytes : pieceReady .toScratch piece1 ∧ pieceReady .toScratch { piece1 with src := none }
    ∧ pieceReady .fromScratch piece1 ∧ copyReady .toScratch [] ∧ copyReady (.decrypt 0x40 16 3) []
    ∧ (∀ b ∈ (copying .toScratch []).blocks, 2 < b.ccs.length) := by
  refine ⟨by decide +kernel, by decide +kernel, by decide +kernel, by decide +kernel, by decide +kernel, by decide +kernel⟩

/-- A ring of four elements at offset 0x40 that holds `n`; v250 pops from it or pushes to it where it is bound. -/
def ringed (n : Nat) (k : Option Bool) : State :=
  (withG s1 7 0x40).modBlock ⟨1, 0⟩ (fun b => { b with scratch := if n = 0 then [(0x48, 4)] else [(0x44, BitVec.ofNat 8 n), (0x48, 4)] })
    |>.modGroup 0 fun g => { g with streams := match k with
      | some out => [⟨250, out, 0, 0x40⟩]
      | none => [] }
theorem meets_StreamsPopAndPush_words :
    let f := ef 250 7 0 0 0 1
    (let s := ringed 1 none
     LanesExist s cx1 ∧ Issues s cx1 c7 none [] 0 ∧ (s.group 0).bound 250 = none ∧ bits ((s.start cx1 c7).readG 0 7) 31 0 = 0x40
      ∧ (s.ring (s.group 0).blk 0x40).isSome = true ∧ f.flags.getLsbD 1 = false)
    ∧ (let s := withG s1 7 0x80
       LanesExist s cx1 ∧ Issues s cx1 c7 none [] 0 ∧ (s.group 0).bound 250 = none
        ∧ s.ring (s.group 0).blk (bits ((s.start cx1 c7).readG 0 7) 31 0) = none ∧ CanTrap s 0 (s.taking cx1 c7))
    ∧ (let s := ringed 1 (some false)
       LanesExist s cx1 ∧ Issues s cx1 c7 none [4] 1 ∧ (s.group 0).bound 250 = some ⟨250, false, 0, 0x40⟩
        ∧ (s.ringOf 0 ⟨250, false, 0, 0x40⟩).isSome = true) := by decide +kernel
def mov (d a : BitVec 8) : RRR := ⟨c7, d, a, 0, 0, .b32, .rne, false, false, false, 0⟩
abbrev movReady (s : State) (f : RRR) : Prop :=
  LanesExist s cx1 ∧ s.cur = some cx1 ∧ s.taking cx1 c7 = [0] ∧ s.holdsIssue 0 (s.taking cx1 c7) none 1 = false ∧ s.laneTrap 0 (opMov f) = none
    ∧ (s.block ⟨1, 0⟩).isSome = true ∧ s.waits = []
theorem meets_StreamsPopAndPush_moves :
    ((opMov (mov 6 250)).srcs = [.v false 250] ∧ (opMov (mov 6 250)).dst = .v false 6 ∧ (opMov (mov 250 6)).dst = .v false 250)
    ∧ (movReady (ringed 1 (some false)) (mov 6 250) ∧ movReady (ringed 0 (some false)) (mov 6 250))
    ∧ (movReady (ringed 1 (some true)) (mov 250 6) ∧ movReady (ringed 4 (some true)) (mov 250 6))
    ∧ (((ringed 1 (some false)).ringOf 0 ⟨250, false, 0, 0x40⟩).map Ring.held = some 1
      ∧ ((ringed 0 (some false)).ringOf 0 ⟨250, false, 0, 0x40⟩).map Ring.held = some 0
      ∧ ((ringed 1 (some true)).ringOf 0 ⟨250, true, 0, 0x40⟩).map (fun q => q.cap - q.held) = some 3
      ∧ ((ringed 4 (some true)).ringOf 0 ⟨250, true, 0, 0x40⟩).map (fun q => q.cap - q.held) = some 0)
    ∧ (((ringed 1 (some false)).group 0).bound 250 = some ⟨250, false, 0, 0x40⟩ ∧ ((ringed 1 (some false)).group 0).bound 6 = none) := by
  refine ⟨⟨rfl, rfl, rfl⟩, by decide +kernel, by decide +kernel, by decide +kernel, by decide +kernel⟩
def waitsRing (n : Nat) (out : Bool) (kind : WaitKind) : State :=
  { withLane (ringed n (some out)) fun y => { y with park := some 7 } with waits := [⟨7, 0, 1, 0, cx1, kind, false⟩] }
abbrev resumes (n : Nat) (out : Bool) (kind : WaitKind) (held room : Nat) : Prop :=
  let s := waitsRing n out kind
  s.wait 7 = some ⟨7, 0, 1, 0, cx1, kind, false⟩ ∧ cx1.gid = 0 ∧ (∀ l ∈ lanesOf 1, l < (s.group 0).lanes.length)
    ∧ s.waits = [⟨7, 0, 1, 0, cx1, kind, false⟩]
    ∧ (s.group 0).bound 250 = some ⟨250, out, 0, 0x40⟩ ∧ (s.group 0).bound 6 = none ∧ (s.block ⟨1, 0⟩).isSome = true
    ∧ (s.ringOf 0 ⟨250, out, 0, 0x40⟩).map (fun q => (q.held, q.cap - q.held)) = some (held, room)
theorem meets_StreamsPopAndPush_events : resumes 1 false (.streamPop (.mov (mov 6 250)) []) 1 3 ∧ resumes 0 false (.streamPop (.mov (mov 6 250)) []) 0 4
    ∧ resumes 1 true (.streamPush 250 [5]) 1 3 ∧ resumes 4 true (.streamPush 250 [5]) 4 0 := by
  refine ⟨by decide +kernel, by decide +kernel, by decide +kernel, by decide +kernel⟩

/-- Loop slot 2 of the span has an open loop of N iterations with window 4; g6 holds its descriptor, with tag 5 and base 8. -/
def loop1 (n next low : Nat) : LoopHdr := ⟨3, n, 5, 8, 4, low, next⟩
def looped (h : Option LoopHdr) (its : List (Nat × StageIter)) (desc : DWord) (place : Option LoopPlace) : State :=
  let s := withGroup (withG s1 6 desc) fun g => { g with loop := place }
  { s with sched := { s.sched with loops := [⟨1, 0, 2, h, its, none⟩] } }
def desc1 : DWord := 0x000800050000000A
abbrev stloopReady (s : State) : Prop :=
  LanesExist s cx1 ∧ Issues s cx1 c7 (some .mc) [10] 1 ∧ CanTrap s 0 (s.taking cx1 c7)
abbrev descOf (s : State) : LoopDesc := loopDesc ((s.start cx1 c7).readG 0 6) 4
theorem meets_StagedLoops_open :
    (let s := looped none [] 0x00080005FFFFFFFF none
     stloopReady s ∧ (descOf s).n = 0xFFFFFFFF)
    ∧ (let s := looped none [] desc1 none
       stloopReady s ∧ (descOf s).n ≠ 0xFFFFFFFF ∧ (descOf s).base + (descOf s).w ≤ 63 ∧ (s.group 0).loop = none
        ∧ (s.loopSlot 1 (s.spanNo (s.group 0)) 2).hdr = none ∧ (s.loopSlot 1 (s.spanNo (s.group 0)) 2).closed ≠ some (descOf s).tag ∧ (descOf s).n ≠ 0
        ∧ (∀ y ∈ s.sched.loops, y.hdr = none) ∧ (descOf s).w + 1 ≤ s.freeEntries ((s.hostCore 1 (s.spanNo (s.group 0))).getD 0))
    ∧ (let s := looped (some (loop1 10 0 0)) [] desc1 none
       stloopReady s ∧ (s.group 0).loop = none ∧ (s.loopSlot 1 (s.spanNo (s.group 0)) 2).hdr = some (loop1 10 0 0)
        ∧ ((10, 5, 8, 4) = ((descOf s).n, (descOf s).tag, (descOf s).base, (descOf s).w)))
    ∧ (let s := looped (some (loop1 11 0 0)) [] desc1 none
       stloopReady s ∧ (s.group 0).loop = none ∧ (s.loopSlot 1 (s.spanNo (s.group 0)) 2).hdr = some (loop1 11 0 0) ∧ (descOf s).n = 10)
    ∧ (let s := looped (some (loop1 10 0 0)) [] desc1 (some ⟨2, 3, none, 0⟩)
       stloopReady s ∧ (s.group 0).loop ≠ none) := by
  refine ⟨by decide +kernel, by decide +kernel, by decide +kernel, by decide +kernel, by decide +kernel⟩
abbrev stendReady (h : LoopHdr) : Prop :=
  let s := looped (some h) [] desc1 (some ⟨2, 3, none, 0⟩)
  LanesExist s cx1 ∧ Issues s cx1 c7 none [11] 1 ∧ (s.group 0).loop = some ⟨2, 3, none, 0⟩
    ∧ (s.openLoop (s.group 0)).map (fun x => x.2) = some h ∧ s.waits = [] ∧ s.ms.jobs = []
theorem meets_StagedLoops_holds :
    let s := { looped (some (loop1 10 3 0)) [] desc1 (some ⟨2, 3, none, 0⟩) with ms := { s1.ms with jobs := [jobOf 0 (.st (mf .b32 0))] } }
    LanesExist s cx1 ∧ s.cur = some cx1 ∧ s.taking cx1 c7 ≠ [] ∧ ∃ j ∈ s.ms.jobs, j.iss.gid = 0 := by decide +kernel
theorem meets_StagedLoops_next : stendReady (loop1 10 3 0) ∧ stendReady (loop1 10 4 0) ∧ (3 < 10 ∧ 3 < 0 + 4) ∧ (4 < 10 ∧ 0 + 4 ≤ 4) := by
  refine ⟨by decide +kernel, by decide +kernel, by decide, by decide⟩
abbrev handsOut (h : LoopHdr) : Prop :=
  let s := { withLane (looped (some h) [] desc1 (some ⟨2, 3, none, 0⟩)) (fun y => { y with park := some 7 }) with
    waits := [⟨7, 0, 1, 0, cx1, .stend 11, false⟩] }
  s.wait 7 = some ⟨7, 0, 1, 0, cx1, .stend 11, false⟩ ∧ (∀ l ∈ lanesOf 1, l < (s.group 0).lanes.length) ∧ (s.group 0).loop = some ⟨2, 3, none, 0⟩
    ∧ (s.openLoop (s.group 0)).map (fun x => x.2) = some h
theorem meets_StagedLoops_events : handsOut (loop1 10 10 7) ∧ handsOut (loop1 10 3 0) ∧ handsOut (loop1 10 4 0) := by
  refine ⟨by decide +kernel, by decide +kernel, by decide +kernel⟩
/-- Groups 0 and 1 wait for the next iteration of one loop; group 1's request stands behind. -/
theorem meets_StagedLoops_order :
    let s := looped (some (loop1 10 4 0)) [] desc1 (some ⟨2, 3, none, 0⟩)
    let w := fun (k : Nat) => (⟨7 + k, k, 1, 0, cx1, .stend 11, false⟩ : Wait)
    let u := { s with groups := [(0, s.group 0), (1, s.group 0)], waits := [w 0, w 1] }
    u.wait 8 = some (w 1) ∧ u.handOutBehind (w 1) = true ∧ u.handOutBehind (w 0) = false := by decide +kernel
/-- The group holds iteration 1 with a count, and its predecessor has a count of 5; v2 holds an operand. -/
def staging (cur : Nat) (v2 : Word) : State :=
  withV (looped (some (loop1 10 2 0)) [(9, ⟨0, 5, none⟩), (10, ⟨1, cur, some 0⟩)] desc1 (some ⟨2, 3, some 1, cur⟩)) 2 v2
abbrev stages (s : State) : Prop :=
  LanesExist s cx1 ∧ Issues s cx1 c7 none [2] 0 ∧ Issues s cx1 c7 none [] 0 ∧ CanTrap s 0 (s.taking cx1 c7)
abbrev holding (s : State) (cur : Nat) : Prop :=
  stages s ∧ (s.group 0).loop = some ⟨2, 3, some 1, cur⟩ ∧ (s.openLoop (s.group 0)).map (fun x => (predOf x.1 x.2 1, x.2)) = some (5, loop1 10 2 0)
abbrev operand (s : State) : Nat := ((s.start cx1 c7).readV 0 (issOf s cx1 c7).low 1 2).toNat
theorem meets_StageCounts :
    (stages s1 ∧ (s1.group 0).loop = none)
    ∧ (holding (staging 4 3) 4 ∧ operand (staging 4 3) = 3) ∧ (holding (staging 4 4) 4 ∧ operand (staging 4 4) = 4)
    ∧ (holding (staging 0xFFFE 0) 0xFFFE ∧ 0xFFFE < 0xFFFE + 1) ∧ (operand (staging 4 4) < 5 ∧ operand (staging 4 5) = 5 ∧ holding (staging 4 5) 4)
    ∧ ((staging 4 3).loopSlot 1 0 2).hdr = some (loop1 10 2 0) ∧ (staging 4 3).waits = []
    ∧ ((staging 4 3).loopSlot 1 0 2).iters.lookup (entryOf (loop1 10 2 0) 1) = some ⟨1, 4, some 0⟩
    ∧ ((loop1 10 2 0).uid = 3 ∧ (loop1 10 2 0).uid ≠ 4) ∧ (staging 4 3).ms.jobs = [] ∧ ((jobOf 3 (.st (mf .b32 0))).iss.gid = 0 ∧ (jobOf 3 (.st (mf .b32 0))).iss.id < 5) := by
  refine ⟨by decide +kernel, by decide +kernel, by decide +kernel, by decide +kernel, by decide +kernel, by decide +kernel, by decide +kernel, by decide +kernel⟩
/-! ### Launches, tasks and system cores -/

/-- g6 holds the address of a launch record, that quadrant 0's distributor can read where `stk` is set. -/
def launches (a : DWord) (stk : Bool) : State :=
  let s := withG s1 6 a
  let p := 2 ^ 48 + 0x10000
  { s with
    mem := [(p + 40, 1), (p + 48, 32), (p + 50, 64), (p + 52, 1)]
    ms := { s.ms with tlb := s.ms.tlb ++ [page1 384 .shared] }
    sys := { s.sys with parts := s.sys.parts.map fun x => { x with keyset := true }
                        csr := Map.set 0 (if stk then Map.set 0 s.sys.csr (csrPart 1 0x0C) 1 else s.sys.csr) (csrPart 1 0x06) 1 } }
abbrev launchReady (s : State) : Prop :=
  LanesExist s cx1 ∧ (s.part (s.group 0).part).map (fun x => x.keyset) = some true ∧ Issues s cx1 c7 (some .mc) [7] 0
    ∧ CanTrap s 0 (s.taking cx1 c7) ∧ s.holds (s.group 0).part ((s.start cx1 c7).quadArg (issOf s cx1 c7) (ef 7 6 0 0 0 0)) = true
abbrev recordOk (s : State) (a : DWord) : Option Nat :=
  match (((s.start cx1 c7).releaseBy 0 (maskOf (s.taking cx1 c7))).checkRecord 0 a).2 with
  | .ok _ => none
  | .error c => some c
theorem meets_LaunchesRunAndEnd_launch :
    (launchReady (launches 0x10001 true) ∧ (((launches 0x10001 true).start cx1 c7).readG 0 6).toNat % 128 ≠ 0)
    ∧ (launchReady (launches 0x10000 false) ∧ recordOk (launches 0x10000 false) 0x10000 = some 1)
    ∧ (launchReady (launches 0x10000 true) ∧ recordOk (launches 0x10000 true) 0x10000 = none
      ∧ ((launches 0x10000 true).start cx1 c7).readG 0 6 = 0x10000)
    ∧ (let s := { s1 with sys := { s1.sys with parts := [{ partReset with keyset := false }] } }
       LanesExist s cx1 ∧ (s.part (s.group 0).part).map (fun x => x.keyset) = some false ∧ s.cur = some cx1 ∧ s.taking cx1 c7 ≠ []) := by
  refine ⟨by decide +kernel, by decide +kernel, by decide +kernel, by decide +kernel⟩
def launch2 : Launch := { launch1 with lid := 2 }
/-- v8 names launch 2, which runs, or which has ended with status 2. -/
def awaits (runs : Bool) : State :=
  let s := withV s1 8 2
  if runs then { s with launches := [launch1, launch2] } else { s with sched := { s.sched with ended := [(2, 2)] } }
theorem meets_LaunchesRunAndEnd_wait :
    (LanesExist (awaits true) cx1 ∧ Issues (awaits true) cx1 c7 none [7, 8] 1
      ∧ (((awaits true).start cx1 c7).readV 0 (issOf (awaits true) cx1 c7).low 1 8).toNat = 2 ∧ 2 ≠ ((awaits true).group 0).lid
      ∧ (awaits true).launch 2 = some launch2 ∧ launch2.part = ((awaits true).group 0).part)
    ∧ (LanesExist (awaits false) cx1 ∧ Issues (awaits false) cx1 c7 none [7, 8] 1 ∧ (awaits false).launch 2 = none
      ∧ (awaits false).sched.ended.lookup 2 = some 2 ∧ (awaits false).ownerOf (2 / 2 ^ 26) = ((awaits false).group 0).part) := by
  refine ⟨by decide +kernel, by decide +kernel⟩
/-- Block 0 of launch 1 without groups, or with its group stopping. -/
def retiring (copy : Bool) : State :=
  let s := copying .toScratch []
  { s with groups := [], blocks := [{ block1 with gids := [] }], eng := { s.eng with copies := if copy then s.eng.copies else [] } }
def saves : State :=
  { withGroup s1 fun g => { g with stopping := true, lanes := [{ lane1 with pos := 0, left := 0 }] } with
    sys := { s1.sys with csr := Map.set 0 s1.sys.csr (csrPart 1 0x05) 60000 } }
theorem meets_LaunchesRunAndEnd_blocks :
    ((retiring false).block ⟨1, 0⟩ = some { block1 with gids := [] } ∧ (∀ c ∈ (retiring false).eng.copies, c.blk ≠ ⟨1, 0⟩)
      ∧ (retiring false).launch 1 = some launch1)
    ∧ ((retiring true).block ⟨1, 0⟩ = some { block1 with gids := [] } ∧ ∃ c ∈ (retiring true).eng.copies, c.blk = ⟨1, 0⟩)
    ∧ (saves.block ⟨1, 0⟩ = some block1 ∧ saves.isEnding 1 = false ∧ (∀ g ∈ block1.gids, (saves.group g).stopping = true)
      ∧ (∀ m ∈ saves.spanMates block1, saves.blockQuiet m = true) ∧ saves.spanMates block1 ≠ [] ∧ saves.launch 1 = some launch1
      ∧ ((saves.spanMates block1).map fun m => saves.savePages m).sum ≤ (saves.poolFree (saves.ownerOf block1.quad)).length) := by
  refine ⟨by decide +kernel, by decide +kernel, by decide +kernel⟩
def ends (ending : Bool) (done : Nat) : State :=
  { s1 with launches := [{ launch1 with ending := ending, blocksEnded := done }], blocks := [], groups := [] }
theorem meets_LaunchesRunAndEnd_ends :
    ((ends true 0).launch 1 = some { launch1 with ending := true } ∧ (ends true 0).blocks = [] ∧ (ends true 0).enginesDone 1 = true
      ∧ (ends true 0).launchRecord 1 = false)
    ∧ ((ends false 1).launch 1 = some { launch1 with blocksEnded := 1 } ∧ record1.blocks ≤ 1 ∧ (ends false 1).enginesDone 1 = true
      ∧ (ends false 1).launchRecord 1 = false)
    ∧ (let s := { s1 with waits := [⟨7, 0, 3, 0, cx1, .pop, false⟩] }
       s.launch 1 = some launch1 ∧ launch1.ending = false ∧ s.popEnd launch1 = true ∧ s.enginesDone 1 = true ∧ s.launchRecord 1 = false)
    ∧ (let s := { ends false 1 with ms := (runsVector [step0]).ms }
       s.launch 1 = some { launch1 with blocksEnded := 1 } ∧ s.enginesDone 1 = false ∧ s.launchRecord 1 = false)
    ∧ (let v : Saved := ⟨block1, [], [], [], [1], false, 0⟩
       ({ s1 with sched := { s1.sched with saved := [v] } } : State).sched.saved.find?
        (fun x => x.block.lid == 1 && x.block.num == 0) = some v) := by
  refine ⟨by decide +kernel, by decide +kernel, by decide +kernel, by decide +kernel, by decide +kernel⟩
/-- A result is about to return with an effect behind it. -/
def ret5 : Ret := ⟨5, 0, some .mc, 0, [], []⟩
def follows (s : State) (k : AfterKind) : State := { s with after := [⟨5, k⟩] }
theorem meets_LaunchesRunAndEnd_placing : (follows s1 (.place 1 [0])).after = [⟨ret5.id, .place 1 [0]⟩] := by decide +kernel

/-- Quadrant 0 has task rings where `en` is set; g6 holds the address of a record or of a successor line, whose count and word are given. -/
def spawns (en : Bool) (count word : Byte) : State :=
  let s := withG s1 6 0x10000
  let p := 2 ^ 48 + 0x10000
  { s with
    mem := (if count = 0 then [] else [(p, count)]) ++ (if word = 0 then [] else [(p + 4, word)])
    sys := { s.sys with csr := if en then Map.set 0 s.sys.csr (tqbaseKey 0) 16 else s.sys.csr } }
abbrev spawnReady (s : State) : Prop :=
  LanesExist s cx1 ∧ Issues s cx1 c7 (some .stc) [] 0 ∧ Quiet s ∧ s.sched.saved = [] ∧ ((s.start cx1 c7).readG 0 6).toNat = 0x10000
    ∧ ((s.start cx1 c7).checkOne (issOf s cx1 c7) .read 0x10000).2 = some (2 ^ 48 + 0x10000, .shared)
    ∧ ((s.start cx1 c7).checkOne (issOf s cx1 c7) .atomic 0x10000).2 = some (2 ^ 48 + 0x10000, .shared)
    ∧ s.holds (s.group 0).part ((s.start cx1 c7).quadArg (issOf s cx1 c7) (ef 6 3 0 0 0 0)) = true
theorem meets_TasksRun_spawn :
    (spawnReady (spawns true 0 0) ∧ ((spawns true 0 0).queue 0 0).length < (spawns true 0 0).ringCap 0)
    ∧ (let s := { spawns true 0 0 with
        sys := { s1.sys with csr := Map.set 0 s1.sys.csr (tqbaseKey 0) 19 }
        sched := { s1.sched with queues := [⟨0, 0, List.replicate 64 [], 0⟩] } }
       spawnReady s ∧ (s.queue 0 0).length < s.ringCap 0 ∧ ¬(s.queue 0 0).length < 64
        ∧ (let s2 := ((s.start cx1 c7).checkOne (issOf s cx1 c7) .read 0x10000).1
           (s2.distWrite 0 (s2.recordAt (s2.taskQueue 0 0) 64) (List.replicate 64 0)).2 = false))
    ∧ (spawnReady (spawns false 0 0) ∧ ¬((spawns false 0 0).queue 0 0).length < (spawns false 0 0).ringCap 0)
    ∧ (spawnReady (spawns true 2 0) ∧ 2 ≤ fieldAt (Memory.readBytes (spawns true 2 0).mem (2 ^ 48 + 0x10000) 128) 0 4)
    ∧ (spawnReady (spawns true 1 32) ∧ fieldAt (Memory.readBytes (spawns true 1 32).mem (2 ^ 48 + 0x10000) 128) 0 4 = 1
      ∧ fieldAt (Memory.readBytes (spawns true 1 32).mem (2 ^ 48 + 0x10000) 128) 4 4 = 32 ∧ (spawns true 1 32).holds 1 0 = true
      ∧ ((spawns true 1 32).queue 0 1).length < (spawns true 1 32).ringCap 0 ∧ ((spawns true 1 32).queue 0 1).length < 64) := by
  refine ⟨by decide +kernel, by decide +kernel, by decide +kernel, by decide +kernel, by decide +kernel⟩
def task1 : TaskRun := ⟨List.replicate 64 0, 0, 0, 0, 0, 0, 0, false, none⟩
theorem meets_TasksRun_done :
    (Issues s1 cx1 c7 none [] 0 ∧ LanesExist s1 cx1 ∧ (∀ l ∈ lanesOf cx1.mask, (s1.lane 0 l).live = true)
      ∧ (1 < (s1.group 0).lanes.length ∧ (s1.lane 0 1).live = true ∧ 1 ∉ s1.taking cx1 c7 ∧ (s1.lane 0 1).taskDone = false))
    ∧ (∀ k ∈ [none, some task1],
      let s := withGroup s1 fun g => { g with lanes := [lane1], task := k }
      Issues s cx1 c7 none [] 0 ∧ LanesExist s cx1 ∧ (∀ l ∈ lanesOf cx1.mask, (s.lane 0 l).live = true)
        ∧ (∀ l, l < (s.group 0).lanes.length → l ∈ s.taking cx1 c7) ∧ (s.group 0).task = k) := by
  refine ⟨by decide +kernel, by decide +kernel⟩
def pops : State :=
  { withGroup s1 fun g => { g with serving := true, lanes := [{ lane1 with park := some 7, pos := 0, left := 0 }] } with
    waits := [⟨7, 0, 1, 0, cx1, .pop, false⟩]
    sched := { s1.sched with queues := [⟨0, 0, [List.replicate 64 0], 0⟩] } }
def completes : State := withGroup s1 fun g => { g with lanes := [{ lane1 with taskDone := true, pos := 0, left := 0 }], task := some task1 }
theorem meets_TasksRun_events :
    (pops.launch (pops.group 0).lid = some launch1 ∧ launch1.ending = false ∧ pops.hasGroup 0 = true ∧ (pops.group 0).serving = true
      ∧ (pops.group 0).task = none ∧ pops.popping 0 = true ∧ pops.queue (quadOfGid 0) launch1.record.prio = [List.replicate 64 0]
      ∧ (pops.poppers (quadOfGid 0) launch1.record.prio).head? = some 0 ∧ taskBad (List.replicate 64 0) = false)
    ∧ (let s := follows (withGroup s1 fun g => { g with task := some task1 }) (.sent 0 2)
       s.after = [⟨ret5.id, .sent ret5.gid 2⟩] ∧ (s.group ret5.gid).task = some task1 ∧ s.hasGroup ret5.gid = true
        ∧ 0 < (s.group ret5.gid).lanes.length ∧ (s.lane ret5.gid 0).live = true)
    ∧ ((completes.group 0).task = some task1 ∧ task1.fault = none ∧ task1.autosig = false ∧ (completes.group 0).tasksDone = true
      ∧ (completes.group 0).loop = none ∧ completes.phases = [] ∧ completes.drained 0 = true ∧ 0 < (completes.group 0).lanes.length
      ∧ (completes.lane 0 0).live = true) := by
  refine ⟨by decide +kernel, by decide +kernel, by decide +kernel⟩

/-- System core 0's group issues a word in partition 1, with control registers set. -/
def cxs : Cx := { cx1 with gid := 36864 }
def sysGroup : Group := { Group.fresh with part := 1, sys := true, lanes := [lane1] }
def onSys (csrs : List (Nat × DWord)) : State :=
  let r := State.reset
  { r with cur := some cxs, groups := [(36864, sysGroup)], blocks := [block1], launches := [launch1],
           sys := { r.sys with csr := csrs.foldl (fun m x => Map.set 0 m x.1 x.2) r.sys.csr } }
def sysG (s : State) (r : Nat) (x : DWord) : State := s.modGroup 36864 fun g => { g with g := Map.set 0 g.g r x }
abbrev sysReady (s : State) : Prop :=
  LanesExist s cxs ∧ isSysGid 36864 = true ∧ (s.group 36864).sys = true ∧ Issues s cxs c7 none [] 0
    ∧ Issues s cxs c7 (some .mc) [5] 0 ∧ Issues s cxs c7 none [5] 1
def delivered (keys : List KeySlot) (ds : List Delivered) : State :=
  let s := onSys []
  { s with sys := { s.sys with keys := keys, delivery := ds } }
theorem meets_SystemCoreWords_keys :
    (∀ k ∈ [key5, { key5 with part := 2 }], sysReady (delivered [k] []) ∧ (delivered [k] []).slotBusy 5 = false ∧ (delivered [k] []).keySlot 5 = some k)
    ∧ (∀ ds ∈ [[], [(⟨1, 0, 3, 4⟩ : Delivered)], [⟨1, 0, 3, 4⟩, ⟨1, 0, 5, 4⟩]], sysReady (delivered [] ds) ∧ (delivered [] ds).keySlot 5 = none ∧ (delivered [] ds).slotBusy 5 = false
      ∧ lo32 (((delivered [] ds).start cxs c7).readG 36864 7) = 0
      ∧ (delivered [] ds).sys.delivery.find? (fun d => d.part == 1 && d.ticket == 0) = ds.head?) := by decide +kernel
def preempts (held : Bool) : State := { sysG (onSys []) 6 1 with blocks := [], launches := [{ launch1 with held := held }] }
theorem meets_SystemCoreWords_preempt :
    (sysReady (onSys []) ∧ ((onSys []).start cxs c7).readG 36864 6 = 0 ∧ (onSys []).launch 0 = none)
    ∧ (∀ h ∈ [true, false], sysReady (preempts h) ∧ ((preempts h).start cxs c7).readG 36864 6 = 1
      ∧ (preempts h).launch 1 = some { launch1 with held := h } ∧ launch1.part = ((preempts h).group 36864).part ∧ (preempts h).blocks = []
      ∧ (preempts h).saving 1 = false ∧ (preempts h).waits = []) := by
  refine ⟨by decide +kernel, by decide +kernel⟩
def resumable : State :=
  let s := sysG (onSys []) 6 4
  { s with
    groups := s.groups ++ [(0, { group1 with lanes := [{ lane1 with park := some 7 }] })]
    waits := [⟨7, 0, 1, 0, cx1, .pageFault 4, false⟩]
    ms := { s.ms with parked := [⟨4, 1, 0, 0, 1, false, none⟩] } }
theorem meets_SystemCoreWords_resume :
    (sysReady (onSys []) ∧ (onSys []).ms.parked = [])
    ∧ sysReady resumable ∧ (resumable.start cxs c7).readG 36864 6 = 4
    ∧ resumable.ms.parked.find? (fun x => x.id == 4 && x.part == 1) = some ⟨4, 1, 0, 0, 1, false, none⟩
    ∧ resumable.waits.find? (fun w => w.isFault 4) = some ⟨7, 0, 1, 0, cx1, .pageFault 4, false⟩ ∧ 0 ≠ cxs.gid ∧ 0 ∈ lanesOf (1 : LaneMask)
    ∧ 0 < (resumable.group 0).lanes.length ∧ (resumable.lane 0 0).park = some 7 := by decide +kernel
def eventful (evt : DWord) : State := onSys [(evtKey 0, evt), (evecKey 0, 0x8000)]
theorem meets_SystemCoreWords_events :
    (sysReady (eventful 0) ∧ Issues (eventful 0) cxs c7 none (vNames true 4) 2 ∧ (eventful 0).csrHome 1 0 0x05 1 = none
      ∧ ((eventful 0).csr (evtKey 0)).getLsbD 16 = false ∧ (eventful 0).csr (evecKey 0) ≠ 0
      ∧ (issOf (eventful 0) cxs c7).low < ((eventful 0).group 36864).lanes.length
      ∧ ((eventful 0).start cxs c7).csrInst 36864 (ef 4 0 0 1 5 0) = 1)
    ∧ (let s := (eventful 0x0101).modLane 36864 0 fun y => { y with pos := 0, left := 0 }
       s.hasGroup (sysGid 0) = true ∧ (s.lane (sysGid 0) 0).live = true ∧ 0 < (s.group (sysGid 0)).lanes.length ∧ s.csr (evecKey 0) ≠ 0
        ∧ s.eventReady 0 = true ∧ (s.lane (sysGid 0) 0).park = none ∧ (s.lane (sysGid 0) 0).pos = 0)
    ∧ (let s := { (eventful 0x0101).modLane 36864 0 (fun y => { y with park := some 7 }) with waits := [⟨7, 36864, 1, 0, cxs, .halt, false⟩] }
       s.eventPending 0 = true ∧ s.haltWait (sysGid 0) 0 = some ⟨7, 36864, 1, 0, cxs, .halt, false⟩ ∧ s.csr (evecKey 0) ≠ 0
        ∧ s.hasGroup (sysGid 0) = true ∧ (s.lane (sysGid 0) 0).live = true) := by
  refine ⟨by decide +kernel, by decide +kernel, by decide +kernel⟩
theorem meets_ControlRegisters_words :
    let s := onSys []
    (sysReady s ∧ Issues s cxs c7 none (vNames true 4) 2 ∧ Issues s cxs c7 none (vNames true 4) 0)
    ∧ (s.csrHome (s.group 36864).part (quadOfGid 36864) 0x06 ((s.start cxs c7).csrInst 36864 (ef 4 0 0 0 6 0)) = some (csrPart 1 0x06)
      ∧ rzBad 0x06 ((s.start cxs c7).readVW 36864 (issOf s cxs c7).low 1 true 4) = false) := by decide +kernel
theorem meets_ControlRegisters_writes :
    let s := onSys []
    (s.csrHome 1 ((s.quadsOf 1).headD 0) 0x0A 0 = some (csrKey 0x0A 0) ∧ rzBad 0x0A 0x8000 = false)
    ∧ (s.csrHome 1 ((s.quadsOf 1).headD 0) 0x09 0 = some (csrKey 0x09 0) ∧ rzBad 0x09 0x0101 = false)
    ∧ (s.holds 1 3 = true ∧ rzBad 0x28 1 = false)
    ∧ (s.notItsSlot 1 = false ∧ ({ s with sys := { s.sys with quiet := true, quietVf := 2 } } : State).notItsSlot 1 = true)
    ∧ (bits (0x0301 : DWord) 47 13 = 0 ∧ bits (0x0301 : DWord) 7 1 = 0 ∧ (0x0301 : DWord).getLsbD 0 = true ∧ s.portDom 5 = none ∧ s.domOwner 3 = none)
    ∧ (bits (0x0186A005F5E10001 : DWord) 2 1 = 0 ∧ s.domOwner 3 = none ∧ (0x0186A005F5E10001 : DWord).getLsbD 0 = true
      ∧ (∀ p ∈ s.portsOf 3, s.ownerOf p = 1 ∧ s.holdsDie 1 (p / 4) = true) ∧ (s.quadsOf 1).head? = some 0) := by decide +kernel
/-! ### Translation, late causes and faults -/

/-- Page tables at 0 that map the 64 KiB page at 0x10000 to itself. -/
def tables : List Host.Cell :=
  let p := 2 ^ 48
  [(p, 1), (p + 1, 0x10), (p + 0x1000, 1), (p + 0x1001, 0x20), (p + 0x2000, 1), (p + 0x2001, 0x30), (p + 0x3008, 0x1F), (p + 0x300A, 1)]
theorem meets_TranslationAndTensorTables_system :
    sysReady (onSys []) ∧ Issues (onSys []) cxs c7 (some .mc) [] 0
    ∧ ((follows s1 (.inv 384 1 0 0 0x10000 1)).after = [⟨ret5.id, .inv 384 1 0 0 0x10000 1⟩]
      ∧ (page1 0 .shared).va < 0x10000 + 1 ∧ 0x10000 < (page1 0 .shared).va + (page1 0 .shared).size ∧ page1 0 .shared ∈ s1.ms.tlb)
    ∧ (∀ l ∈ [[], [piece1]],
      let s := follows { copying .toScratch l with ms := { s1.ms with dropped := [(384, page1 0 .shared)] } } (.sync 384)
      s.after = [⟨ret5.id, .sync 384⟩] ∧ s.ms.dropped.any (fun x => x.1 == 384 && s.entryUsed x.2) = decide (l ≠ []))
    ∧ (let s := follows s1 (.tid 1 9 none)
       s.after = [⟨ret5.id, .tid 1 9 none⟩] ∧ s.launch 1 = some launch1) := by
  refine ⟨by decide +kernel, by decide +kernel, by decide +kernel, by decide +kernel, by decide +kernel⟩
/-- g7 and g8 hold a region's base and length; the block has locked regions. -/
def locks (base len : DWord) (regions : List Region) : State :=
  let s := withG (withG s1 7 base) 8 len
  { s with mem := tables, blocks := [{ block1 with regions := regions }], launches := [launch1], ms := { s.ms with tlb := [] } }
abbrev lockReady (base len : DWord) (regions : List Region) : Prop :=
  let s := locks base len regions
  LanesExist s cx1 ∧ Issues s cx1 c7 (some .mc) [6] 0 ∧ (s.start cx1 c7).readG 0 7 = base ∧ (s.start cx1 c7).readG 0 8 = len
    ∧ s.block (s.group 0).blk = some { block1 with regions := regions }
def region1 : Region := ⟨0x90000, 1⟩
theorem meets_TranslationAndTensorTables_locks :
    lockReady 0x10100 0 []
    ∧ (lockReady 0x20000 16 [] ∧ (regionLeaves (locks 0x20000 16 []) ((locks 0x20000 16 []).laneWalker 0) 0x20000 16).2.2 = false)
    ∧ (lockReady 0x10100 16 [] ∧ (regionLeaves (locks 0x10100 16 []) ((locks 0x10100 16 []).laneWalker 0) 0x10100 16).2.2 = true
      ∧ (regionLeaves (locks 0x10100 16 []) ((locks 0x10100 16 []).laneWalker 0) 0x10100 16).2.1.length = 1
      ∧ (locks 0x10100 16 []).lockable 0 = 32 ∧ block1.cores = [0])
    ∧ (let rs := [region1, region1, region1, region1]
       lockReady 0x10100 16 rs ∧ (regionLeaves (locks 0x10100 16 rs) ((locks 0x10100 16 rs).laneWalker 0) 0x10100 16).2.2 = true ∧ 4 ≤ rs.length)
    ∧ Issues (locks 0x90000 1 [region1]) cx1 c7 none [] 0 := by
  refine ⟨by decide +kernel, by decide +kernel, by decide +kernel, by decide +kernel, by decide +kernel⟩
theorem meets_TranslationAndTensorTables_tensors :
    let s := withG s1 6 0x10100
    LanesExist s cx1 ∧ Issues s cx1 c7 (some .mc) [] 0 ∧ s.launch (s.group 0).lid = some launch1 ∧ ((s.start cx1 c7).readG 0 6).toNat = 0x10100
    ∧ ((s.start cx1 c7).checkOne (issOf s cx1 c7) .read 0x10100).2 = some (2 ^ 48 + 0x10100, .shared) ∧ Quiet s := by decide +kernel

/-- Lane 0's access 4 can report a late cause; instruction 5 has written v9 since. -/
def open4 : OpenAcc := ⟨4, 0x10008, 1, 1, 0, []⟩
theorem meets_LateCausesAndFaultRecords_late :
    let s := withLane s1 fun y => { y with opens := [open4], undo := [.v 5 9 7] }
    (s.lane 0 0).opens.find? (fun o => o.id == 4) = some open4 ∧ (s.group 0).sys = false ∧ handlerOf s 0 ≠ 0
    ∧ 0 < (s.group 0).lanes.length ∧ open4.stack.length < 64 ∧ (open4.stack.length < 4 ∧ s.ms.jobs = [] ∧ s.ms.monitors = []) ∧ (s.lane 0 0).undo = [.v 5 9 7] ∧ open4.id < 5 := by decide +kernel
theorem meets_LateCausesAndFaultRecords_held : ∀ a ∈ [0, 1],
    let s := { signs 2 a false with waits := [⟨7, 0, 1, 0, cx1, .held, false⟩] }
    s.waits.find? (fun w => w.gid == 0 && w.kind == .held && w.lanes.getLsbD 0) = some ⟨7, 0, 1, 0, cx1, .held, false⟩ ∧ cx1.gid = 0
    ∧ s.waits = [⟨7, 0, 1, 0, cx1, .held, false⟩] ∧ s.secondPhase (s.group 0).blk 1 = false
    ∧ (withJoin s 1 { Join.fresh with e := 2, a := 1, last := s.clock + 1 }).secondPhase (s.group 0).blk 1 = true
    ∧ (∃ b, s.block (s.group 0).blk = some b ∧ 1 < b.joins.length) ∧ 0 < (s.group 0).lanes.length ∧ (s.join (s.group 0).blk 1).e = 2
    ∧ (s.join (s.group 0).blk 1).a = a := by
  intro a h
  simp only [List.mem_cons, List.not_mem_nil, or_false] at h
  rcases h with rfl | rfl
  · exact ⟨by decide +kernel, rfl, rfl, by decide +kernel, by decide +kernel, ⟨_, rfl, by decide +kernel⟩, by decide +kernel, by decide +kernel,
      by decide +kernel⟩
  · exact ⟨by decide +kernel, rfl, rfl, by decide +kernel, by decide +kernel, ⟨_, rfl, by decide +kernel⟩, by decide +kernel, by decide +kernel,
      by decide +kernel⟩
theorem meets_LateCausesAndFaultRecords_record :
    let s := { s1 with ms := { s1.ms with parked := [⟨4, 1, 0, 0, 1, false, none⟩] } }
    s.ms.parked.find? (fun p => p.id == 4) = some ⟨4, 1, 0, 0, 1, false, none⟩ ∧ s.sys.pendingFq = [] ∧ s.due = [] := by decide +kernel
/-! ### Collectives -/

/-- Port 0 is enabled in domain 3, which partition 1's quadrant 0 owns; its link and its window are as given. -/
def linked (s : State) (lnk : Nat) (win : Bool) : State :=
  let csrs := [(portcfgKey 0, 0x0301), (domctlKey 3, domctlReset ||| 1), (lnkKey 0, BitVec.ofNat 64 (lnk * 2 ^ 62)),
    (genKey 3, if win then 0x100000000 else 0)]
  { s with sys := { s.sys with csr := csrs.foldl (fun m x => Map.set 0 m x.1 x.2) s.sys.csr } }
/-- A node of 32 bytes on port 0 and channel 5, of type u32. -/
def nodeBytes (op dep s0 : Nat) : List Byte :=
  leBytes 12 0 ++ leBytes 2 1 ++ leBytes 2 dep ++ leBytes 2 s0 ++ leBytes 2 0 ++ [BitVec.ofNat 8 (op + 32), 0, 0, 0, 5, 0, 0, 0, 0, 0, 0, 0]
def run1 (deps started completed : List Nat) : Run :=
  ⟨1, List.replicate 8 0x10100, 0, 3, 9, deps, started, completed, [], 0, 0, 0, false, 0, 1, 0, 0⟩
def graph1 (bytes : List Byte) (run : Option Run) : GraphSlot := ⟨0, 1, bytes, bytes.length / 32, 77, run, 1, none⟩
def graphed (s : State) (g : GraphSlot) : State := { s with fab := { s.fab with graphs := [g] } }
/-- g7 to g14 hold 0x10100, but g8 the word given, and g1 a length. -/
def colArgs (c len : DWord) : State :=
  withGroup s1 fun g => { g with g := [(1, len), (7, 0x10100), (8, c), (9, 0x10100), (10, 0x10100), (11, 0x10100), (12, 0x10100), (13, 0x10100),
    (14, 0x10100)] }
abbrev colReady (s : State) : Prop :=
  LanesExist s cx1 ∧ s.holdsDie (s.group 0).part (dieOfGid 0) = true ∧ Issues s cx1 c7 (some .mc) [6] 0 ∧ CanTrap s 0 (s.taking cx1 c7)
/-- COLLOAD's graph in memory: a COPY of no bytes with the TYPE byte given. -/
def loadsGraph (c : DWord) (opty : Byte) (bad : Bool) (run : Option Run) : State :=
  let s := graphed (colArgs c 0) (graph1 [] run)
  { s with mem := [(2 ^ 48 + 0x10100 + 20, opty)], ms := { s.ms with bad := if bad then [lineOf (2 ^ 48 + 0x10100)] else [] } }
def graphRead (s : State) : Option (Option (List Byte)) :=
  match (s.start cx1 c7).checkRange (issOf s cx1 c7) .engineRead 0x10100 (32 * bits ((s.start cx1 c7).readG 0 8) 12 0) with
  | (s2, some pages) => some (s2.engineBytes pages 0x10100 (32 * bits ((s.start cx1 c7).readG 0 8) 12 0)).2
  | (_, none) => none
abbrev loadReady (s : State) (c : DWord) : Prop :=
  colReady s ∧ ((s.start cx1 c7).readG 0 7).toNat = 0x10100 ∧ (s.start cx1 c7).readG 0 8 = c ∧ (graphRead s).isSome = true
theorem meets_CollectiveWords_load :
    (let s := loadsGraph 1 0x23 false (some (run1 [] [] []))
     loadReady s 1 ∧ (s.graph 0 1).run ≠ none)
    ∧ (loadReady (loadsGraph 0 0x23 false none) 0 ∧ loadReady (loadsGraph 0x2001 0x23 false none) 0x2001
      ∧ ((loadsGraph 0 0x23 false none).graph 0 1).run = none ∧ ((loadsGraph 0x2001 0x23 false none).graph 0 1).run = none)
    ∧ (loadReady (loadsGraph 1 0x23 true none) 1 ∧ graphRead (loadsGraph 1 0x23 true none) = some none)
    ∧ (loadReady (loadsGraph 1 0 false none) 1
      ∧ ((graphRead (loadsGraph 1 0 false none)).bind id).map (fun bs => failingNode (nodesOf bs 1)) = some (some 0))
    ∧ (loadReady (loadsGraph 1 0x23 false none) 1
      ∧ ((graphRead (loadsGraph 1 0x23 false none)).bind id).map (fun bs => failingNode (nodesOf bs 1)) = some none) := by
  refine ⟨by decide +kernel, by decide +kernel, by decide +kernel, by decide +kernel, by decide +kernel⟩
/-- A graph of one SEND, whose run's word names domain 3 and a generation. -/
def runs1 (gen : DWord) (loaded : Bool) (run : Option Run) : State :=
  linked (graphed (colArgs (0x300000000 + gen) 0) (graph1 (if loaded then nodeBytes 0 0 0 else []) run)) lnkUp false
abbrev runReady (s : State) (gen : Word) : Prop :=
  let r := (s.start cx1 c7).releaseBy 0 (maskOf (s.taking cx1 c7))
  colReady s ∧ bits (r.readG 0 8) 36 32 = 3 ∧ lo32 (r.readG 0 8) = gen ∧ bits (r.readG 0 8) 47 37 = 0
abbrev runMeets (gen : DWord) (w : Word) : Prop :=
  let s := runs1 gen true none
  let r := (s.start cx1 c7).releaseBy 0 (maskOf (s.taking cx1 c7))
  let g := r.graph 0 1
  runReady s w ∧ g.n ≠ 0 ∧ g.run = none ∧ ((g.nodes.filter Node.isPort).map fun n => 4 * 0 + n.port) = [0] ∧ s.domOwner 3 = some 1
    ∧ s.portDom 0 = some 3 ∧ s.domEn 3 = true ∧ s.genOk 3 w = decide (gen = 0)
    ∧ (g.nodes.all fun n => (n.addrs ((List.range 8).map fun k => r.readG 0 (7 + k))).all fun x => x.toNat % 32 == 0) = true
theorem meets_CollectiveWords_run :
    (runReady (runs1 0 false none) 0 ∧ (((runs1 0 false none).start cx1 c7).releaseBy 0 1).graph 0 1 = graph1 [] none)
    ∧ (runReady (runs1 0 true (some (run1 [0] [] []))) 0
      ∧ ((((runs1 0 true (some (run1 [0] [] []))).start cx1 c7).releaseBy 0 1).graph 0 1).n = 1)
    ∧ runMeets 0 0 ∧ runMeets 4 4 := by
  refine ⟨by decide +kernel, by decide +kernel, by decide +kernel, by decide +kernel⟩
theorem meets_CollectiveWords_query : ∀ b ∈ [true, false],
    let s := linked (withG s1 7 3) lnkUp b
    colReady s ∧ bits ((s.start cx1 c7).readG 0 7) 4 0 = 3 ∧ s.domOwner 3 = some 1 ∧ s.winOpen 3 = b := by decide +kernel
/-- RPUT and RGET of 32 bytes on port 0, whose link is UP or not, with a generation. -/
def remotes (x : DWord) (lnk : Nat) (bad : Bool) : State :=
  let s := linked (colArgs 0x20 x) lnk false
  { s with ms := { s.ms with bad := if bad then [lineOf (2 ^ 48 + 0x10100)] else [] } }
abbrev remoteReady (s : State) (x : DWord) : Prop :=
  let r := (s.start cx1 c7).releaseBy 0 (maskOf (s.taking cx1 c7))
  colReady s ∧ r.readG 0 1 = x ∧ (r.readG 0 7).toNat = 0x10100 ∧ (r.readG 0 8).toNat % 32 = 0 ∧ s.portDom 0 ≠ none
    ∧ (s.csr (portcfgKey 0)).toNat / 2 ^ 8 % 32 = 3 ∧ s.domOwner 3 = some 1
def remoteRead (s : State) : Option (Option (List Byte)) :=
  let r := (s.start cx1 c7).releaseBy 0 (maskOf (s.taking cx1 c7))
  match r.checkRangeBy (r.colWalker 0 0) (issOf s cx1 c7) .engineRead 0x10100 32 with
  | (s2, some pages) => some (s2.engineBytes pages 0x10100 32).2
  | (_, none) => none
abbrev remoteWrite (s : State) : Prop :=
  let r := (s.start cx1 c7).releaseBy 0 (maskOf (s.taking cx1 c7))
  (r.checkRangeBy (r.colWalker 0 0) (issOf s cx1 c7) .engineWrite 0x10100 32).2.isSome = true
theorem meets_CollectiveWords_remote :
    remoteReady (remotes 0 lnkUp false) 0
    ∧ (remoteReady (remotes 0x400000020 lnkUp false) 0x400000020 ∧ (remotes 0x400000020 lnkUp false).genOk 3 4 = false)
    ∧ (remoteReady (remotes 0x20 lnkDown false) 0x20 ∧ (remotes 0x20 lnkDown false).isUp 0 = false ∧ (remotes 0x20 lnkDown false).genOk 3 0 = true
      ∧ (remoteRead (remotes 0x20 lnkDown false)).isSome = true ∧ remoteWrite (remotes 0x20 lnkDown false))
    ∧ (remoteReady (remotes 0x20 lnkUp true) 0x20 ∧ (remotes 0x20 lnkUp true).isUp 0 = true ∧ remoteRead (remotes 0x20 lnkUp true) = some none)
    ∧ (remoteReady (remotes 0x20 lnkUp false) 0x20 ∧ ((remoteRead (remotes 0x20 lnkUp false)).bind id).isSome = true
      ∧ remoteWrite (remotes 0x20 lnkUp false)) := by
  refine ⟨by decide +kernel, by decide +kernel, by decide +kernel, by decide +kernel, by decide +kernel⟩
theorem meets_CollectiveWords_wait :
    (LanesExist s1 cx1 ∧ Issues s1 cx1 c7 none [6] 1 ∧ s1.holdsDie (s1.group 0).part (dieOfGid 0) = true
      ∧ ∀ k ∈ [0, 1], (s1.graph 0 k).run = none)
    ∧ (let s := runs1 0 true (some (run1 [0] [] []))
       LanesExist s cx1 ∧ Issues s cx1 c7 none [6] 1 ∧ s.holdsDie (s.group 0).part (dieOfGid 0) = true ∧ ∃ k ∈ [1], (s.graph 0 k).run ≠ none) := by
  refine ⟨by decide +kernel, by decide +kernel⟩

/-- Die 0's engine runs a SEND, then a RECV, in partition 1. -/
def colRunning (r : Run) (gen : DWord) (lnk : Nat) : State :=
  let s := linked (graphed s1 (graph1 (nodeBytes 0 0 0x8001 ++ nodeBytes 1 1 0) (some r))) lnk false
  { s with
    sys := { s.sys with csr := Map.set 0 s.sys.csr (genKey 3) gen }
    ms := { s.ms with tlb := [page1 416 .shared, page1 424 .shared] } }
def n0 : NodeRef := ⟨0, 1, 0, 0⟩
def n1 : NodeRef := ⟨0, 1, 1, 0⟩
theorem meets_CollectiveEvents_ended : (graphed s1 (graph1 [] none)).runOf n0 = none
    ∧ (colRunning { run1 [0, 1] [] [] with order := 5 } 0 lnkUp).runOf n0 = none := by decide +kernel
abbrev startMeets (gen : DWord) : Prop :=
  let r := run1 [0, 1] [] []
  let s := colRunning r gen lnkUp
  (s.graph 0 1).run = some r ∧ r.order = n0.run ∧ s.fab.windows = [] ∧ s.fab.inbox = [] ∧ s.fab.waiting = [] ∧ r.stopped = false ∧ r.deps.getD 0 1 = 0 ∧ 0 ∉ r.started
  ∧ ((s.graph 0 1).node 0).isPort = true ∧ ((s.graph 0 1).node 0).spa = false ∧ s.genOk r.dom r.gen = decide (gen = 0) ∧ r.conds = 0
  ∧ r.mkind = 0 ∧ r.started = []
theorem meets_CollectiveEvents_start : startMeets 0 ∧ startMeets 4 := by
  refine ⟨by decide +kernel, by decide +kernel⟩
def sends (s : State) (r : Run) (nd : Node) : Bool :=
  match s.nodePages n0 r .engineRead (spanFrom (opAddr r.bases nd.aoff nd.ab) nd.bytes) with
  | .ok s2 pa => (s2.engineBytes pa (opAddr r.bases nd.aoff nd.ab).toNat nd.bytes).2.isSome
  | .fail _ => false
  | .hold _ => false
theorem meets_CollectiveEvents_send :
    let r := run1 [0, 1] [0] []
    let s := colRunning r 0 lnkUp
    let nd := (s.graph 0 1).node 0
    (s.graph 0 1).run = some r ∧ 0 ∈ r.started ∧ 0 ∉ r.completed ∧ nd.spa = false ∧ nd.op = 0 ∧ nd.resid = false ∧ s.isUp 0 = true
    ∧ sends s r nd = true := by decide +kernel
def chunk1 : Chunk := ⟨5, 8, 2, 0, 0, 77, 9, List.replicate 32 3⟩
def taken1 : Arrived := ⟨40, 0, chunk1⟩
def writes (s : State) (r : Run) (d : DWord) (nd : Node) : Bool :=
  match s.nodePages n1 r .engineWrite (spanFrom d nd.bytes) with
  | .ok _ pages => pages == [(d.toNat, 2 ^ 48 + 0x10100, .shared)]
  | .fail _ => false
  | .hold _ => false
/-- The RECV, which has its chunk, is the last node that has not completed, or the SEND has not either. -/
abbrev receives (completed : List Nat) : Prop :=
  let r := { run1 [0, 0] [0, 1] completed with taken := [(1, taken1)] }
  let s := colRunning r 0 lnkUp
  let nd := (s.graph 0 1).node 1
  let d := opAddr r.bases nd.doff nd.db
  (s.graph 0 1).run = some r ∧ nd.spa = false ∧ nd.op = 1 ∧ nd.isRecv = true ∧ s.writesBefore 0 taken1.num = false
    ∧ ({ s with fab := { s.fab with staging := [{ taken1 with num := 3 }] } } : State).writesBefore 0 taken1.num = true ∧ r.taken.lookup 1 = some taken1
    ∧ mkindOf nd (s.graph 0 1).ghash r.epoch taken1.chunk = 0 ∧ nd.bytes ≤ taken1.chunk.payload.length ∧ d.toNat % 4096 + nd.bytes ≤ 4096
    ∧ Quiet s ∧ writes s r d nd = true
theorem meets_CollectiveEvents_receive : receives [] ∧ receives [0]
    ∧ ((∀ m ∈ [0, 1], m ∈ [0] ∨ m = 1) ∧ [0].length + 1 = 2) ∧ ¬(∀ m ∈ [0, 1], m ∈ ([] : List Nat) ∨ m = 1) := by
  refine ⟨by decide +kernel, by decide +kernel, by decide, by decide⟩
/-- A chunk arrives while the RECV waits for it, while its run has ended, while nothing takes it, or while staging is full. -/
def arrivesAt (last : Bool) (full : Bool) : State :=
  let s := linked (graphed s1 { graph1 [] none with last := if last then some (77, 9) else none }) lnkUp false
  { s with fab := { s.fab with staging := if full then (List.range 8000).map fun k => ⟨k, 0, { chunk1 with epoch := 5 }⟩ else [] } }
theorem meets_CollectiveEvents_chunks :
    (s1.isUp 0 = false)
    ∧ (let r := run1 [0, 0] [0, 1] []
       let s := colRunning r 0 lnkUp
       s.isUp 0 = true ∧ s.matchChunk ⟨s.nextId, 0, chunk1⟩ = some (1, 1) ∧ (s.graph (0 / 4) 1).run = some r)
    ∧ (let s := arrivesAt true false
       s.isUp 0 = true ∧ s.matchChunk ⟨s.nextId, 0, chunk1⟩ = none ∧ s.isStaleChunk ⟨s.nextId, 0, chunk1⟩ = true)
    ∧ (let s := arrivesAt false false
       s.isUp 0 = true ∧ s.matchChunk ⟨s.nextId, 0, chunk1⟩ = none ∧ s.isStaleChunk ⟨s.nextId, 0, chunk1⟩ = false
        ∧ s.staged (0 / 4) + chunk1.payload.length ≤ 256000)
    ∧ (let s := arrivesAt false true
       s.isUp 0 = true ∧ s.matchChunk ⟨s.nextId, 0, chunk1⟩ = none ∧ s.isStaleChunk ⟨s.nextId, 0, chunk1⟩ = false
        ∧ 256000 < s.staged (0 / 4) + chunk1.payload.length ∧ s.fab.inbox = [] ∧ s.fab.waiting = [])
    ∧ (let s := arrivesAt false true
       let t := { s with fab := { s.fab with waiting := [(0, .chunkArrival 0 chunk1)] } }
       t.isUp 0 = true ∧ t.fab.inbox = [] ∧ (t.chunkIn 0 chunk1).isNone = true) := by
  refine ⟨by decide +kernel, by decide +kernel, by decide +kernel, by decide +kernel, by decide +kernel, by decide +kernel⟩
/-- A peer's request on port 0, for an address and a direction. -/
def peerAsks (put : Bool) (a : DWord) : RemoteReq := ⟨0, put, a, 32, List.replicate 32 3, 6⟩
/-- What a delivered request finds: its bytes where it reads, or why not. -/
def served (s : State) (q : RemoteReq) : Nat :=
  let u : State := { s with nextId := s.nextId + 1, fab := { s.fab with inbox := [⟨s.nextId, q, false⟩] } }
  let w : Walker := { u.kernelWalker (424 + q.port) (s.ownerOf q.port) none with die := some (q.port / 4) }
  match u.xlateRange w (if q.put then .engineWrite else .engineRead) (q.len / 4096 + 2) q.addr.toNat (q.addr.toNat + q.len) with
  | (_, .error (_, .trap _)) => 2
  | (_, .error (_, .stop _ _)) => 5
  | (_, .error (_, .ok _ _)) => 6
  | (s2, .ok pages) => if q.put then 0 else if (s2.engineBytes pages q.addr.toNat q.len).2.isSome then 0 else 3
/-- Port 424's TLB maps the page, which may be read, and written or not; its line may be bad. -/
def serves (w bad : Bool) : State :=
  let s := (linked s1 lnkUp false).setCsr (csrPart 1 0x06) 1
  { s with ms := { s.ms with tlb := [{ page1 424 .shared with w := w }], bad := if bad then [lineOf (2 ^ 48 + 0x10100)] else [] } }
abbrev asked (s : State) (q : RemoteReq) (st : Nat) : Prop :=
  s.isUp 0 = true ∧ s.fab.inbox = [] ∧ s.fab.waiting = [] ∧ s.writesBefore 0 s.nextId = false ∧ served s q = st
theorem meets_CollectiveEvents_requests :
    s1.isUp 0 = false
    ∧ (let s := colRunning { run1 [0, 0] [0, 1] [] with taken := [(1, { taken1 with num := 0 })] } 0 lnkUp
       let t := { s with nextId := 50 }
       t.isUp 0 = true ∧ t.fab.inbox = [] ∧ t.fab.waiting = [] ∧ t.writesBefore 0 t.nextId = true)
    ∧ asked (serves true false) (peerAsks true 0x10100) 0 ∧ asked (serves true false) (peerAsks false 0x10100) 0
    ∧ asked (serves false false) (peerAsks true 0x10100) 2 ∧ asked (serves true true) (peerAsks false 0x10100) 3
    ∧ asked (serves true false) (peerAsks false 0x90000) 5 := by
  refine ⟨by decide +kernel, by decide +kernel, by decide +kernel, by decide +kernel, by decide +kernel, by decide +kernel, by decide +kernel⟩
def transfer1 : Transfer := ⟨4, 0, true, 0, 1, 0x10100, 32, 1, 6, 1, []⟩
theorem meets_CollectiveEvents_transfers :
    let s := { s1 with fab := { s1.fab with transfers := [transfer1] } }
    s.fab.windows = [] ∧ s.fab.transfers.find? (fun x => x.id == 4) = some transfer1 := by decide +kernel
/-! ### Windows and links -/

/-- g7 holds the map's address and g8 the domain with a generation; the map asks for port 0 and the peer given, or for nothing. -/
def recircs (win : Bool) (gen peer : Nat) (busy : Bool) : State :=
  let s := linked (withG (withG s1 7 0x10100) 8 (BitVec.ofNat 64 (gen * 2 ^ 32 + 3))) lnkUp win
  { s with
    mem := if peer = 0 then [] else [(2 ^ 48 + 0x10100, BitVec.ofNat 8 peer), (2 ^ 48 + 0x10103, 0x80)]
    fab := { s.fab with transfers := if busy then [transfer1] else [] } }
def readMap (s : State) : Option (List Byte) :=
  match (s.start cx1 c7).checkOne (issOf s cx1 c7) .read 0x10100 with
  | (s2, some x) => (s2.engineRead (lineOf x.1) 0 128 x.2).2.map fun l => bytesOf l 0 128
  | (_, none) => none
abbrev recircReady (s : State) (gen : Word) : Prop :=
  let s1 := s.start cx1 c7
  LanesExist s cx1 ∧ Issues s cx1 c7 (some .mc) (vNames true 6) 0 ∧ (s1.readG 0 7).toNat = 0x10100 ∧ bits (s1.readG 0 8) 4 0 = 3
    ∧ hi32 (s1.readG 0 8) = gen ∧ s.domOwner 3 = some (s.group 0).part ∧ (readMap s).isSome = true ∧ s.fab.windows = [] ∧ s.fab.genQueries = []
    ∧ s.waits = [] ∧ (ef 6 7 8 0 0 1).flags.getLsbD 0 = true
def mapIsOk (s : State) : Option Bool := (readMap s).map fun bs => s.mapOk 3 ((s.start cx1 c7).readG 0 8) bs
theorem meets_ReconfigurationWindows_recirc :
    (recircReady (recircs true 0 0 false) 0 ∧ (recircs true 0 0 false).winOpen 3 = true)
    ∧ (recircReady (recircs false 4 0 false) 4 ∧ (recircs false 4 0 false).winOpen 3 = false ∧ (recircs false 4 0 false).gen 3 = 0)
    ∧ (let s := { recircs false 0 0 false with mem := [(2 ^ 48 + 0x10102, 1)] }
       recircReady s 0 ∧ s.winOpen 3 = false ∧ s.gen 3 = 0 ∧ mapIsOk s = some false)
    ∧ (let s := recircs false 0 5 true
       recircReady s 0 ∧ s.winOpen 3 = false ∧ s.gen 3 = 0 ∧ mapIsOk s = some true ∧ s.domBusy 3 = true)
    ∧ (let s := recircs false 0 0 false
       recircReady s 0 ∧ s.winOpen 3 = false ∧ s.gen 3 = 0 ∧ mapIsOk s = some true ∧ s.domBusy 3 = false ∧ (readMap s).map mapWords = some [])
    ∧ (let s := recircs false 0 5 false
       recircReady s 0 ∧ mapIsOk s = some true ∧ s.domBusy 3 = false ∧ (readMap s).map mapWords = some [(0, 5)]) := by
  refine ⟨by decide +kernel, by decide +kernel, by decide +kernel, by decide +kernel, by decide +kernel, by decide +kernel⟩
def window1 (drained : Bool) (req answer : Option Nat) : Window := ⟨20, 3, 0, drained, false, [(0, 5)], req, answer, 0, 20, 6, 1, 0, true⟩
/-- A window is open on domain 3, at a clock. -/
def opened (w : Window) (clock : Nat) : State :=
  let s := linked s1 lnkUp true
  { s with clock := clock, fab := { s.fab with windows := [w] } }
theorem meets_ReconfigurationWindows_timeOuts :
    ((opened (window1 true (some 8) none) 0).window 20 = some (window1 true (some 8) none)
      ∧ (opened (window1 false none none) 0).window 20 = some (window1 false none none))
    ∧ ((opened (window1 false none none) 0).tick < 0 + (opened (window1 false none none) 0).dto 3
      ∧ 0 + (opened (window1 false none none) (10 ^ 12)).dto 3 ≤ (opened (window1 false none none) (10 ^ 12)).tick)
    ∧ ((opened (window1 true (some 8) none) 0).tick < 0 + (opened (window1 true (some 8) none) 0).rto 3
      ∧ 0 + (opened (window1 true (some 8) none) (10 ^ 12)).rto 3 ≤ (opened (window1 true (some 8) none) (10 ^ 12)).tick
      ∧ (opened (window1 true (some 8) none) (10 ^ 12)).fab.genQueries = [])
    ∧ ((opened (window1 true (some 8) none) 0).tick < 0 + 100000 ∧ 0 + 100000 ≤ (opened (window1 true (some 8) none) (10 ^ 12)).tick
      ∧ (window1 true (some 8) none).req = some 8 ∧ (window1 true (some 8) none).answer = none ∧ (window1 false none none).req = none) := by
  refine ⟨by decide +kernel, by decide +kernel, by decide +kernel, by decide +kernel⟩
/-- A reply to request 8 with a result. -/
def reply (result : Byte) : List Byte := [0x57, 0x43, 0x52, 0x50, 0, 0, 0, 8, result, 0, 0, 0]
theorem meets_ReconfigurationWindows_replies :
    (∀ r ∈ [(0 : Byte), 1, 2],
      (reply r).length = 12 ∧ leNat (((reply r).drop 0).take 4).reverse = 0x57435250 ∧ leNat (((reply r).drop 4).take 4).reverse = 8
        ∧ leNat (((reply r).drop 8).take 1).reverse = r.toNat)
    ∧ (let s := opened (window1 true (some 8) none) 0
       s.fab.windows = [window1 true (some 8) none] ∧ ∃ p ∈ (window1 true (some 8) none).wanted, s.portDom p ≠ none) := by
  refine ⟨by decide +kernel, by decide +kernel⟩
theorem meets_ReconfigurationWindows_frames :
    (∀ advert ∈ [none, some (s1.sys.settings.controller, (7 : BitVec 48)), some (s1.sys.settings.controller + 1, 7)],
     let f : ControlFrame := ⟨s1.sys.settings.mac, true, none, 1518, advert.isNone, s1.sys.settings.udp, advert, false, s1.sys.settings.addr, true, reply 0⟩
     (f.fcsGood = true ∧ f.dst = s1.sys.settings.mac ∧ f.vlan = none ∧ f.length ≤ 1518
       ∧ ((f.ipv6Udp = true ∧ f.udpPort = s1.sys.settings.udp) ∨ f.advert ≠ none) ∧ f.extensionOrFragment = false
       ∧ f.dstAddr = s1.sys.settings.addr ∧ f.checksumGood = true) ∧ (1519 : Nat) > 1518)
    ∧ (let w := { window1 true (some 8) none with left := false }
       (opened w 0).fab.windows = [w] ∧ w.req = some 8 ∧ w.left = false ∧ w.answer = none)
    ∧ ∀ x : BitVec 128, x + 1 ≠ x := by
  refine ⟨?_, by decide +kernel, fun x => by simp⟩
  intro a h
  simp only [List.mem_cons, List.not_mem_nil, or_false] at h
  rcases h with rfl | rfl | rfl <;> simp

/-- Port 0's link in a state, with a flit last seen at tick 0 and the clock given; `dead` keeps it DOWN. -/
def linkAt (lnk : Nat) (dead : Bool) (clock : Nat) : State :=
  let s := linked s1 lnk false
  { s with clock := clock, fab := { s.fab with links := [{ Link.fresh 0 with dead := dead }] } }
theorem meets_OpticalLinks_states :
    ((linkAt lnkUp false 0).fab.windows = [] ∧ (linkAt lnkUp false 0).fab.inbox = [] ∧ (linkAt lnkUp false 0).fab.waiting = [] ∧ (linkAt lnkUp false 0).isUp 0 = true)
    ∧ (((linkAt lnkUp false 10000).link 0).lastFlit + 100 ≤ (linkAt lnkUp false 10000).tick ∧ (linkAt lnkUp false 10000).isUp 0 = true
      ∧ ¬((false : Bool) = true ∨ ((linkAt lnkUp false 0).link 0).lastFlit + 100 ≤ (linkAt lnkUp false 0).tick))
    ∧ ((linkAt lnkUp false 0).lnk 0 ≠ lnkTraining)
    ∧ ∀ b ∈ [true, false], (linkAt lnkTraining b 0).lnk 0 = lnkTraining ∧ (linkAt lnkTraining b 0).portDom 0 ≠ none
      ∧ ((linkAt lnkTraining b 0).link 0).dead = b ∧ (linkAt lnkTraining b 0).fab.windows = [] ∧ (linkAt lnkTraining b 0).fab.inbox = [] := by
  refine ⟨by decide +kernel, by decide +kernel, by decide +kernel, by decide +kernel⟩
theorem meets_OpticalLinks_lanes :
    (∀ l, l < 8 → (0x0FF : BitVec 9).getLsbD l ≠ false)
    ∧ (3 < 8 ∧ (0x1F7 : BitVec 9).getLsbD 3 = false ∧ ∀ k, k < 9 → k ≠ 3 → (0x1F7 : BitVec 9).getLsbD k ≠ false)
    ∧ ((0x0F7 : BitVec 9).getLsbD 3 = false ∧ (0x0F7 : BitVec 9).getLsbD 8 = false) := by decide +kernel
/-- A flit of a type and a sequence number, whose CRC is right or not. -/
def flit (ty seq : Byte) (good : Bool) : List Byte :=
  let l := [ty, 0, seq] ++ List.replicate 249 0
  l ++ leBytes 4 ((crc32 l).toNat + if good then 0 else 1)
abbrev flitMeets (ty seq : Byte) : Prop :=
  (flit ty seq true).length = 256 ∧ BitVec.ofNat 32 (fieldAt (flit ty seq true) 252 4) = crc32 ((flit ty seq true).take 252)
    ∧ fieldAt (flit ty seq true) 0 1 % 16 = ty.toNat ∧ fieldAt (flit ty seq true) 2 2 % 4096 = seq.toNat
theorem meets_OpticalLinks_flits :
    ((linkAt lnkUp false 0).portDom 0 ≠ none ∧ (linkAt lnkUp false 0).isUp 0 = true ∧ ((linkAt lnkUp false 0).link 0).expect = 0)
    ∧ BitVec.ofNat 32 (fieldAt (flit 0 0 false) 252 4) ≠ crc32 ((flit 0 0 false).take 252)
    ∧ flitMeets 6 0 ∧ flitMeets 1 7 ∧ flitMeets 1 0 ∧ flitMeets 0 0 ∧ flitMeets 4 0 := by
  refine ⟨by decide +kernel, by decide +kernel, by decide +kernel, by decide +kernel, by decide +kernel, by decide +kernel, by decide +kernel⟩
/-! ### Host, storage, management, health -/

/-- Partition 1's function is in a TDISP state, with the keys of its IDE stream in use; a write 3 of the host waits. -/
def hosted (t : Tdi) : State :=
  { s1 with due := [.hostWrite ⟨1, 3, false, 0, true⟩ []]
            sys := { s1.sys with tdi := [(1, t)], ideKeys := (List.range 6).map fun k => ⟨1, 0, k, 9, true⟩ } }
abbrev shut (s : State) (r : HostReq) (bar0 : Bool) : Prop :=
  s.sys.recovery = true ∨ s.part r.vf = none ∨ ((s.tdi r.vf = .configLocked ∨ s.tdi r.vf = .run) ∧ ¬(r.ide = true ∧ s.ideOpen r.vf = true))
    ∨ (bar0 = false ∧ s.tdi r.vf ≠ .run)
def quietFor (s : State) (vf : Nat) : State := { s with sys := { s.sys with quiet := true, quietVf := vf } }
theorem meets_HostAndStorage_requests :
    (let r : HostReq := ⟨1, 2, false, 0x100, true⟩
     (hosted .run).behind r = false ∧ (hosted .run).notItsSlot 1 = false ∧ ¬shut (hosted .run) r true ∧ ¬shut (hosted .run) r false
      ∧ r.off + 16 ≤ (hosted .run).top 1 ∧ r.off % 4096 + 16 ≤ 4096 ∧ Quiet (hosted .run) ∧ paddr 1 0x100 % 128 + 16 ≤ 128)
    ∧ ((hosted .run).behind ⟨1, 4, false, 0x100, true⟩ = true ∧ (quietFor (hosted .run) 2).notItsSlot 1 = true)
    ∧ (shut (hosted .configLocked) ⟨1, 2, false, 0x100, true⟩ false ∧ shut (hosted .run) ⟨1, 2, true, 0x100, false⟩ true)
    ∧ (let r : HostReq := ⟨1, 2, true, 0, true⟩
       (hosted .run).behind r = false ∧ ((hosted .run).quadsOf 1)[r.off / 256]? = some 0 ∧ r.off % 256 + 8 ≤ 8
        ∧ ({ r with off := 4 } : HostReq).off % 256 = 4 ∧ (hosted .run).top 1 < (hosted .run).top 1 + 16) := by
  refine ⟨by decide +kernel, by decide +kernel, by decide +kernel, by decide +kernel⟩
theorem meets_HostAndStorage_doorbells :
    let r : HostReq := ⟨1, 2, true, 0x200, true⟩
    let s := hosted .run
    (s.behind r = false ∧ s.notItsSlot 1 = false ∧ (s.quadsOf 1)[r.off / 256]? = some 2 ∧ ¬shut s r true ∧ r.off % 256 = 0)
    ∧ (16 * 2 ^ bits (s.csr (lqbaseKey 2)) 3 0 = 16 ∧ hi32 (s.csr (mboxKey 2)) = 0 ∧ s.ringLive 2 = false)
    ∧ (∀ tail ∈ [17, 16], (BitVec.ofNat 32 tail - (0 : Word)).toNat = tail)
    ∧ (s.quadsOf 1)[(0x10000 : Nat) / 256]? = none := by decide +kernel
/-- Every gate of partition 1 is locked. -/
def gated (t : Tdi) : State :=
  let s := hosted t
  { s with sys := { s.sys with csr := (List.range 32).map fun q => (csrKey 0x28 q, 1) } }
theorem meets_HostAndStorage_interfaces :
    ((gated .configUnlocked).tdi 1 = .configUnlocked ∧ ((gated .configUnlocked).part 1).map (fun x => x.keyset) = some true
      ∧ ∀ q ∈ (gated .configUnlocked).quadsOf 1, ((gated .configUnlocked).csr (csrKey 0x28 q)).getLsbD 0 = true)
    ∧ ((hosted .error).tdi 1 ≠ .configUnlocked ∧ (hosted .configLocked).tdi 1 = .configLocked ∧ (hosted .run).tdi 1 ≠ .configLocked)
    ∧ ((hosted .run).sys.quiet = false ∧ (quietFor s1 0).sys.quiet = true ∧ (quietFor s1 0).tick < (quietFor s1 0).sys.quietAt + 100)
    ∧ (let s : State := { quietFor s1 0 with clock := 940 }
       s.sys.quiet = true ∧ s.sys.quietAt + 100 ≤ s.tick ∧ ∃ p ∈ s.sys.parts, s.sys.quietVf < p.num) := by
  refine ⟨by decide +kernel, by decide +kernel, by decide +kernel, by decide +kernel⟩
/-- Storage queue pair 0 lies at 0x10000 with 16 entries each, or is disabled; its first submission entry has an opcode. -/
def stores (en : Bool) (op : Byte) (cmds : List NvCmd) (w : Bool) : State :=
  let csrs := [(nvqKey 0, if en then 0x10001 else 0x10000), (nvdbKey 0, 1)]
  { s1 with
    mem := (if op = 0 then [] else [(2 ^ 48 + 0x10000, op)]) ++ [(2 ^ 48 + 0x10004, 1)]
    ms := { s1.ms with tlb := [{ page1 456 .shared with w := w }] }
    sys := { s1.sys with csr := ((csrPart 1 0x06, 1) :: csrs).foldl (fun m x => Map.set 0 m x.1 x.2) s1.sys.csr, nvme := cmds } }
def fetched (s : State) : Option (List Byte) :=
  let va := s.nvBase 0 + 64 * (s.nvPos 0).fetched
  match s.xlate (s.kernelWalker storageAgent (s.pairOwner 0) none) (BitVec.ofNat 64 va) .engineRead with
  | (s1, .ok pa k) => (s1.engineBytes [(va, pa, k)] va 64).2
  | (_, .trap _) => none
  | (_, .stop _ _) => none
abbrev fetches (op : Byte) (st : Option Nat) : Prop :=
  let s := stores true op [] true
  s.pairOwner 0 = 1 ∧ s.notItsSlot 1 = false ∧ (s.csr (nvqKey 0)).getLsbD 0 = true
    ∧ ((s.nvPos 0).fetched + 1) % s.nvSize 0 = bits (s.csr (nvdbKey 0)) 31 0 % s.nvSize 0 ∧ (s.nvPos 0).fetched < s.nvSize 0
    ∧ (fetched s).map (fun e => s.nvCheck 0 e) = some st
theorem meets_HostAndStorage_submissions : fetches 0 none ∧ fetches 3 (some 1)
    ∧ (quietFor (stores true 0 [] true) 2).notItsSlot 1 = true ∧ ((stores false 0 [] true).csr (nvqKey 0)).getLsbD 0 = false := by
  refine ⟨by decide +kernel, by decide +kernel, by decide +kernel, by decide +kernel⟩
def cmd1 : NvCmd := ⟨0, List.replicate 64 0, 1⟩
abbrev isCmd1 (k : NvCmd) : Bool := k.pair == 0 && fieldAt k.entry 2 2 == 0
def entryPlace (s : State) : Option Nat :=
  match (s.xlate (s.kernelWalker storageAgent 1 none) (BitVec.ofNat 64 (s.nvBase 0 + 64 * s.nvSize 0 + 16 * ((s.nvPos 0).posted % s.nvSize 0)))
    .engineWrite).2 with
  | .ok pa _ => some pa
  | .trap _ => none
  | .stop _ _ => none
theorem meets_HostAndStorage_completions :
    let s := stores true 0 [cmd1] true
    (stores true 0 [] true).sys.nvme.find? isCmd1 = none
    ∧ (s.sys.nvme.find? isCmd1 = some cmd1 ∧ s.notItsSlot 1 = false ∧ s.nvData 0 0 = false
      ∧ ((s.nvPos 0).posted + s.nvSize 0 - bits (s.csr (nvdbKey 0)) 63 32 % s.nvSize 0) % s.nvSize 0 ≠ s.nvSize 0 - 1
      ∧ Quiet s ∧ entryPlace s = some (2 ^ 48 + 0x10400) ∧ (2 ^ 48 + 0x10400) % 128 + 16 ≤ 128 ∧ fieldAt (List.replicate 16 0) 12 2 = 0)
    ∧ ({ s with due := [.storageDma ⟨0, 0, true, 0x10100, 16, [], 1, false⟩] } : State).nvData 0 0 = true := by decide +kernel
/-- What a data request finds: 0 its page, 1 a failed check, 2 no translation. -/
def dmaPages (s : State) (write : Bool) : Nat :=
  match s.xlateRange (nvWalker 1 cmd1.xlat) (if write then .engineWrite else .engineRead) (16 / 4096 + 2) 0x10100 (0x10100 + 16) with
  | (s1, .ok pages) => if pages = [(0x10100, 2 ^ 48 + 0x10100, .shared)] ∧ (s1.engineBytes pages 0x10100 16).2.isSome = true then 0 else 3
  | (_, .error (_, .trap _)) => 1
  | (_, .error _) => 2
theorem meets_HostAndStorage_data :
    (∀ w ∈ [true, false],
      let s := stores true 0 [cmd1] true
      s.pairOwner 0 = 1 ∧ s.sys.nvme.find? isCmd1 = some cmd1 ∧ s.notItsSlot 1 = false ∧ dmaPages s w = 0 ∧ Quiet s
        ∧ (0x10100 : DWord).toNat % 4096 + 16 ≤ 4096 ∧ (2 ^ 48 + 0x10100) % 128 + 16 ≤ 128)
    ∧ dmaPages (stores true 0 [cmd1] false) true = 1 := by
  refine ⟨by decide +kernel, by decide +kernel⟩

/-- The responder's state, with one session 4 where it is given. -/
def spdmed (algs recovery : Bool) (session : Option Bool) : State :=
  { s1 with sys := { s1.sys with
      spdm := ⟨algs, algs, algs, [], match session with
        | some b => [⟨4, b, 0, [], 0, 0⟩]
        | none => [], 4, []⟩
      recovery := recovery } }
/-- The tag of a request body in session 4. -/
def tag4 (established : Bool) (body : List Byte) : List Byte := ((⟨4, established, 0, [], 0, 0⟩ : Session).seal false 0 body).2
theorem authentic4 (algs recovery established : Bool) (body : List Byte) :
    (spdmed algs recovery (some established)).authentic 4 body (tag4 established body) = true := by
  simp [State.authentic, State.session, spdmed, tag4]
theorem meets_SessionsAnswer :
    (∀ b ∈ [true, false], (spdmed b false none).sys.spdm.version = b ∧ (spdmed b false none).sys.spdm.caps = b
      ∧ (spdmed b false none).sys.spdm.algs = b ∧ (spdmed b false none).sys.recovery = false ∧ (spdmed b false none).authentic 0 [] [] = true
      ∧ (spdmed b false none).authentic 9 [] [] = false ∧ (0 : Nat) ≠ (spdmed b false none).sys.spdm.nextSession + 1)
    ∧ ((spdmed true true none).sys.recovery = true ∧ (spdmed true true none).authentic 0 [] [] = true)
    ∧ (∀ b ∈ [true, false], (∃ y ∈ (spdmed true false (some b)).sys.spdm.sessions, y.id = 4 ∧ y.established = b)
      ∧ (spdmed true false (some b)).authentic 4 [] (tag4 b []) = true)
    ∧ (¬∃ y ∈ (spdmed true false none).sys.spdm.sessions, y.id = 4 ∧ y.established = true)
    ∧ (∀ op ∈ [0, 0xFF], fieldAt [0, BitVec.ofNat 8 op] 1 1 = op)
    ∧ (s1.measurement 2).isSome = true := by
  refine ⟨by decide +kernel, by decide +kernel, fun b hb => ⟨?_, authentic4 ..⟩, by decide +kernel, by decide +kernel, by rfl⟩
  revert b; decide +kernel

theorem meets_DeliveriesAndResets :
    (let s := spdmed true false (some true)
     let r := VendorReq.deliverKey 4 1 0 0 0
     s.sys.recovery = false ∧ (s.part 1).isSome = true ∧ s.authentic 4 (vendorBytes r) (tag4 true (vendorBytes r)) = true
      ∧ (∃ y ∈ s.sys.spdm.sessions, y.id = 4 ∧ y.established = true) ∧ (s.sys.delivery.countP fun d => d.part == 1) < 64)
    ∧ (let s := { s1 with sys := { s1.sys with delivery := List.replicate 64 ⟨1, 0, 0, 0⟩ } }
       s.sys.recovery = false ∧ (s.part 1).isSome = true ∧ 64 ≤ s.sys.delivery.countP fun d => d.part == 1)
    ∧ (s1.part 1 = some partReset ∧ s1.session 0 = none ∧ s1.sys.recovery = false) := by
  refine ⟨⟨rfl, by decide +kernel, authentic4 .., by decide +kernel, by decide +kernel⟩, by decide +kernel, rfl, rfl, rfl⟩
/-- Keys of the IDE streams, programmed and taken into use in an established session. -/
theorem meets_DeliveriesAndResets_keys : ∀ r ∈ [VendorReq.ideKeyProg 4 1 0 5 9, .ideSetGo 4 1 0 5, .ideSetStop 4 1 0 5],
    let s := { spdmed true false (some true) with sys := { (spdmed true false (some true)).sys with ideKeys := [⟨1, 0, 5, 9, false⟩] } }
    s.authentic 4 (vendorBytes r) (tag4 true (vendorBytes r)) = true ∧ (∃ y ∈ s.sys.spdm.sessions, y.id = 4 ∧ y.established = true)
      ∧ (s.part 1).isSome = true ∧ (0 < 2 ∧ 5 < 6) ∧ ∃ x ∈ s.sys.ideKeys, x.fn = 1 ∧ x.set = 0 ∧ x.part = 5 := by
  intro r _
  exact ⟨by simp [State.authentic, State.session, spdmed, tag4], by decide +kernel, by decide +kernel, by decide, by decide +kernel⟩

/-- Errors of a unit within the hour. -/
def erring (unit n : Nat) : State := { s1 with sys := { s1.sys with recent := List.replicate n (unit, 0) } }
theorem meets_HealthEvents :
    (s1.sys.quiet = false ∧ (quietFor s1 1).sys.quiet = true ∧ s1.sys.power.state < 4)
    ∧ (∀ c ∈ [125, 90],
      ((s1.sys.power.temp.filter fun (y : Nat × Nat) => !(y.1 == 5)) ++ [(5, c)]).foldl (fun a (y : Nat × Nat) => Nat.max a y.2) 0 = c)
    ∧ ((∃ b ∈ s1.blocks, 0 ∈ b.cores) ∧ (∀ b ∈ s1.blocks, 5 ∉ b.cores) ∧ s1.launch 1 = some launch1)
    ∧ ((∀ c ∈ s1.sys.sparesUsed, quadOf c ≠ quadOf 0) ∧ ∃ c ∈ ({ s1 with sys := { s1.sys with sparesUsed := [5] } } : State).sys.sparesUsed,
      quadOf c = quadOf 0)
    ∧ (let r : ParkRec := ⟨2 ^ 41, .l1 5, 0, 0, 1, .parked, false, 0, .ms, 0⟩
       (∀ b ∈ ({ s1 with ms := { s1.ms with parks := [r] } } : State).blocks, 5 ∉ b.cores) ∧ r.site = .l1 5)
    ∧ (s1.launch 1 = some launch1 ∧ launch1.part = (⟨2 ^ 41 + 5, false⟩ : BadLine).line / 2 ^ 41) := by
  refine ⟨by decide +kernel, by decide +kernel, by decide +kernel, by decide +kernel, by decide +kernel, by decide +kernel⟩
/-- Counts of errors on both sides of R444's limits; a fault queue with room, and a record that waits for it; a line of a channel. -/
theorem meets_HealthEvents_counts :
    ((erring 5 15).errorsOf 5 = 15 ∧ (erring 5 14).errorsOf 5 = 14 ∧ SramError.register 0 0 ≠ .corrected)
    ∧ ((erring (rowUnit 2 3 7) 3).errorsOf (rowUnit 2 3 7) = 3 ∧ (erring (rowUnit 2 3 7) 2).errorsOf (rowUnit 2 3 7) = 2)
    ∧ ((s1.setCsr (csrPart 1 0x07) 0x10).fqRoom 1 = true ∧ s1.fqRoom 1 = false ∧ s1.sys.pendingFq = [])
    ∧ (s1.lineOfChannel 2 5).isSome = true := by
  refine ⟨by decide +kernel, by decide +kernel, by decide +kernel, by decide +kernel⟩

/-! ### The whole machine -/

/-- The bytes of a word in memory where they are not 0. -/
def wordAt (a : Nat) (w : DWord) : List Host.Cell :=
  (((List.range 8).zip (leBytes 8 w.toNat)).filter fun x => x.2 != 0).map fun x => (a + x.1, x.2)
/-- One lane stands at a place, over a header and a word. -/
def issuing (pos : Nat) (header word : DWord) : State :=
  let lane := if pos = 0 then { lane1 with pc := 0x10000, pos := 0, left := 0 } else lane1
  { withGroup s1 fun g => { g with lanes := [lane] } with mem := wordAt (2 ^ 48 + 0x10000) header ++ wordAt (2 ^ 48 + 0x10008) word }
/-- Slot A of unit 0 holds the place. -/
def placed (pos : Nat) (header word : DWord) : State :=
  { issuing pos header word with
    subs := [(0, ⟨some ⟨0, if pos = 0 then 0x10000 else 0x10008, pos⟩, none, false⟩)]
    cycle := ⟨[.slot 0 false], false, []⟩ }
/-- The state in which slot A's word is fetched. -/
def atSlot (v : State) (p : SlotPc) : State :=
  let x := (v.group p.gid).lane (((v.group p.gid).lanesAt p.pc p.pos).headD 0)
  let v1 : State := { v with cycle := { v.cycle with items := [], slotB := false } }
  (v1.setSlot 0 false (v1.placeAfter p x)).modGroup p.gid fun g => { g with hold := false }
/-- The word that it finds. -/
def slotWord (v : State) (p : SlotPc) : Option DWord :=
  match (atSlot v p).xlate ((atSlot v p).laneWalker p.gid) p.pc .fetch with
  | (s2, .ok pa _) => if lineOf pa ∈ s2.ms.bad then none else some (BitVec.ofNat 64 (leNat (s2.peek pa 8)))
  | (_, .trap _) => none
  | (_, .stop _ _) => none
def addWord : DWord := 0x0007060304002000
def oneHeader : DWord := 0xC03FFFC000000000
def slot1 : SlotPc := ⟨0, 0x10008, 1⟩
def slot0 : SlotPc := ⟨0, 0x10000, 0⟩
abbrev issues1 (v : State) (p : SlotPc) (w : DWord) : Prop := v.cycle.items ≠ [] ∧ v.canIssue 0 false = some p ∧ slotWord v p = some w
theorem meets_StepRunsTheDecodedInstruction_words :
    issues1 (placed 1 0 addWord) slot1 addWord
    ∧ (decode addWord = .ok (.add ⟨c7, 6, 3, 4, 0, .i32, .rne, false, false, false, 0⟩) ∧ wellPlaced { cx1 with word := addWord }
      ∧ ¬wellPlaced { cx1 with word := addWord, cls := 8 })
    ∧ issues1 (placed 1 0 0x8007060304002000) slot1 0x8007060304002000
    ∧ (issues1 (placed 1 0 (addWord ||| 1)) slot1 (addWord ||| 1) ∧ decode (addWord ||| 1) = .error .reservedField) := by
  refine ⟨by decide +kernel, by decide +kernel, by decide +kernel, by decide +kernel⟩
theorem meets_StepRunsTheDecodedInstruction_headers :
    (issues1 (placed 0 oneHeader addWord) slot0 oneHeader ∧ (readHeader oneHeader).isSome = true)
    ∧ (issues1 (placed 0 0 addWord) slot0 0 ∧ readHeader 0 = none)
    ∧ (placed 1 0 addWord).canIssue 0 true = none := by
  refine ⟨by decide +kernel, by decide +kernel, by decide +kernel⟩
/-- A misaligned place, as a branch to a misaligned target leaves it. -/
theorem meets_StepRunsTheDecodedInstruction_misaligned :
    let s := { withLane (issuing 0 0 0) (fun y => { y with pc := 0x10004 }) with subs := [(0, ⟨some ⟨0, 0x10004, 0⟩, none, false⟩)] }
    s.canIssue 0 false = some ⟨0, 0x10004, 0⟩ ∧ (0x10004 : DWord).toNat % 8 ≠ 0 := by decide +kernel
/-- An event in flight and a held access that may leave: whichever place the choice names, one clause takes it up. -/
theorem meets_StepRunsTheDecodedInstruction_choice :
    let s := { s1 with due := [Instr.snapshot], ms := { s1.ms with jobs := [jobOf 0 (.sts (mf .b32 0))] } }
    s.cycle.items = [] ∧ s.openEvents = [0] ∧ s.readyJobs = [0] ∧ s.due[0]? = some (.snapshot) ∧ (s.ms.jobs[0]?).isSome = true := by
  decide +kernel
theorem meets_StepRunsTheDecodedInstruction_clock (k : Nat) :
    State.reset.cycle.items = [] ∧ State.reset.openEvents.length + State.reset.readyJobs.length ≤ k :=
  ⟨rfl, Nat.zero_le k⟩
theorem meets_EveryStepGoesOn : ∀ i ∈ ({ State.reset with due := [Instr.snapshot, .packageReset] } : State).due, i.isWord = false := by
  intro i h
  simp only [List.mem_cons, List.not_mem_nil, or_false] at h
  rcases h with rfl | rfl <;> rfl
theorem meets_DecodeAndEncodeAgree :
    let i : Instr := .add ⟨c7, 6, 3, 4, 0, .i32, .rne, false, false, false, 0⟩
    i.isWord = true ∧ i.wf = true ∧ decode addWord = .ok i := by decide +kernel
theorem meets_MemoryStaysCanonical : Memory.wf State.reset.mem ∧ step State.reset = .next { State.reset with clock := 1, free := 1 } :=
  ⟨by decide +kernel, rfl⟩

end Sys2Proof.Tests
end

section
/-! # What leaves memory alone (R2)

For each operation on the state that does not write memory, the lemma that its result holds the memory it was given. They follow the order
of the model's definitions; the laws under `Laws/` have those of the state's first operations. -/
namespace Sys2Proof.Machine

/-- A choice between two states has the memory of the one chosen. -/
@[simp] theorem ite_mem (c : Prop) [Decidable c] (s t : State) :
    (if c then s else t).mem = if c then s.mem else t.mem := apply_ite State.mem c s t

/-- A fold of actions that leave memory alone leaves it alone. -/
@[simp] theorem foldl_mem {α : Type} {f : State → α → State} (hf : ∀ s a, (f s a).mem = s.mem) (l : List α) (s : State) :
    (l.foldl f s).mem = s.mem := by
  induction l generalizing s with
  | nil => rfl
  | cons a l ih => exact (ih _).trans (hf s a)

/-- The same of actions that also carry a result. -/
@[simp] theorem foldl_fst_mem {α β : Type} {f : State × β → α → State × β} (hf : ∀ r a, (f r a).1.mem = r.1.mem)
    (l : List α) (r : State × β) : (l.foldl f r).1.mem = r.1.mem := by
  induction l generalizing r with
  | nil => rfl
  | cons a l ih => exact (ih _).trans (hf r a)

@[simp] theorem eachLane_mem {f : State → Nat → State} (hf : ∀ s l, (f s l).mem = s.mem) (s : State) (ls : List Nat) :
    (eachLane s ls f).mem = s.mem := eachLane_proj State.mem hf s ls

/-- The start of an instruction, for `simp`. -/
@[simp] theorem mem_start (s : State) (cx : Cx) (c : Ctl) : (s.start cx c).mem = s.mem := start_mem s cx c

/-! ### Machine/Mem -/

@[simp] theorem logEvent_mem (s : State) (kind unit : Nat) : (s.logEvent kind unit).mem = s.mem := by simp [State.logEvent]

@[simp] theorem logError_mem (s : State) (line kind : Nat) : (s.logError line kind).mem = s.mem := by
  simp [State.logError]

@[simp] theorem dropCopies_mem (s : State) (line : Nat) (f : Copy → Bool) : (s.dropCopies line f).mem = s.mem := by rfl

@[simp] theorem observe_mem (s : State) (a n : Nat) (who : Option LaneName) : (s.observe a n who).mem = s.mem := by rfl

@[simp] theorem evalMonitors_mem (s : State) (line : Nat) : (s.evalMonitors line).mem = s.mem := by
  simp [State.evalMonitors]

@[simp] theorem unpark_mem (s : State) (line : Nat) : (s.unpark line).mem = s.mem := by rfl

@[simp] theorem commitCells_mem (s : State) (f : TCell → Bool) : (s.commitCells f).mem = s.mem := by
  unfold State.commitCells; rw [foldl_mem] <;> simp

@[simp] theorem ack_mem (s : State) (r : Option Ret) (tags : List (Nat × BitVec 16)) : (s.ack r tags).mem = s.mem := by
  unfold State.ack
  split <;> simp

@[simp] theorem lateAt_mem (s : State) (x : Ret) (lane cause : Nat) (info : DWord) :
    (s.lateAt x lane cause info).mem = s.mem := by
  rfl

@[simp] theorem passCopies_mem (s : State) (ag : Agent) (line : Nat) (bs : List StoreByte) :
    (s.passCopies ag line bs).mem = s.mem := by
  unfold State.passCopies
  split <;> simp

@[simp] theorem dropOwn_mem (s : State) (core line : Nat) : (s.dropOwn core line).mem = s.mem := by rfl

@[simp] theorem parkInvalidate_mem (s : State) (line : Nat) (writer : Option Nat) (readers : BitVec 384) (site : Site) :
    (s.parkInvalidate line writer readers site).mem = s.mem := by
  rfl

@[simp] theorem landMove_mem (s : State) (line : Nat) : (s.landMove line).mem = s.mem := by rfl

@[simp] theorem liftPin_mem (s : State) (r : ParkRec) : (s.liftPin r).mem = s.mem := by
  simp [State.liftPin]

@[simp] theorem dropStale_mem (s : State) (core line : Nat) (bs : List StoreByte) :
    (s.dropStale core line bs).mem = s.mem := by
  rfl

/-! ### Machine/Xlate -/

@[simp] theorem tlbInstall_mem (s : State) (w : Walker) (l : Leaf) (lock : Option (BlockRef × Nat)) :
    (s.tlbInstall w l lock).mem = s.mem := by
  rfl

/-! ### Machine/Ops -/

@[simp] theorem overV_mem (s : State) (gid lane reg : Nat) (val : Word) : (s.overV gid lane reg val).mem = s.mem := by
  simp [State.overV]

@[simp] theorem writeV_mem (s : State) (gid lane reg : Nat) (val : Word) : (s.writeV gid lane reg val).mem = s.mem := by
  simp [State.writeV]

@[simp] theorem writeP_mem (s : State) (gid lane pred : Nat) (val : Bool) : (s.writeP gid lane pred val).mem = s.mem := by
  simp [State.writeP]

@[simp] theorem writeVW_mem (s : State) (gid lane : Nat) (is64 : Bool) (reg : Nat) (x : DWord) :
    (s.writeVW gid lane is64 reg x).mem = s.mem := by
  simp [State.writeVW]

@[simp] theorem writeGOf_mem (s : State) (gid lane r : Nat) (x : DWord) : (s.writeGOf gid lane r x).mem = s.mem := by
  simp [State.writeGOf]

@[simp] theorem later_mem (s : State) (gid id : Nat) (c : Ctr) (writes : List RegWrite) :
    (s.later gid id c writes).mem = s.mem := by
  rfl

@[simp] theorem park_mem (s : State) (cx : Cx) (ls : List Nat) (kind : WaitKind) : (s.park cx ls kind).mem = s.mem := by
  unfold State.park
  exact eachLane_mem (fun _ _ => by simp) s ls

@[simp] theorem parkFor_mem (s : State) (cx : Cx) (ls : List Nat) (kind : WaitKind) (ev : WaitRef → Instr) :
    (s.parkFor cx ls kind ev).mem = s.mem := by
  simp [State.parkFor]

@[simp] theorem wake_mem (s : State) (w : Wait) : (s.wake w).mem = s.mem := by
  unfold State.wake
  exact eachLane_mem (fun _ _ => by simp) s (lanesOf w.lanes)

@[simp] theorem resumed_mem (s : State) (gid : Nat) : (s.resumed gid).mem = s.mem := by rfl

@[simp] theorem giveV_mem (s : State) (w : Wait) (reg : Nat) (x : Word) : (s.giveV w reg x).mem = s.mem := by
  simp [State.giveV]

@[simp] theorem postEvent_mem (s : State) (p bit : Nat) : (s.postEvent p bit).mem = s.mem := by
  unfold State.postEvent
  split <;> simp

@[simp] theorem replaceUnit_mem (s : State) (parts : List Nat) (unit number : Nat) :
    (s.replaceUnit parts unit number).mem = s.mem := by
  simp [State.replaceUnit]

@[simp] theorem queueRec_mem (s : State) (p : Nat) (h : RecHead) (body : List Byte) (who : FqHolder) :
    (s.queueRec p h body who).mem = s.mem := by
  rfl

@[simp] theorem faultRec_mem (s : State) (f : PageStop) : (s.faultRec f).mem = s.mem := by
  unfold State.faultRec
  split <;> simp

@[simp] theorem faultsFirst_mem (s : State) (n : Nat) : (s.faultsFirst n).mem = s.mem := by
  simp [State.faultsFirst]

@[simp] theorem endLaunch_mem (s : State) (lid : Nat) : (s.endLaunch lid).mem = s.mem := by rfl

@[simp] theorem haltLanes_mem (s : State) (gid : Nat) (ls : List Nat) (pc : DWord) : (s.haltLanes gid ls pc).mem = s.mem := by
  unfold State.haltLanes
  exact eachLane_mem (fun _ _ => by simp) s ls

@[simp] theorem toVector_mem (s : State) (gid l : Nat) (epc bits : DWord) : (s.toVector gid l epc bits).mem = s.mem := by
  rfl

@[simp] theorem trapReturn_mem (s : State) (gid l : Nat) (f : Frame) : (s.trapReturn gid l f).mem = s.mem := by rfl

@[simp] theorem eventReturn_mem (s : State) (gid l : Nat) : (s.eventReturn gid l).mem = s.mem := by rfl

@[simp] theorem queueOp_mem (s : State) (o : MatOp) : (s.queueOp o).mem = s.mem := by rfl

@[simp] theorem readyOp_mem (s : State) (p : Phase) : (s.readyOp p).mem = s.mem := by rfl

@[simp] theorem checkReconv_mem (s : State) (gid m : Nat) : (s.checkReconv gid m).mem = s.mem := by
  simp [State.checkReconv]

@[simp] theorem leaveMask_mem (s : State) (gid m : Nat) (ls : LaneMask) : (s.leaveMask gid m ls).mem = s.mem := by
  simp [State.leaveMask]

@[simp] theorem settle_mem (s : State) (gid : Nat) : (s.settle gid).mem = s.mem := by
  simp [State.settle]

/-! ### Machine/Scratch -/

@[simp] theorem writeBy_mem (s : State) (who : Option (Nat × Nat)) (b : BlockRef) (off : Nat) (bs : List Byte) :
    (s.writeBy who b off bs).mem = s.mem := by
  rfl

@[simp] theorem writeS_mem (s : State) (b : BlockRef) (off : Nat) (bs : List Byte) : (s.writeS b off bs).mem = s.mem := by
  rfl

@[simp] theorem ldfeTake_mem (s : State) (b : BlockRef) (gran : Nat) (w : Wait) : (s.ldfeTake b gran w).mem = s.mem := by
  unfold State.ldfeTake
  split <;> simp

@[simp] theorem fillGran_mem (s : State) (b : BlockRef) (gran : Nat) : (s.fillGran b gran).mem = s.mem := by
  simp [State.fillGran]

@[simp] theorem ringPop_mem (s : State) (r : Ring) (n : Nat) : (s.ringPop r n).1.mem = s.mem := by rfl

@[simp] theorem ringPush_mem (s : State) (r : Ring) (xs : List Word) : (s.ringPush r xs).mem = s.mem := by
  simp [State.ringPush]

/-! ### Machine/Operands -/

@[simp] theorem putDst_mem (s : State) (i : Iss) (lane : Nat) (d : Dst) (x : DWord) : (s.putDst i lane d x).mem = s.mem := by
  unfold State.putDst
  split <;> simp

@[simp] theorem giveAll_mem (s : State) (i : Iss) (reg : Nat) (x : Word) : (s.giveAll i reg x).mem = s.mem := by
  simp [State.giveAll]

/-! ### Machine/CrossLane -/

@[simp] theorem laterV_mem (s : State) (i : Iss) (is64 : Bool) (d : BitVec 8) (f : Nat → DWord) :
    (s.laterV i is64 d f).mem = s.mem := by
  rfl

/-! ### Machine/Control -/

@[simp] theorem noteMask_mem (s : State) (i : Iss) (m l : Nat) : (s.noteMask i m l).mem = s.mem := by
  simp [State.noteMask]

@[simp] theorem leaveFor_mem (s : State) (i : Iss) (f : BF) : (s.leaveFor i f).mem = s.mem := by
  simp [State.leaveFor]

@[simp] theorem parkBar_mem (s : State) (cx : Cx) (l j : Nat) (token : Word) (scope : Scope) (st : Option (BitVec 8)) :
    (s.parkBar cx l j token scope st).mem = s.mem := by
  simp [State.parkBar]

/-! ### Machine/MemLane -/

@[simp] theorem land_mem (s : State) (r : Ret) : (s.land r).mem = s.mem := by
  unfold State.land
  rw [settle_mem, eachLane_mem (fun s l => by simp)]
  split <;> exact foldl_mem (fun s w => by cases w <;> simp) _ _

@[simp] theorem restoreReg_mem (s : State) (gid l after : Nat) (u : Undo) : (s.restoreReg gid l after u).mem = s.mem := by
  unfold State.restoreReg
  split <;> simp

@[simp] theorem dropWait_mem (s : State) (w : Wait) : (s.dropWait w).mem = s.mem := by
  unfold State.dropWait
  split <;> simp

@[simp] theorem withdraw_mem (s : State) (gid l : Nat) (o : OpenAcc) : (s.withdraw gid l o).mem = s.mem := by
  have hr : ∀ us : List Undo, (us.foldr (fun u s => s.restoreReg gid l o.id u) s).mem = s.mem := fun us => by
    induction us with
    | nil => rfl
    | cons u us ih => exact (restoreReg_mem ..).trans ih
  exact (foldl_mem dropWait_mem _ _).trans (hr _)

@[simp] theorem keepOpen_mem (s : State) (i : Iss) (l : Nat) : (s.keepOpen i l).mem = s.mem := by rfl

@[simp] theorem openLate_mem (s : State) (i : Iss) (l cause : Nat) (info : DWord) :
    (s.openLate i l cause info).mem = s.mem := by
  rfl

@[simp] theorem storeL1_mem (s : State) (core line : Nat) (bs : List StoreByte) : (s.storeL1 core line bs).mem = s.mem := by
  simp [State.storeL1]

@[simp] theorem setRun_mem (s : State) (b : BlockRef) (full : Bool) (a n : Nat) : (s.setRun b full a n).mem = s.mem :=
  foldl_mem (fun s k => by
    split
    · split
      · split <;> simp
      · rfl
    · rfl) _ _

/-! ### Machine/MemHome -/

@[simp] theorem dropCell_mem (s : State) (a n : Nat) : (s.dropCell a n).mem = s.mem := by rfl

@[simp] theorem dropNear_mem (s : State) (gid line : Nat) : (s.dropNear gid line).mem = s.mem := by rfl

@[simp] theorem redLine_mem (s : State) (i : Iss) (f : MF) (r : Ret) (accs : List Acc) :
    (s.redLine i f r accs).mem = s.mem := by
  unfold State.redLine
  split <;> simp

/-! ### Machine/Access -/

@[simp] theorem holdJob_mem (s : State) (j : Job) : (s.holdJob j).mem = s.mem := by
  simp [State.holdJob]

@[simp] theorem dropJob_mem (s : State) (n : Nat) : (s.dropJob n).mem = s.mem := by rfl

/-! ### Machine/Issue -/

@[simp] theorem assignB_mem (s : State) (unit : Nat) (a : SlotPc) : (s.assignB unit a).1.mem = s.mem := by
  unfold State.assignB
  (repeat' split) <;> simp

@[simp] theorem assignA_mem (s : State) (unit : Nat) (b : Option SlotPc) : (s.assignA unit b).1.mem = s.mem := by
  unfold State.assignA
  split <;> simp

@[simp] theorem assign_mem (s : State) (unit : Nat) : (s.assign unit).mem = s.mem := by
  simp only [State.assign]
  (repeat' split) <;> simp

@[simp] theorem unitItems_mem (s : State) (unit : Nat) : (s.unitItems unit).1.mem = s.mem := by
  simp only [State.unitItems]
  (repeat' split) <;> simp

@[simp] theorem allItems_mem (us : List Nat) (s : State) : (State.allItems us s).1.mem = s.mem := by
  induction us generalizing s with
  | nil => rfl
  | cons u us ih => exact (ih _).trans (unitItems_mem s u)

/-! ### Machine/Stages -/

@[simp] theorem setLoop_mem (s : State) (x : LoopSlot) : (s.setLoop x).mem = s.mem := by rfl

@[simp] theorem advanceLow_mem (s : State) (lid span slot : Nat) : (s.advanceLow lid span slot).mem = s.mem := by
  simp only [State.advanceLow]
  split <;> simp

@[simp] theorem leaveLoop_mem (s : State) (gid : Nat) : (s.leaveLoop gid).mem = s.mem := by rfl

@[simp] theorem takeIter_mem (s : State) (gid : Nat) (x : LoopSlot) (h : LoopHdr) : (s.takeIter gid x h).1.mem = s.mem := by
  rfl

@[simp] theorem openOrJoin_mem (s : State) (gid slot : Nat) (d : LoopDesc) : (s.openOrJoin gid slot d).1.mem = s.mem := by
  simp only [State.openOrJoin]
  (repeat' split) <;> simp

theorem handOut_mem (s t : State) (w : Wait) (reg : Nat) (h : s.handOut w reg = some t) : t.mem = s.mem := by
  unfold State.handOut at h
  split at h
  · cases h; simp
  · split at h
    · cases h; simp
    · split at h <;> cases h; simp

/-! ### Machine/Waits -/

@[simp] theorem watchedWord_mem (s : State) (c : Cond) : (s.watchedWord c).1.mem = s.mem := by
  simp only [State.watchedWord]
  split <;> simp

@[simp] theorem condHolds_mem (s : State) (b : Option Block) (g : Group) (c : Cond) : (s.condHolds b g c).1.mem = s.mem := by
  have hw := watchedWord_mem s c
  unfold State.condHolds
  split
  · split <;> simp_all
  all_goals rfl

@[simp] theorem satMask_mem (s : State) (b : Option Block) (g : Group) (cs : List Cond) : (s.satMask b g cs).1.mem = s.mem := by
  induction cs generalizing s with
  | nil => rfl
  | cons c cs ih =>
    have hc := condHolds_mem s b g c
    unfold State.satMask
    split
    · simp_all
    · rename_i s1 _ _
      have hs := ih s1
      split <;> simp_all

@[simp] theorem armMonitor_mem (s : State) (id : Nat) (c : Cond) : (s.armMonitor id c).mem = s.mem := by
  simp [State.armMonitor]

@[simp] theorem armWait_mem (s : State) (r : WaitRef) (conds : List Cond) (limit : Nat) :
    (s.armWait r conds limit).mem = s.mem := by
  simp [State.armWait]

@[simp] theorem disarm_mem (s : State) (id : Nat) : (s.disarm id).mem = s.mem := by rfl

@[simp] theorem rejoin_mem (s : State) (b : BlockRef) : (s.rejoin b).mem = s.mem := by rfl

/-! ### Machine/BankVec -/

@[simp] theorem mvecGo_mem (s : State) (i : Iss) (f : EF) (ranges : List (List (Nat × Nat × PageKind))) :
    (s.mvecGo i f ranges).mem = s.mem := by
  unfold State.mvecGo
  dsimp only
  split
  · simp
  · split
    · simp
    · rw [foldl_mem] <;> simp

/-! ### Machine/Tensor -/

@[simp] theorem setTensor_mem (s : State) (lid id : Nat) (e : TensorEntry) : (s.setTensor lid id e).mem = s.mem := by
  rfl

/-! ### Machine/Matrix -/

@[simp] theorem setAcc_mem (s : State) (a : AccSlot) : (s.setAcc a).mem = s.mem := by rfl

@[simp] theorem bindAcc_mem (s : State) (gid h : Nat) (i32 : Bool) : (s.bindAcc gid h i32).1.mem = s.mem := by
  unfold State.bindAcc
  split <;> simp

@[simp] theorem freeSlots_mem (s : State) (gid : Nat) : (s.freeSlots gid).mem = s.mem := by
  simp [State.freeSlots]

@[simp] theorem modOp_mem (s : State) (id : Nat) (f : MatOp → MatOp) : (s.modOp id f).mem = s.mem := by rfl

@[simp] theorem startOp_mem (s : State) (i : Iss) (h slot : Nat) (kind : MatKind) (mc : Bool) :
    (s.startOp i h slot kind mc).mem = s.mem := by
  simp [State.startOp]

@[simp] theorem sendLines_mem (s : State) (ag : Agent) (id : Nat) (bytes : List (Nat × Byte × PageKind)) :
    (s.sendLines ag id bytes).mem = s.mem := by
  unfold State.sendLines; rw [foldl_mem]; simp

@[simp] theorem emit_mem (s : State) (o : MatOp) (r : Mat.Regs) : (s.emit o r).mem = s.mem := by
  unfold State.emit
  split <;> simp

@[simp] theorem closeWindows_mem (s : State) (gid : Nat) : (s.closeWindows gid).mem = s.mem := by
  simp [State.closeWindows]

@[simp] theorem effect_mem (s : State) (o : MatOp) : (s.effect o).mem = s.mem := by
  unfold State.effect
  split <;> simp

@[simp] theorem reread_mem (s : State) (o : MatOp) : (s.reread o).mem = s.mem := by
  unfold State.reread
  split <;> simp

/-! ### Machine/Copy -/

@[simp] theorem setCc_mem (s : State) (b : BlockRef) (k : Nat) (c : Cc) : (s.setCc b k c).mem = s.mem := by rfl

@[simp] theorem queueCopy_mem (s : State) (i : Iss) (cc : Nat) (kind : CopyKind) (pieces : List Piece) (away : List Move)
    (slot : Option Nat) : (s.queueCopy i cc kind pieces away slot).mem = s.mem := by
  unfold State.queueCopy
  rw [send_mem, foldl_mem] <;> simp

@[simp] theorem fillDone_mem (s : State) (id : Nat) (b : BlockRef) (grans : List Nat) :
    (s.fillDone id b grans).mem = s.mem := by
  unfold State.fillDone
  split <;> simp

@[simp] theorem landBytes_mem (s : State) (b : BlockRef) (l : List (Nat × Byte)) : (s.landBytes b l).mem = s.mem := by
  simp [State.landBytes]

@[simp] theorem decryptEnd_mem (s : State) (c : CopyCmd) (off len : Nat) (key : BitVec 256) :
    (s.decryptEnd c off len key).1.mem = s.mem := by
  simp only [State.decryptEnd]
  (repeat' split) <;> simp

/-! ### Machine/Link -/

@[simp] theorem sendFlit_mem (s : State) (p : Nat) (b : FlitBody) : (s.sendFlit p b).mem = s.mem := by rfl

@[simp] theorem pumpFlits_mem (fuel : Nat) (s : State) (p : Nat) : (State.pumpFlits fuel s p).mem = s.mem := by
  induction fuel generalizing s with
  | zero => rfl
  | succ fuel ih =>
    unfold State.pumpFlits
    split
    · rfl
    · split <;> simp [ih]

@[simp] theorem pumpLink_mem (s : State) (p : Nat) : (s.pumpLink p).mem = s.mem := by
  simp [State.pumpLink]

@[simp] theorem sendOp_mem (s : State) (p : Nat) (response : Bool) (l : List FlitBody) :
    (s.sendOp p response l).mem = s.mem := by
  simp [State.sendOp]

@[simp] theorem sendChunkOut_mem (s : State) (p : Nat) (c : Chunk) (n : NodeRef) : (s.sendChunkOut p c n).mem = s.mem := by
  simp [State.sendChunkOut]

@[simp] theorem sendRequestOut_mem (s : State) (p : Nat) (put : Bool) (id : Nat) (addr : DWord) (len : Nat)
    (data : List Byte) : (s.sendRequestOut p put id addr len data).mem = s.mem := by
  simp [State.sendRequestOut]

@[simp] theorem sendAnswerOut_mem (s : State) (p tag status : Nat) (data : List Byte) :
    (s.sendAnswerOut p tag status data).mem = s.mem := by
  simp [State.sendAnswerOut]

@[simp] theorem resendAll_mem (s : State) (p : Nat) : (s.resendAll p).mem = s.mem := by
  unfold State.resendAll; rw [foldl_mem]; simp

@[simp] theorem nak_mem (s : State) (p : Nat) : (s.nak p).mem = s.mem := by
  simp [State.nak]

/-! ### Machine/Fabric -/

@[simp] theorem setGraph_mem (s : State) (x : GraphSlot) : (s.setGraph x).mem = s.mem := by rfl

@[simp] theorem modRun_mem (s : State) (die slot : Nat) (f : Run → Run) : (s.modRun die slot f).mem = s.mem := by rfl

@[simp] theorem purgeStaging_mem (s : State) (die : Nat) : (s.purgeStaging die).mem = s.mem := by
  unfold State.purgeStaging; rw [foldl_mem]; simp

@[simp] theorem endTransfer_mem (s : State) (t : Transfer) (st : Nat) : (s.endTransfer t st).mem = s.mem := by rfl

@[simp] theorem sendRequest_mem (s : State) (w : Window) (reqId : Nat) : (s.sendRequest w reqId).mem = s.mem := by
  unfold State.sendRequest
  split <;> simp

@[simp] theorem learnMac_mem (s : State) (mac : BitVec 48) : (s.learnMac mac).mem = s.mem :=
  (foldl_mem (fun s w => by split <;> simp) _ _).trans rfl

@[simp] theorem askSwitch_mem (s : State) (w : Window) : (s.askSwitch w).mem = s.mem := by
  simp [State.askSwitch]

@[simp] theorem pumpAsk_mem (s : State) (id : Nat) : (s.pumpAsk id).mem = s.mem := by
  unfold State.pumpAsk
  split <;> simp

/-! ### Machine/Collective -/

@[simp] theorem mcResult_mem (s : State) (i : Iss) (reg : Nat) (x : Word) : (s.mcResult i reg x).mem = s.mem := by rfl

@[simp] theorem takeChunk_mem (s : State) (a : Arrived) (slot node : Nat) : (s.takeChunk a slot node).mem = s.mem := by
  rfl

@[simp] theorem matchHeld_mem (s : State) (die : Nat) : (s.matchHeld die).mem = s.mem :=
  foldl_mem (fun s a => by
    split
    · split <;> simp
    · rfl) _ _

theorem chunkIn_mem (s t : State) (port : Nat) (c : Chunk) (h : s.chunkIn port c = some t) : t.mem = s.mem := by
  unfold State.chunkIn at h
  dsimp only at h
  split at h
  · cases h; simp
  · split at h
    · cases h; simp
    · split at h <;> cases h; rfl

theorem portIn_mem (s t : State) (a : Instr) (h : s.portIn a = some t) : t.mem = s.mem := by
  unfold State.portIn at h
  split at h
  · exact chunkIn_mem _ _ _ _ h
  · cases h; rfl
  · cases h; rfl

@[simp] theorem admitPort_mem (fuel : Nat) (s : State) (p : Nat) : (State.admitPort fuel s p).mem = s.mem := by
  induction fuel generalizing s with
  | zero => rfl
  | succ fuel ih =>
    unfold State.admitPort
    split
    · rfl
    · split
      · rfl
      · split
        · rfl
        · rename_i hp
          rw [ih, portIn_mem _ _ _ hp]

@[simp] theorem takeIn_mem (s : State) : (s.takeIn).mem = s.mem := by
  simp [State.takeIn]

@[simp] theorem startRun_mem (s : State) (i : Iss) (die : Nat) (g : GraphSlot) (bases : List DWord) (c : DWord) :
    (s.startRun i die g bases c).mem = s.mem := by
  unfold State.startRun
  rw [foldl_mem] <;> simp

@[simp] theorem engineStop_mem (s : State) (part gid : Nat) (agent lid : Nat) (held : Option Instr) (va : Nat)
    (acc : Access) (lv : Nat) (bad : Bool) : (s.engineStop part gid agent lid held va acc lv bad).mem = s.mem := by
  rfl

/-! ### Machine/Optics -/

@[simp] theorem badFlit_mem (s : State) (p uncorr : Nat) : (s.badFlit p uncorr).mem = s.mem := by
  unfold State.badFlit; rw [nak_mem, foldl_mem] <;> simp

theorem writeDomctl_mem (s t : State) (w : CsrWrite) (h : s.writeDomctl w = .ok t) : t.mem = s.mem := by
  unfold State.writeDomctl WriteRes.illegal at h
  simp only at h
  split at h
  · cases h
  · split at h
    · cases h
    · split at h <;> cases h; rfl

/-! ### Machine/Tlb -/

@[simp] theorem dropTlb_mem (s : State) (key : Nat) (f : TlbEntry → Bool) : (s.dropTlb key f).mem = s.mem := by rfl

@[simp] theorem lockOn_mem (s : State) (w : Walker) (b : BlockRef) (base : Nat) (leaves : List Leaf) (core : Nat) :
    (s.lockOn w b base leaves core).mem = s.mem := by
  simp [State.lockOn]

@[simp] theorem lockCores_mem (s : State) (w : Walker) (b : BlockRef) (base : Nat) (leaves : List Leaf)
    (cores : List Nat) : (s.lockCores w b base leaves cores).mem = s.mem := by
  simp [State.lockCores]

@[simp] theorem dropLocks_mem (s : State) (b : BlockRef) : (s.dropLocks b).mem = s.mem := by rfl

@[simp] theorem unlock_mem (s : State) (f : BlockRef × Nat → Bool) : (s.unlock f).mem = s.mem := by rfl

/-! ### Machine/Place -/

@[simp] theorem takeSlabs_mem (s : State) (gid n : Nat) : (s.takeSlabs gid n).1.mem = s.mem := by
  simp only [State.takeSlabs]
  split <;> simp

@[simp] theorem takeGranules_mem (s : State) (core n : Nat) : (s.takeGranules core n).1.mem = s.mem := by
  unfold State.takeGranules
  (repeat' split) <;> simp

@[simp] theorem seatGroup_mem (s : State) (gid : Nat) (g : Group) : (s.seatGroup gid g).mem = s.mem := by
  simp [State.seatGroup]

@[simp] theorem seatBlock_mem (s : State) (b : Block) : (s.seatBlock b).mem = s.mem := by
  simp [State.seatBlock]

@[simp] theorem startBlock_mem (s : State) (x : Launch) (q : Nat) (f : Fit) : (s.startBlock x q f).mem = s.mem := by
  simp [State.startBlock]

@[simp] theorem readStage_mem (s : State) (lid span : Nat) (bs : List Byte) : (s.readStage lid span bs).mem = s.mem := by
  rfl

@[simp] theorem beginSave_mem (s : State) (b : BlockRef) : (s.beginSave b).mem = s.mem := by rfl

@[simp] theorem preempt_mem (s : State) (q : Nat) (u : Unit_) : (s.preempt q u).mem = s.mem := by
  simp only [State.preempt]
  (repeat' split) <;> simp

@[simp] theorem unlist_mem (s : State) (u : Unit_) (q : Nat) : (s.unlist u q).mem = s.mem := by
  unfold State.unlist
  split <;> simp

@[simp] theorem runOn_mem (s : State) (b : Block) : (s.runOn b).mem = s.mem := by rfl

@[simp] theorem preemptNote_mem (s : State) (lid saved : Nat) (short : Bool) :
    (s.preemptNote lid saved short).mem = s.mem := by
  rfl

@[simp] theorem preemptWake_mem (s : State) (lid : Nat) : (s.preemptWake lid).mem = s.mem := by
  unfold State.preemptWake
  split
  · rfl
  · exact foldl_mem (fun s w => by split <;> simp) _ _

/-! ### Machine/Launch -/

@[simp] theorem discard_mem (s : State) (lid : Nat) : (s.discard lid).mem = s.mem := by rfl

@[simp] theorem quitSaved_mem (s : State) (lid : Nat) : (s.quitSaved lid).mem = s.mem := by
  unfold State.quitSaved; rw [foldl_mem]; simp

/-! ### Machine/Tasks -/

@[simp] theorem rejoinPops_mem (s : State) (q prio : Nat) : (s.rejoinPops q prio).mem = s.mem := by
  simp [State.rejoinPops]

@[simp] theorem markSent_mem (s : State) (gid n : Nat) : (s.markSent gid n).mem = s.mem := by rfl

@[simp] theorem parkAll_mem (s : State) (gid : Nat) (kind : WaitKind) : (s.parkAll gid kind).mem = s.mem := by
  simp [State.parkAll]

@[simp] theorem toPop_mem (s : State) (gid : Nat) : (s.toPop gid).mem = s.mem := by
  simp [State.toPop]

@[simp] theorem leaveTask_mem (s : State) (gid : Nat) : (s.leaveTask gid).mem = s.mem := by
  simp [State.leaveTask]

/-! ### Machine/Csr -/

@[simp] theorem lockGate_mem (s : State) (key : Nat) (val : DWord) : (s.lockGate key val).mem = s.mem := by
  simp [State.lockGate]

@[simp] theorem ackRepl_mem (s : State) (p inst : Nat) (val : DWord) : (s.ackRepl p inst val).mem = s.mem := by
  unfold State.ackRepl
  split <;> simp

/-! ### Machine/System -/

@[simp] theorem saveSpans_mem (fuel : Nat) (s : State) (pool used : Nat) (bs : List Block) :
    (State.saveSpans fuel s pool used bs).1.mem = s.mem := by
  induction fuel generalizing s used bs with
  | zero => rfl
  | succ fuel ih =>
    cases bs with
    | nil => rfl
    | cons b bs =>
      unfold State.saveSpans
      dsimp only
      split
      · rfl
      · rw [ih]; exact foldl_mem (fun s x => by simp) _ _

@[simp] theorem preemptSave_mem (s : State) (i : Iss) (f : EF) (x : Launch) : (s.preemptSave i f x).mem = s.mem := by
  simp [State.preemptSave]

@[simp] theorem takeKey_mem (s : State) (p slot : Nat) (ticket : Word) : (s.takeKey p slot ticket).1.mem = s.mem := by
  unfold State.takeKey
  split <;> simp

@[simp] theorem keyld_mem (s : State) (p slot : Nat) (clr : Bool) (ticket : Word) :
    (s.keyld p slot clr ticket).1.mem = s.mem := by
  unfold State.keyld
  (repeat' split) <;> simp

@[simp] theorem unparkId_mem (s : State) (id : Nat) : (s.unparkId id).mem = s.mem := by rfl

/-! ### Machine/Hostlink -/

@[simp] theorem unsupported_mem (s : State) (vf tag : Nat) : (s.unsupported vf tag).mem = s.mem := by rfl

@[simp] theorem completeRead_mem (s : State) (vf tag : Nat) (bs : List Byte) : (s.completeRead vf tag bs).mem = s.mem := by
  unfold State.completeRead; rw [foldl_mem]; simp

@[simp] theorem setNvPos_mem (s : State) (x : NvPos) : (s.setNvPos x).mem = s.mem := by rfl

@[simp] theorem nvTake_mem (s : State) (pair : Nat) (e : List Byte) : (s.nvTake pair e).mem = s.mem := by
  unfold State.nvTake
  split <;> simp

/-! ### Machine/Attest -/

@[simp] theorem spdmError_mem (s : State) (session err : Nat) : (s.spdmError session err).mem = s.mem := by rfl

@[simp] theorem taken_mem (s : State) (session : Nat) : (s.taken session).mem = s.mem := by rfl

@[simp] theorem spdmAnswer_mem (s : State) (m : SpdmMsg) (code p1 p2 : Nat) (rest : List Byte) :
    (s.spdmAnswer m code p1 p2 rest).mem = s.mem := by
  rfl

@[simp] theorem spdmSigned_mem (s : State) (m : SpdmMsg) (code p1 p2 : Nat) (rest : List Byte) :
    (s.spdmSigned m code p1 p2 rest).mem = s.mem := by
  simp [State.spdmSigned]

theorem spdmWhen_mem (s : State) (m : SpdmMsg) (ok : Bool) {f : State → State} (hf : ∀ s, (f s).mem = s.mem) :
    (s.spdmWhen m ok f).mem = s.mem := by
  simp [State.spdmWhen, hf]

@[simp] theorem vendorOk_mem (s : State) (session : Nat) : (s.vendorOk session).mem = s.mem := by rfl

@[simp] theorem deliver_mem (s : State) (session vf : Nat) (ticket model : Word) (key : BitVec 256) :
    (s.deliver session vf ticket model key).mem = s.mem := by
  simp [State.deliver]

@[simp] theorem ideWhen_mem (s : State) (session fn : Nat) (set part : Nat) (f : List IdeKey → List IdeKey) :
    (s.ideWhen session fn set part f).mem = s.mem := by
  simp [State.ideWhen]

/-! ### Machine/Health -/

@[simp] theorem dropDue_mem (s : State) (lost line : Nat → Bool) : (s.dropDue lost line).mem = s.mem := by rfl

@[simp] theorem regeometry_mem (s : State) (p : Nat) : (s.regeometry p).mem = s.mem := by
  unfold State.regeometry
  rw [setCsr_mem, foldl_mem]
  simp

@[simp] theorem abortLaunch_mem (s : State) (lid : Nat) : (s.abortLaunch lid).mem = s.mem := by
  unfold State.abortLaunch
  exact discard_mem s lid

@[simp] theorem clearEngines_mem (s : State) (p : Nat) : (s.clearEngines p).mem = s.mem := by rfl

@[simp] theorem clearSys_mem (s : State) (p : Nat) : (s.clearSys p).mem = s.mem := by rfl

@[simp] theorem loseCore_mem (s : State) (core : Nat) : (s.loseCore core).mem = s.mem := by rfl

@[simp] theorem clearReader_mem (s : State) (core : Nat) : (s.clearReader core).mem = s.mem := by
  simp [State.clearReader]

@[simp] theorem spareRow_mem (s0 : State) (slice bank row : Nat) : (s0.spareRow slice bank row).mem = s0.mem := by
  simp [State.spareRow]

@[simp] theorem frameEffect_mem (s : State) (site : Site) (line : Nat) (f : RamFault) :
    (s.frameEffect site line f).mem = s.mem := by
  unfold State.frameEffect
  split <;> simp

@[simp] theorem configure_mem (s : State) : (s.configure).mem = s.mem := by
  unfold State.configure
  split <;> simp

@[simp] theorem putSnapshot_mem (s : State) (f : Option Snapshot → Snapshot) : (s.putSnapshot f).mem = s.mem := by
  simp [State.putSnapshot]

@[simp] theorem cutSnapshot_mem (s : State) : (s.cutSnapshot).mem = s.mem := by
  simp [State.cutSnapshot]

@[simp] theorem sample_mem (s : State) (p : PowerSample) : (s.sample p).mem = s.mem := by rfl

/-! ### Machine/Return -/

@[simp] theorem complete_mem (s : State) (k : AfterKind) : (s.complete k).mem = s.mem := by
  unfold State.complete
  split <;> simp

end Sys2Proof.Machine
end

section
/-! # What keeps memory in its one form (R2, R250)

`Memory.wf` is kept by every operation that may write memory, since all writes go through `Memory.writeBytes` and `setLineAt` (or drop
addresses). Each lemma is about one function of the model and is proved from those of the functions it calls. -/
namespace Sys2Proof.Machine

@[simp] theorem wf_ite (c : Prop) [Decidable c] (m n : Memory) :
    Memory.wf (if c then m else n) = if c then Memory.wf m else Memory.wf n := apply_ite Memory.wf c m n

/-- A fold of actions that keep the canonical form keeps it. -/
theorem foldl_wf {α : Type} {f : State → α → State} (hf : ∀ s a, Memory.wf s.mem → Memory.wf (f s a).mem) (l : List α) {s : State}
    (h : Memory.wf s.mem) : Memory.wf (l.foldl f s).mem := by
  induction l generalizing s with
  | nil => exact h
  | cons a l ih => exact ih (hf s a h)

theorem foldl_fst_wf {α β : Type} {f : State × β → α → State × β} (hf : ∀ r a, Memory.wf r.1.mem → Memory.wf (f r a).1.mem)
    (l : List α) {r : State × β} (h : Memory.wf r.1.mem) : Memory.wf (l.foldl f r).1.mem := by
  induction l generalizing r with
  | nil => exact h
  | cons a l ih => exact ih (hf r a h)

theorem eachLane_wf {f : State → Nat → State} (hf : ∀ s l, Memory.wf s.mem → Memory.wf (f s l).mem) (ls : List Nat) {s : State}
    (h : Memory.wf s.mem) : Memory.wf (eachLane s ls f).mem := foldl_wf hf ls h

theorem wf_of_eq_fst {β : Type} {p : State × β} {t : State} {x : β} (e : p = (t, x)) (h : Memory.wf p.1.mem) : Memory.wf t.mem := by
  subst e; exact h

/-- The state that a turn leaves. -/
def Turn.state : Turn → State
  | .over s => s
  | .run _ s => s
@[simp] theorem Turn.state_over (s : State) : (Turn.over s).state = s := rfl
@[simp] theorem Turn.state_run (i : Instr) (s : State) : (Turn.run i s).state = s := rfl

/-- The state that a TST of one lane leaves. -/
def TstRes.state : TstRes → State
  | .done s => s
  | .plain s => s
  | .bad s => s
@[simp] theorem TstRes.state_done (s : State) : (TstRes.done s).state = s := rfl
@[simp] theorem TstRes.state_plain (s : State) : (TstRes.plain s).state = s := rfl
@[simp] theorem TstRes.state_bad (s : State) : (TstRes.bad s).state = s := rfl

/-- The state that the search for one operand of a node leaves. -/
def Found.state : Found → State
  | .ok s _ => s
  | .fail s => s
  | .hold s => s
@[simp] theorem Found.state_ok (s : State) (l) : (Found.ok s l).state = s := rfl
@[simp] theorem Found.state_fail (s : State) : (Found.fail s).state = s := rfl
@[simp] theorem Found.state_hold (s : State) : (Found.hold s).state = s := rfl

/-- An answer whose next state, where it has one, holds memory in its one form. -/
def AnswersWf (a : Answer) : Prop := ∀ t, a = .next t → Memory.wf t.mem
@[simp] theorem answersWf_next (s : State) : AnswersWf (.next s) ↔ Memory.wf s.mem := by simp [AnswersWf]
@[simp] theorem answersWf_fault (r : Fault) : AnswersWf (.fault r) := by simp [AnswersWf]
@[simp] theorem answersWf_refused (r : Refusal) : AnswersWf (.refused r) := by simp [AnswersWf]

/-- A write of a line, for `simp`. -/
@[simp] theorem setLineAt_wf (m : Memory) (line : Nat) (d : BitVec 1024) (h : Memory.wf m) : Memory.wf (setLineAt m line d) :=
  wf_setLineAt m line d h

theorem answersWf_spdmWhen {s : State} (m : SpdmMsg) (ok : Bool) {f : State → State} (hf : ∀ t, (f t).mem = t.mem)
    (hm : Memory.wf s.mem) : AnswersWf (.next (s.spdmWhen m ok f)) := by
  rw [answersWf_next, spdmWhen_mem _ _ _ hf]; exact hm

/-! ### Machine/Mem -/

theorem putHome_wf {s : State} (line : Nat) (bs : List StoreByte) (hm : Memory.wf s.mem) :
    Memory.wf (s.putHome line bs).mem := by
  simp [State.putHome, hm]

theorem writeHome_wf {s : State} (line : Nat) (bs : List StoreByte) (hm : Memory.wf s.mem) :
    Memory.wf (s.writeHome line bs).mem := by
  simp [State.writeHome, hm, putHome_wf]

theorem recall_wf {s : State} (line : Nat) (hm : Memory.wf s.mem) : Memory.wf (s.recall line).mem := by
  unfold State.recall
  split <;> simp [hm]

theorem writeBack_wf {s : State} (c : Copy) (hm : Memory.wf s.mem) : Memory.wf (s.writeBack c).mem := by
  simp [State.writeBack, hm]

theorem l2WriteBack_wf {s : State} (line : Nat) (hm : Memory.wf s.mem) : Memory.wf (s.l2WriteBack line).mem := by
  rw [State.l2WriteBack, dropCopies_mem]
  exact foldl_wf (fun s c hm => writeBack_wf c hm) _ hm

theorem makeRoom_wf {s : State} (site : Site) (line : Nat) (hm : Memory.wf s.mem) :
    ∀ t, State.makeRoom s site line = some t → Memory.wf t.mem := by
  simp only [State.makeRoom]
  (repeat' split) <;> simp [hm, writeBack_wf]

theorem putCopy_wf {s : State} (c : Copy) (hm : Memory.wf s.mem) : Memory.wf (s.putCopy c).mem := by
  unfold State.putCopy
  grind [setCopies_mem, makeRoom_wf]

theorem perform1_wf {s : State} (w : WritePkt) (bs : List StoreByte) (last : Bool) (hm : Memory.wf s.mem) :
    Memory.wf (s.perform1 w bs last).1.mem := by
  unfold State.perform1
  extract_lets home
  have hh : ∀ t : State, Memory.wf t.mem → Memory.wf (home t).1.mem := fun t ht => by
    unfold home
    split
    · exact writeHome_wf _ _ ht
    · exact putHome_wf _ _ ht
  have recalled : ∀ t : State, Memory.wf t.mem →
      Memory.wf ((t.recall w.line).commitCells (storeCommits w.line bs w.who)).mem := fun t ht => by
    rw [commitCells_mem]; exact recall_wf _ ht
  split
  · simp [hm]
  · exact hh _ (recalled s hm)
  · dsimp only
    split
    · exact hh _ (recalled _ (l2WriteBack_wf _ hm))
    · split
      · exact putCopy_wf _ hm
      · split
        · exact hh s hm
        · split
          · exact hh _ (by simp [hm])
          · split
            · exact hh s hm
            · rename_i hr
              have hs := makeRoom_wf _ _ hm _ hr
              exact hs

theorem redWord_wf {s : State} (r : FlushedRed) (w : RedWord) (hm : Memory.wf s.mem) : Memory.wf (s.redWord r w).mem := by
  unfold State.redWord
  split <;> simp [hm, writeHome_wf]

theorem redWords_wf {s : State} (r : FlushedRed) (hm : Memory.wf s.mem) : Memory.wf (s.redWords r).1.mem :=
  foldl_fst_wf (fun _ w hx => redWord_wf r w hx) r.words hm

theorem decline_wf {s : State} (r : ParkRec) (hm : Memory.wf s.mem) : Memory.wf (s.decline r).mem := by
  simp [State.decline, hm]

theorem parkHere_wf {s : State} (r : ParkRec) (hm : Memory.wf s.mem) : Memory.wf (s.parkHere r).mem := by
  have h1 : Memory.wf (if r.site = .home then s.setMem (setLineAt s.mem r.line r.data) else s).mem := by simp [hm]
  unfold State.parkHere
  rw [setParks_mem]
  split
  · rename_i hr
    exact makeRoom_wf _ _ h1 _ hr
  · exact h1

theorem pin_wf (fuel : Nat) {s : State} (r : ParkRec) (hm : Memory.wf s.mem) : Memory.wf (State.pin fuel s r).mem := by
  induction fuel generalizing s r with
  | zero => exact decline_wf r hm
  | succ fuel ih =>
    unfold State.pin
    extract_lets spill s1
    have hspill : ∀ t v, Memory.wf t.mem → Memory.wf (spill t v).mem := fun t v ht => by
      unfold spill; rw [count_mem]; exact ih _ ht
    have h1 : Memory.wf s1.mem := by
      unfold s1
      split
      · split
        · exact hspill _ _ hm
        · exact hm
      · exact hm
    have h2 : Memory.wf (s1.unpark r.line).mem := by rw [unpark_mem]; exact h1
    split
    · exact decline_wf r h1
    · split
      · exact parkHere_wf r h2
      · split
        · exact ih _ h2
        · exact parkHere_wf r (hspill _ _ h2)

theorem parkLine_wf {s : State} (line : Nat) (writer : Option Nat) (lid : Nat) (readers : BitVec 384) (kind : PageKind)
    (d : BitVec 1024) (hm : Memory.wf s.mem) : Memory.wf (s.parkLine line writer lid readers kind d).mem := by
  simp [State.parkLine, hm, pin_wf]

theorem setParkData_wf {s : State} (r : ParkRec) (d : BitVec 1024) (hm : Memory.wf s.mem) :
    Memory.wf (s.setParkData r d).mem := by
  simp [State.setParkData, hm]

theorem parkBytes_wf {s : State} (n : ParkNote) (bs : List StoreByte) (hm : Memory.wf s.mem) :
    Memory.wf (s.parkBytes n bs).mem := by
  simp only [State.parkBytes]
  split <;> simp [hm, writeHome_wf, parkLine_wf, setParkData_wf, recall_wf]

theorem landBack_wf {s : State} (line : Nat) (hm : Memory.wf s.mem) : Memory.wf (s.landBack line).mem := by
  unfold State.landBack
  split <;> simp [hm]

theorem finishWrite_wf {s : State} (w : WritePkt) (hm : Memory.wf s.mem) : Memory.wf (s.finishWrite w).mem := by
  unfold State.finishWrite
  split <;> simp [hm, perform1_wf]

theorem restBytes_wf {s : State} (n : ParkNote) (bs : List StoreByte) (hm : Memory.wf s.mem) :
    Memory.wf (s.restBytes n bs).mem := by
  unfold State.restBytes
  split <;> simp [hm, setParkData_wf, perform1_wf]

theorem finishNote_wf {s : State} (n : ParkNote) (first : Bool) (hm : Memory.wf s.mem) :
    Memory.wf (s.finishNote n first).mem := by
  simp [State.finishNote, hm, restBytes_wf]

theorem wholeLine_wf {s : State} (line : Nat) (hm : Memory.wf s.mem) : Memory.wf (s.wholeLine line).mem := by
  unfold State.wholeLine
  (repeat' split) <;> simp [hm, finishWrite_wf, finishNote_wf]

theorem acceptWrite_wf {s : State} (w : WritePkt) (hm : Memory.wf s.mem) : Memory.wf (s.acceptWrite w).mem := by
  simp [State.acceptWrite, hm, finishWrite_wf, wholeLine_wf]

theorem acceptHalf_wf {s : State} (w : WritePkt) (h : Bool) (hm : Memory.wf s.mem) : Memory.wf (s.acceptHalf w h).mem := by
  simp [State.acceptHalf, hm, perform1_wf, wholeLine_wf]

theorem acceptNote_wf {s : State} (n : ParkNote) (hm : Memory.wf s.mem) : Memory.wf (s.acceptNote n).mem := by
  unfold State.acceptNote
  split <;> simp [hm, finishNote_wf, parkBytes_wf, wholeLine_wf]

theorem noteHalf_wf {s : State} (n : ParkNote) (h : Bool) (hm : Memory.wf s.mem) : Memory.wf (s.noteHalf n h).mem := by
  simp [State.noteHalf, hm, parkBytes_wf, wholeLine_wf]

theorem acceptRed_wf {s : State} (r : FlushedRed) (hm : Memory.wf s.mem) : Memory.wf (s.acceptRed r).mem := by
  unfold State.acceptRed
  extract_lets s0 s1
  have h0 : Memory.wf s0.mem := wholeLine_wf r.line hm
  have h1 : Memory.wf s1.mem := by
    unfold s1
    split
    · exact h0
    · exact recall_wf _ h0
    · exact recall_wf _ (l2WriteBack_wf _ h0)
  split
  · have h2 : Memory.wf (s1.logError r.line 1).mem := by rw [logError_mem]; exact h1
    dsimp only
    split
    · exact h2
    · rw [ack_mem, foldl_mem (by simp)]; exact h2
  · rw [ack_mem, dropOwn_mem]
    exact redWords_wf r (by rw [commitCells_mem]; exact h1)

theorem accept1_wf {s : State} (a : Instr) (hm : Memory.wf s.mem) : Memory.wf (s.accept1 a).mem := by
  unfold State.accept1
  split <;> simp [hm, acceptWrite_wf, acceptNote_wf, acceptRed_wf]

theorem drainGo_wf (fuel : Nat) {s : State} (f : Nat → Nat → Nat → Bool) (hm : Memory.wf s.mem) :
    Memory.wf (State.drainGo fuel s f).mem := by
  induction fuel generalizing s with
  | zero => exact hm
  | succ fuel ih =>
    unfold State.drainGo
    split
    · exact hm
    · split
      · exact hm
      · exact ih (accept1_wf _ hm)

theorem drain_wf {s : State} (f : Nat → Nat → Nat → Bool) (hm : Memory.wf s.mem) : Memory.wf (s.drain f).mem := by
  simp [State.drain, hm, drainGo_wf]

theorem drainLine_wf {s : State} (key line : Nat) (hm : Memory.wf s.mem) : Memory.wf (s.drainLine key line).mem := by
  simp [State.drainLine, hm, drain_wf]

theorem arriveAt_wf {s : State} (key line : Nat) (hm : Memory.wf s.mem) : Memory.wf (s.arriveAt key line).mem := by
  simp [State.arriveAt, hm, wholeLine_wf, drainLine_wf]

theorem flushWord_wf {s : State} (w : CurdWord) (hm : Memory.wf s.mem) : Memory.wf (s.flushWord w).mem := by
  simp [State.flushWord, hm, acceptRed_wf, drainLine_wf]

theorem flushCurd_wf {s : State} (f : CurdWord → Bool) (hm : Memory.wf s.mem) : Memory.wf (s.flushCurd f).mem :=
  foldl_wf (fun _ w hm => flushWord_wf w hm) _ hm

theorem flushOver_wf {s : State} (core a n : Nat) (hm : Memory.wf s.mem) : Memory.wf (s.flushOver core a n).mem := by
  simp [State.flushOver, hm, flushCurd_wf]

theorem flushOwn_wf {s : State} (core a n : Nat) (who : LaneName) (hm : Memory.wf s.mem) :
    Memory.wf (s.flushOwn core a n who).mem := by
  simp [State.flushOwn, hm, flushCurd_wf]

theorem release_wf {s : State} (key : Nat) (hm : Memory.wf s.mem) : Memory.wf (s.release key).mem := by
  simp [State.release, hm, flushCurd_wf, drain_wf]

theorem acquire_wf {s : State} (key quad : Nat) (scope : Scope) (hm : Memory.wf s.mem) :
    Memory.wf (s.acquire key quad scope).mem := by
  unfold State.acquire
  split <;> simp [hm, drain_wf]

theorem fill_wf {s : State} (q : LoadReq) (d : BitVec 1024) (hm : Memory.wf s.mem) : Memory.wf (s.fill q d).mem := by
  unfold State.fill
  grind [putCopy_wf]

theorem loadFar_wf {s : State} (q : LoadReq) (hm : Memory.wf s.mem) : Memory.wf (s.loadFar q).1.mem := by
  unfold State.loadFar
  grind [landBack_wf, drainLine_wf, dropOwn_mem, landMove_mem, setParks_mem, liftPin_mem, count_mem, fill_wf,
    logError_mem, observe_mem, dropCopies_mem]

theorem load_wf {s : State} (q : LoadReq) (hm : Memory.wf s.mem) : Memory.wf (s.load q).1.mem := by
  unfold State.load
  grind [flushOver_wf, drainLine_wf, loadFar_wf, fill_wf]

theorem engineRead_wf {s : State} (line off n : Nat) (kind : PageKind) (hm : Memory.wf s.mem) :
    Memory.wf (s.engineRead line off n kind).1.mem := by
  simp only [State.engineRead]
  (repeat' split) <;> simp [hm, landBack_wf]

theorem engineWrite_wf {s : State} (ag : Agent) (kind : PageKind) (line : Nat) (bs : List StoreByte)
    (hm : Memory.wf s.mem) : Memory.wf (s.engineWrite ag kind line bs).mem := by
  simp [State.engineWrite, hm, acceptWrite_wf]

theorem pokeLines_wf (fuel : Nat) {s : State} (ag : Agent) (kind : PageKind) (a : Nat) (bs : List Byte) (hm : Memory.wf s.mem) :
    Memory.wf (State.pokeLines fuel s ag kind a bs).mem := by
  induction fuel generalizing s a bs with
  | zero => exact hm
  | succ fuel ih =>
    unfold State.pokeLines
    split
    · exact hm
    · exact ih _ _ (engineWrite_wf _ _ _ _ hm)

theorem poke_wf {s : State} (ag : Agent) (kind : PageKind) (a : Nat) (bs : List Byte) (hm : Memory.wf s.mem) :
    Memory.wf (s.poke ag kind a bs).mem := by
  simp [State.poke, hm, pokeLines_wf]

/-! ### Machine/Xlate -/

theorem readEntry_wf {s : State} (p a : Nat) (hm : Memory.wf s.mem) : Memory.wf (s.readEntry p a).1.mem := by
  unfold State.readEntry
  grind [engineRead_wf]

theorem walkFrom_wf {s : State} (p va level frame : Nat) (hm : Memory.wf s.mem) : Memory.wf (s.walkFrom p va level frame).1.mem := by
  induction level generalizing s frame with
  | zero =>
    have h1 := readEntry_wf p (frame + 8 * vaIndex va 0) hm
    unfold State.walkFrom
    split
    · rename_i he; exact wf_of_eq_fst he h1
    · rename_i he
      split <;> exact wf_of_eq_fst he h1
  | succ level ih =>
    have h1 := readEntry_wf p (frame + 8 * vaIndex va (level + 1)) hm
    unfold State.walkFrom
    split
    · rename_i he; exact wf_of_eq_fst he h1
    · rename_i he
      split
      · exact wf_of_eq_fst he h1
      · exact ih _ (wf_of_eq_fst he h1)
      · exact wf_of_eq_fst he h1

theorem xlate_wf {s : State} (w : Walker) (va : DWord) (acc : Access) (hm : Memory.wf s.mem) :
    Memory.wf (s.xlate w va acc).1.mem := by
  unfold State.xlate
  grind [count_mem, setTlb_mem, walkFrom_wf, tlbInstall_mem]

theorem xlateRange_wf {s : State} (w : Walker) (acc : Access) (fuel va stop : Nat) (hm : Memory.wf s.mem) :
    Memory.wf (s.xlateRange w acc fuel va stop).1.mem := by
  induction fuel generalizing s va with
  | zero => exact hm
  | succ fuel ih =>
    have h1 := xlate_wf w (BitVec.ofNat 64 va) acc hm
    unfold State.xlateRange
    split
    · exact hm
    · split
      · rename_i he
        have h2 := ih ((va / 4096 + 1) * 4096) (wf_of_eq_fst he h1)
        dsimp only
        split <;> (rename_i e2; exact wf_of_eq_fst e2 h2)
      · rename_i he; exact wf_of_eq_fst he h1

/-! ### Machine/Ops -/

theorem acquireBy_wf {s : State} (gid : Nat) (lanes : LaneMask) (scope : Scope) (hm : Memory.wf s.mem) :
    Memory.wf (s.acquireBy gid lanes scope).mem := by
  simp [State.acquireBy, hm, acquire_wf]

theorem releaseBy_wf {s : State} (gid : Nat) (lanes : LaneMask) (hm : Memory.wf s.mem) :
    Memory.wf (s.releaseBy gid lanes).mem := by
  simp [State.releaseBy, hm, release_wf]

theorem recRelease_wf {s : State} (who : FqHolder) (hm : Memory.wf s.mem) : Memory.wf (s.recRelease who).mem := by
  unfold State.recRelease
  split <;> simp [hm, releaseBy_wf]

theorem fqTry_wf {s0 : State} (r : PendingRec) (hms0 : Memory.wf s0.mem) :
    ∀ t, State.fqTry s0 r = some t → Memory.wf t.mem := by
  unfold State.fqTry
  grind [recRelease_wf, xlate_wf, postEvent_mem, setCsr_mem, poke_wf]

theorem fqGo_wf (rs : List PendingRec) (full : List Nat) {s : State} (hm : Memory.wf s.mem) : Memory.wf (State.fqGo rs full s).mem := by
  induction rs generalizing s full with
  | nil => exact hm
  | cons r rs ih =>
    unfold State.fqGo
    dsimp only
    split
    · exact ih _ hm
    · split
      · rename_i ht; exact ih _ (fqTry_wf r hm _ ht)
      · exact ih _ hm

theorem fqDrain_wf {s : State} (hm : Memory.wf s.mem) : Memory.wf (s.fqDrain).mem := by
  simp [State.fqDrain, hm, fqGo_wf]

theorem post_wf {s : State} (p : Nat) (h : RecHead) (body : List Byte) (who : FqHolder) (hm : Memory.wf s.mem) :
    Memory.wf (s.post p h body who).mem := by
  simp [State.post, hm, fqDrain_wf]

theorem spillFrame_wf {s : State} (gid lane depth : Nat) (hm : Memory.wf s.mem) :
    Memory.wf (s.spillFrame gid lane depth).mem := by
  unfold State.spillFrame
  grind [xlate_wf, poke_wf]

theorem fillFrame_wf {s : State} (gid lane depth : Nat) (hm : Memory.wf s.mem) :
    Memory.wf (s.fillFrame gid lane depth).mem := by
  unfold State.fillFrame
  grind [xlate_wf, engineRead_wf, modLane_mem]

theorem pushFrame_wf {s : State} (gid lane : Nat) (f : Frame) (hm : Memory.wf s.mem) :
    Memory.wf (s.pushFrame gid lane f).mem := by
  simp [State.pushFrame, hm, spillFrame_wf]

theorem popFrame_wf {s : State} (gid lane : Nat) (hm : Memory.wf s.mem) : Memory.wf (s.popFrame gid lane).mem := by
  simp [State.popFrame, hm, fillFrame_wf]

theorem endByTrap_wf {s : State} (gid : Nat) (ls : List Nat) (cause : Nat) (t : TrapAt) (hm : Memory.wf s.mem) :
    Memory.wf (s.endByTrap gid ls cause t).mem := by
  simp [State.endByTrap, hm, post_wf]

theorem stopCore_wf {s : State} (gid l : Nat) (pc info : DWord) (hm : Memory.wf s.mem) :
    Memory.wf (s.stopCore gid l pc info).mem := by
  simp [State.stopCore, hm, post_wf]

theorem trapSys_wf {s : State} (gid l : Nat) (t : TrapAt) (hm : Memory.wf s.mem) : Memory.wf (s.trapSys gid l t).mem := by
  simp [State.trapSys, hm, stopCore_wf]

theorem trapLanes_wf {s : State} (gid : Nat) (who : List (Nat × DWord)) (t : TrapAt) (hm : Memory.wf s.mem) :
    Memory.wf (s.trapLanes gid who t).mem := by
  unfold State.trapLanes
  extract_lets g s0 ls handler s1
  have h0 : Memory.wf s0.mem := by unfold s0; rw [foldl_mem] <;> simp [hm]
  split
  · exact h0
  · extract_lets t0 stop
    by_cases hg : g.sys
    · rw [if_pos hg]
      exact trapSys_wf _ _ _ h0
    · rw [if_neg hg]
      have h1 : Memory.wf s1.mem := by unfold s1; rw [foldl_mem] <;> simp [h0]
      have hstop : ∀ c, Memory.wf (stop s1 c).mem := fun c => by
        unfold stop
        split
        · rw [haltLanes_mem]; exact h1
        · exact endByTrap_wf _ _ _ _ h1
      split
      · exact hstop _
      · split
        · exact hstop _
        · exact eachLane_wf (fun s l hm => by rw [modLane_mem]; exact pushFrame_wf _ _ _ hm) _ h1

theorem trap_wf {s : State} (gid : Nat) (ls : List Nat) (t : TrapAt) (hm : Memory.wf s.mem) :
    Memory.wf (s.trap gid ls t).mem := by
  simp [State.trap, hm, trapLanes_wf]

theorem trapEach_wf (fuel : Nat) {s : State} (cx : Cx) (l : List (Nat × Nat × DWord)) (hm : Memory.wf s.mem) :
    Memory.wf (State.trapEach fuel s cx l).mem := by
  induction fuel generalizing s l with
  | zero => exact hm
  | succ fuel ih =>
    cases l with
    | nil => exact hm
    | cons x rest => exact ih _ (trapLanes_wf _ _ _ hm)

theorem pageStop_wf {s : State} (cx : Cx) (ls : List Nat) (va : DWord) (acc : Access) (level : Nat) (bad : Bool)
    (hm : Memory.wf s.mem) : Memory.wf (s.pageStop cx ls va acc level bad).mem := by
  unfold State.pageStop
  split
  · exact trap_wf _ _ _ hm
  · rw [send_mem, park_mem]
    dsimp only
    rw [eachLane_mem (by simp), foldl_mem (by simp)]
    exact hm

theorem barAcquire_wf {s : State} (gid : Nat) (lanes : LaneMask) (b : BlockRef) (scope : Scope) (hm : Memory.wf s.mem) :
    Memory.wf (s.barAcquire gid lanes b scope).mem := by
  unfold State.barAcquire
  (repeat' split) <;> simp [hm, acquireBy_wf]

theorem wakeBar_wf {s : State} (w : Wait) (b : BlockRef) (scope : Scope) (st : Option (BitVec 8)) (passed : Bool)
    (hm : Memory.wf s.mem) : Memory.wf (s.wakeBar w b scope st passed).mem := by
  unfold State.wakeBar
  split <;> simp [hm, barAcquire_wf]

theorem wakeToken_wf {s : State} (b : BlockRef) (j : Nat) (t : Word) (hm : Memory.wf s.mem) : Memory.wf (s.wakeToken b j t).mem :=
  foldl_wf (fun s w hm => by
    split
    · split
      · exact wakeBar_wf _ _ _ _ _ hm
      · exact hm
    · exact hm) _ hm

theorem completePhase_wf {s : State} (b : BlockRef) (j : Nat) (hm : Memory.wf s.mem) :
    Memory.wf (s.completePhase b j).mem := by
  simp [State.completePhase, hm, wakeToken_wf]

theorem arrive_wf {s : State} (b : BlockRef) (j who : Nat) (hm : Memory.wf s.mem) : Memory.wf (s.arrive b j who).mem := by
  simp [State.arrive, hm, completePhase_wf]

theorem checkPhase_wf {s : State} (b : BlockRef) (j : Nat) (hm : Memory.wf s.mem) : Memory.wf (s.checkPhase b j).mem := by
  simp only [State.checkPhase]
  split <;> simp [hm, wakeToken_wf]

theorem deduct_wf {s : State} (b : BlockRef) (gid who j : Nat) (hm : Memory.wf s.mem) :
    Memory.wf (s.deduct b gid who j).mem := by
  simp only [State.deduct]
  (repeat' split) <;> simp [hm, checkPhase_wf, completePhase_wf]

theorem completeDue_wf {s : State} (hm : Memory.wf s.mem) : Memory.wf s.completeDue.mem :=
  foldl_wf (fun s b hm => foldl_wf (fun s j hm => by
    split
    · exact completePhase_wf _ _ hm
    · exact hm) _ hm) _ hm

theorem exitLanes_wf {s : State} (gid : Nat) (ls : List Nat) (hm : Memory.wf s.mem) : Memory.wf (s.exitLanes gid ls).mem := by
  unfold State.exitLanes
  extract_lets g s1 s2 s3 g3
  have h1 : Memory.wf s1.mem := by rw [eachLane_mem (by simp)]; exact hm
  have h2 : Memory.wf s2.mem := eachLane_wf (fun s l hm => by
    rw [dropWrites_mem, commitCells_mem]
    exact foldl_wf (fun s j hm => deduct_wf _ _ _ _ hm) _ hm) ls h1
  have h3 : Memory.wf s3.mem := by unfold s3; rw [foldl_mem] <;> simp [h2]
  clear_value s3
  split
  · exact h3
  · exact h3

/-! ### Machine/Operands -/

theorem issue_wf {s : State} (c : Ctl) (ctr : Option Ctr) (names : List Nat) (writes : Nat) {body : State → Iss → State}
    (hm : Memory.wf s.mem) (hb : ∀ t i, Memory.wf t.mem → Memory.wf (body t i).mem) :
    AnswersWf (issue s c ctr names writes body) := by
  have h1 : ∀ cx, Memory.wf (s.start cx c).mem := fun cx => by rw [start_mem]; exact hm
  unfold issue
  split
  · simp
  · dsimp only
    split
    · simp [hm]
    · split
      · simp [hm]
      · split
        · exact (answersWf_next _).2 (trap_wf _ _ _ (h1 _))
        · exact (answersWf_next _).2 (hb _ _ (h1 _))

theorem issuePriv_wf {s : State} (c : Ctl) (ctr : Option Ctr) (names : List Nat) (writes : Nat) {body : State → Iss → State}
    (hm : Memory.wf s.mem) (hb : ∀ t i, Memory.wf t.mem → Memory.wf (body t i).mem) :
    AnswersWf (issuePriv s c ctr names writes body) := by
  unfold issuePriv
  split
  · simp
  · split
    · exact issue_wf _ _ _ _ hm hb
    · exact (answersWf_next _).2 (trap_wf _ _ _ hm)

theorem trapAll_wf {s : State} (i : Iss) (cause info : Nat) (hm : Memory.wf s.mem) :
    Memory.wf (s.trapAll i cause info).mem := by
  simp [State.trapAll, hm, trap_wf]

theorem laneFinish_wf {s : State} (i : Iss) (op : LaneOp) (ins : List (Nat × Nat)) (got : List (List (Nat × Word)))
    (hm : Memory.wf s.mem) : Memory.wf (s.laneFinish i op ins got).mem := by
  unfold State.laneFinish
  (repeat' split) <;> simp [hm, trapAll_wf]

theorem laneGo_wf (fuel : Nat) {s : State} (i : Iss) (w : Instr) (op : LaneOp) (got : List (List (Nat × Word)))
    (hm : Memory.wf s.mem) : Memory.wf (State.laneGo fuel s i w op got).mem := by
  induction fuel generalizing s got with
  | zero => exact hm
  | succ fuel ih =>
    unfold State.laneGo
    dsimp only
    split
    · exact trapAll_wf _ _ _ hm
    · split
      · exact laneFinish_wf _ _ _ _ hm
      · split
        · exact hm
        · split
          · exact trapAll_wf _ _ _ hm
          · split
            · apply ih
              rw [ringPop_mem]; exact hm
            · rw [parkFor_mem]; exact hm

theorem issueLane_wf {s : State} (c : Ctl) (w : Instr) (op : LaneOp) (hm : Memory.wf s.mem) :
    AnswersWf (issueLane s c w op) := by
  simp only [issueLane]
  (repeat' split) <;> simp [hm, trap_wf, laneGo_wf]

theorem checkGlobal_wf {s : State} (i : Iss) (acc : Access) (width : Nat) (own : Nat → DWord → Option (Nat × DWord))
    (eas : List (Nat × DWord)) (hm : Memory.wf s.mem) : Memory.wf (s.checkGlobal i acc width own eas).1.mem :=
  foldl_fst_wf (fun r x hr => by
    have h1 := xlate_wf (s.laneWalker i.gid) x.2 acc hr
    dsimp only
    split
    · exact hr
    · split
      · rename_i he
        split <;> exact wf_of_eq_fst he h1
      · rename_i he; exact wf_of_eq_fst he h1
      · rename_i he; exact wf_of_eq_fst he h1) eas hm

theorem failures_wf {s : State} (i : Iss) (acc : Access) (c : Checked) (hm : Memory.wf s.mem) :
    Memory.wf (s.failures i acc c).mem := by
  unfold State.failures
  split <;> simp [hm, trapEach_wf, pageStop_wf]

theorem checkOne_wf {s : State} (i : Iss) (acc : Access) (va : DWord) (hm : Memory.wf s.mem) :
    Memory.wf (s.checkOne i acc va).1.mem := by
  unfold State.checkOne
  grind [xlate_wf, trap_wf, pageStop_wf]

theorem checkRangeBy_wf {s : State} (w : Walker) (i : Iss) (acc : Access) (va len : Nat) (hm : Memory.wf s.mem) :
    Memory.wf (s.checkRangeBy w i acc va len).1.mem := by
  unfold State.checkRangeBy
  grind [xlateRange_wf, trap_wf, pageStop_wf]

theorem checkRange_wf {s : State} (i : Iss) (acc : Access) (va len : Nat) (hm : Memory.wf s.mem) :
    Memory.wf (s.checkRange i acc va len).1.mem := by
  simp [State.checkRange, hm, checkRangeBy_wf]

/-! ### Machine/CrossLane -/

theorem execLxch_wf {s : State} (f : RRR) (hm : Memory.wf s.mem) : AnswersWf (execLxch f s) := by
  simp [execLxch, hm, issue_wf]

theorem execPagg_wf {s : State} (f : RRR) (hm : Memory.wf s.mem) : AnswersWf (execPagg f s) := by
  simp [execPagg, hm, issue_wf]

theorem execPmask_wf {s : State} (f : RRR) (hm : Memory.wf s.mem) : AnswersWf (execPmask f s) := by
  simp [execPmask, hm, issue_wf]

theorem execXred_wf {s : State} (f : RRR) (hm : Memory.wf s.mem) : AnswersWf (execXred f s) := by
  simp [execXred, hm, issue_wf]

theorem execQx_wf {s : State} (f : RRR) (hm : Memory.wf s.mem) : AnswersWf (execQx f s) := by
  refine issue_wf _ _ _ _ hm fun t i ht => ?_
  dsimp only
  grind [laterV_mem, eachLane_mem, modLane_mem]

theorem issueSpecial_wf {s : State} (f : RRR) (fn : Fl → Fl) (hm : Memory.wf s.mem) : AnswersWf (issueSpecial f fn s) := by
  simp [issueSpecial, hm, issue_wf]

theorem execDiv_wf {s : State} (f : RRR) (hm : Memory.wf s.mem) : AnswersWf (execDiv f s) := by
  simp [execDiv, hm, issue_wf]

/-! ### Machine/Control -/

theorem execBra_wf {s : State} (f : BF) (hm : Memory.wf s.mem) : AnswersWf (execBra f s) := by
  unfold execBra
  grind [issue_wf, leaveFor_mem, eachLane_mem, goTo_mem]

theorem execBrx_wf {s : State} (f : BF) (hm : Memory.wf s.mem) : AnswersWf (execBrx f s) := by
  unfold execBrx
  grind [issue_wf, leaveFor_mem, eachLane_mem, goTo_mem]

theorem callTo_wf {s : State} (i : Iss) (target : Nat → DWord) (hm : Memory.wf s.mem) : Memory.wf (s.callTo i target).mem := by
  unfold State.callTo
  extract_lets deep s1
  have h1 : Memory.wf s1.mem := eachLane_wf (fun s l hm => by rw [goTo_mem]; exact pushFrame_wf _ _ _ hm) _ hm
  split
  · exact h1
  · exact trap_wf _ _ _ h1

theorem execCall_wf {s : State} (f : BF) (hm : Memory.wf s.mem) : AnswersWf (execCall f s) := by
  refine issue_wf _ _ _ _ hm fun t i ht => ?_
  simp [ht, callTo_wf]

theorem execCallx_wf {s : State} (f : BF) (hm : Memory.wf s.mem) : AnswersWf (execCallx f s) := by
  refine issue_wf _ _ _ _ hm fun t i ht => ?_
  simp [ht, callTo_wf]

theorem execRet_wf {s : State} (f : BF) (hm : Memory.wf s.mem) : AnswersWf (execRet f s) :=
  issue_wf _ _ _ _ hm fun s i hm => by
    have h1 : Memory.wf (eachLane s i.lanes fun s l =>
        match (s.lane i.gid l).stack with
        | [] => s
        | fr :: _ =>
          let s1 := s.popFrame i.gid l
          if fr.trap then s1.trapReturn i.gid l fr else s1.goTo i.gid l fr.addr).mem :=
      eachLane_wf (fun s l hm => by
        split
        · exact hm
        · have hp := popFrame_wf i.gid l hm
          dsimp only
          split <;> simp [hp]) _ hm
    dsimp only
    split
    · exact h1
    · exact trap_wf _ _ _ h1

theorem execYield_wf {s : State} (f : EF) (hm : Memory.wf s.mem) : AnswersWf (execYield f s) := by
  simp [execYield, hm, issue_wf]

theorem execYieldExpiry_wf {s : State} (r : WaitRef) (hm : Memory.wf s.mem) : AnswersWf (execYieldExpiry r s) := by
  unfold execYieldExpiry
  (repeat' split) <;> simp [hm]

theorem trapNext_wf {s : State} (i : Iss) (cause : Nat) (code : BitVec 8) (hm : Memory.wf s.mem) :
    Memory.wf (s.trapNext i cause code).mem := by
  simp [State.trapNext, hm, trap_wf]

theorem execTrap_wf {s : State} (f : EF) (hm : Memory.wf s.mem) : AnswersWf (execTrap f s) := by
  refine issue_wf _ _ _ _ hm fun t i ht => ?_
  simp [ht, trapNext_wf]

theorem execBkpt_wf {s : State} (f : EF) (hm : Memory.wf s.mem) : AnswersWf (execBkpt f s) := by
  refine issue_wf _ _ _ _ hm fun t i ht => ?_
  simp [ht, trapNext_wf]

theorem execMset_wf {s : State} (f : EF) (hm : Memory.wf s.mem) : AnswersWf (execMset f s) := by
  simp [execMset, hm, issue_wf]

theorem execReconv_wf {s : State} (f : EF) (hm : Memory.wf s.mem) : AnswersWf (execReconv f s) := by
  refine issue_wf _ _ _ _ hm fun t i ht => ?_
  simp [ht, trapAll_wf]

theorem barRelease_wf {s : State} (i : Iss) (hm : Memory.wf s.mem) : Memory.wf (s.barRelease i).mem := by
  simp [State.barRelease, hm, releaseBy_wf]

theorem arriveLane_wf {s : State} (cx : Cx) (l : Nat) (a : Arrival) (hm : Memory.wf s.mem) :
    Memory.wf (s.arriveLane cx l a).mem := by
  unfold State.arriveLane
  split <;> simp [hm, arrive_wf, barAcquire_wf]

theorem arriveAll_wf {s : State} (i : Iss) (a : Arrival) (hm : Memory.wf s.mem) : Memory.wf (s.arriveAll i a).mem :=
  eachLane_wf (fun s l hm => by
    split
    · simp [hm]
    · exact arriveLane_wf _ _ _ hm) i.lanes hm

theorem execHeldArrival_wf {s : State} (a : HeldArrival) (hm : Memory.wf s.mem) : AnswersWf (execHeldArrival a s) := by
  unfold execHeldArrival
  (repeat' split) <;> simp [hm, arriveLane_wf]

theorem waitToken_wf {s : State} (i : Iss) (l j : Nat) (t : Word) (scope : Scope) (st : Option (BitVec 8))
    (hm : Memory.wf s.mem) : Memory.wf (s.waitToken i l j t scope st).mem := by
  unfold State.waitToken
  split <;> simp [hm, barAcquire_wf]

theorem execBar_wf {s : State} (f : EF) (hm : Memory.wf s.mem) : AnswersWf (execBar f s) := by
  unfold execBar
  exact issue_wf _ _ _ _ hm fun s i hm => by
    split
    · exact trapAll_wf _ _ _ hm
    · split
      · exact foldl_wf (fun s x hm => waitToken_wf _ _ _ _ _ _ hm) _ hm
      · exact arriveAll_wf _ _ (barRelease_wf _ hm)

theorem execArrive_wf {s : State} (f : EF) (hm : Memory.wf s.mem) : AnswersWf (execArrive f s) := by
  unfold execArrive
  grind [issue_wf, trapAll_wf, arriveAll_wf, barRelease_wf]

theorem execJset_wf {s : State} (f : EF) (hm : Memory.wf s.mem) : AnswersWf (execJset f s) := by
  unfold execJset
  grind [issue_wf, trapAll_wf, setJoin_mem]

theorem execJread_wf {s : State} (f : EF) (hm : Memory.wf s.mem) : AnswersWf (execJread f s) := by
  simp [execJread, hm, issue_wf]

theorem timeOut_wf {s : State} (ws : List Wait) (cause : Nat) (info : DWord) (hm : Memory.wf s.mem) :
    Memory.wf (s.timeOut ws cause info).mem :=
  foldl_wf (fun s w hm => trap_wf _ _ _ (by
    dsimp only
    rw [eachLane_mem (by simp)]; exact hm)) ws hm

theorem execBarrierTimeOut_wf {s : State} (r : WaitRef) (hm : Memory.wf s.mem) : AnswersWf (execBarrierTimeOut r s) := by
  simp only [execBarrierTimeOut]
  (repeat' split) <;> simp [hm, post_wf, timeOut_wf]

/-! ### Machine/MemLane -/

theorem execLateCause_wf {s : State} (c : Late) (hm : Memory.wf s.mem) : AnswersWf (execLateCause c s) := by
  unfold execLateCause
  split <;> simp [hm, trap_wf]

theorem performEach_wf {s : State} (accs : List Acc) {f : State → Acc → Done} (hf : ∀ t a, Memory.wf t.mem → Memory.wf (f t a).s.mem)
    (hm : Memory.wf s.mem) : Memory.wf (performEach s accs f).s.mem :=
  List.foldlRecOn (motive := fun d : Done => Memory.wf d.s.mem) accs _ hm fun d hd a _ => hf d.s a hd

theorem Done_ofState_wf {s : State} (hm : Memory.wf s.mem) : Memory.wf (Done.ofState s).s.mem := by
  simp [Done.ofState, hm]

theorem Done_gives_wf {s : State} (w : List RegWrite) (hm : Memory.wf s.mem) : Memory.wf (Done.gives s w).s.mem := by
  simp [Done.gives, hm]

theorem tagEach_wf {s : State} (accs : List Acc) {f : State → Acc → State × List (Nat × BitVec 16)}
    (hf : ∀ t a, Memory.wf t.mem → Memory.wf (f t a).1.mem) (hm : Memory.wf s.mem) : Memory.wf (tagEach s accs f).s.mem :=
  performEach_wf accs (fun t a ht => hf t a ht) hm

theorem fails_wf {s : State} (i : Iss) (a : Acc) (cause : Nat) (hm : Memory.wf s.mem) :
    Memory.wf (s.fails i a cause).s.mem := by
  simp [State.fails, hm]

theorem acqFor_wf {s : State} (i : Iss) (o : Ord) (sc : Scope) (hm : Memory.wf s.mem) : Memory.wf (s.acqFor i o sc).mem := by
  simp [State.acqFor, hm, acquireBy_wf]

theorem relFor_wf {s : State} (i : Iss) (o : Ord) (hm : Memory.wf s.mem) : Memory.wf (s.relFor i o).mem := by
  simp [State.relFor, hm, releaseBy_wf]

theorem halves_wf {s : State} (ty : MTy) (a : Acc) {f : Nat → Nat → Done} (hf : ∀ x n, Memory.wf (f x n).s.mem) :
    Memory.wf (s.halves ty a f).s.mem := by
  unfold State.halves
  split
  · exact hf _ _
  · extract_lets d
    split
    · exact hf _ _
    · exact hf _ _

theorem loadPart_wf {s : State} (i : Iss) (f : MF) (a : Acc) (x n : Nat) (hm : Memory.wf s.mem) :
    Memory.wf (s.loadPart i f a x n).s.mem := by
  unfold State.loadPart
  dsimp only
  split <;> rename_i he
  · exact wf_of_eq_fst he (load_wf _ hm)
  · exact fails_wf _ _ _ (wf_of_eq_fst he (load_wf _ hm))
  · exact fails_wf _ _ _ (wf_of_eq_fst he (load_wf _ hm))

theorem loadLane_wf {s : State} (i : Iss) (f : MF) (a : Acc) (hm : Memory.wf s.mem) : Memory.wf (s.loadLane i f a).s.mem :=
  halves_wf _ _ fun x n => loadPart_wf i f a x n hm

theorem flushOwnOf_wf {s : State} (i : Iss) (accs : List Acc) (hm : Memory.wf s.mem) : Memory.wf (s.flushOwnOf i accs).mem :=
  foldl_wf (fun _ _ hm => flushOwn_wf _ _ _ _ hm) accs hm

theorem storeLine_wf {s : State} (i : Iss) (nt : Bool) (r : Ret) (accs : List Acc) (hm : Memory.wf s.mem) :
    Memory.wf (s.storeLine i nt r accs).mem := by
  unfold State.storeLine
  split <;> simp [hm, flushOwnOf_wf]

theorem storeAll_wf {s : State} (i : Iss) (nt : Bool) (r : Ret) (accs : List Acc) (hm : Memory.wf s.mem) :
    Memory.wf (s.storeAll i nt r accs).mem := foldl_wf (fun _ l hm => storeLine_wf i nt r l hm) _ hm

theorem execHomeWriteAccept_wf {s : State} (w : WritePkt) (hm : Memory.wf s.mem) : AnswersWf (execHomeWriteAccept w s) := by
  simp [execHomeWriteAccept, hm, drain_wf, acceptHalf_wf, acceptWrite_wf]

theorem execFlushedReductionApply_wf {s : State} (r : FlushedRed) (hm : Memory.wf s.mem) :
    AnswersWf (execFlushedReductionApply r s) := by
  simp [execFlushedReductionApply, hm, acceptRed_wf, drain_wf]

theorem execParkNotice_wf {s : State} (n : ParkNote) (hm : Memory.wf s.mem) : AnswersWf (execParkNotice n s) := by
  simp [execParkNotice, hm, drain_wf, noteHalf_wf, acceptNote_wf]

theorem execParkWriteBackLand_wf {s : State} (b : LineBack) (hm : Memory.wf s.mem) :
    AnswersWf (execParkWriteBackLand b s) := by
  simp [execParkWriteBackLand, hm, landBack_wf]

theorem sFail_wf {s : State} (i : Iss) (l : List (Nat × Nat × DWord)) (hm : Memory.wf s.mem) :
    Memory.wf (s.sFail i l).mem := by
  simp [State.sFail, hm, trapEach_wf]

theorem loadS_wf {s : State} (f : MF) (a : Acc) (hm : Memory.wf s.mem) : Memory.wf (s.loadS f a).s.mem := by
  unfold State.loadS
  split
  · exact hm
  · exact halves_wf _ _ fun _ _ => hm

theorem putS_wf {s : State} (i : Iss) (f : MF) (a : Acc) (hm : Memory.wf s.mem) : Memory.wf (s.putS i f a).s.mem :=
  halves_wf _ _ fun _ _ => by
    show Memory.wf (s.writeBy _ _ _ _).mem
    rw [writeBy_mem]; exact hm

theorem stfeLane_wf {s : State} (i : Iss) (a : Acc) (hm : Memory.wf s.mem) : Memory.wf (s.stfeLane i a).mem := by
  simp [State.stfeLane, hm, releaseBy_wf]

theorem prefLane_wf {s : State} (i : Iss) (level : Nat) (ea : DWord) (hm : Memory.wf s.mem) :
    Memory.wf (s.prefLane i level ea).mem := by
  unfold State.prefLane
  grind [xlate_wf, drainLine_wf, putCopy_wf]

/-! ### Machine/MemHome -/

theorem noteRun_wf {s : State} (i : Iss) (r : Ret) (accs : List Acc) (hm : Memory.wf s.mem) :
    Memory.wf (s.noteRun i r accs).mem := by
  unfold State.noteRun
  split <;> simp [hm, drainLine_wf, flushOwnOf_wf]

theorem noteAll_wf {s : State} (i : Iss) (r : Ret) (accs : List Acc) (hm : Memory.wf s.mem) : Memory.wf (s.noteAll i r accs).mem :=
  foldl_wf (fun s l hm => by
    split
    · exact storeLine_wf _ _ _ _ hm
    · exact noteRun_wf _ _ _ hm) _ hm

theorem movePark_wf {s : State} (i : Iss) (ret : Ret) (r : ParkRec) (m : BitVec 384) (hm : Memory.wf s.mem) :
    Memory.wf (s.movePark i ret r m).mem := by
  simp only [State.movePark]
  (repeat' split) <;> simp [hm, pin_wf]

theorem parkAnew_wf {s : State} (i : Iss) (m : BitVec 384) (a : Acc) (hm : Memory.wf s.mem) :
    Memory.wf (s.parkAnew i m a).1.mem := by
  simp only [State.parkAnew]
  split <;> simp [hm, parkLine_wf]

theorem reparkLane_wf {s : State} (i : Iss) (ret : Ret) (add : Bool) (a : Acc) (hm : Memory.wf s.mem) :
    Memory.wf (s.reparkLane i ret add a).1.mem := by
  unfold State.reparkLane
  grind [landMove_mem, landBack_wf, arriveAt_wf, liftPin_mem, movePark_wf, parkAnew_wf, recall_wf]

theorem locateLane_wf {s : State} (i : Iss) (ret : Ret) (a : Acc) (hm : Memory.wf s.mem) :
    Memory.wf (s.locateLane i ret a).mem := by
  unfold State.locateLane
  grind [landMove_mem, landBack_wf, arriveAt_wf, movePark_wf]

theorem parkqLane_wf {s : State} (i : Iss) (reg : Nat) (a : Acc) (hm : Memory.wf s.mem) : Memory.wf (s.parkqLane i reg a).s.mem :=
  drainLine_wf _ _ hm

theorem tstLane_wf {s : State} (i : Iss) (a : Acc) (hm : Memory.wf s.mem) : Memory.wf (s.tstLane i a).state.mem := by
  unfold State.tstLane
  extract_lets n who line s own s0 s1 s2
  have hs : Memory.wf s.mem := by
    rw [dropNear_mem]; exact arriveAt_wf _ _ (flushOwn_wf _ _ _ _ hm)
  have h0 : Memory.wf s0.mem := by rw [commitCells_mem]; exact hs
  have h1 : Memory.wf s1.mem := recall_wf _ (by
    split
    · exact l2WriteBack_wf _ h0
    · exact h0
    · exact h0)
  split
  · exact writeHome_wf _ _ (recall_wf _ hs)
  · split
    · exact hs
    · split
      · rw [TstRes.state_bad, logError_mem]; exact h1
      · exact writeHome_wf _ _ (by rw [setCells_mem, dropCopies_mem]; exact h1)

theorem tstDone_lane_wf (d : TstDone) (i : Iss) (later : List Acc) (a : Acc) (hm : Memory.wf d.s.mem) :
    Memory.wf (d.lane i later a).s.mem := by
  have h1 := tstLane_wf i a hm
  unfold TstDone.lane
  split <;> rename_i he <;> rw [he] at h1
  · exact h1
  · dsimp only
    split
    · exact acceptWrite_wf _ h1
    · exact h1
  · show Memory.wf (State.openLate _ _ _ _ _).mem
    rw [openLate_mem]; exact h1

theorem tstDone_lanes_wf (d : TstDone) (i : Iss) (accs : List Acc) (hm : Memory.wf d.s.mem) : Memory.wf (d.lanes i accs).s.mem := by
  induction accs generalizing d with
  | nil => exact hm
  | cons a as ih => exact ih _ (tstDone_lane_wf d i as a hm)

theorem tstAll_wf {s : State} (i : Iss) (pred : Nat) (accs : List Acc) (hm : Memory.wf s.mem) : Memory.wf (s.tstAll i pred accs).s.mem := by
  have hd := tstDone_lanes_wf ⟨s, [], [], [], []⟩ i accs hm
  unfold State.tstAll
  dsimp only
  split
  · exact hd
  · exact storeAll_wf _ _ _ _ hd

theorem retractLane_wf {s : State} (i : Iss) (n : Nat) (a : Acc) (hm : Memory.wf s.mem) :
    Memory.wf (s.retractLane i n a).1.mem := by
  unfold State.retractLane
  grind [arriveAt_wf, flushOwn_wf, commitCells_mem, dropNear_mem, writeHome_wf, recall_wf, dropCell_mem]

theorem commitLane_wf {s : State} (i : Iss) (n : Nat) (a : Acc) (hm : Memory.wf s.mem) :
    Memory.wf (s.commitLane i n a).1.mem := by
  simp [State.commitLane, hm, arriveAt_wf]

theorem atomicAt_wf {s : State} (gid lane : Nat) (kind : PageKind) (pa n : Nat) (op : DWord → DWord) (hm : Memory.wf s.mem) :
    Memory.wf (s.atomicAt gid lane kind pa n op).1.mem := by
  unfold State.atomicAt
  extract_lets line s s1 s2 old bs s3
  have hs : Memory.wf s.mem := by
    rw [landMove_mem]; exact landBack_wf _ (arriveAt_wf _ _ (flushOwn_wf _ _ _ _ hm))
  have h1 : Memory.wf s1.mem := by
    unfold s1
    split
    · exact hs
    · exact recall_wf _ hs
    · exact recall_wf _ (l2WriteBack_wf _ hs)
  have h2 : Memory.wf s2.mem := by rw [commitCells_mem]; exact h1
  have h3 : Memory.wf s3.mem := by
    unfold s3
    split
    · simp [h2]
    · exact writeHome_wf _ _ h2
    · exact writeHome_wf _ _ h2
  split
  · rw [logError_mem]; exact h1
  · rw [dropNear_mem]; exact h3

theorem atomAll_wf {s : State} (i : Iss) (f : MF) (accs : List Acc) (op : Acc → DWord → DWord) (hm : Memory.wf s.mem) :
    Memory.wf (s.atomAll i f accs op).s.mem := by
  have h1 : Memory.wf (if f.ord == .acqrel then (s.relFor i f.ord).flushCurd fun w =>
      w.core == keyOf i.gid && (accs.map fun a => lineOf a.pa).contains (lineOf w.addr) else s.relFor i f.ord).mem := by
    split
    · exact flushCurd_wf _ (relFor_wf _ _ hm)
    · exact relFor_wf _ _ hm
  exact acqFor_wf _ _ _ (performEach_wf accs (fun t a ht => by
    split <;> rename_i he
    · exact wf_of_eq_fst he (atomicAt_wf _ _ _ _ _ _ ht)
    · exact fails_wf _ _ _ (wf_of_eq_fst he (atomicAt_wf _ _ _ _ _ _ ht))) h1)

theorem atomsLane_wf {s : State} (i : Iss) (f : MF) (a : Acc) (hm : Memory.wf s.mem) : Memory.wf (s.atomsLane i f a).s.mem := by
  show Memory.wf (s.writeBy _ _ _ _).mem
  rw [writeBy_mem]; exact hm

theorem curdRoom_wf {s : State} (core granule : Nat) (hm : Memory.wf s.mem) : Memory.wf (s.curdRoom core granule).mem := by
  simp [State.curdRoom, hm, flushCurd_wf]

theorem rest_wf {s : State} (w : CurdWord) (hm : Memory.wf s.mem) : Memory.wf (s.rest w).mem := by
  unfold State.rest
  split <;> simp [hm, curdRoom_wf, flushOver_wf]

theorem redAll_wf {s : State} (i : Iss) (f : MF) (accs : List Acc) (hm : Memory.wf s.mem) : Memory.wf (s.redAll i f accs).s.mem :=
  foldl_wf (fun s l hm => by rw [redLine_mem]; exact hm) _ (foldl_wf (fun s a hm => rest_wf _ hm) _ (relFor_wf _ _ hm))

theorem cleanL2_wf {s : State} (line : Nat) (hm : Memory.wf s.mem) : Memory.wf (s.cleanL2 line).mem := by
  rw [State.cleanL2, setCopies_mem]
  exact foldl_wf (fun s c hm => writeBack_wf c hm) _ hm

theorem cleanLine_wf {s : State} (key line : Nat) (hm : Memory.wf s.mem) : Memory.wf (s.cleanLine key line).mem := by
  unfold State.cleanLine
  grind [recall_wf, cleanL2_wf, flushCurd_wf, arriveAt_wf]

/-! ### Machine/Access -/

theorem acquiring_wf {s : State} (i : Iss) (f : MF) (accs : List Acc) {one : State → Acc → Done}
    (hf : ∀ t a, Memory.wf t.mem → Memory.wf (one t a).s.mem) (hm : Memory.wf s.mem) : Memory.wf (acquiring s i f accs one).s.mem := by
  have hd := performEach_wf accs hf hm
  unfold acquiring
  dsimp only
  split
  · exact acqFor_wf _ _ _ hd
  · exact hd

theorem performOk_wf {s : State} (i : Iss) (w : Instr) (r : Ret) (accs : List Acc) (hm : Memory.wf s.mem) :
    Memory.wf (s.performOk i w r accs).s.mem := by
  have lines : ∀ f : State → Nat → State, (∀ t l, Memory.wf t.mem → Memory.wf (f t l).mem) →
      Memory.wf ((rangeLines accs).foldl f s).mem := fun f hf => foldl_wf hf _ hm
  cases w
  case ld f => exact acquiring_wf _ _ _ (fun t a ht => loadLane_wf _ _ _ ht) hm
  case st f => exact storeAll_wf _ _ _ _ (relFor_wf _ _ hm)
  case lds f => exact acquiring_wf _ _ _ (fun t a ht => loadS_wf _ _ ht) hm
  case ldss f => exact acquiring_wf _ _ _ (fun t a ht => loadS_wf _ _ ht) hm
  case sts f => exact performEach_wf _ (fun t a ht => putS_wf _ _ _ ht) (relFor_wf _ _ hm)
  case stss f => exact performEach_wf _ (fun t a ht => putS_wf _ _ _ ht) (relFor_wf _ _ hm)
  case stn f => exact noteAll_wf _ _ _ (relFor_wf _ _ hm)
  case repark f => exact tagEach_wf _ (fun t a ht => reparkLane_wf _ _ _ _ ht) hm
  case locate f => exact foldl_wf (fun t a ht => locateLane_wf _ _ _ ht) accs hm
  case parkq f => exact performEach_wf _ (fun t a ht => parkqLane_wf _ _ _ ht) hm
  case rstld f => exact performEach_wf _ (fun t a ht => halves_wf _ _ fun _ _ => ht) hm
  case stfe f => exact foldl_wf (fun t a ht => stfeLane_wf _ _ ht) accs (releaseBy_wf _ _ hm)
  case feset f => exact foldl_wf (fun t a ht => by rw [setRun_mem]; exact ht) accs hm
  case tst f => exact tstAll_wf _ _ _ (relFor_wf _ _ hm)
  case retract f => exact performEach_wf _ (fun t a ht => retractLane_wf _ _ _ ht) hm
  case commit f => exact tagEach_wf _ (fun t a ht => commitLane_wf _ _ _ ht) hm
  case atom f => exact atomAll_wf _ _ _ _ hm
  case atomc f => exact atomAll_wf _ _ _ _ hm
  case atoms f => exact acquiring_wf _ _ _ (fun t a ht => atomsLane_wf _ _ _ ht) (relFor_wf _ _ hm)
  case red f => exact redAll_wf _ _ _ hm
  case fence f => exact acqFor_wf _ _ _ (relFor_wf _ _ hm)
  case clean f => exact lines _ fun t l ht => cleanLine_wf _ _ ht
  case inval f => exact lines _ fun t l ht => by rw [dropCopies_mem]; exact cleanLine_wf _ _ ht
  all_goals exact hm

theorem perform_wf {s : State} (i : Iss) (w : Instr) (r : Ret) (accs : List Acc) (hm : Memory.wf s.mem) :
    Memory.wf (s.perform i w r accs).s.mem := by
  simp only [State.perform]
  split <;> simp [hm, performOk_wf]

theorem runJob_wf {s : State} (j : Job) (hm : Memory.wf s.mem) : Memory.wf (s.runJob j).mem := by
  simp [State.runJob, hm, perform_wf]

theorem leave_wf {s : State} (i : Iss) (w : Instr) (dst : List Nat) (accs : List Acc) (hm : Memory.wf s.mem) :
    Memory.wf (s.leave i w dst accs).mem := by
  simp [State.leave, hm, runJob_wf]

theorem leaveG_wf (c : State × Checked) (i : Iss) (acc : Access) (w : Instr) (dst : List Nat) (hm : Memory.wf c.1.mem) :
    Memory.wf (State.leaveG c i acc w dst).mem := by
  simp [State.leaveG, hm, failures_wf, leave_wf]

theorem leaveS_wf {s : State} (c : List Acc × List (Nat × Nat × DWord)) (i : Iss) (w : Instr) (dst : List Nat)
    (hm : Memory.wf s.mem) : Memory.wf (s.leaveS c i w dst).mem := by
  simp [State.leaveS, hm, sFail_wf, leave_wf]

theorem Checked_with_wf (c : State × Checked) (f : Acc → Acc) (hm : Memory.wf c.1.mem) :
    Memory.wf (Checked.with c f).1.mem := by
  simp [Checked.with, hm]

theorem execLd_wf {s : State} (f : MF) (hm : Memory.wf s.mem) : AnswersWf (execLd f s) := by
  refine issue_wf _ _ _ _ hm fun t i ht => ?_
  simp [ht, leaveG_wf, checkGlobal_wf]

theorem execSt_wf {s : State} (f : MF) (hm : Memory.wf s.mem) : AnswersWf (execSt f s) :=
  issue_wf _ _ _ _ hm fun _ _ ht => leaveG_wf _ _ _ _ _ (Checked_with_wf _ _ (checkGlobal_wf _ _ _ _ _ ht))

theorem execLds_wf {s : State} (f : MF) (hm : Memory.wf s.mem) : AnswersWf (execLds f s) := by
  refine issue_wf _ _ _ _ hm fun t i ht => ?_
  simp [ht, leaveS_wf]

theorem execSts_wf {s : State} (f : MF) (hm : Memory.wf s.mem) : AnswersWf (execSts f s) := by
  refine issue_wf _ _ _ _ hm fun t i ht => ?_
  simp [ht, leaveS_wf]

theorem execLdss_wf {s : State} (f : MF) (hm : Memory.wf s.mem) : AnswersWf (execLdss f s) := by
  refine issue_wf _ _ _ _ hm fun t i ht => ?_
  simp [ht, leaveS_wf]

theorem execStss_wf {s : State} (f : MF) (hm : Memory.wf s.mem) : AnswersWf (execStss f s) := by
  refine issue_wf _ _ _ _ hm fun t i ht => ?_
  simp [ht, leaveS_wf]

theorem readerTraps_wf (c : State × Checked) (bad : Acc → Bool) (hm : Memory.wf c.1.mem) :
    Memory.wf (readerTraps c bad).1.mem := by
  simp [readerTraps, hm]

theorem execStn_wf {s : State} (f : MF) (hm : Memory.wf s.mem) : AnswersWf (execStn f s) :=
  issue_wf _ _ _ _ hm fun _ _ ht => leaveG_wf _ _ _ _ _ (readerTraps_wf _ _ (Checked_with_wf _ _ (checkGlobal_wf _ _ _ _ _ ht)))

theorem execRepark_wf {s : State} (f : MF) (hm : Memory.wf s.mem) : AnswersWf (execRepark f s) :=
  issue_wf _ _ _ _ hm fun _ _ ht => leaveG_wf _ _ _ _ _ (readerTraps_wf _ _ (Checked_with_wf _ _ (checkGlobal_wf _ _ _ _ _ ht)))

theorem execLocate_wf {s : State} (f : MF) (hm : Memory.wf s.mem) : AnswersWf (execLocate f s) := by
  refine issue_wf _ _ _ _ hm fun t i ht => ?_
  simp [ht, leaveG_wf, checkGlobal_wf]

theorem execParkq_wf {s : State} (f : MF) (hm : Memory.wf s.mem) : AnswersWf (execParkq f s) := by
  refine issue_wf _ _ _ _ hm fun t i ht => ?_
  simp [ht, leaveG_wf, checkGlobal_wf]

theorem execRstld_wf {s : State} (f : MF) (hm : Memory.wf s.mem) : AnswersWf (execRstld f s) := by
  refine issue_wf _ _ _ _ hm fun t i ht => ?_
  simp [ht, leaveS_wf]

theorem execPref_wf {s : State} (f : MF) (hm : Memory.wf s.mem) : AnswersWf (execPref f s) :=
  issue_wf _ _ _ _ hm fun _ _ ht => foldl_wf (fun _ _ ht => prefLane_wf _ _ _ ht) _ ht

theorem execFence_wf {s : State} (f : MF) (hm : Memory.wf s.mem) : AnswersWf (execFence f s) := by
  refine issue_wf _ _ _ _ hm fun t i ht => ?_
  simp [ht, leave_wf]

theorem execLdfe_wf {s : State} (f : MF) (hm : Memory.wf s.mem) : AnswersWf (execLdfe f s) := by
  unfold execLdfe
  split
  · simp [hm]
  · refine issue_wf _ _ _ _ hm fun t i ht => sFail_wf _ _ ?_
    rw [modGroup_mem, foldl_mem (fun s a => foldl_mem (by simp) _ _), foldl_mem (by simp)]
    split <;> simp [ht]

theorem execStfe_wf {s : State} (f : MF) (hm : Memory.wf s.mem) : AnswersWf (execStfe f s) := by
  refine issue_wf _ _ _ _ hm fun t i ht => ?_
  simp [ht, leaveS_wf]

theorem execFeset_wf {s : State} (f : MF) (hm : Memory.wf s.mem) : AnswersWf (execFeset f s) := by
  refine issue_wf _ _ _ _ hm fun t i ht => ?_
  simp [ht, leaveS_wf]

theorem execTst_wf {s : State} (f : MF) (hm : Memory.wf s.mem) : AnswersWf (execTst f s) :=
  issue_wf _ _ _ _ hm fun _ _ ht => leaveG_wf _ _ _ _ _ (Checked_with_wf _ _ (checkGlobal_wf _ _ _ _ _ ht))

theorem execRetract_wf {s : State} (f : MF) (hm : Memory.wf s.mem) : AnswersWf (execRetract f s) := by
  refine issue_wf _ _ _ _ hm fun t i ht => ?_
  simp [ht, leaveG_wf, checkGlobal_wf]

theorem execCommit_wf {s : State} (f : MF) (hm : Memory.wf s.mem) : AnswersWf (execCommit f s) := by
  refine issue_wf _ _ _ _ hm fun t i ht => ?_
  simp [ht, leaveG_wf, checkGlobal_wf]

theorem execAtom_wf {s : State} (f : MF) (hm : Memory.wf s.mem) : AnswersWf (execAtom f s) :=
  issue_wf _ _ _ _ hm fun _ _ ht => leaveG_wf _ _ _ _ _ (Checked_with_wf _ _ (checkGlobal_wf _ _ _ _ _ ht))

theorem execAtomc_wf {s : State} (f : MF) (hm : Memory.wf s.mem) : AnswersWf (execAtomc f s) := by
  unfold execAtomc
  exact issue_wf _ _ _ _ hm fun _ _ ht => leaveG_wf _ _ _ _ _ (Checked_with_wf _ _ (checkGlobal_wf _ _ _ _ _ ht))

theorem execAtoms_wf {s : State} (f : MF) (hm : Memory.wf s.mem) : AnswersWf (execAtoms f s) := by
  refine issue_wf _ _ _ _ hm fun t i ht => ?_
  simp [ht, leaveS_wf]

theorem execRed_wf {s : State} (f : MF) (hm : Memory.wf s.mem) : AnswersWf (execRed f s) := by
  unfold execRed
  exact issue_wf _ _ _ _ hm fun _ _ ht => leaveG_wf _ _ _ _ _ (Checked_with_wf _ _ (checkGlobal_wf _ _ _ _ _ ht))

/-! ### Machine/Issue -/

theorem wordTrap_wf {s : State} (cx : Cx) (cause : Nat) (info : DWord) (hm : Memory.wf s.mem) :
    Memory.wf (s.wordTrap cx cause info).state.mem := by
  simp [State.wordTrap, hm, trap_wf]

theorem fetchWord_wf {s : State} (cx : Cx) (hm : Memory.wf s.mem) : Memory.wf (s.fetchWord cx).1.mem
    ∧ ∀ t, (s.fetchWord cx).2 = .error t → Memory.wf t.state.mem := by
  have h1 := xlate_wf (s.laneWalker cx.gid) cx.pc .fetch hm
  unfold State.fetchWord
  split <;> rename_i he <;> rw [he] at h1
  · exact ⟨h1, fun t ht => by cases ht; exact wordTrap_wf _ _ _ h1⟩
  · exact ⟨h1, fun t ht => by cases ht; exact pageStop_wf _ _ _ _ _ _ h1⟩
  · split
    · exact ⟨h1, fun t ht => by cases ht; exact wordTrap_wf _ _ _ (by rw [logError_mem]; exact h1)⟩
    · exact ⟨h1, fun t ht => by cases ht⟩

theorem issueWord_wf {s : State} (cx : Cx) (hm : Memory.wf s.mem) : Memory.wf (s.issueWord cx).state.mem := by
  obtain ⟨h1, h2⟩ := fetchWord_wf cx hm
  unfold State.issueWord
  split <;> rename_i he <;> rw [he] at h1 h2
  · exact h2 _ rfl
  · dsimp only
    split
    · exact wordTrap_wf _ _ _ h1
    · exact wordTrap_wf _ _ _ h1
    · exact wordTrap_wf _ _ _ h1
    · split
      · exact wordTrap_wf _ _ _ h1
      · exact h1

theorem issueHeader_wf {s : State} (cx : Cx) (hm : Memory.wf s.mem) : Memory.wf (s.issueHeader cx).state.mem := by
  obtain ⟨h1, h2⟩ := fetchWord_wf cx hm
  unfold State.issueHeader
  split
  · exact wordTrap_wf _ _ _ hm
  · split <;> rename_i he <;> rw [he] at h1 h2
    · exact h2 _ rfl
    · split
      · exact wordTrap_wf _ _ _ h1
      · exact issueWord_wf _ (by rw [eachLane_mem (by simp)]; exact h1)

theorem issueAt_wf {s : State} (unit : Nat) (isB : Bool) (p : SlotPc) (hm : Memory.wf s.mem) :
    Memory.wf (s.issueAt unit isB p).state.mem := by
  unfold State.issueAt
  split <;> simp [hm, issueHeader_wf, issueWord_wf]

theorem runItems_wf (items : List CycleItem) {s : State} (hm : Memory.wf s.mem) : Memory.wf (State.runItems items s).state.mem := by
  induction items with
  | nil => exact hm
  | cons x rest ih =>
    cases x with
    | held a => exact hm
    | slot unit isB =>
      unfold State.runItems
      split
      · exact ih
      · exact issueAt_wf _ _ _ hm

theorem newClock_wf {s : State} (hm : Memory.wf s.mem) : Memory.wf (s.newClock).state.mem := by
  simp [State.newClock, hm, completeDue_wf, runItems_wf]

theorem takeEvent_wf {s : State} (n : Nat) (hm : Memory.wf s.mem) : Memory.wf (s.takeEvent n).state.mem := by
  unfold State.takeEvent
  split <;> simp [hm]

theorem takeJob_wf {s : State} (n : Nat) (hm : Memory.wf s.mem) : Memory.wf (s.takeJob n).state.mem := by
  unfold State.takeJob
  split <;> simp [hm, fqDrain_wf, runJob_wf]

theorem turn_wf {s : State} (hm : Memory.wf s.mem) : Memory.wf s.turn.state.mem := by
  unfold State.turn
  dsimp only
  split
  · exact runItems_wf _ hm
  · split
    · exact takeEvent_wf _ hm
    · split
      · exact takeJob_wf _ hm
      · exact newClock_wf hm

/-! ### Machine/Stages -/

theorem stageWake_wf {s : State} (lid span slot : Nat) (hm : Memory.wf s.mem) : Memory.wf (s.stageWake lid span slot).mem :=
  foldl_wf (fun s w hm => by
    split
    · dsimp only
      split
      · exact acquireBy_wf _ _ _ (by rw [wake_mem]; exact hm)
      · exact hm
    · exact hm) _ hm

theorem endIter_wf {s : State} (gid : Nat) (hm : Memory.wf s.mem) : Memory.wf (s.endIter gid).mem := by
  simp only [State.endIter]
  (repeat' split) <;> simp [hm, releaseBy_wf, stageWake_wf]

theorem quitLoop_wf {s : State} (gid : Nat) (hm : Memory.wf s.mem) : Memory.wf (s.quitLoop gid).mem := by
  unfold State.quitLoop
  split <;> simp [hm, endIter_wf]

theorem execStloop_wf {s : State} (f : EF) (hm : Memory.wf s.mem) : AnswersWf (execStloop f s) := by
  refine issue_wf _ _ _ _ hm fun t i ht => ?_
  simp [ht, trapAll_wf]

theorem issueAfterHeld_wf {s : State} (c : Ctl) (ctr : Option Ctr) (names : List Nat) (writes : Nat) {body : State → Iss → State}
    (hm : Memory.wf s.mem) (hb : ∀ t i, Memory.wf t.mem → Memory.wf (body t i).mem) :
    AnswersWf (issueAfterHeld s c ctr names writes body) := by
  unfold issueAfterHeld
  split
  · simp
  · split
    · simp [hm]
    · exact issue_wf _ _ _ _ hm hb

theorem execStend_wf {s : State} (f : EF) (hm : Memory.wf s.mem) : AnswersWf (execStend f s) := by
  refine issueAfterHeld_wf _ _ _ _ hm fun t i ht => ?_
  dsimp only
  (repeat' split) <;> simp [ht, trapAll_wf, endIter_wf]

theorem execIterationHandout_wf {s : State} (r : WaitRef) (hm : Memory.wf s.mem) : AnswersWf (execIterationHandout r s) := by
  unfold execIterationHandout
  split
  · simp [hm]
  · split
    · split
      · simp [hm]
      · split
        · next he => simp [handOut_mem _ _ _ _ he, hm]
        · simp [hm]
    · simp [hm]

theorem execStage_wf {s : State} (f : EF) (hm : Memory.wf s.mem) : AnswersWf (execStage f s) := by
  unfold execStage
  grind [issue_wf, trapAll_wf, modGroup_mem, send_mem]

theorem raiseCount_wf {s : State} (u : StageUpdate) (hm : Memory.wf s.mem) : Memory.wf (s.raiseCount u).mem := by
  simp only [State.raiseCount]
  split <;> simp [hm, stageWake_wf]

theorem execStageUpdateVisible_wf {s : State} (u : StageUpdate) (hm : Memory.wf s.mem) :
    AnswersWf (execStageUpdateVisible u s) := by
  unfold execStageUpdateVisible
  split <;> simp [hm, raiseCount_wf, releaseBy_wf]

theorem execWaitl_wf {s : State} (f : EF) (hm : Memory.wf s.mem) : AnswersWf (execWaitl f s) := by
  unfold execWaitl
  grind [issue_wf, trapAll_wf, acquireBy_wf, resumed_mem, park_mem, send_mem]

theorem execStageWaitTimeOut_wf {s : State} (r : WaitRef) (hm : Memory.wf s.mem) : AnswersWf (execStageWaitTimeOut r s) := by
  simp only [execStageWaitTimeOut]
  (repeat' split) <;> simp [hm, post_wf, timeOut_wf]

/-! ### Machine/Waits -/

theorem placeConds_wf {s : State} (i : Iss) (cs : List Cond) (hm : Memory.wf s.mem) : Memory.wf (s.placeConds i cs).1.mem := by
  induction cs generalizing s with
  | nil => exact hm
  | cons c cs ih =>
    unfold State.placeConds
    split
    · split
      · exact trap_wf _ _ _ hm
      · have h1 := checkOne_wf i .read c.word1 hm
        split <;> rename_i he <;> rw [he] at h1
        · exact h1
        · have h2 := ih h1
          split <;> rename_i he <;> rw [he] at h2 <;> exact h2
    · split
      · exact trap_wf _ _ _ hm
      · have h2 := ih hm
        split <;> rename_i he <;> rw [he] at h2 <;> exact h2

theorem waitAcquire_wf {s : State} (gid : Nat) (lanes : LaneMask) (conds : List Cond) (scope : Scope)
    (hm : Memory.wf s.mem) : Memory.wf (s.waitAcquire gid lanes conds scope).mem := by
  simp [State.waitAcquire, hm, barAcquire_wf, acquireBy_wf]

theorem recallWords_wf {s : State} (conds : List Cond) (hm : Memory.wf s.mem) : Memory.wf (s.recallWords conds).mem :=
  foldl_wf (fun s c hm => by
    split
    · exact recall_wf _ hm
    · exact hm) conds hm

theorem execWaitc_wf {s : State} (f : EF) (hm : Memory.wf s.mem) : AnswersWf (execWaitc f s) := by
  refine issue_wf _ _ _ _ hm fun t i ht => ?_
  dsimp only
  grind [trapAll_wf, placeConds_wf, send_mem, park_mem, recallWords_wf, satMask_mem, giveAll_mem, waitAcquire_wf,
    armWait_mem]

theorem leaveWaitc_wf {s : State} (w : Wait) (conds : List Cond) (reg : Nat) (scope : Scope) (status : Nat)
    (hm : Memory.wf s.mem) : Memory.wf (s.leaveWaitc w conds reg scope status).mem := by
  simp [State.leaveWaitc, hm, waitAcquire_wf]

theorem failWaitc_wf {s : State} (w : Wait) (a : DWord) (hm : Memory.wf s.mem) : Memory.wf (s.failWaitc w a).mem := by
  simp [State.failWaitc, hm, trap_wf]

theorem reviewWaitc_wf {s0 : State} (r : WaitRef) (expired : Bool) (again : Instr) (hms0 : Memory.wf s0.mem) :
    Memory.wf (s0.reviewWaitc r expired again).mem := by
  unfold State.reviewWaitc
  grind [send_mem, recallWords_wf, satMask_mem, failWaitc_wf, leaveWaitc_wf, armWait_mem, rejoin_mem]

theorem execWatcherReport_wf {s : State} (r : WaitRef) (hm : Memory.wf s.mem) : AnswersWf (execWatcherReport r s) := by
  simp [execWatcherReport, hm, reviewWaitc_wf]

theorem execMonitorPoll_wf {s : State} (r : WaitRef) (hm : Memory.wf s.mem) : AnswersWf (execMonitorPoll r s) := by
  unfold execMonitorPoll
  split <;> simp [hm, reviewWaitc_wf]

theorem execWaitcTimeOut_wf {s : State} (r : WaitRef) (hm : Memory.wf s.mem) : AnswersWf (execWaitcTimeOut r s) := by
  unfold execWaitcTimeOut
  split <;> simp [hm, reviewWaitc_wf]

theorem maintain_wf {s : State} (i : Iss) (f : EF) (w : Instr) (hm : Memory.wf s.mem) : Memory.wf (s.maintain i f w).mem := by
  unfold State.maintain
  grind [leave_wf, checkRange_wf]

theorem execClean_wf {s : State} (f : EF) (hm : Memory.wf s.mem) : AnswersWf (execClean f s) := by
  refine issue_wf _ _ _ _ hm fun t i ht => ?_
  simp [ht, maintain_wf]

theorem execInval_wf {s : State} (f : EF) (hm : Memory.wf s.mem) : AnswersWf (execInval f s) := by
  refine issue_wf _ _ _ _ hm fun t i ht => ?_
  simp [ht, maintain_wf]

/-! ### Machine/BankVec -/

theorem mvecCheck_wf {s : State} (i : Iss) (f : EF) (hm : Memory.wf s.mem) : Memory.wf (s.mvecCheck i f).1.mem := by
  unfold State.mvecCheck
  dsimp only
  split
  · exact hm
  · split
    · exact trapAll_wf _ _ _ hm
    · split
      · exact checkRange_wf _ _ _ _ hm
      · refine foldl_fst_wf (fun r a hr => ?_) _ (checkRange_wf _ _ _ _ hm)
        split
        · exact hr
        · split <;> rename_i he <;> exact wf_of_eq_fst he (checkRange_wf _ _ _ _ hr)

theorem execMvec_wf {s : State} (f : EF) (hm : Memory.wf s.mem) : AnswersWf (execMvec f s) := by
  unfold execMvec
  split
  · simp
  · dsimp only
    split
    · simp [hm]
    · exact issue_wf _ _ _ _ hm fun t i ht => by
        split <;> rename_i he
        · exact wf_of_eq_fst he (mvecCheck_wf _ _ ht)
        · rw [mvecGo_mem]; exact wf_of_eq_fst he (mvecCheck_wf _ _ ht)

theorem mvWake_wf {s : State} (gid : Nat) (hm : Memory.wf s.mem) : Memory.wf (s.mvWake gid).mem :=
  foldl_wf (fun s w hm => by
    split
    · split
      · split
        · rw [giveV_mem]; exact acquireBy_wf _ _ _ (by rw [wake_mem]; exact hm)
        · exact hm
      · exact hm
    · exact hm) _ hm

theorem execMvwait_wf {s : State} (f : EF) (hm : Memory.wf s.mem) : AnswersWf (execMvwait f s) := by
  refine issue_wf _ _ _ _ hm fun t i ht => ?_
  dsimp only
  split <;> simp [ht, acquireBy_wf]

/-! ### Machine/Tensor -/

theorem execTidld_wf {s : State} (f : EF) (hm : Memory.wf s.mem) : AnswersWf (execTidld f s) := by
  refine issue_wf _ _ _ _ hm fun t i ht => ?_
  dsimp only
  grind [trap_wf, checkOne_wf, engineRead_wf, later_mem, whenDone_mem]

theorem execTidinv_wf {s : State} (f : EF) (hm : Memory.wf s.mem) : AnswersWf (execTidinv f s) := by
  simp [execTidinv, hm, issue_wf]

/-! ### Machine/Matrix -/

theorem execAccrel_wf {s : State} (f : EF) (hm : Memory.wf s.mem) : AnswersWf (execAccrel f s) := by
  simp [execAccrel, hm, issue_wf]

theorem execMatrixOpStart_wf {s : State} (op : Nat) (hm : Memory.wf s.mem) : AnswersWf (execMatrixOpStart op s) := by
  unfold execMatrixOpStart
  (repeat' split) <;> simp [hm]

theorem mwaitWake_wf {s : State} (hm : Memory.wf s.mem) : Memory.wf s.mwaitWake.mem :=
  foldl_wf (fun s w hm => by
    have hw : Memory.wf (s.wake w).mem := by rw [wake_mem]; exact hm
    split
    · split
      · exact hm
      · split
        · exact acquireBy_wf _ _ _ hw
        · exact hw
    · exact hm) _ hm

theorem mwaitLane_wf {s : State} (i : Iss) (f : EF) (lane : Nat) (hm : Memory.wf s.mem) :
    Memory.wf (s.mwaitLane i f lane).mem := by
  simp [State.mwaitLane, hm, acquireBy_wf]

theorem execMwait_wf {s : State} (f : EF) (hm : Memory.wf s.mem) : AnswersWf (execMwait f s) :=
  issue_wf _ _ _ _ hm fun _ i ht => eachLane_wf (fun _ _ ht => mwaitLane_wf _ _ _ ht) i.lanes ht

theorem execMatrixSignTimeOut_wf {s : State} (r : WaitRef) (hm : Memory.wf s.mem) :
    AnswersWf (execMatrixSignTimeOut r s) := by
  simp only [execMatrixSignTimeOut]
  (repeat' split) <;> simp [hm, post_wf, timeOut_wf]

theorem sign_wf {s : State} (gid lane : Nat) (f : EF) (hm : Memory.wf s.mem) : Memory.wf (s.sign gid lane f).mem := by
  simp only [State.sign]
  split <;> simp [hm, checkPhase_wf]

theorem signAll_wf {s : State} (gid : Nat) (f : EF) (lanes : List Nat) (hm : Memory.wf s.mem) : Memory.wf (s.signAll gid f lanes).1.mem :=
  foldl_fst_wf (fun x l hx => by
    split
    · exact hx
    · exact sign_wf _ _ _ hx) lanes hm

theorem execMma_wf {s : State} (f : EF) (hm : Memory.wf s.mem) : AnswersWf (execMma f s) := by
  unfold execMma
  split
  · simp
  · split
    · simp [hm]
    · exact issue_wf _ _ _ _ hm fun t i ht => trapEach_wf _ _ _ (signAll_wf _ _ _ ht)

theorem accWrite_wf {s : State} (i : Iss) (f : EF) (kind : MatKind) (hm : Memory.wf s.mem) :
    Memory.wf (s.accWrite i f kind).mem := by
  simp only [State.accWrite]
  split <;> simp [hm, trapAll_wf]

theorem execAccz_wf {s : State} (f : EF) (hm : Memory.wf s.mem) : AnswersWf (execAccz f s) := by
  refine issue_wf _ _ _ _ hm fun t i ht => ?_
  simp [ht, accWrite_wf]

theorem execAccld_wf {s : State} (f : EF) (hm : Memory.wf s.mem) : AnswersWf (execAccld f s) := by
  refine issue_wf _ _ _ _ hm fun t i ht => ?_
  simp [ht, accWrite_wf]

theorem execAccmv_wf {s : State} (f : EF) (hm : Memory.wf s.mem) : AnswersWf (execAccmv f s) := by
  unfold execAccmv
  grind [issue_wf, trapAll_wf, startOp_mem]

theorem tilePages_wf {s : State} (i : Iss) (w : Nat) (starts : List Nat) (hm : Memory.wf s.mem) : Memory.wf (s.tilePages i w starts).1.mem :=
  foldl_fst_wf (fun r g hr => by
    split
    · exact hr
    · dsimp only
      split <;> rename_i he <;> exact wf_of_eq_fst he (checkOne_wf _ _ _ hr)) _ hm

theorem execAccst_wf {s : State} (f : EF) (hm : Memory.wf s.mem) : AnswersWf (execAccst f s) := by
  unfold execAccst
  refine issue_wf _ _ _ _ hm fun t i ht => ?_
  dsimp only
  have hp := fun w l => tilePages_wf i w l ht
  split
  · exact trapAll_wf _ _ _ ht
  · split
    · exact trapAll_wf _ _ _ ht
    · split
      · exact trapAll_wf _ _ _ ht
      · split
        · exact trapAll_wf _ _ _ ht
        · split
          · split
            · exact trapAll_wf _ _ _ ht
            · rw [startOp_mem]; exact ht
          · split <;> rename_i he
            · exact wf_of_eq_fst he (hp _ _)
            · rw [startOp_mem]; exact wf_of_eq_fst he (hp _ _)

theorem execMmq_wf {s : State} (f : EF) (hm : Memory.wf s.mem) : AnswersWf (execMmq f s) := by
  unfold execMmq
  split
  · simp
  · split
    · simp [hm]
    · exact issue_wf _ _ _ _ hm fun t i ht => by
        split
        · exact trapAll_wf _ _ _ ht
        · dsimp only
          rw [startOp_mem]; exact ht

theorem execOpfence_wf {s : State} (f : EF) (hm : Memory.wf s.mem) : AnswersWf (execOpfence f s) := by
  unfold execOpfence
  split
  · simp
  · split
    · simp [hm]
    · exact issue_wf _ _ _ _ hm fun t i ht => by rw [eachLane_mem (by simp)]; exact ht

theorem execOperandFetchEnd_wf {s : State} (op : Nat) (hm : Memory.wf s.mem) : AnswersWf (execOperandFetchEnd op s) := by
  unfold execOperandFetchEnd
  (repeat' split) <;> simp [hm, mwaitWake_wf]

theorem execMatrixOpComplete_wf {s : State} (op : Nat) (hm : Memory.wf s.mem) : AnswersWf (execMatrixOpComplete op s) := by
  unfold execMatrixOpComplete
  (repeat' split) <;> simp [hm, mwaitWake_wf]

/-! ### Machine/Copy -/

theorem issueCopy_wf {s : State} (c : Ctl) (k : Nat) (names : List Nat) {body : State → Iss → State}
    (hm : Memory.wf s.mem) (hb : ∀ t i, Memory.wf t.mem → Memory.wf (body t i).mem) : AnswersWf (issueCopy s c k names body) := by
  unfold issueCopy
  split
  · simp
  · split
    · simp [hm]
    · exact issue_wf _ _ _ _ hm hb

theorem copyPlaces_wf {s : State} (i : Iss) (acc : Access) (addrs : List Nat) (hm : Memory.wf s.mem) :
    Memory.wf (s.copyPlaces i acc addrs).1.mem :=
  foldl_fst_wf (fun r g hr => by
    split
    · exact hr
    · dsimp only
      have hx := fun a => xlate_wf (r.1.laneWalker i.gid) a acc hr
      split <;> rename_i he
      · exact wf_of_eq_fst he (hx _)
      · exact wf_of_eq_fst he (hx _)
      · exact trap_wf _ _ _ (wf_of_eq_fst he (hx _))
      · exact pageStop_wf _ _ _ _ _ _ (wf_of_eq_fst he (hx _))) _ hm

theorem execCpy_wf {s : State} (f : EF) (hm : Memory.wf s.mem) : AnswersWf (execCpy f s) := by
  refine issueCopy_wf _ _ _ hm fun t i ht => ?_
  dsimp only
  grind [trapAll_wf, copyPlaces_wf, queueCopy_mem]

theorem byLane_wf {s : State} (i : Iss) (f : EF) (acc : Access) (kind : CopyKind) (hm : Memory.wf s.mem) :
    Memory.wf (s.byLane i f acc kind).mem := by
  unfold State.byLane
  grind [trapAll_wf, copyPlaces_wf, queueCopy_mem]

theorem execCpyg_wf {s : State} (f : EF) (hm : Memory.wf s.mem) : AnswersWf (execCpyg f s) := by
  refine issueCopy_wf _ _ _ hm fun t i ht => ?_
  simp [ht, byLane_wf]

theorem execCpys_wf {s : State} (f : EF) (hm : Memory.wf s.mem) : AnswersWf (execCpys f s) := by
  refine issueCopy_wf _ _ _ hm fun t i ht => ?_
  simp [ht, byLane_wf]

theorem execCpydec_wf {s : State} (f : EF) (hm : Memory.wf s.mem) : AnswersWf (execCpydec f s) := by
  unfold execCpydec
  grind [issueCopy_wf, trap_wf, trapAll_wf, copyPlaces_wf, queueCopy_mem]

theorem movePiece_wf {s : State} (c : CopyCmd) (p : Piece) (hm : Memory.wf s.mem) : Memory.wf (s.movePiece c p).mem := by
  unfold State.movePiece
  grind [modCopy_mem, fillDone_mem, landBytes_mem, engineRead_wf, send_mem]

theorem execCopyLineArrival_wf {s : State} (cmd piece : Nat) (hm : Memory.wf s.mem) :
    AnswersWf (execCopyLineArrival cmd piece s) := by
  unfold execCopyLineArrival
  (repeat' split) <;> simp [hm, movePiece_wf]

theorem cpyWake_wf {s : State} (b : BlockRef) (hm : Memory.wf s.mem) : Memory.wf (s.cpyWake b).mem :=
  foldl_wf (fun s w hm => by
    split
    · dsimp only
      split
      · rw [giveV_mem]; exact acquireBy_wf _ _ _ (by rw [wake_mem]; split <;> simp [hm])
      · exact hm
    · exact hm) _ hm

theorem execCopyCommandComplete_wf {s : State} (cmd : Nat) (hm : Memory.wf s.mem) :
    AnswersWf (execCopyCommandComplete cmd s) := by
  simp only [execCopyCommandComplete]
  (repeat' split) <;> simp [hm, cpyWake_wf]

theorem execCpywait_wf {s : State} (f : EF) (hm : Memory.wf s.mem) : AnswersWf (execCpywait f s) := by
  refine issue_wf _ _ _ _ hm fun t i ht => ?_
  simp [ht, acquireBy_wf]

theorem execStrmb_wf {s : State} (f : EF) (hm : Memory.wf s.mem) : AnswersWf (execStrmb f s) := by
  refine issue_wf _ _ _ _ hm fun t i ht => ?_
  dsimp only
  (repeat' split) <;> simp [ht, trapAll_wf]

theorem execStrmu_wf {s : State} (f : EF) (hm : Memory.wf s.mem) : AnswersWf (execStrmu f s) := by
  refine issue_wf _ _ _ _ hm fun t i ht => ?_
  simp [ht]

theorem execStrmq_wf {s : State} (f : EF) (hm : Memory.wf s.mem) : AnswersWf (execStrmq f s) := by
  refine issue_wf _ _ _ _ hm fun t i ht => ?_
  dsimp only
  split <;> simp [ht, trapAll_wf]

theorem execStreamPopResume_wf {s : State} (r : WaitRef) (hm : Memory.wf s.mem) : AnswersWf (execStreamPopResume r s) := by
  simp only [execStreamPopResume]
  (repeat' split) <;> simp [hm, laneGo_wf, trapAll_wf]

theorem execStreamPushResume_wf {s : State} (r : WaitRef) (hm : Memory.wf s.mem) : AnswersWf (execStreamPushResume r s) := by
  unfold execStreamPushResume
  (repeat' split) <;> simp [hm, trapAll_wf]

/-! ### Machine/Fabric -/

theorem colWake_wf {s : State} (die : Nat) (hm : Memory.wf s.mem) : Memory.wf (s.colWake die).mem :=
  foldl_wf (fun s w hm => by
    split
    · split
      · split
        · rw [giveV_mem]; exact acquireBy_wf _ _ _ (by rw [wake_mem]; exact hm)
        · exact hm
      · exact hm
    · exact hm) _ hm

theorem checkRun_wf {s : State} (die slot : Nat) (hm : Memory.wf s.mem) : Memory.wf (s.checkRun die slot).mem := by
  simp only [State.checkRun]
  split <;> simp [hm, colWake_wf]

theorem failNode_wf {s : State} (n : NodeRef) (c mk : Nat) (hm : Memory.wf s.mem) : Memory.wf (s.failNode n c mk).mem := by
  simp [State.failNode, hm, checkRun_wf]

theorem abortNode_wf {s : State} (n : NodeRef) (hm : Memory.wf s.mem) : Memory.wf (s.abortNode n).mem := by
  simp [State.abortNode, hm, failNode_wf]

theorem nodeDone_wf {s : State} (n : NodeRef) (hm : Memory.wf s.mem) : Memory.wf (s.nodeDone n).mem := by
  unfold State.nodeDone
  dsimp only
  split
  · exact hm
  · exact checkRun_wf _ _ (by rw [foldl_mem (by simp), setGraph_mem]; exact hm)

theorem engineStore_wf {s : State} (ag : Agent) (bytes : List (Nat × Byte × PageKind)) (hm : Memory.wf s.mem) :
    Memory.wf (s.engineStore ag bytes).mem := foldl_wf (fun _ _ hm => engineWrite_wf _ _ _ _ hm) _ hm

theorem partGet_wf {s : State} (t : Transfer) (hm : Memory.wf s.mem) : Memory.wf (s.partGet t).mem := by
  simp [State.partGet, hm, engineStore_wf]

theorem abortPort_wf {s : State} (p : Nat) (hm : Memory.wf s.mem) : Memory.wf (s.abortPort p).mem :=
  foldl_wf (fun s n hm => abortNode_wf n hm) _ (foldl_wf (fun s t hm => by
    rw [endTransfer_mem]; exact partGet_wf t (by rw [count_mem]; exact hm)) _ hm)

theorem leaveUp_wf {s : State} (p st : Nat) (hm : Memory.wf s.mem) : Memory.wf (s.leaveUp p st).mem := by
  simp [State.leaveUp, hm, abortPort_wf]

theorem closeWindow_wf {s : State} (w : Window) (st : Nat) (hm : Memory.wf s.mem) : Memory.wf (s.closeWindow w st).mem := by
  unfold State.closeWindow
  rw [foldl_mem (by simp)]
  exact releaseBy_wf w.gid w.lanes (s := s.setCsr _ _) hm

theorem afterDrain_wf {s : State} (w : Window) (hm : Memory.wf s.mem) : Memory.wf (s.afterDrain w).mem := by
  unfold State.afterDrain
  split
  · exact closeWindow_wf _ _ hm
  · rw [send_mem, modWindow_mem]
    exact foldl_wf (fun s p hm => leaveUp_wf p lnkDown hm) _ hm

theorem pumpDrain_wf {s : State} (id : Nat) (hm : Memory.wf s.mem) : Memory.wf (s.pumpDrain id).mem := by
  unfold State.pumpDrain
  split <;> simp [hm, afterDrain_wf]

theorem pumpClose_wf {s : State} (id : Nat) (hm : Memory.wf s.mem) : Memory.wf (s.pumpClose id).mem := by
  unfold State.pumpClose
  (repeat' split) <;> simp [hm, closeWindow_wf]

theorem pumpOne_wf {s : State} (id : Nat) (hm : Memory.wf s.mem) : Memory.wf (s.pumpOne id).mem := by
  simp [State.pumpOne, hm, pumpClose_wf, pumpDrain_wf]

theorem pumpWindows_wf {s : State} (hm : Memory.wf s.mem) : Memory.wf s.pumpWindows.mem :=
  foldl_wf (fun _ id hm => pumpOne_wf id hm) _ hm

theorem portOff_wf {s : State} (p d : Nat) (hm : Memory.wf s.mem) : Memory.wf (s.portOff p d).mem := by
  unfold State.portOff
  grind [leaveUp_wf, abortPort_wf, pumpWindows_wf, setCsr_mem]

/-! ### Machine/Collective -/

theorem issueCol_wf {s : State} (c : Ctl) (ctr : Option Ctr) (names : List Nat) (writes : Nat) {body : State → Iss → Nat → State}
    (hm : Memory.wf s.mem) (hb : ∀ t i d, Memory.wf t.mem → Memory.wf (body t i d).mem) :
    AnswersWf (issueCol s c ctr names writes body) :=
  issue_wf _ _ _ _ hm fun t i ht => by
    dsimp only
    split
    · exact hb _ _ _ ht
    · exact trapAll_wf _ _ _ ht

theorem staleTrap_wf {s : State} (i : Iss) (d : Nat) (g : Word) (hm : Memory.wf s.mem) :
    Memory.wf (s.staleTrap i d g).mem := by
  simp [State.staleTrap, hm, trap_wf]

theorem engineBytes_wf {s : State} (pages : List (Nat × Nat × PageKind)) (va n : Nat) (hm : Memory.wf s.mem) :
    Memory.wf (s.engineBytes pages va n).1.mem := by
  unfold State.engineBytes
  extract_lets place lines part r
  have hr : Memory.wf r.1.mem := foldl_fst_wf (fun r x hr => by
    split <;> rename_i he <;> exact wf_of_eq_fst he (engineRead_wf _ _ _ _ hr)) lines hm
  clear_value r
  split
  · exact hr
  · exact hr

theorem execColload_wf {s : State} (f : EF) (hm : Memory.wf s.mem) : AnswersWf (execColload f s) := by
  refine issueCol_wf _ _ _ _ hm fun t i d ht => ?_
  dsimp only
  grind [trapAll_wf, checkRange_wf, mcResult_mem, setGraph_mem, engineBytes_wf]

theorem execColrun_wf {s : State} (f : EF) (hm : Memory.wf s.mem) : AnswersWf (execColrun f s) := by
  refine issueCol_wf _ _ _ _ hm fun t i d ht => ?_
  dsimp only
  (repeat' split) <;> simp [ht, releaseBy_wf, trapAll_wf, staleTrap_wf]

theorem execColwait_wf {s : State} (f : EF) (hm : Memory.wf s.mem) : AnswersWf (execColwait f s) := by
  refine issueCol_wf _ _ _ _ hm fun t i d ht => ?_
  dsimp only
  split <;> simp [ht, acquireBy_wf]

theorem execColq_wf {s : State} (f : EF) (hm : Memory.wf s.mem) : AnswersWf (execColq f s) := by
  refine issueCol_wf _ _ _ _ hm fun t i d ht => ?_
  simp [ht, trapAll_wf]

theorem remoteOp_wf {s : State} (f : EF) (put : Bool) (hm : Memory.wf s.mem) : AnswersWf (remoteOp f put s) := by
  unfold remoteOp
  refine issueCol_wf _ _ _ _ hm fun t i die ht => ?_
  extract_lets s x len va rem stop port dom
  have hs : Memory.wf s.mem := releaseBy_wf _ _ ht
  clear_value s
  have trapped : ∀ c n, Memory.wf (s.trapAll i c n).mem := fun c n => trapAll_wf _ _ _ hs
  split
  · exact trapped _ _
  · split
    · rw [mcResult_mem]; exact hs
    · split
      · exact trapped _ _
      · split
        · exact trapped _ _
        · split
          · exact trapped _ _
          · split
            · exact trapped _ _
            · split
              · exact staleTrap_wf _ _ _ hs
              · split <;> rename_i he
                · exact wf_of_eq_fst he (checkRangeBy_wf _ _ _ _ _ hs)
                · rename_i s1 pages
                  have h1 : Memory.wf s1.mem := wf_of_eq_fst he (checkRangeBy_wf _ _ _ _ _ hs)
                  dsimp only
                  split
                  · simp [h1]
                  · split
                    · split <;> rename_i he2
                      · rw [mcResult_mem]; exact wf_of_eq_fst he2 (engineBytes_wf _ _ _ h1)
                      · have h2 := wf_of_eq_fst he2 (engineBytes_wf _ _ _ h1)
                        rw [sendRequestOut_mem]; exact h2
                    · rw [sendRequestOut_mem]; exact h1

theorem remoteAnswered_wf {s : State} (d : RemoteDone) (hm : Memory.wf s.mem) : Memory.wf (s.remoteAnswered d).mem := by
  unfold State.remoteAnswered
  split <;> simp [hm, engineStore_wf, pumpWindows_wf]

theorem execRemoteTransferComplete_wf {s : State} (d : RemoteDone) (hm : Memory.wf s.mem) :
    AnswersWf (execRemoteTransferComplete d s) := by
  simp [execRemoteTransferComplete, hm, remoteAnswered_wf]

theorem serveOne_wf {s : State} (x : Inbound) (hm : Memory.wf s.mem) : Memory.wf (s.serveOne x).mem := by
  unfold State.serveOne
  grind [sendAnswerOut_mem, xlateRange_wf, engineStop_mem, engineStore_wf, engineBytes_wf]

theorem serveInbox_wf (fuel : Nat) {s : State} (hm : Memory.wf s.mem) : Memory.wf (State.serveInbox fuel s).mem := by
  induction fuel generalizing s with
  | zero => exact hm
  | succ fuel ih =>
    unfold State.serveInbox
    split
    · exact hm
    · exact ih (serveOne_wf _ hm)

theorem servePorts_wf {s : State} (hm : Memory.wf s.mem) : Memory.wf (s.servePorts).mem := by
  simp [State.servePorts, hm, serveInbox_wf]

theorem delivered_wf {s : State} (port : Nat) (i : Instr) (hm : Memory.wf s.mem) : Memory.wf (s.delivered port i).mem := by
  simp [State.delivered, hm, servePorts_wf]

theorem execChunkArrival_wf {s : State} (port : Nat) (c : Chunk) (hm : Memory.wf s.mem) :
    AnswersWf (execChunkArrival port c s) := by
  simp [execChunkArrival, hm, delivered_wf]

theorem execRemoteRequest_wf {s : State} (r : RemoteReq) (hm : Memory.wf s.mem) : AnswersWf (execRemoteRequest r s) := by
  simp [execRemoteRequest, hm, delivered_wf]

/-- The windows and then the ports go on after an event of the fabric. -/
theorem servePumped_wf {s : State} (hm : Memory.wf s.mem) : Memory.wf s.pumpWindows.servePorts.mem :=
  servePorts_wf (pumpWindows_wf hm)

theorem execNodeStart_wf {s : State} (n : NodeRef) (hm : Memory.wf s.mem) : AnswersWf (execNodeStart n s) := by
  unfold execNodeStart
  dsimp only
  split
  · simp [hm]
  · split
    · simp [hm]
    · split
      · simp [hm]
      · split
        · exact (answersWf_next _).2 (servePumped_wf (failNode_wf _ _ _ hm))
        · split
          · exact (answersWf_next _).2 (servePumped_wf (failNode_wf _ _ _ hm))
          · simp [hm]

theorem nodePages_wf {s : State} (n : NodeRef) (r : Run) (acc : Access) (addrs : List Nat) (hm : Memory.wf s.mem) :
    Memory.wf (s.nodePages n r acc addrs).state.mem := by
  refine List.foldlRecOn (motive := fun o : Found => Memory.wf o.state.mem) _ _ hm fun o ho g _ => ?_
  cases o with
  | fail s => exact ho
  | hold s => exact ho
  | ok s l =>
    have hx := fun w a => xlate_wf w a acc (s := s) ho
    dsimp only
    split <;> rename_i he
    · have h1 := wf_of_eq_fst he (hx _ _)
      split <;> exact h1
    · exact wf_of_eq_fst he (hx _ _)
    · rw [Found.state_hold, engineStop_mem]; exact wf_of_eq_fst he (hx _ _)

theorem andThen_wf {o : Found} {fail : State → State} {k : State → List (Nat × Nat × PageKind) → State} (ho : Memory.wf o.state.mem)
    (hf : ∀ t, Memory.wf t.mem → Memory.wf (fail t).mem) (hk : ∀ t l, Memory.wf t.mem → Memory.wf (k t l).mem) :
    Memory.wf (o.andThen fail k).mem := by
  cases o with
  | ok s l => exact hk _ _ ho
  | fail s => exact hf _ ho
  | hold s => exact ho

theorem sendChunk_wf {s : State} (n : NodeRef) (nd : Node) (g : GraphSlot) (r : Run) (payload : List Byte)
    (hm : Memory.wf s.mem) : Memory.wf (s.sendChunk n nd g r payload).mem := by
  simp [State.sendChunk, hm, abortNode_wf]

theorem nodeWrite_wf {s : State} (n : NodeRef) (pages : List (Nat × Nat × PageKind)) (bytes : List (Nat × Byte))
    (hm : Memory.wf s.mem) : Memory.wf (s.nodeWrite n pages bytes).mem := by
  simp [State.nodeWrite, hm, engineStore_wf]

theorem tileNode_wf {s : State} (n : NodeRef) (nd : Node) (g : GraphSlot) (r : Run) (hm : Memory.wf s.mem) :
    Memory.wf (s.tileNode n nd g r).mem := by
  unfold State.tileNode
  dsimp only
  split
  · rw [send_mem]; exact hm
  · split
    · rw [send_mem]; exact hm
    · split
      · exact failNode_wf _ _ _ hm
      · split
        · exact sendChunk_wf _ _ _ _ _ hm
        · exact andThen_wf (nodePages_wf _ _ _ _ hm) (fun t ht => failNode_wf _ _ _ ht) fun t l ht =>
            nodeDone_wf _ (nodeWrite_wf _ _ _ ht)

theorem nodeRead_wf {s : State} (n : NodeRef) (pages : List (Nat × Nat × PageKind)) (va len : Nat) {k : State → List Byte → State}
    (hm : Memory.wf s.mem) (hk : ∀ t l, Memory.wf t.mem → Memory.wf (k t l).mem) : Memory.wf (s.nodeRead n pages va len k).mem := by
  have h1 := engineBytes_wf pages va len hm
  unfold State.nodeRead
  split <;> rename_i he
  · exact failNode_wf _ _ _ (wf_of_eq_fst he h1)
  · exact hk _ _ (wf_of_eq_fst he h1)

theorem elemNode_wf {s : State} (n : NodeRef) (nd : Node) (r : Run) (hm : Memory.wf s.mem) : Memory.wf (s.elemNode n nd r).mem := by
  have access : ∀ t : State, Memory.wf t.mem → Memory.wf (t.failNode n 4 0).mem := fun t ht => failNode_wf _ _ _ ht
  unfold State.elemNode
  exact andThen_wf (nodePages_wf _ _ _ _ hm) access fun s pa hs =>
    andThen_wf (nodePages_wf _ _ _ _ hs) access fun s pb hs =>
      andThen_wf (nodePages_wf _ _ _ _ hs) access fun s pd hs =>
        nodeRead_wf _ _ _ _ hs fun s _ hs => nodeRead_wf _ _ _ _ hs fun s _ hs => nodeDone_wf _ (nodeWrite_wf _ _ _ hs)

theorem sendNode_wf {s : State} (n : NodeRef) (nd : Node) (g : GraphSlot) (r : Run) (hm : Memory.wf s.mem) :
    Memory.wf (s.sendNode n nd g r).mem := by
  have access : ∀ t : State, Memory.wf t.mem → Memory.wf (t.failNode n 4 0).mem := fun t ht => failNode_wf _ _ _ ht
  unfold State.sendNode
  refine andThen_wf (nodePages_wf _ _ _ _ hm) access fun s pa hs => andThen_wf ?_ access fun s pw hs =>
    nodeRead_wf _ _ _ _ hs fun s bs hs => ?_
  · split
    · exact nodePages_wf _ _ _ _ hs
    · exact hs
  · split
    · exact sendChunk_wf _ _ _ _ _ hs
    · dsimp only
      split
      · refine sendChunk_wf _ _ _ _ _ ?_
        split
        · exact nodeWrite_wf _ _ _ hs
        · exact hs
      · exact abortNode_wf _ hs

theorem recvNode_wf {s : State} (n : NodeRef) (nd : Node) (g : GraphSlot) (r : Run) (c : Chunk) (hm : Memory.wf s.mem) :
    Memory.wf (s.recvNode n nd g r c).mem := by
  have access : ∀ t : State, Memory.wf t.mem → Memory.wf (t.failNode n 4 0).mem := fun t ht => failNode_wf _ _ _ ht
  unfold State.recvNode
  extract_lets
  split
  · exact failNode_wf _ _ _ hm
  · split
    · exact andThen_wf (nodePages_wf _ _ _ _ hm) access fun s pd hs => nodeDone_wf _ (nodeWrite_wf _ _ _ hs)
    · refine andThen_wf (nodePages_wf _ _ _ _ hm) access fun s _ hs =>
        andThen_wf (nodePages_wf _ _ _ _ hs) access fun s pd hs => ?_
      extract_lets read s' byteAt bytes
      have hr : Memory.wf read.1.mem := foldl_fst_wf (fun q x hq => by
        split
        · exact hq
        · dsimp only
          split <;> rename_i he <;> exact wf_of_eq_fst he (engineRead_wf _ _ _ _ hq)) _ hs
      clear_value read
      split
      · exact failNode_wf _ _ _ hr
      · exact nodeDone_wf _ (nodeWrite_wf _ _ _ hr)

theorem execNodeComplete_wf {s : State} (n : NodeRef) (hm : Memory.wf s.mem) : AnswersWf (execNodeComplete n s) := by
  unfold execNodeComplete
  dsimp only
  split
  · simp [hm]
  · split
    · simp [hm]
    · refine (answersWf_next _).2 (servePumped_wf ?_)
      split
      · exact tileNode_wf _ _ _ _ hm
      · split
        · exact sendNode_wf _ _ _ _ hm
        · split
          · split
            · split
              · rw [send_mem]; exact hm
              · exact recvNode_wf _ _ _ _ _ hm
            · split
              · rw [send_mem]; exact hm
              · exact abortNode_wf _ hm
          · exact elemNode_wf _ _ _ hm

/-! ### Machine/Optics -/

theorem openWindow_wf {s : State} (i : Iss) (d reg : Nat) (abort : Bool) (map : List (Nat × Nat)) (hm : Memory.wf s.mem) :
    Memory.wf (s.openWindow i d reg abort map).mem := by
  unfold State.openWindow
  refine pumpWindows_wf ?_
  split
  · exact foldl_wf (fun s p hm => abortPort_wf _ hm) _ hm
  · exact hm

theorem execRecirc_wf {s : State} (f : EF) (hm : Memory.wf s.mem) : AnswersWf (execRecirc f s) := by
  refine issue_wf _ _ _ _ hm fun t i ht => ?_
  dsimp only
  grind [trapAll_wf, checkOne_wf, engineRead_wf, later_mem, openWindow_wf]

theorem execDrainTimeOut_wf {s : State} (dom win : Nat) (hm : Memory.wf s.mem) : AnswersWf (execDrainTimeOut dom win s) := by
  unfold execDrainTimeOut
  split
  · simp [hm]
  · split
    · simp [hm]
    · split
      · simp [hm]
      · refine (answersWf_next _).2 (servePumped_wf ?_)
        rw [modWindow_mem]; exact foldl_wf (fun s p hm => abortPort_wf _ hm) _ hm

theorem execReconfigurationTimeOut_wf {s : State} (dom win : Nat) (hm : Memory.wf s.mem) :
    AnswersWf (execReconfigurationTimeOut dom win s) := by
  unfold execReconfigurationTimeOut
  split
  · simp [hm]
  · split
    · simp [hm]
    · refine (answersWf_next _).2 (pumpWindows_wf (closeWindow_wf _ _ ?_))
      rw [foldl_mem (by simp)]; exact hm

theorem execRequestResend_wf {s : State} (dom win : Nat) (hm : Memory.wf s.mem) :
    AnswersWf (execRequestResend dom win s) := by
  unfold execRequestResend
  (repeat' split) <;> simp [hm]

theorem takeReply_wf {s : State} (bs : List Byte) (hm : Memory.wf s.mem) : Memory.wf (s.takeReply bs).mem := by
  have ignored : Memory.wf (s.count cntIgnoredReply).mem := by rw [count_mem]; exact hm
  have answered : ∀ (b : Nat) (w : Window), Memory.wf (w.wanted.foldl
      (fun (s : State) p => if (s.portDom p).isSome then s.leaveUp p lnkTraining else s)
      (s.modWindow w.id fun w => { w with answer := some b })).pumpWindows.mem := fun b w =>
    pumpWindows_wf (foldl_wf (fun s p hm => by
      split
      · exact leaveUp_wf _ _ hm
      · exact hm) _ hm)
  unfold State.takeReply
  dsimp only
  split
  · exact ignored
  · split
    · exact ignored
    · split
      · exact ignored
      · split
        · rw [modWindow_mem]; exact hm
        · exact answered _ _
        · exact answered _ _
        · exact ignored

theorem execControllerReply_wf {s : State} (payload : List Byte) (hm : Memory.wf s.mem) :
    AnswersWf (execControllerReply payload s) := by
  simp [execControllerReply, hm, takeReply_wf]

theorem execControlFrameReceive_wf {s : State} (f : ControlFrame) (hm : Memory.wf s.mem) :
    AnswersWf (execControlFrameReceive f s) := by
  unfold execControlFrameReceive
  (repeat' split) <;> simp [hm, takeReply_wf]

theorem execNeighbourSolicitation_wf {s : State} (n : Solicit) (hm : Memory.wf s.mem) :
    AnswersWf (execNeighbourSolicitation n s) := by
  unfold execNeighbourSolicitation
  (repeat' split) <;> simp [hm]

theorem retrain_wf {s : State} (p : Nat) (hm : Memory.wf s.mem) : Memory.wf (s.retrain p).mem := by
  unfold State.retrain
  grind [servePorts_wf, pumpWindows_wf, leaveUp_wf]

theorem execLinkDown_wf {s : State} (port : Nat) (hm : Memory.wf s.mem) : AnswersWf (execLinkDown port s) :=
  (answersWf_next _).2 (servePumped_wf (leaveUp_wf _ _ hm))

theorem execPeerSilence_wf {s : State} (x : Silence) (hm : Memory.wf s.mem) : AnswersWf (execPeerSilence x s) := by
  unfold execPeerSilence
  split <;> simp [hm, retrain_wf]

theorem execLinkTrained_wf {s : State} (t : Training) (hm : Memory.wf s.mem) : AnswersWf (execLinkTrained t s) := by
  simp only [execLinkTrained]
  (repeat' split) <;> simp [hm, pumpWindows_wf]

theorem ackNodes_wf {s : State} (p : Nat) (l : List NodeRef) (hm : Memory.wf s.mem) : Memory.wf (s.ackNodes p l).mem :=
  servePumped_wf (foldl_wf (fun _ n hm => nodeDone_wf n hm) l hm)

theorem resend_wf {s : State} (p : Nat) (hm : Memory.wf s.mem) : Memory.wf (s.resend p).mem := by
  unfold State.resend
  grind [servePorts_wf, pumpWindows_wf, leaveUp_wf, resendAll_mem, modLink_mem, optCount_mem]

theorem opIn_wf {s : State} (p ty chan : Nat) (bs : List Byte) (hm : Memory.wf s.mem) :
    Memory.wf (s.opIn p ty chan bs).mem := by
  unfold State.opIn
  split <;> simp [hm, delivered_wf, remoteAnswered_wf]

theorem opFlit_wf {s : State} (p : Nat) (flit : List Byte) (hm : Memory.wf s.mem) : Memory.wf (s.opFlit p flit).mem := by
  simp only [State.opFlit]
  split <;> simp [hm, opIn_wf]

theorem flitType_wf {s : State} (p : Nat) (flit : List Byte) (hm : Memory.wf s.mem) : Memory.wf (s.flitType p flit).mem := by
  simp [State.flitType, hm, resend_wf, opFlit_wf]

theorem execFlitReceive_wf {s : State} (port : Nat) (f : FlitIn) (hm : Memory.wf s.mem) :
    AnswersWf (execFlitReceive port f s) := by
  simp only [execFlitReceive]
  (repeat' split) <;> simp [hm, retrain_wf, ackNodes_wf, flitType_wf]

theorem writePortcfg_wf {s : State} (w : CsrWrite) (hm : Memory.wf s.mem) : ∀ t, s.writePortcfg w = .ok t → Memory.wf t.mem := by
  intro t ht
  unfold State.writePortcfg WriteRes.illegal at ht
  dsimp only at ht
  split at ht
  · cases ht
  · split at ht
    · cases ht
    · split at ht
      · cases ht
      · split at ht
        · split at ht <;> cases ht
          · exact hm
          · exact servePorts_wf (portOff_wf _ _ (by rw [setCsr_mem]; exact abortPort_wf _ hm))
        · cases ht
          split <;> simp [hm]

theorem orKeep_wf {r : WriteRes} {s : State} (hm : Memory.wf s.mem) (hr : ∀ t, r = .ok t → Memory.wf t.mem) :
    Memory.wf (r.orKeep s).mem := by
  cases r with
  | ok t => exact hr t rfl
  | trap c i => exact hm

theorem execOptPortcfgWrite_wf {s : State} (w : CsrWrite) (hm : Memory.wf s.mem) : AnswersWf (execOptPortcfgWrite w s) :=
  (answersWf_next _).2 (orKeep_wf hm (writePortcfg_wf w hm))

theorem execOptDomctlWrite_wf {s : State} (w : CsrWrite) (hm : Memory.wf s.mem) : AnswersWf (execOptDomctlWrite w s) :=
  (answersWf_next _).2 (orKeep_wf hm fun t ht => by rw [writeDomctl_mem _ _ _ ht]; exact hm)

/-! ### Machine/Tlb -/

theorem execTlbinv_wf {s : State} (f : EF) (hm : Memory.wf s.mem) : AnswersWf (execTlbinv f s) := by
  refine issuePriv_wf _ _ _ _ hm fun t i ht => ?_
  simp [ht, releaseBy_wf]

theorem execTlbsync_wf {s : State} (f : EF) (hm : Memory.wf s.mem) : AnswersWf (execTlbsync f s) := by
  simp [execTlbsync, hm, issuePriv_wf]

theorem leavesOf_wf {s : State} (w : Walker) (fuel va stop : Nat) (hm : Memory.wf s.mem) :
    Memory.wf (s.leavesOf w fuel va stop).1.mem := by
  induction fuel generalizing s va with
  | zero => exact hm
  | succ fuel ih =>
    unfold State.leavesOf
    split
    · exact hm
    · split
      · exact hm
      · split <;> rename_i he <;> exact ih _ (wf_of_eq_fst he (walkFrom_wf _ _ _ _ hm))

theorem regionLeaves_wf {s : State} (w : Walker) (base len : Nat) (hm : Memory.wf s.mem) :
    Memory.wf (regionLeaves s w base len).1.mem := by
  simp [regionLeaves, hm, leavesOf_wf]

theorem execTlblock_wf {s : State} (f : EF) (hm : Memory.wf s.mem) : AnswersWf (execTlblock f s) := by
  refine issue_wf _ _ _ _ hm fun t i ht => ?_
  dsimp only
  grind [later_mem, regionLeaves_wf, lockCores_mem, modBlock_mem]

theorem execTlbunlk_wf {s : State} (f : EF) (hm : Memory.wf s.mem) : AnswersWf (execTlbunlk f s) := by
  simp [execTlbunlk, hm, issue_wf]

theorem execTlbpre_wf {s : State} (f : EF) (hm : Memory.wf s.mem) : AnswersWf (execTlbpre f s) :=
  issue_wf _ _ _ _ hm fun t i ht => by
    rw [later_mem]
    split
    · exact ht
    · refine foldl_wf (fun s va hs => ?_) _ ht
      split
      · exact hs
      · split <;> rename_i he
        · exact wf_of_eq_fst he (walkFrom_wf _ _ _ _ hs)
        · have h1 := wf_of_eq_fst he (walkFrom_wf _ _ _ _ hs)
          split
          · rw [tlbInstall_mem]; exact h1
          · exact h1
          · exact h1

/-! ### Machine/Save -/

theorem writeLines_wf (fuel : Nat) {s : State} (w : Walker) (va : Nat) (bs : List Byte) (hm : Memory.wf s.mem) :
    Memory.wf (State.writeLines fuel s w va bs).mem := by
  induction fuel generalizing s va bs with
  | zero => exact hm
  | succ fuel ih =>
    unfold State.writeLines
    split
    · exact hm
    · split <;> rename_i he
      · exact ih _ _ (poke_wf _ _ _ _ (wf_of_eq_fst he (xlate_wf _ _ _ hm)))
      · exact wf_of_eq_fst he (xlate_wf _ _ _ hm)

theorem readLines_wf (n : Nat) {s : State} (w : Walker) (va : Nat) (hm : Memory.wf s.mem) :
    Memory.wf (State.readLines n s w va).1.mem := by
  induction n generalizing s va with
  | zero => exact hm
  | succ n ih =>
    unfold State.readLines
    split <;> rename_i he <;> have h1 := wf_of_eq_fst he (xlate_wf _ _ _ hm)
    · split <;> rename_i he2 <;> have h2 := wf_of_eq_fst he2 (engineRead_wf _ _ _ _ h1)
      · exact h2
      · split <;> rename_i he3 <;> exact wf_of_eq_fst he3 (ih _ h2)
    · exact h1

theorem writePages_wf {s : State} (w : Walker) (l : List Nat) (bs : List Byte) (hm : Memory.wf s.mem) :
    Memory.wf (s.writePages w l bs).mem := by
  induction l generalizing s bs with
  | nil => exact hm
  | cons a l ih => exact ih _ (writeLines_wf _ _ _ _ hm)

theorem readPages_wf {s : State} (w : Walker) (l : List Nat) (n : Nat) (hm : Memory.wf s.mem) :
    Memory.wf (s.readPages w l n).1.mem := by
  induction l generalizing s n with
  | nil => exact hm
  | cons a l ih =>
    unfold State.readPages
    split <;> rename_i he <;> have h1 := wf_of_eq_fst he (readLines_wf _ _ _ hm)
    · exact h1
    · split <;> rename_i he2 <;> exact wf_of_eq_fst he2 (ih _ h1)

theorem areaPoke_wf {s : State} (v : Saved) (off : Nat) (bs : List Byte) (hm : Memory.wf s.mem) :
    Memory.wf (s.areaPoke v off bs).mem := by
  unfold State.areaPoke
  grind [xlate_wf, poke_wf]

/-! ### Machine/Place -/

theorem lwaitWake_wf {s : State} (hm : Memory.wf s.mem) : Memory.wf s.lwaitWake.mem :=
  foldl_wf (fun s w hm => by
    split
    · split
      · rw [giveV_mem]; exact acquireBy_wf _ _ _ (by rw [wake_mem]; exact hm)
      · exact hm
    · exact hm) _ hm

theorem placeWords_wf {s : State} (gid : Nat) (conds : List Cond) (hm : Memory.wf s.mem) : Memory.wf (s.placeWords gid conds).1.mem :=
  foldl_fst_wf (fun r c hr => by
    split
    · split <;> rename_i he <;> exact wf_of_eq_fst he (xlate_wf _ _ _ hr)
    · exact hr) conds hm

theorem rearmWaitc_wf {s00 : State} (w : Wait) (hms00 : Memory.wf s00.mem) : Memory.wf (State.rearmWaitc s00 w).mem := by
  unfold State.rearmWaitc
  grind [placeWords_wf, disarm_mem, recallWords_wf, satMask_mem, failWaitc_wf, leaveWaitc_wf, armWait_mem]

theorem rearm_wf {s : State} (w : Wait) (hm : Memory.wf s.mem) : Memory.wf (s.rearm w).mem := by
  unfold State.rearm
  split <;> simp [hm, rearmWaitc_wf]

theorem deepFrames_wf {s : State} (gid : Nat) {f : State → Nat → Nat → Nat → State}
    (hf : ∀ t g l d, Memory.wf t.mem → Memory.wf (f t g l d).mem) (hm : Memory.wf s.mem) : Memory.wf (s.deepFrames gid f).mem :=
  foldl_wf (fun _ l hm => foldl_wf (fun s d hm => hf s gid l d hm) _ hm) _ hm

theorem fillDeep_wf {s : State} (gid : Nat) (hm : Memory.wf s.mem) : Memory.wf (s.fillDeep gid).mem :=
  deepFrames_wf gid (fun _ _ _ _ ht => fillFrame_wf _ _ _ ht) hm

theorem spillDeep_wf {s : State} (gid : Nat) (hm : Memory.wf s.mem) : Memory.wf (s.spillDeep gid).mem :=
  deepFrames_wf gid (fun _ _ _ _ ht => spillFrame_wf _ _ _ ht) hm

theorem restoreGroup_wf {s : State} (v : Saved) (old new : Nat) (g : Group) (hm : Memory.wf s.mem) :
    Memory.wf (s.restoreGroup v old new g).mem := by
  simp [State.restoreGroup, hm, spillDeep_wf]

theorem restoreWaits_wf {s : State} (v : Saved) (old new : Nat) (hm : Memory.wf s.mem) : Memory.wf (s.restoreWaits v old new).mem :=
  foldl_wf (fun s w hm => by
    dsimp only
    split
    · split
      · split
        · rw [wake_mem]; exact hm
        · exact hm
      · exact hm
    · exact rearm_wf _ hm) _ hm

theorem relock_wf {s : State} (b : Block) (hm : Memory.wf s.mem) : Memory.wf (s.relock b).mem :=
  foldl_wf (fun s r hm => by
    dsimp only
    rw [lockCores_mem]; exact regionLeaves_wf _ _ _ hm) b.regions hm

theorem writeArea_wf {s : State} (v : Saved) (hm : Memory.wf s.mem) : Memory.wf (s.writeArea v).mem := by
  simp [State.writeArea, hm, writePages_wf]

theorem readArea_wf {s : State} (v : Saved) (hm : Memory.wf s.mem) : Memory.wf (s.readArea v).1.mem := by
  unfold State.readArea
  grind [readPages_wf, readStage_mem]

theorem restoreBlock_wf {s : State} (q : Nat) (f : Fit) (hm : Memory.wf s.mem) : Memory.wf (s.restoreBlock q f).mem := by
  unfold State.restoreBlock
  split
  · exact hm
  · rename_i v0 _
    have h0 := readArea_wf v0 hm
    split
    rename_i s0 v he
    rw [he] at h0
    extract_lets names _ b saved _ s1 s2 s3 s4 s5 s6 span
    have h1 : Memory.wf s1.mem := by unfold s1; rw [seatBlock_mem]; exact h0
    have h2 : Memory.wf s2.mem := foldl_wf (fun s x hm => restoreGroup_wf _ _ _ _ hm) _ h1
    have h3 : Memory.wf s3.mem := foldl_wf (fun s c hm => acquire_wf _ _ _ hm) _ h2
    have h4 : Memory.wf s4.mem := foldl_wf (fun s x hm => restoreWaits_wf _ _ _ hm) _ (relock_wf b h3)
    have h5 : Memory.wf s5.mem := foldl_wf (fun s g hm => mvWake_wf g hm) _ (lwaitWake_wf (mwaitWake_wf h4))
    have h6 : Memory.wf s6.mem := foldl_wf (fun s d hm => colWake_wf d hm) _ h5
    rw [foldl_mem (by simp)]
    exact foldl_wf (fun s k hm => stageWake_wf _ _ k hm) _ h6

theorem placeFrom_wf (fuel : Nat) {s : State} (q : Nat) (hm : Memory.wf s.mem) : Memory.wf (State.placeFrom fuel s q).mem := by
  induction fuel generalizing s with
  | zero => exact hm
  | succ fuel ih =>
    unfold State.placeFrom
    split
    · exact hm
    · dsimp only
      split
      · rw [preempt_mem]; exact hm
      · split
        · exact ih (foldl_wf (fun s f hm => restoreBlock_wf q f hm) _ hm)
        · split
          · exact hm
          · exact ih (by rw [unlist_mem, foldl_mem (by simp)]; exact hm)

theorem placePass_wf {s : State} (q : Nat) (hm : Memory.wf s.mem) : Memory.wf (s.placePass q).mem := by
  simp [State.placePass, hm, placeFrom_wf]

theorem saveBlock_wf {s : State} (b : Block) (onEvent : Bool) (hm : Memory.wf s.mem) : Memory.wf (s.saveBlock b onEvent).mem := by
  have hs : Memory.wf (b.gids.foldl State.fillDeep ((b.cores.foldl State.release s).dropLocks ⟨b.lid, b.num⟩)).mem :=
    foldl_wf (fun s g hm => fillDeep_wf g hm) _ (by
      rw [dropLocks_mem]; exact foldl_wf (fun s c hm => release_wf c hm) _ hm)
  exact writeArea_wf _ hs

theorem trySave_wf {s : State} (b : BlockRef) (k : Block) (hm : Memory.wf s.mem) : Memory.wf (s.trySave b k).mem := by
  unfold State.trySave
  dsimp only
  split
  · exact hm
  · split
    · rw [send_mem]; exact hm
    · split
      · rw [preemptNote_mem, count_mem, foldl_mem (by simp)]; exact hm
      · exact placePass_wf _ (by rw [preemptNote_mem]; exact foldl_wf (fun s x hm => saveBlock_wf x _ hm) _ hm)

theorem execBlockSave_wf {s : State} (b : BlockRef) (hm : Memory.wf s.mem) : AnswersWf (execBlockSave b s) := by
  unfold execBlockSave
  split <;> simp [hm, trySave_wf]

theorem execBlockRestore_wf {s : State} (b : BlockRef) (hm : Memory.wf s.mem) : AnswersWf (execBlockRestore b s) := by
  unfold execBlockRestore
  split <;> simp [hm, placePass_wf]

/-! ### Machine/Launch -/

theorem distRead_wf {s : State} (q : Nat) (va : DWord) (n : Nat) (hm : Memory.wf s.mem) :
    Memory.wf (s.distRead q va n).1.mem := by
  unfold State.distRead
  grind [xlateRange_wf, engineBytes_wf]

theorem distWrite_wf {s : State} (q : Nat) (va : DWord) (bs : List Byte) (hm : Memory.wf s.mem) :
    Memory.wf (s.distWrite q va bs).1.mem := by
  unfold State.distWrite
  grind [xlate_wf, poke_wf]

theorem checkRecord_wf {s : State} (q : Nat) (a : DWord) (hm : Memory.wf s.mem) : Memory.wf (s.checkRecord q a).1.mem := by
  have read : ∀ {t : State} (c : Prop) [Decidable c] (b : DWord) (n : Nat), Memory.wf t.mem →
      Memory.wf (if c then (t, some []) else t.distRead q b n).1.mem := fun c _ b n ht => by
    split
    · exact ht
    · exact distRead_wf _ _ _ ht
  unfold State.checkRecord
  dsimp only
  split <;> rename_i he <;> have h1 := wf_of_eq_fst he (distRead_wf _ _ _ hm)
  · exact h1
  · split <;> rename_i he2 <;> have h2 := wf_of_eq_fst he2 (read _ _ _ h1)
    · exact h2
    · split <;> rename_i he3 <;> have h3 := wf_of_eq_fst he3 (read _ _ _ h2)
      · exact h3
      · simp only [apply_ite Prod.fst, ite_self]
        exact h3

theorem accept_wf {s : State} (q : Nat) (a : DWord) (r0 : Record) (tids : List (Nat × TensorEntry))
    (readers : List (Nat × Byte)) (hm : Memory.wf s.mem) : Memory.wf (s.accept q a r0 tids readers).1.mem := by
  simp [State.accept, hm, distWrite_wf]

theorem submit_wf {s : State} (q : Nat) (a : DWord) (hm : Memory.wf s.mem) : Memory.wf (s.submit q a).1.mem := by
  unfold State.submit
  grind [checkRecord_wf, accept_wf, distWrite_wf]

theorem entryRecord_wf {s : State} (q at_ : Nat) (value reason code : Nat) (hm : Memory.wf s.mem) :
    Memory.wf (s.entryRecord q at_ value reason code).mem := by
  simp [State.entryRecord, hm, post_wf]

theorem takeEntry_wf {s : State} (q : Nat) (hm : Memory.wf s.mem) : Memory.wf (s.takeEntry q).mem := by
  have h0 : ∀ k x, Memory.wf (s.setCsr k x).mem := fun k x => by rw [setCsr_mem]; exact hm
  unfold State.takeEntry
  dsimp only
  split <;> rename_i he <;> have h1 := wf_of_eq_fst he (distRead_wf _ _ _ (h0 _ _))
  · exact entryRecord_wf _ _ _ _ _ h1
  · split
    · exact entryRecord_wf _ _ _ _ _ h1
    · split <;> rename_i he2 <;> have h2 := wf_of_eq_fst he2 (submit_wf _ _ h1)
      · exact foldl_wf (fun s q hm => placePass_wf q hm) _ h2
      · split
        · exact h2
        · exact entryRecord_wf _ _ _ _ _ h2

theorem takeEntries_wf (fuel : Nat) {s : State} (q : Nat) (hm : Memory.wf s.mem) : Memory.wf (State.takeEntries fuel s q).mem := by
  induction fuel generalizing s with
  | zero => exact hm
  | succ fuel ih =>
    unfold State.takeEntries
    dsimp only
    split
    · exact hm
    · exact ih (takeEntry_wf q hm)

theorem serveRing_wf {s : State} (q : Nat) (hm : Memory.wf s.mem) : Memory.wf (s.serveRing q).mem := by
  simp [State.serveRing, hm, takeEntries_wf]

theorem writeTail_wf {s : State} (q : Nat) (tail : Word) (hm : Memory.wf s.mem) : Memory.wf (s.writeTail q tail).mem := by
  unfold State.writeTail
  extract_lets
  split
  · exact post_wf _ _ _ _ hm
  · exact serveRing_wf q (by rw [setCsr_mem]; exact hm)

theorem execLaunch_wf {s : State} (f : EF) (hm : Memory.wf s.mem) : AnswersWf (execLaunch f s) := by
  unfold execLaunch
  split
  · simp
  · extract_lets keyed
    split
    · simp [hm]
    · refine issue_wf _ _ _ _ hm fun t i ht => ?_
      dsimp only
      split
      · exact trapAll_wf _ _ _ ht
      · split
        · exact trapAll_wf _ _ _ ht
        · split <;> rename_i he <;> have h1 := wf_of_eq_fst he (submit_wf _ _ (releaseBy_wf _ _ ht))
          · rw [mcResult_mem, whenDone_mem]; exact h1
          · rw [mcResult_mem]; exact h1

theorem execLwait_wf {s : State} (f : EF) (hm : Memory.wf s.mem) : AnswersWf (execLwait f s) := by
  refine issue_wf _ _ _ _ hm fun t i ht => ?_
  dsimp only
  split <;> simp [ht, acquireBy_wf]

theorem retire_wf {s : State} (b : Block) (hm : Memory.wf s.mem) : Memory.wf (s.retire b).mem := by
  simp [State.retire, hm, flushCurd_wf]

theorem execBlockRetire_wf {s : State} (b : BlockRef) (hm : Memory.wf s.mem) : AnswersWf (execBlockRetire b s) := by
  unfold execBlockRetire
  (repeat' split) <;> simp [hm, placePass_wf, retire_wf]

theorem finish_wf {s : State} (x : Launch) (status : Nat) (hm : Memory.wf s.mem) : Memory.wf (s.finish x status).mem := by
  unfold State.finish
  extract_lets s1 s2 s3 s4 s5 _ w s6 q mine ended _ sched s7 back s8
  have h1 : Memory.wf s1.mem := flushCurd_wf _ hm
  have h2 : Memory.wf s2.mem := by unfold s2; rw [foldl_mem (by simp)]; exact h1
  have h3 : Memory.wf s3.mem := by unfold s3; rw [commitCells_mem]; exact h2
  have h5 : Memory.wf s5.mem := foldl_wf (fun s c hm => release_wf c hm) _ (s := s4) h3
  have h6 : Memory.wf s6.mem := by
    unfold s6
    split <;> rename_i he
    · exact poke_wf _ _ _ _ (wf_of_eq_fst he (xlate_wf _ _ _ h5))
    · exact wf_of_eq_fst he (xlate_wf _ _ _ h5)
  have h7 : Memory.wf s7.mem := lwaitWake_wf h6
  have h8 : Memory.wf s8.mem := by unfold s8; rw [foldl_mem (by simp)]; exact h7
  exact foldl_wf (fun s q hm => placePass_wf q hm) _ h8

theorem exitLoops_wf {s : State} (lid : Nat) (hm : Memory.wf s.mem) : Memory.wf (s.exitLoops lid).mem := by
  unfold State.exitLoops
  rw [quitSaved_mem]
  exact foldl_wf (fun s g hm => quitLoop_wf g hm) _ hm

theorem execLaunchEnd_wf {s : State} (lid : Nat) (hm : Memory.wf s.mem) : AnswersWf (execLaunchEnd lid s) := by
  unfold execLaunchEnd
  (repeat' split) <;> simp [hm, finish_wf, exitLoops_wf]

/-! ### Machine/Tasks -/

theorem push_wf {s : State} (q prio : Nat) (rec_ : List Byte) (hm : Memory.wf s.mem) :
    ∀ t, State.push s q prio rec_ = some t → Memory.wf t.mem := by
  simp [State.push, hm, distWrite_wf]

theorem dropRecord_wf {s : State} (q prio : Nat) (hm : Memory.wf s.mem) : Memory.wf (s.dropRecord q prio).mem := by
  unfold State.dropRecord
  grind [setQueue_mem, distRead_wf]

theorem successor_wf {s : State} (gid p pa : Nat) (kind : PageKind) (va : DWord) (hm : Memory.wf s.mem) :
    Memory.wf (s.successor gid p pa kind va).mem := by
  unfold State.successor
  extract_lets line s0 s1 s2 bs count queue rec_ body who w s3
  have h0 : Memory.wf s0.mem := landBack_wf _ (arriveAt_wf _ _ hm)
  have h1 : Memory.wf s1.mem := by
    unfold s1
    split
    · exact h0
    · exact recall_wf _ h0
    · exact recall_wf _ (l2WriteBack_wf _ h0)
  have h2 : Memory.wf s2.mem := by unfold s2; rw [commitCells_mem]; exact h1
  have h3 : Memory.wf s3.mem := by
    unfold s3
    rw [dropNear_mem]
    split
    · simp [h2]
    · exact writeHome_wf _ _ h2
    · exact writeHome_wf _ _ h2
  split
  · exact post_wf _ _ _ _ h2
  · split
    · exact h3
    · split
      · exact post_wf _ _ _ _ h3
      · split <;> rename_i he
        · exact push_wf _ _ _ h3 _ he
        · exact post_wf _ _ _ _ h3

theorem execTspawn_wf {s : State} (f : EF) (hm : Memory.wf s.mem) : AnswersWf (execTspawn f s) := by
  unfold execTspawn
  refine issue_wf _ _ _ _ hm fun t i ht => ?_
  dsimp only
  split
  · exact trapAll_wf _ _ _ ht
  · split
    · exact trapAll_wf _ _ _ ht
    · split <;> rename_i he <;> have h1 := wf_of_eq_fst he (checkOne_wf _ _ _ ht)
      · exact h1
      · have hr := fun l a n k => engineRead_wf l a n k (releaseBy_wf i.gid (maskOf i.lanes) h1)
        split
        · rw [later_mem]; exact hr _ _ _ _
        · split <;> rename_i hp
          · rw [later_mem]; exact push_wf _ _ _ (hr _ _ _ _) _ hp
          · rw [later_mem]; exact hr _ _ _ _

theorem execTsignal_wf {s : State} (f : EF) (hm : Memory.wf s.mem) : AnswersWf (execTsignal f s) := by
  refine issue_wf _ _ _ _ hm fun t i ht => ?_
  dsimp only
  grind [trapAll_wf, checkOne_wf, releaseBy_wf, logError_mem, successor_wf, later_mem, whenDone_mem]

theorem checkTask_wf {s : State} (gid : Nat) (hm : Memory.wf s.mem) : Memory.wf (s.checkTask gid).mem := by
  simp [State.checkTask, hm, quitLoop_wf]

theorem execTdone_wf {s : State} (f : EF) (hm : Memory.wf s.mem) : AnswersWf (execTdone f s) := by
  refine issue_wf _ _ _ _ hm fun t i ht => ?_
  dsimp only
  grind [eachLane_mem, modLane_mem, checkTask_wf, park_mem]

theorem execExit_wf {s : State} (f : BF) (hm : Memory.wf s.mem) : AnswersWf (execExit f s) := by
  refine issue_wf _ _ _ _ hm fun t i ht => ?_
  simp [ht, checkTask_wf, exitLanes_wf]

theorem taskRecord_wf {s : State} (gid cause : Nat) (pc info : DWord) (rec_ : List Byte) (sent : Word)
    (lanes : LaneMask) (hm : Memory.wf s.mem) : Memory.wf (s.taskRecord gid cause pc info rec_ sent lanes).mem := by
  simp [State.taskRecord, hm, post_wf]

theorem startTask_wf {s : State} (gid : Nat) (bs : List Byte) (hm : Memory.wf s.mem) :
    Memory.wf (s.startTask gid bs).mem := by
  simp [State.startTask, hm, acquireBy_wf]

theorem execTaskPop_wf {s : State} (gid : Nat) (hm : Memory.wf s.mem) : AnswersWf (execTaskPop gid s) := by
  simp only [execTaskPop]
  (repeat' split) <;> simp [hm, dropRecord_wf, taskRecord_wf, startTask_wf]

theorem closeTask_wf {s : State} (gid : Nat) (hm : Memory.wf s.mem) : Memory.wf (s.closeTask gid).mem := by
  unfold State.closeTask
  rw [modGroup_mem]
  refine quitLoop_wf gid (foldl_wf (fun s j hm => ?_) _ hm)
  dsimp only
  split
  · split <;> simp [hm]
  · exact hm

theorem autosig_wf {s : State} (gid : Nat) (t : TaskRun) (hm : Memory.wf s.mem) : Memory.wf (s.autosig gid t).1.mem := by
  unfold State.autosig
  grind [xlate_wf, logError_mem, markSent_mem, successor_wf, releaseBy_wf]

theorem execTaskComplete_wf {s : State} (gid : Nat) (hm : Memory.wf s.mem) : AnswersWf (execTaskComplete gid s) := by
  have again : ∀ {t : State}, Memory.wf t.mem → AnswersWf (.next (t.send (.taskComplete gid))) := fun ht =>
    (answersWf_next _).2 (by rw [send_mem]; exact ht)
  have leave : ∀ {t : State}, Memory.wf t.mem → AnswersWf (.next (t.leaveTask gid)) := fun ht =>
    (answersWf_next _).2 (by rw [leaveTask_mem]; exact ht)
  unfold execTaskComplete
  extract_lets g again' s1 s2 s3 r1
  split
  · simp [hm]
  · split
    · split
      · exact again hm
      · have h1 : Memory.wf s1.mem := by unfold s1; rw [modGroup_mem, parkAll_mem]; exact hm
        have h2 : Memory.wf s2.mem := by
          unfold s2
          split
          · exact h1
          · exact hm
        have h3 : Memory.wf s3.mem := closeTask_wf gid h2
        split
        · exact again h3
        · exact leave (taskRecord_wf _ _ _ _ _ _ _ h3)
    · split
      · simp [hm]
      · have h1 : Memory.wf r1.mem := closeTask_wf gid hm
        split
        · exact again h1
        · split <;> rename_i he <;> have h2 := wf_of_eq_fst he (autosig_wf _ _ h1)
          · exact leave h2
          · exact leave (taskRecord_wf _ _ _ _ _ _ _ h2)
          · exact (answersWf_next _).2 (by rw [engineStop_mem]; exact h2)
          · exact leave h2

/-! ### Machine/Csr -/

theorem serveRings_wf {s : State} (qs : List Nat) (hm : Memory.wf s.mem) : Memory.wf (qs.foldl State.serveRing s).mem :=
  foldl_wf (f := State.serveRing) (fun _ q h => serveRing_wf q h) _ hm

theorem putCsr_wf {s : State} (w : CsrWrite) (key : Nat) (hm : Memory.wf s.mem) : ∀ t, s.putCsr w key = .ok t → Memory.wf t.mem := by
  intro t ht
  have hp : ∀ v, Memory.wf (s.setCsr key v).mem := fun v => by rw [setCsr_mem]; exact hm
  unfold State.putCsr at ht
  split at ht
  · cases ht; exact serveRing_wf _ (hp _)
  · cases ht; exact writeTail_wf _ _ hm
  · split at ht <;> cases ht
    exact hp _
  · cases ht; exact serveRings_wf _ (fqDrain_wf (hp _))
  · cases ht; exact serveRings_wf _ (fqDrain_wf (hp _))
  · cases ht; rw [send_mem]; exact hp _
  · cases ht
    split <;> simp [hm]
  · split at ht <;> cases ht
    exact hp _
  · cases ht; rw [send_mem]; exact hp _
  · exact writePortcfg_wf w hm t ht
  · rw [writeDomctl_mem _ _ _ ht]; exact hm
  · cases ht; rw [lockGate_mem]; exact hm
  · cases ht; rw [ackRepl_mem]; exact hm
  · cases ht; exact hp _

theorem writeCsr_wf {s : State} (w : CsrWrite) (q : Nat) (hm : Memory.wf s.mem) : ∀ t, s.writeCsr w q = .ok t → Memory.wf t.mem := by
  intro t ht
  unfold State.writeCsr WriteRes.illegal at ht
  split at ht
  · cases ht
  · split at ht
    · cases ht
    · split at ht
      · cases ht
      · exact putCsr_wf w _ hm t ht

theorem execCsrr_wf {s : State} (f : EF) (hm : Memory.wf s.mem) : AnswersWf (execCsrr f s) := by
  refine issuePriv_wf _ _ _ _ hm fun t i ht => ?_
  dsimp only
  split <;> simp [ht, trapAll_wf]

theorem execCsrw_wf {s : State} (f : EF) (hm : Memory.wf s.mem) : AnswersWf (execCsrw f s) := by
  refine issuePriv_wf _ _ _ _ hm fun t i ht => ?_
  dsimp only
  grind [releaseBy_wf, writeCsr_wf, trapAll_wf]

theorem execLndGateLock_wf {s : State} (w : CsrWrite) (hm : Memory.wf s.mem) : AnswersWf (execLndGateLock w s) := by
  simp [execLndGateLock, hm]

theorem execSysHostirq_wf {s : State} (w : CsrWrite) (hm : Memory.wf s.mem) : AnswersWf (execSysHostirq w s) := by
  simp [execSysHostirq, hm]

theorem execRegisterWrite_wf {s : State} (w : CsrWrite) (hm : Memory.wf s.mem) : AnswersWf (execRegisterWrite w s) :=
  (answersWf_next _).2 (orKeep_wf hm (writeCsr_wf w _ hm))

/-! ### Machine/System -/

theorem execEret_wf {s : State} (f : EF) (hm : Memory.wf s.mem) : AnswersWf (execEret f s) := by
  simp [execEret, hm, issuePriv_wf]

theorem execHalt_wf {s : State} (f : EF) (hm : Memory.wf s.mem) : AnswersWf (execHalt f s) := by
  simp [execHalt, hm, issuePriv_wf]

theorem enterEvent_wf {s : State} (gid l : Nat) (hm : Memory.wf s.mem) : Memory.wf (s.enterEvent gid l).mem := by
  simp [State.enterEvent, hm, stopCore_wf]

theorem execEventModeEntry_wf {s : State} (quad : Nat) (hm : Memory.wf s.mem) : AnswersWf (execEventModeEntry quad s) := by
  simp only [execEventModeEntry]
  (repeat' split) <;> simp [hm, enterEvent_wf]

theorem execPreempt_wf {s : State} (f : EF) (hm : Memory.wf s.mem) : AnswersWf (execPreempt f s) :=
  issuePriv_wf _ _ _ _ hm fun t i ht => by
    dsimp only
    split
    · rw [giveAll_mem]; exact ht
    · split
      · rw [giveAll_mem]; exact ht
      · split
        · exact foldl_wf (fun s q hm => placePass_wf q hm) _ (by rw [giveAll_mem, modLaunch_mem]; exact ht)
        · rw [preemptSave_mem]; exact ht

theorem execKeyld_wf {s : State} (f : EF) (hm : Memory.wf s.mem) : AnswersWf (execKeyld f s) := by
  simp only [execKeyld]
  (repeat' split) <;> simp [hm, issuePriv_wf]

theorem execPageFault_wf {s : State} (f : PageStop) (hm : Memory.wf s.mem) : AnswersWf (execPageFault f s) := by
  simp [execPageFault, hm, fqDrain_wf]

theorem freePort_wf {s : State} (port : Nat) (hm : Memory.wf s.mem) : Memory.wf (s.freePort port).mem := by
  simp [State.freePort, hm, servePorts_wf]

theorem resumeAt_wf {s : State} (p : Parked) (hm : Memory.wf s.mem) : Memory.wf (s.resumeAt p).mem := by
  unfold State.resumeAt
  (repeat' split) <;> simp [hm, freePort_wf]

theorem refusePort_wf {s : State} (port : Nat) (hm : Memory.wf s.mem) : Memory.wf (s.refusePort port).mem := by
  unfold State.refusePort
  split <;> simp [hm, servePorts_wf]

theorem killAt_wf {s : State} (p : Parked) (hm : Memory.wf s.mem) : Memory.wf (s.killAt p).mem := by
  unfold State.killAt
  grind [endLaunch_mem, unparkId_mem, servePorts_wf, pumpWindows_wf, failNode_wf, send_mem, refusePort_wf]

theorem execResume_wf {s : State} (f : EF) (hm : Memory.wf s.mem) : AnswersWf (execResume f s) := by
  refine issuePriv_wf _ _ _ _ hm fun t i ht => ?_
  dsimp only
  split <;> simp [ht, releaseBy_wf, killAt_wf, resumeAt_wf]

/-! ### Machine/Hostlink -/

theorem mboxWrite_wf {s : State} (r : HostReq) (data : List Byte) (hm : Memory.wf s.mem) :
    Memory.wf (s.mboxWrite r data).mem := by
  unfold State.mboxWrite
  split <;> simp [hm, writeTail_wf]

theorem execHostWrite_wf {s : State} (r : HostReq) (data : List Byte) (hm : Memory.wf s.mem) :
    AnswersWf (execHostWrite r data s) := by
  unfold execHostWrite
  (repeat' split) <;> simp [hm, mboxWrite_wf, poke_wf]

theorem execHostRead_wf {s : State} (r : HostReq) (n tag : Nat) (hm : Memory.wf s.mem) : AnswersWf (execHostRead r n tag s) := by
  unfold execHostRead
  split
  · simp [hm]
  · split
    · simp [hm]
    · split
      · simp [hm]
      · split
        · split <;> simp [hm]
        · split
          · simp [hm]
          · dsimp only
            split <;> rename_i he <;> have h1 := wf_of_eq_fst he (engineBytes_wf _ _ _ hm) <;> simp [h1]

theorem execMailboxDoorbell_wf {s : State} (r : HostReq) (tail : Word) (hm : Memory.wf s.mem) :
    AnswersWf (execMailboxDoorbell r tail s) := by
  unfold execMailboxDoorbell
  (repeat' split) <;> simp [hm, mboxWrite_wf]

theorem execFunctionLevelReset_wf {s : State} (vf : Nat) (hm : Memory.wf s.mem) : AnswersWf (execFunctionLevelReset vf s) := by
  unfold execFunctionLevelReset
  extract_lets hit due s1
  have h1 : s1.mem = s.mem := rfl
  rw [answersWf_next]
  split
  · rw [foldl_mem (fun _ _ => by simp), h1]; exact hm
  · rw [setTdi_mem, h1]; exact hm

theorem execLockInterface_wf {s : State} (vf : Nat) (hm : Memory.wf s.mem) : AnswersWf (execLockInterface vf s) := by
  unfold execLockInterface
  extract_lets
  split <;> exact (answersWf_next _).2 hm

theorem execStartInterfaceRequest_wf {s : State} (vf : Nat) (hm : Memory.wf s.mem) :
    AnswersWf (execStartInterfaceRequest vf s) := by
  unfold execStartInterfaceRequest
  (repeat' split) <;> simp [hm]

theorem execQuietModeSlot_wf {s : State} (hm : Memory.wf s.mem) : AnswersWf (execQuietModeSlot s) := by
  simp [execQuietModeSlot, hm]

theorem nvFetch_wf (fuel : Nat) {s : State} (w : CsrWrite) (hm : Memory.wf s.mem) : Memory.wf (State.nvFetch fuel s w).mem := by
  induction fuel generalizing s with
  | zero => exact hm
  | succ fuel ih =>
    unfold State.nvFetch
    dsimp only
    split
    · exact hm
    · split <;> rename_i he <;> have h1 := wf_of_eq_fst he (xlate_wf _ _ _ hm)
      · split <;> rename_i he2 <;> have h2 := wf_of_eq_fst he2 (engineBytes_wf _ _ _ h1)
        · exact ih (by rw [nvTake_mem]; exact h2)
        · exact h2
      · rw [engineStop_mem]; exact h1
      · exact h1

theorem execSysNvdb_wf {s : State} (w : CsrWrite) (hm : Memory.wf s.mem) : AnswersWf (execSysNvdb w s) := by
  unfold execSysNvdb
  (repeat' split) <;> simp [hm, nvFetch_wf]

theorem execNvmeCompletion_wf {s : State} (c : NvmeDone) (hm : Memory.wf s.mem) : AnswersWf (execNvmeCompletion c s) := by
  unfold execNvmeCompletion
  dsimp only
  split
  · simp [hm]
  · split
    · simp [hm]
    · split <;> rename_i he <;> have h1 := wf_of_eq_fst he (xlate_wf _ _ _ hm)
      · simp [h1]
      · split
        · exact (answersWf_next _).2 (by rw [postEvent_mem]; exact poke_wf _ _ _ _ (by rw [setNvPos_mem]; exact h1))
        · exact (answersWf_next _).2 (by rw [setNvPos_mem]; exact h1)

theorem execStorageDma_wf {s : State} (d : StorageReq) (hm : Memory.wf s.mem) : AnswersWf (execStorageDma d s) := by
  unfold execStorageDma
  dsimp only
  split
  · simp [hm]
  · split
    · simp [hm]
    · split
      · simp [hm]
      · split <;> rename_i he <;> have h1 := wf_of_eq_fst he (xlateRange_wf _ _ _ _ _ hm)
        · simp [h1]
        · simp [h1]
        · split
          · exact (answersWf_next _).2 (engineStore_wf _ _ h1)
          · split <;> rename_i he2 <;> have h2 := wf_of_eq_fst he2 (engineBytes_wf _ _ _ h1) <;> simp [h2]

/-! ### Machine/Attest -/

theorem execGetVersion_wf {s : State} (m : SpdmMsg) (hm : Memory.wf s.mem) : AnswersWf (execGetVersion m s) := by
  simp [execGetVersion, hm]

theorem execGetCapabilities_wf {s : State} (m : SpdmMsg) (hm : Memory.wf s.mem) : AnswersWf (execGetCapabilities m s) :=
  answersWf_spdmWhen _ _ (fun _ => by simp) hm

theorem execNegotiateAlgorithms_wf {s : State} (m : SpdmMsg) (hm : Memory.wf s.mem) :
    AnswersWf (execNegotiateAlgorithms m s) :=
  answersWf_spdmWhen _ _ (fun _ => by simp) hm

theorem execGetDigests_wf {s : State} (m : SpdmMsg) (hm : Memory.wf s.mem) : AnswersWf (execGetDigests m s) :=
  answersWf_spdmWhen _ _ (fun _ => by simp) hm

theorem execGetCertificate_wf {s : State} (m : SpdmMsg) (hm : Memory.wf s.mem) : AnswersWf (execGetCertificate m s) :=
  answersWf_spdmWhen _ _ (fun _ => by simp) hm

theorem execChallenge_wf {s : State} (m : SpdmMsg) (hm : Memory.wf s.mem) : AnswersWf (execChallenge m s) :=
  answersWf_spdmWhen _ _ (fun _ => by simp) hm

theorem execGetMeasurements_wf {s : State} (m : SpdmMsg) (hm : Memory.wf s.mem) : AnswersWf (execGetMeasurements m s) := by
  simp only [execGetMeasurements]
  (repeat' split) <;> simp [hm]

theorem execKeyExchange_wf {s : State} (m : SpdmMsg) (hm : Memory.wf s.mem) : AnswersWf (execKeyExchange m s) :=
  answersWf_spdmWhen _ _ (fun _ => by simp) hm

theorem execFinish_wf {s : State} (m : SpdmMsg) (hm : Memory.wf s.mem) : AnswersWf (execFinish m s) :=
  answersWf_spdmWhen _ _ (fun _ => by simp) hm

theorem execHeartbeat_wf {s : State} (m : SpdmMsg) (hm : Memory.wf s.mem) : AnswersWf (execHeartbeat m s) :=
  answersWf_spdmWhen _ _ (fun _ => by simp) hm

theorem execKeyUpdate_wf {s : State} (m : SpdmMsg) (hm : Memory.wf s.mem) : AnswersWf (execKeyUpdate m s) :=
  answersWf_spdmWhen _ _ (fun _ => by simp) hm

theorem execEndSession_wf {s : State} (m : SpdmMsg) (hm : Memory.wf s.mem) : AnswersWf (execEndSession m s) :=
  answersWf_spdmWhen _ _ (fun _ => by simp) hm

theorem execVendorDefinedRequest_wf {s0 : State} (m : VendorMsg) (hm : Memory.wf s0.mem) :
    AnswersWf (execVendorDefinedRequest m s0) := by
  simp only [execVendorDefinedRequest]
  (repeat' split) <;> simp [hm]

/-! ### Machine/BankStep -/

theorem homeRead_wf {s : State} (line off n : Nat) (hm : Memory.wf s.mem) : Memory.wf (s.homeRead line off n).1.mem := by
  simp only [State.homeRead]
  (repeat' split) <;> simp [hm, landBack_wf]

theorem bankWrite_wf {s : State} (kind : PageKind) (pa : Nat) (bs : List Byte) (hm : Memory.wf s.mem) :
    Memory.wf (s.bankWrite kind pa bs).mem := by
  unfold State.bankWrite
  extract_lets line sb s1
  have h1 : Memory.wf s1.mem := by
    unfold s1
    rw [commitCells_mem]; exact recall_wf _ (wholeLine_wf _ hm)
  split
  · simp [h1]
  · exact writeHome_wf _ _ h1
  · exact writeHome_wf _ _ h1

theorem bankRead_wf {s : State} (used : Bool) (pa n : Nat) (hm : Memory.wf s.mem) :
    Memory.wf (s.bankRead used pa n).1.mem := by
  unfold State.bankRead
  grind [homeRead_wf]

theorem stepReads_wf {s : State} (c : BankCmd) (st : BankStep) (hm : Memory.wf s.mem) : Memory.wf (s.stepReads c st).1.mem :=
  foldl_fst_wf (fun _ _ hr => by exact bankRead_wf _ _ _ (bankRead_wf _ _ _ hr)) st.lines hm

theorem stepWrites_wf {s : State} (st : BankStep) (l : List (Nat × Option (List Byte))) (hm : Memory.wf s.mem) :
    Memory.wf (s.stepWrites st l).mem := foldl_wf (fun _ _ hm => bankWrite_wf _ _ _ hm) l hm

theorem setTag_wf {s : State} (gid tag v : Nat) (hm : Memory.wf s.mem) : Memory.wf (s.setTag gid tag v).mem := by
  unfold State.setTag
  (repeat' split) <;> simp [hm, areaPoke_wf]

theorem execGranuleStep_wf {s : State} (cmd step : Nat) (hm : Memory.wf s.mem) : AnswersWf (execGranuleStep cmd step s) := by
  unfold execGranuleStep
  split
  · simp [hm]
  · split
    · simp [hm]
    · split
      · simp [hm]
      · extract_lets r ok s1 c1 s2 l
        have hr : Memory.wf r.1.mem := stepReads_wf _ _ hm
        have h1 : Memory.wf s1.mem := by
          unfold s1
          split
          · exact stepWrites_wf _ _ hr
          · exact hr
        split
        · exact (answersWf_next _).2 (by rw [settle_mem]; exact mvWake_wf _ (setTag_wf _ _ _ h1))
        · exact (answersWf_next _).2 h1

/-! ### Machine/Health -/

theorem clearMemory_wf {s : State} (p : Nat) (hm : Memory.wf s.mem) : Memory.wf (s.clearMemory p).mem := wf_filter _ _ hm

theorem resetPart_wf {s : State} (p : Nat) (hm : Memory.wf s.mem) : Memory.wf (s.resetPart p).mem := by
  unfold State.resetPart
  extract_lets gone s1 s2 out _ s3 s4
  have h2 : Memory.wf s2.mem := by unfold s2 s1; rw [dropDue_mem, foldl_mem (by simp)]; exact hm
  have h4 : Memory.wf s4.mem := by unfold s4; rw [clearSys_mem, clearEngines_mem]; exact clearMemory_wf p (s := s3) h2
  rw [regeometry_mem, foldl_mem (by simp)]
  exact h4

theorem execPartitionReset_wf {s : State} (part : Nat) (hm : Memory.wf s.mem) : AnswersWf (execPartitionReset part s) := by
  simp [execPartitionReset, hm, resetPart_wf]

theorem spareCore_wf {s : State} (core : Nat) (hm : Memory.wf s.mem) : Memory.wf (s.spareCore core).mem := by
  unfold State.spareCore
  extract_lets q blocks lids s1 s2 s3
  have h1 : Memory.wf s1.mem := foldl_wf (fun s l hm => post_wf _ _ _ _ hm) _ hm
  have h3 : Memory.wf s3.mem := by unfold s3 s2; rw [calm_mem, loseCore_mem, foldl_mem (by simp)]; exact h1
  split
  · rw [replaceUnit_mem, clearReader_mem]; exact h3
  · exact h3

theorem sramEffect_wf {s : State} (core : Nat) (e : SramError) (hm : Memory.wf s.mem) : Memory.wf (s.sramEffect core e).mem := by
  cases e with
  | corrected => exact hm
  | register gid l =>
    rw [State.sramEffect]
    split
    · exact trap_wf _ _ _ hm
    · exact hm
  | access gid l id ea =>
    rw [State.sramEffect]
    split
    · rw [send_mem]; exact hm
    · exact hm
  | operation id =>
    rw [State.sramEffect]
    extract_lets s1 _ s2
    have h2 : Memory.wf s2.mem := hm
    split
    · exact h2
    · extract_lets s4 hit
      have h4 : Memory.wf s4.mem := mwaitWake_wf (by split <;> simp [h2])
      rw [settle_mem, freeSlots_mem]
      exact foldl_wf (fun s l hm => trap_wf _ _ _ hm) _ h4
  | l1Line line =>
    rw [State.sramEffect]
    split <;> simp [hm]
  | flushed line => exact hm
  | tlb va => exact hm
  | table lid =>
    rw [State.sramEffect]
    split
    · exact hm
    · rw [endLaunch_mem]; exact post_wf _ _ _ _ hm

theorem execCoreSpare_wf {s : State} (e : CoreEvent) (hm : Memory.wf s.mem) : AnswersWf (execCoreSpare e s) := by
  unfold execCoreSpare
  split <;> simp [hm, spareCore_wf, sramEffect_wf]

theorem execRowSpare_wf {s : State} (u : RamUnit) (f : RamFault) (hm : Memory.wf s.mem) : AnswersWf (execRowSpare u f s) := by
  unfold execRowSpare
  (repeat' split) <;> simp [hm]

theorem cold_wf (s : State) : Memory.wf s.cold.mem := wf_reset

theorem packageReset_wf (s : State) (failed : List Nat) : Memory.wf (s.packageReset failed).mem := by
  unfold State.packageReset
  split
  · exact cold_wf s
  · extract_lets c _ c1 c2
    have hc : Memory.wf c.mem := foldl_wf (fun s k hm => spareCore_wf k hm) _ (by rw [configure_mem]; exact cold_wf s)
    have h2 : Memory.wf c2.mem := foldl_wf (fun s p hm => resetPart_wf p hm) _ (s := c1) hc
    split
    · rw [send_mem]; exact h2
    · exact h2

theorem execPackageReset_wf (s : State) : AnswersWf (execPackageReset s) := (answersWf_next _).2 (packageReset_wf _ _)

theorem execSnapshot_wf {s : State} (hm : Memory.wf s.mem) : AnswersWf (execSnapshot s) := by
  simp [execSnapshot, hm]

theorem execPowerWindow_wf {s0 : State} (p : PowerSample) (hm : Memory.wf s0.mem) : AnswersWf (execPowerWindow p s0) := by
  simp [execPowerWindow, hm]

theorem execThermalStateChange_wf {s : State} (part celsius : Nat) (hm : Memory.wf s.mem) :
    AnswersWf (execThermalStateChange part celsius s) := by
  simp only [execThermalStateChange]
  split <;> simp [hm, execPackageReset_wf]

theorem execWriteBackError_wf {s : State} (e : BadLine) (hm : Memory.wf s.mem) : AnswersWf (execWriteBackError e s) := by
  simp only [execWriteBackError]
  split <;> simp [hm, post_wf]

/-! ### Machine/Return -/

theorem execResultReturn_wf {s : State} (r : Ret) (hm : Memory.wf s.mem) : AnswersWf (execResultReturn r s) := by
  unfold execResultReturn
  dsimp only
  split
  · simp [hm]
  · exact (answersWf_next _).2 (foldl_wf (fun s q hm => placePass_wf q hm) _ (by
      rw [land_mem, foldl_mem (by simp)]; exact hm))

end Sys2Proof.Machine
end

section
/-! # Memory stays canonical (O59) -/
namespace Sys2Proof.Machine

/-- Every word and event keeps memory in its one form. -/
theorem exec_wf {s : State} (i : Instr) (hm : Memory.wf s.mem) : AnswersWf (exec i s) := by
  cases i with
  | add _ | addImm _ | sub _ | subImm _ | mul _ | mulImm _ | mulhi _ | mad _ | fma _ | min _ | minImm _ | max _
  | maxImm _ | abs _ | neg _ | and _ | andImm _ | or _ | orImm _ | xor _ | xorImm _ | not _ | ttbl _ | shl _ | shlImm _
  | shr _ | shrImm _ | rot _ | rotImm _ | popc _ | clz _ | brev _ | bfe _ | bfeImm _ | bfi _ | setp _ | setpImm _
  | sel _ | plop _ | cvt _ | cvtx _ | pack _ | unpack _ | mov _ | movi _ | movs _ | movg _ => exact issueLane_wf _ _ _ hm
  | rcp _ | rsq _ | sqrt _ | exp2 _ | log2 _ | sin _ | cos _ | tanh _ => exact issueSpecial_wf _ _ hm
  | rput _ | rget _ => exact remoteOp_wf _ _ hm
  | lxch f => exact execLxch_wf f hm
  | pagg f => exact execPagg_wf f hm
  | pmask f => exact execPmask_wf f hm
  | xred f => exact execXred_wf f hm
  | qx f => exact execQx_wf f hm
  | div f => exact execDiv_wf f hm
  | bra f => exact execBra_wf f hm
  | brx f => exact execBrx_wf f hm
  | call f => exact execCall_wf f hm
  | callx f => exact execCallx_wf f hm
  | ret f => exact execRet_wf f hm
  | exit f => exact execExit_wf f hm
  | yield f => exact execYield_wf f hm
  | trap f => exact execTrap_wf f hm
  | bkpt f => exact execBkpt_wf f hm
  | mset f => exact execMset_wf f hm
  | reconv f => exact execReconv_wf f hm
  | bar f => exact execBar_wf f hm
  | arrive f => exact execArrive_wf f hm
  | jset f => exact execJset_wf f hm
  | jread f => exact execJread_wf f hm
  | ld f => exact execLd_wf f hm
  | st f => exact execSt_wf f hm
  | lds f => exact execLds_wf f hm
  | sts f => exact execSts_wf f hm
  | ldss f => exact execLdss_wf f hm
  | stss f => exact execStss_wf f hm
  | stn f => exact execStn_wf f hm
  | repark f => exact execRepark_wf f hm
  | locate f => exact execLocate_wf f hm
  | parkq f => exact execParkq_wf f hm
  | rstld f => exact execRstld_wf f hm
  | ldfe f => exact execLdfe_wf f hm
  | stfe f => exact execStfe_wf f hm
  | feset f => exact execFeset_wf f hm
  | tst f => exact execTst_wf f hm
  | retract f => exact execRetract_wf f hm
  | commit f => exact execCommit_wf f hm
  | atom f => exact execAtom_wf f hm
  | atomc f => exact execAtomc_wf f hm
  | atoms f => exact execAtoms_wf f hm
  | red f => exact execRed_wf f hm
  | fence f => exact execFence_wf f hm
  | waitc f => exact execWaitc_wf f hm
  | clean f => exact execClean_wf f hm
  | inval f => exact execInval_wf f hm
  | pref f => exact execPref_wf f hm
  | mvec f => exact execMvec_wf f hm
  | mvwait f => exact execMvwait_wf f hm
  | mma f => exact execMma_wf f hm
  | accz f => exact execAccz_wf f hm
  | accld f => exact execAccld_wf f hm
  | accmv f => exact execAccmv_wf f hm
  | accst f => exact execAccst_wf f hm
  | accrel f => exact execAccrel_wf f hm
  | mmq f => exact execMmq_wf f hm
  | opfence f => exact execOpfence_wf f hm
  | mwait f => exact execMwait_wf f hm
  | tidld f => exact execTidld_wf f hm
  | tidinv f => exact execTidinv_wf f hm
  | cpy f => exact execCpy_wf f hm
  | cpyg f => exact execCpyg_wf f hm
  | cpys f => exact execCpys_wf f hm
  | cpywait f => exact execCpywait_wf f hm
  | cpydec f => exact execCpydec_wf f hm
  | strmb f => exact execStrmb_wf f hm
  | strmu f => exact execStrmu_wf f hm
  | strmq f => exact execStrmq_wf f hm
  | launch f => exact execLaunch_wf f hm
  | lwait f => exact execLwait_wf f hm
  | tspawn f => exact execTspawn_wf f hm
  | tsignal f => exact execTsignal_wf f hm
  | tdone f => exact execTdone_wf f hm
  | stloop f => exact execStloop_wf f hm
  | stage f => exact execStage_wf f hm
  | waitl f => exact execWaitl_wf f hm
  | stend f => exact execStend_wf f hm
  | colload f => exact execColload_wf f hm
  | colrun f => exact execColrun_wf f hm
  | colwait f => exact execColwait_wf f hm
  | colq f => exact execColq_wf f hm
  | recirc f => exact execRecirc_wf f hm
  | csrr f => exact execCsrr_wf f hm
  | csrw f => exact execCsrw_wf f hm
  | eret f => exact execEret_wf f hm
  | halt f => exact execHalt_wf f hm
  | preempt f => exact execPreempt_wf f hm
  | keyld f => exact execKeyld_wf f hm
  | tlbinv f => exact execTlbinv_wf f hm
  | tlbsync f => exact execTlbsync_wf f hm
  | tlblock f => exact execTlblock_wf f hm
  | tlbunlk f => exact execTlbunlk_wf f hm
  | tlbpre f => exact execTlbpre_wf f hm
  | resume f => exact execResume_wf f hm
  | resultReturn r => exact execResultReturn_wf r hm
  | lateCause l => exact execLateCause_wf l hm
  | heldArrival a => exact execHeldArrival_wf a hm
  | barrierTimeOut w => exact execBarrierTimeOut_wf w hm
  | yieldExpiry w => exact execYieldExpiry_wf w hm
  | homeWriteAccept w => exact execHomeWriteAccept_wf w hm
  | parkNotice n => exact execParkNotice_wf n hm
  | parkWriteBackLand b => exact execParkWriteBackLand_wf b hm
  | flushedReductionApply r => exact execFlushedReductionApply_wf r hm
  | watcherReport w => exact execWatcherReport_wf w hm
  | monitorPoll w => exact execMonitorPoll_wf w hm
  | waitcTimeOut w => exact execWaitcTimeOut_wf w hm
  | granuleStep cmd step => exact execGranuleStep_wf cmd step hm
  | matrixOpStart op => exact execMatrixOpStart_wf op hm
  | matrixOpComplete op => exact execMatrixOpComplete_wf op hm
  | matrixSignTimeOut w => exact execMatrixSignTimeOut_wf w hm
  | copyCommandComplete cmd => exact execCopyCommandComplete_wf cmd hm
  | streamPopResume w => exact execStreamPopResume_wf w hm
  | streamPushResume w => exact execStreamPushResume_wf w hm
  | blockRetire b => exact execBlockRetire_wf b hm
  | blockSave b => exact execBlockSave_wf b hm
  | blockRestore b => exact execBlockRestore_wf b hm
  | launchEnd lid => exact execLaunchEnd_wf lid hm
  | taskPop gid => exact execTaskPop_wf gid hm
  | taskComplete gid => exact execTaskComplete_wf gid hm
  | iterationHandout w => exact execIterationHandout_wf w hm
  | stageUpdateVisible u => exact execStageUpdateVisible_wf u hm
  | stageWaitTimeOut w => exact execStageWaitTimeOut_wf w hm
  | pageFault f => exact execPageFault_wf f hm
  | nodeStart n => exact execNodeStart_wf n hm
  | nodeComplete n => exact execNodeComplete_wf n hm
  | chunkArrival port c => exact execChunkArrival_wf port c hm
  | remoteRequest r => exact execRemoteRequest_wf r hm
  | remoteTransferComplete d => exact execRemoteTransferComplete_wf d hm
  | flitReceive port f => exact execFlitReceive_wf port f hm
  | linkDown port => exact execLinkDown_wf port hm
  | peerSilence x => exact execPeerSilence_wf x hm
  | linkTrained t => exact execLinkTrained_wf t hm
  | drainTimeOut dom win => exact execDrainTimeOut_wf dom win hm
  | reconfigurationTimeOut dom win => exact execReconfigurationTimeOut_wf dom win hm
  | requestResend dom win => exact execRequestResend_wf dom win hm
  | controllerReply payload => exact execControllerReply_wf payload hm
  | neighbourSolicitation n => exact execNeighbourSolicitation_wf n hm
  | controlFrameReceive f => exact execControlFrameReceive_wf f hm
  | mailboxDoorbell r tail => exact execMailboxDoorbell_wf r tail hm
  | optPortcfgWrite w => exact execOptPortcfgWrite_wf w hm
  | optDomctlWrite w => exact execOptDomctlWrite_wf w hm
  | lndGateLock w => exact execLndGateLock_wf w hm
  | sysHostirq w => exact execSysHostirq_wf w hm
  | sysNvdb w => exact execSysNvdb_wf w hm
  | registerWrite w => exact execRegisterWrite_wf w hm
  | eventModeEntry quad => exact execEventModeEntry_wf quad hm
  | hostWrite r data => exact execHostWrite_wf r data hm
  | hostRead r n tag => exact execHostRead_wf r n tag hm
  | functionLevelReset vf => exact execFunctionLevelReset_wf vf hm
  | lockInterface vf => exact execLockInterface_wf vf hm
  | nvmeCompletion c => exact execNvmeCompletion_wf c hm
  | getVersion m => exact execGetVersion_wf m hm
  | getCapabilities m => exact execGetCapabilities_wf m hm
  | negotiateAlgorithms m => exact execNegotiateAlgorithms_wf m hm
  | getDigests m => exact execGetDigests_wf m hm
  | getCertificate m => exact execGetCertificate_wf m hm
  | challenge m => exact execChallenge_wf m hm
  | getMeasurements m => exact execGetMeasurements_wf m hm
  | keyExchange m => exact execKeyExchange_wf m hm
  | finish m => exact execFinish_wf m hm
  | heartbeat m => exact execHeartbeat_wf m hm
  | keyUpdate m => exact execKeyUpdate_wf m hm
  | endSession m => exact execEndSession_wf m hm
  | vendorDefinedRequest m => exact execVendorDefinedRequest_wf m hm
  | packageReset => exact execPackageReset_wf s
  | partitionReset part => exact execPartitionReset_wf part hm
  | snapshot => exact execSnapshot_wf hm
  | powerWindow p => exact execPowerWindow_wf p hm
  | thermalStateChange part celsius => exact execThermalStateChange_wf part celsius hm
  | coreSpare e => exact execCoreSpare_wf e hm
  | rowSpare u f => exact execRowSpare_wf u f hm
  | writeBackError e => exact execWriteBackError_wf e hm
  | copyLineArrival cmd piece => exact execCopyLineArrival_wf cmd piece hm
  | operandFetchEnd op => exact execOperandFetchEnd_wf op hm
  | startInterfaceRequest vf => exact execStartInterfaceRequest_wf vf hm
  | quietModeSlot => exact execQuietModeSlot_wf hm
  | storageDma d => exact execStorageDma_wf d hm

/-- A step keeps memory in its one form: the turn does, and so does the word or event that the turn runs. -/
theorem step_wf {s t : State} (hm : Memory.wf s.mem) (h : step s = .next t) : Memory.wf t.mem := by
  have h1 : Memory.wf s.turn.state.mem := turn_wf hm
  unfold step at h
  split at h
  · next u hu =>
    cases h
    rw [hu] at h1; exact h1
  · next i u hu =>
    rw [hu] at h1; exact exec_wf i h1 t h

end Sys2Proof.Machine

open Sys2Proof.Machine in
/-- Settles O59: memory is written by `Memory.writeBytes` alone, which keeps it canonical, and every step's functions keep it so. -/
theorem memoryStaysCanonical : Obligations.MemoryStaysCanonical := by
  unfold Obligations.MemoryStaysCanonical
  intro s t hm h
  exact step_wf hm h
end

section
/-! # Control registers (O44): the CSRW clause fails

CSRW releases its lanes' earlier writes and only then reads its operand (`execCsrw`), while the clause takes the operand as it reads
before the release. The release may settle an outstanding write of that register: a store that it drains joins its return to another of
the same instruction, and the register writes that the store's own return carried are gone. The counterexample is such a state. The
outstanding write is one of an ACCMV of 64-bit elements, which a read mixes in as 0 whatever the free choices are (`mixWord`), so the two
reads differ for every `Config.choice`. -/
namespace Sys2Proof.Machine.CsrwRelease
open Sys2Proof.Claims

/-- A store on its way home whose return, that of instruction 7 of the group of system core 0, carries register writes. -/
def store (agent : Agent) (writes : List RegWrite) : Instr :=
  .homeWriteAccept ⟨agent, 0, none, 0, .shared, false, [], some ⟨7, 36864, none, 0, writes, []⟩,
    false, none, false⟩

/-- Instruction 7 as an ACCMV of 64-bit elements. -/
def wideMove : MatOp :=
  ⟨7, 0, 36864, 0, 0, .accmv ⟨⟨false, false, false, 7⟩, 0, 0, 0, 0, 0, 3⟩, 0, false, true, true, [], false, 0, 0, [], [], ⟨0, 0⟩⟩

/-- Where system core 0 issues. -/
def place : Cx := ⟨36864, 1, 0x10008, 1, 1, 0, 0⟩

/-- Lane 0 of the system core's group, with 1 in v4. -/
def lane : Lane := { Lane.fresh with live := true, pc := 0x10008, pos := 1, left := 1, v := [(4, 1)] }

/-- CSRW of register 0x05 from the pair v4, v5. -/
def word : EF := ⟨⟨false, false, false, 7⟩, 4, 0, 0, 0, 0x05, 0⟩

/-- System core 0 of partition 1 issues while its own store, which will write 0 to v4, and a store of the host are on their way; both
returns are those of instruction 7. -/
def state : State :=
  { State.reset with
    cur := some place
    groups := [(36864, { Group.fresh with part := 1, sys := true, lanes := [lane] })]
    eng := { State.reset.eng with mat := [wideMove] }
    due := [store (.sysCore 0) [.v 0 4 0], store (.host 1) []] }

/-- The register's key. -/
def key : Nat := csrPart 1 0x05

/-- What the next state of an answer holds in a control register. -/
def csrAfter (a : Answer) (k : Nat) : Option DWord :=
  match a with
  | .next t => some (t.csr k)
  | .fault _ => none
  | .refused _ => none

/-- The state meets the hypotheses of the clause; the last, on the operand, follows from `operand_before`. -/
theorem admitted :
    LanesExist state place ∧ isSysGid place.gid = true ∧ (state.group place.gid).sys = true
    ∧ Issues state place word.ctl none (vNames true word.a) 0
    ∧ state.csrHome (state.group place.gid).part (quadOfGid place.gid) word.imm8.toNat
        ((state.start place word.ctl).csrInst place.gid word) = some key := by decide +kernel

/-- Before the release the operand reads as 0. -/
theorem operand_before :
    (state.start place word.ctl).readVW place.gid (issOf state place word.ctl).low 1 true word.a.toNat = 0 := by
  decide +kernel

/-- After the release it reads as 1, which the register then holds. -/
theorem csrAfter_word : csrAfter (exec (.csrw word) state) key = some 1 := by decide +kernel

end Sys2Proof.Machine.CsrwRelease

open Sys2Proof.Machine Sys2Proof.Machine.CsrwRelease in
/-- Refutes O44 by its CSRW clause: in `CsrwRelease.state` the word stores 1, the operand as it reads after the word's release, where the
clause asks for 0, the operand as it reads before it. The state is chosen so that no free choice matters; it is not one that a run is known
to reach, and the statement is of every state. -/
theorem not_controlRegisters : ¬ Obligations.ControlRegisters := by
  unfold Obligations.ControlRegisters
  rintro ⟨words, -⟩
  obtain ⟨hlanes, hsys, hgroup, hissue, hhome⟩ := admitted
  obtain ⟨-, csrw⟩ := words word state place key hlanes hsys hgroup hhome
  obtain ⟨t, hnext, -, -, -, hval⟩ := csrw hissue (by decide) (by rw [operand_before]; decide)
  have hstored : csrAfter (.next t) key = some 1 := hnext ▸ csrAfter_word
  have hone : t.csr key = 1 := Option.some.inj hstored
  rw [hval, operand_before] at hone
  exact absurd hone (by decide)
end

section
/-! # What the memory system leaves alone (R14, R165)

Accesses that home accepts, their acknowledgements and the releases that bring them about change memory, the memory system, what is in
flight, system registers and counters, and which free choice comes next; lanes, blocks and everything else stand. `State.outer` is what
stands, and each lemma is about one function of the model, in the order of the model's definitions. -/
namespace Sys2Proof.Machine

/-- The state with memory, the memory system, what is in flight, the system registers and the free choices blanked. -/
def State.outer (s : State) : State := { s with mem := [], ms := State.reset.ms, due := [], sys := State.reset.sys, free := 0 }

theorem groups_of_outer {s t : State} (h : t.outer = s.outer) : t.groups = s.groups := (congrArg State.groups h :)
theorem blocks_of_outer {s t : State} (h : t.outer = s.outer) : t.blocks = s.blocks := (congrArg State.blocks h :)

@[simp] theorem ite_outer (c : Prop) [Decidable c] (s t : State) :
    (if c then s else t).outer = if c then s.outer else t.outer := apply_ite State.outer c s t

/-- A fold of actions that leave the outer part alone leaves it alone. -/
@[simp] theorem foldl_outer {α : Type} {f : State → α → State} (hf : ∀ s a, (f s a).outer = s.outer) (l : List α) (s : State) :
    (l.foldl f s).outer = s.outer := by
  induction l generalizing s with
  | nil => rfl
  | cons a l ih => exact (ih _).trans (hf s a)

/-- The same of actions that also carry a result. -/
theorem foldl_fst_outer {α β : Type} {f : State × β → α → State × β} (hf : ∀ r a, (f r a).1.outer = r.1.outer)
    (l : List α) (r : State × β) : (l.foldl f r).1.outer = r.1.outer := by
  induction l generalizing r with
  | nil => rfl
  | cons a l ih => exact (ih _).trans (hf r a)

/-! ### Plain updates -/

theorem setSys_outer (s : State) (x : SysState) : ({ s with sys := x } : State).outer = s.outer := by rfl
@[simp] theorem setMem_outer (s : State) (m : Memory) : (s.setMem m).outer = s.outer := by rfl
@[simp] theorem setCopies_outer (s : State) (l : List Copy) : (s.setCopies l).outer = s.outer := by rfl
@[simp] theorem setParks_outer (s : State) (l : List ParkRec) : (s.setParks l).outer = s.outer := by rfl
@[simp] theorem setCells_outer (s : State) (l : List TCell) : (s.setCells l).outer = s.outer := by rfl
@[simp] theorem setCurd_outer (s : State) (l : List CurdWord) : (s.setCurd l).outer = s.outer := by rfl
@[simp] theorem setTlb_outer (s : State) (l : List TlbEntry) : (s.setTlb l).outer = s.outer := by rfl
@[simp] theorem setCsr_outer (s : State) (k : Nat) (v : DWord) : (s.setCsr k v).outer = s.outer := by rfl
@[simp] theorem send_outer (s : State) (i : Instr) : (s.send i).outer = s.outer := by rfl
@[simp] theorem count_outer (s : State) (k : Nat) : (s.count k).outer = s.outer := by rfl
@[simp] theorem stamp_outer (s : State) (line : Nat) : (s.stamp line).outer = s.outer := by rfl
@[simp] theorem logEvent_outer (s : State) (kind unit : Nat) : (s.logEvent kind unit).outer = s.outer := by
  exact setSys_outer s _
@[simp] theorem dropCopies_outer (s : State) (line : Nat) (f : Copy → Bool) : (s.dropCopies line f).outer = s.outer := by rfl
@[simp] theorem observe_outer (s : State) (a n : Nat) (who : Option LaneName) : (s.observe a n who).outer = s.outer := by rfl
@[simp] theorem unpark_outer (s : State) (line : Nat) : (s.unpark line).outer = s.outer := by rfl
@[simp] theorem lateAt_outer (s : State) (x : Ret) (lane cause : Nat) (info : DWord) :
    (s.lateAt x lane cause info).outer = s.outer := by rfl
@[simp] theorem dropOwn_outer (s : State) (core line : Nat) : (s.dropOwn core line).outer = s.outer := by rfl
@[simp] theorem landMove_outer (s : State) (line : Nat) : (s.landMove line).outer = s.outer := by rfl
@[simp] theorem dropStale_outer (s : State) (core line : Nat) (bs : List StoreByte) :
    (s.dropStale core line bs).outer = s.outer := by rfl
@[simp] theorem parkInvalidate_outer (s : State) (line : Nat) (writer : Option Nat) (readers : BitVec 384) (site : Site) :
    (s.parkInvalidate line writer readers site).outer = s.outer := by rfl
@[simp] theorem tlbInstall_outer (s : State) (w : Walker) (l : Leaf) (lock : Option (BlockRef × Nat)) :
    (s.tlbInstall w l lock).outer = s.outer := by rfl

/-! ### Home -/

@[simp] theorem logError_outer (s : State) (line kind : Nat) : (s.logError line kind).outer = s.outer := by
  simp [State.logError]

@[simp] theorem evalMonitors_outer (s : State) (line : Nat) : (s.evalMonitors line).outer = s.outer := by
  simp [State.evalMonitors]

@[simp] theorem putHome_outer (s : State) (line : Nat) (bs : List StoreByte) : (s.putHome line bs).outer = s.outer := by
  simp [State.putHome]

@[simp] theorem writeHome_outer (s : State) (line : Nat) (bs : List StoreByte) : (s.writeHome line bs).outer = s.outer := by
  simp [State.writeHome]

@[simp] theorem recall_outer (s : State) (line : Nat) : (s.recall line).outer = s.outer := by
  unfold State.recall
  split <;> simp

@[simp] theorem commitCells_outer (s : State) (f : TCell → Bool) : (s.commitCells f).outer = s.outer := by
  unfold State.commitCells
  rw [foldl_outer] <;> simp

@[simp] theorem writeBack_outer (s : State) (c : Copy) : (s.writeBack c).outer = s.outer := by simp [State.writeBack]

@[simp] theorem l2WriteBack_outer (s : State) (line : Nat) : (s.l2WriteBack line).outer = s.outer := by
  simp [State.l2WriteBack]

theorem makeRoom_outer {s t : State} {site : Site} {line : Nat} (h : s.makeRoom site line = some t) : t.outer = s.outer := by
  unfold State.makeRoom at h
  dsimp only at h
  split at h
  · cases h; rfl
  · split at h
    · cases h
    · next v _ => cases h; exact writeBack_outer s v

@[simp] theorem putCopy_outer (s : State) (c : Copy) : (s.putCopy c).outer = s.outer := by
  unfold State.putCopy
  split
  · rfl
  · split
    · rfl
    · next hr => rw [setCopies_outer, makeRoom_outer hr]

@[simp] theorem ack_outer (s : State) (r : Option Ret) (tags : List (Nat × BitVec 16)) : (s.ack r tags).outer = s.outer := by
  unfold State.ack
  split
  · rfl
  · split <;> rfl

@[simp] theorem passCopies_outer (s : State) (ag : Agent) (line : Nat) (bs : List StoreByte) :
    (s.passCopies ag line bs).outer = s.outer := by
  unfold State.passCopies
  split <;> rfl

@[simp] theorem perform1_outer (s : State) (w : WritePkt) (bs : List StoreByte) (last : Bool) :
    (s.perform1 w bs last).1.outer = s.outer := by
  unfold State.perform1
  extract_lets home
  have hh : ∀ t : State, (home t).1.outer = t.outer := fun t => by
    unfold home
    split <;> simp
  split
  · simp
  · simp [hh]
  · dsimp only
    split
    · simp [hh]
    · split
      · simp
      · split
        · exact hh s
        · split
          · simp [hh]
          · split
            · exact hh s
            · next hr => rw [setCopies_outer, makeRoom_outer hr]

@[simp] theorem redWord_outer (s : State) (r : FlushedRed) (w : RedWord) : (s.redWord r w).outer = s.outer := by
  unfold State.redWord
  split <;> simp

@[simp] theorem redWords_outer (s : State) (r : FlushedRed) : (s.redWords r).1.outer = s.outer :=
  foldl_fst_outer (fun x w => redWord_outer x.1 r w) r.words (s, [])

/-! ### Parking -/

@[simp] theorem decline_outer (s : State) (r : ParkRec) : (s.decline r).outer = s.outer := by simp [State.decline]

@[simp] theorem parkHere_outer (s : State) (r : ParkRec) : (s.parkHere r).outer = s.outer := by
  unfold State.parkHere
  rw [setParks_outer]
  split
  · next hr => rw [makeRoom_outer hr]; simp
  · simp

@[simp] theorem pin_outer (fuel : Nat) (s : State) (r : ParkRec) : (State.pin fuel s r).outer = s.outer := by
  induction fuel generalizing s r with
  | zero => exact decline_outer s r
  | succ fuel ih =>
    unfold State.pin
    extract_lets spill s1
    have hspill : ∀ t v, (spill t v).outer = t.outer := fun t v => by
      unfold spill; rw [count_outer]; exact ih ..
    have h1 : s1.outer = s.outer := by
      unfold s1
      split
      · split
        · exact hspill ..
        · rfl
      · rfl
    split
    · simp [h1]
    · next s2 _ =>
      have h2 : s2.outer = s.outer := h1
      split
      · simp [h2]
      · split
        · simp [ih, h2]
        · simp [hspill, h2]

@[simp] theorem parkLine_outer (s : State) (line : Nat) (writer : Option Nat) (lid : Nat) (readers : BitVec 384)
    (kind : PageKind) (d : BitVec 1024) : (s.parkLine line writer lid readers kind d).outer = s.outer := by
  simp [State.parkLine]

@[simp] theorem setParkData_outer (s : State) (r : ParkRec) (d : BitVec 1024) : (s.setParkData r d).outer = s.outer := by
  simp [State.setParkData]

@[simp] theorem parkBytes_outer (s : State) (n : ParkNote) (bs : List StoreByte) : (s.parkBytes n bs).outer = s.outer := by
  simp only [State.parkBytes]
  split <;> simp

@[simp] theorem landBack_outer (s : State) (line : Nat) : (s.landBack line).outer = s.outer := by
  unfold State.landBack
  split <;> simp

/-! ### What home accepts -/

@[simp] theorem finishWrite_outer (s : State) (w : WritePkt) : (s.finishWrite w).outer = s.outer := by
  unfold State.finishWrite
  split <;> simp

@[simp] theorem restBytes_outer (s : State) (n : ParkNote) (bs : List StoreByte) : (s.restBytes n bs).outer = s.outer := by
  unfold State.restBytes
  split <;> simp

@[simp] theorem finishNote_outer (s : State) (n : ParkNote) (first : Bool) : (s.finishNote n first).outer = s.outer := by
  simp [State.finishNote]

@[simp] theorem wholeLine_outer (s : State) (line : Nat) : (s.wholeLine line).outer = s.outer := by
  unfold State.wholeLine
  split
  · rfl
  · dsimp only
    split
    · rw [finishWrite_outer]; rfl
    · split
      · rw [finishNote_outer]; rfl
      all_goals rfl
    · rfl

@[simp] theorem acceptWrite_outer (s : State) (w : WritePkt) : (s.acceptWrite w).outer = s.outer := by
  simp [State.acceptWrite]

@[simp] theorem acceptHalf_outer (s : State) (w : WritePkt) (h : Bool) : (s.acceptHalf w h).outer = s.outer := by
  simp [State.acceptHalf]

@[simp] theorem acceptNote_outer (s : State) (n : ParkNote) : (s.acceptNote n).outer = s.outer := by
  unfold State.acceptNote
  split <;> simp

@[simp] theorem acceptRed_outer (s : State) (r : FlushedRed) : (s.acceptRed r).outer = s.outer := by
  unfold State.acceptRed
  extract_lets s0 s1
  have h1 : s1.outer = s.outer := by
    unfold s1 s0
    split <;> simp
  split
  · next s2 _ _ =>
    have h2 : s2.outer = s.outer := (logError_outer ..).trans h1
    split <;> simp [h2]
  · next q _ =>
    have hq : q.1.outer = s.outer := (redWords_outer ..).trans ((commitCells_outer ..).trans h1)
    simp [hq]

@[simp] theorem accept1_outer (s : State) (a : Instr) : (s.accept1 a).outer = s.outer := by
  unfold State.accept1
  split <;> simp

/-! ### What one core has in flight -/

@[simp] theorem drainGo_outer (fuel : Nat) (s : State) (f : Nat → Nat → Nat → Bool) :
    (State.drainGo fuel s f).outer = s.outer := by
  induction fuel generalizing s with
  | zero => rfl
  | succ fuel ih =>
    unfold State.drainGo
    split
    · rfl
    · split
      · rfl
      · rw [ih, accept1_outer]; rfl

@[simp] theorem drain_outer (s : State) (f : Nat → Nat → Nat → Bool) : (s.drain f).outer = s.outer := drainGo_outer ..

@[simp] theorem drainLine_outer (s : State) (key line : Nat) : (s.drainLine key line).outer = s.outer := drain_outer ..

@[simp] theorem flushWord_outer (s : State) (w : CurdWord) : (s.flushWord w).outer = s.outer := by simp [State.flushWord]

@[simp] theorem flushCurd_outer (s : State) (f : CurdWord → Bool) : (s.flushCurd f).outer = s.outer := by
  simp [State.flushCurd]

@[simp] theorem flushOwn_outer (s : State) (core a n : Nat) (who : LaneName) : (s.flushOwn core a n who).outer = s.outer :=
  flushCurd_outer ..

@[simp] theorem release_outer (s : State) (key : Nat) : (s.release key).outer = s.outer := by simp [State.release]

/-! ### Engines and translation -/

@[simp] theorem engineRead_outer (s : State) (line off n : Nat) (kind : PageKind) :
    (s.engineRead line off n kind).1.outer = s.outer := by
  unfold State.engineRead
  dsimp only
  (repeat' split) <;> simp

@[simp] theorem readEntry_outer (s : State) (p a : Nat) : (s.readEntry p a).1.outer = s.outer := by
  have h := engineRead_outer s (lineOf (paddr p a)) (a % 128) 8 .shared
  unfold State.readEntry
  split
  · rfl
  · split <;> next he => rw [he] at h; exact h

@[simp] theorem walkFrom_outer (s : State) (p va level frame : Nat) : (s.walkFrom p va level frame).1.outer = s.outer := by
  induction level generalizing s frame with
  | zero =>
    have h1 := readEntry_outer s p (frame + 8 * vaIndex va 0)
    unfold State.walkFrom
    split
    · next he => rw [he] at h1; exact h1
    · next he =>
      rw [he] at h1
      split <;> exact h1
  | succ level ih =>
    have h1 := readEntry_outer s p (frame + 8 * vaIndex va (level + 1))
    unfold State.walkFrom
    split
    · next he => rw [he] at h1; exact h1
    · next he =>
      rw [he] at h1
      split
      · exact h1
      · exact (ih ..).trans h1
      · exact h1

@[simp] theorem xlate_outer (s : State) (w : Walker) (va : DWord) (acc : Access) : (s.xlate w va acc).1.outer = s.outer := by
  unfold State.xlate
  dsimp only
  split
  · rfl
  · split
    · rfl
    · split
      · simp
      · split
        · rfl
        · have h := walkFrom_outer s w.part va.toNat 3 w.root
          split <;> next he => rw [he] at h; simpa using h

end Sys2Proof.Machine
end

section
/-! # Bytes of a line (R2, R14) -/
namespace Sys2Proof.Machine

/-- Bit `8k + i` of the number that bytes hold is bit `i` of byte `k`. -/
theorem testBit_leNat (bs : List Byte) (k i : Nat) (hi : i < 8) : (leNat bs).testBit (8 * k + i) = (bs.getD k 0).getLsbD i := by
  induction bs generalizing k with
  | nil => simp [leNat]
  | cons b bs ih =>
    have hb : b.toNat < 2 ^ 8 := b.isLt
    have split : leNat (b :: bs) = 2 ^ 8 * leNat bs + b.toNat := by rw [leNat]; omega
    rw [split, Nat.testBit_two_pow_mul_add _ hb]
    cases k with
    | zero => rw [if_pos (by omega)]; simp [BitVec.testBit_toNat]
    | succ k =>
      rw [if_neg (by omega), show 8 * (k + 1) + i - 8 = 8 * k + i by omega, ih]; rfl

/-- Byte `k` of the bytes of a number. -/
theorem getD_leBytes (n x k : Nat) (h : k < n) : (leBytes n x).getD k 0 = BitVec.ofNat 8 (x / 256 ^ k) := by
  induction n generalizing x k with
  | zero => omega
  | succ n ih =>
    cases k with
    | zero => simp [leBytes]
    | succ k =>
      show (leBytes n (x / 256)).getD k 0 = _
      rw [ih _ _ (by omega), Nat.div_div_eq_div_mul, Nat.pow_succ']

/-- A byte of a line's value is the byte of memory at its place. -/
theorem byteOf_lineAt (m : Memory) (line k : Nat) (h : k < 128) : byteOf (lineAt m line) k = Memory.read m (128 * line + k) := by
  apply BitVec.eq_of_getLsbD_eq
  intro i hi
  have hbit : 8 * k + i < 1024 := by omega
  rw [byteOf, lineAt, BitVec.getLsbD_extractLsb', BitVec.getLsbD_ofNat, testBit_leNat _ _ _ hi]
  simp [hi, hbit, Memory.readBytes, h]

/-- Memory after a write of a line reads, in the line, the bytes of the value written. -/
theorem read_setLineAt_same (m : Memory) (line : Nat) (d : BitVec 1024) (a : Nat) (h : lineOf a = line) :
    Memory.read (setLineAt m line d) a = byteOf d (a % 128) := by
  have hlow : 128 * line ≤ a := by unfold lineOf at h; omega
  have hin : a - 128 * line = a % 128 := by unfold lineOf at h; omega
  have hk : a % 128 < 128 := Nat.mod_lt _ (by omega)
  rw [setLineAt, read_writeBytes, leBytes_length, if_pos (by omega), hin, getD_leBytes _ _ _ hk]
  apply BitVec.eq_of_toNat_eq
  rw [byteOf, BitVec.extractLsb'_toNat, Nat.shiftRight_eq_div_pow, BitVec.toNat_ofNat,
    show 256 = 2 ^ 8 by rfl, ← Nat.pow_mul]

/-- Memory after a write of a line. -/
theorem read_setLineAt (m : Memory) (line : Nat) (d : BitVec 1024) (a : Nat) :
    Memory.read (setLineAt m line d) a = if lineOf a = line then byteOf d (a % 128) else Memory.read m a := by
  split
  · next h => exact read_setLineAt_same m line d a h
  · next h => exact read_setLineAt_other m line d a h

/-- One byte put in a line. -/
theorem byteOf_setByteOf (d : BitVec 1024) (off k : Nat) (b : Byte) (ho : off < 128) (hk : k < 128) :
    byteOf (setByteOf d off b) k = if k = off then b else byteOf d k := by
  have mask : ∀ i, (0xFF : BitVec 1024).getLsbD i = decide (i < 8) := fun i => by
    rw [show (0xFF : BitVec 1024) = BitVec.ofNat 1024 (2 ^ 8 - 1) by rfl, BitVec.getLsbD_ofNat, Nat.testBit_two_pow_sub_one]
    by_cases h : i < 8
    · simp [h, show i < 1024 by omega]
    · simp [h]
  apply BitVec.eq_of_getLsbD_eq
  intro i hi
  have hbit : 8 * k + i < 1024 := by omega
  simp only [byteOf, setByteOf, BitVec.getLsbD_extractLsb', BitVec.getLsbD_or, BitVec.getLsbD_and, BitVec.getLsbD_not,
    BitVec.getLsbD_shiftLeft, mask, BitVec.getLsbD_setWidth, hi, hbit, decide_true, Bool.true_and]
  split
  · next h =>
    subst h
    simp [show ¬ 8 * k + i < 8 * k by omega, hi, show i < 1024 by omega]
  · next h =>
    have hd : (8 * k + i < 8 * off) ∨ (8 ≤ 8 * k + i - 8 * off) := by omega
    rcases hd with hlt | hge
    · simp [hlt, hi]
    · simp [show ¬ 8 * k + i - 8 * off < 8 by omega, BitVec.getLsbD_of_ge b _ hge, hi]

/-- A byte that a write does not name stands. -/
theorem byteOf_putBytes_other (bs : List StoreByte) (d : BitVec 1024) (k : Nat) (hk : k < 128) (hin : ∀ b ∈ bs, b.off < 128)
    (h : ∀ b ∈ bs, k ≠ b.off) : byteOf (putBytes d bs) k = byteOf d k := by
  induction bs generalizing d with
  | nil => rfl
  | cons b bs ih =>
    rw [List.forall_mem_cons] at hin h
    exact (ih _ hin.2 h.2).trans (by rw [byteOf_setByteOf _ _ _ _ hin.1 hk, if_neg h.1])

/-- Each byte of a write stands where the write puts it. -/
theorem byteOf_putBytes_same (bs : List StoreByte) (d : BitVec 1024) (hn : (bs.map fun b => b.off).Nodup)
    (hin : ∀ b ∈ bs, b.off < 128) (b : StoreByte) (hb : b ∈ bs) : byteOf (putBytes d bs) b.off = b.val := by
  induction bs generalizing d with
  | nil => cases hb
  | cons x bs ih =>
    rw [List.map_cons, List.nodup_cons] at hn
    rw [List.forall_mem_cons] at hin
    rcases List.mem_cons.mp hb with rfl | hb
    · have hx : ∀ y ∈ bs, b.off ≠ y.off := fun y hy e => hn.1 (e ▸ List.mem_map_of_mem hy)
      refine (byteOf_putBytes_other bs _ _ hin.1 hin.2 hx).trans ?_
      rw [byteOf_setByteOf _ _ _ _ hin.1 hin.1, if_pos rfl]
    · exact ih _ hn.2 hin.2 hb

end Sys2Proof.Machine
end

section
/-! # Memory at rest (R165, R198, R246)

With nothing cached, parked, tentative, resting or on its way, the operations that first bring such things home do nothing. -/
namespace Sys2Proof.Machine
open Sys2Proof.Claims

/-! ## Without cells, parks or copies -/

theorem observe_noCells {s : State} (h : s.ms.cells = []) (a n : Nat) (who : Option LaneName) : s.observe a n who = s := by
  unfold State.observe
  rw [h]
  exact congrArg (fun l => ({ s with ms := { s.ms with cells := l } } : State)) h.symm

theorem evalMonitors_noCells {s : State} (h : s.ms.cells = []) (line : Nat) : s.evalMonitors line = s := by
  unfold State.evalMonitors
  generalize s.watched line = ws
  induction ws with
  | nil => rfl
  | cons a ws ih => rw [List.foldl_cons, observe_noCells h]; exact ih

theorem commitCells_noCells {s : State} (h : s.ms.cells = []) (f : TCell → Bool) : s.commitCells f = s := by
  unfold State.commitCells
  rw [h]
  exact congrArg (fun l => ({ s with ms := { s.ms with cells := l } } : State)) h.symm

theorem parkOf_noParks {s : State} (h : s.ms.parks = []) (line : Nat) : s.parkOf line = none := by
  unfold State.parkOf; rw [h]; rfl

theorem recall_noParks {s : State} (h : s.ms.parks = []) (line : Nat) : s.recall line = s := by
  unfold State.recall; rw [parkOf_noParks h]

theorem landBack_noParks {s : State} (h : s.ms.parks = []) (line : Nat) : s.landBack line = s := by
  unfold State.landBack; rw [parkOf_noParks h]

theorem landMove_noParks {s : State} (h : s.ms.parks = []) (line : Nat) : s.landMove line = s := by
  unfold State.landMove
  rw [h]
  exact congrArg (fun l => ({ s with ms := { s.ms with parks := l } } : State)) h.symm

theorem dropCopies_noCopies {s : State} (h : s.ms.copies = []) (line : Nat) (f : Copy → Bool) : s.dropCopies line f = s := by
  unfold State.dropCopies
  rw [h]
  exact congrArg (fun l => ({ s with ms := { s.ms with copies := l } } : State)) h.symm

theorem copyAt_noCopies {s : State} (h : s.ms.copies = []) (site : Site) (line : Nat) : s.copyAt site line = none := by
  unfold State.copyAt; rw [h]; rfl

/-- With neither copies nor pins every place that has frames has room. -/
theorem makeRoom_noCopies {s : State} (hc : s.ms.copies = []) (hp : s.ms.parks = []) (site : Site) (line : Nat)
    (hf : 0 < frameCount site) : s.makeRoom site line = some s := by
  unfold State.makeRoom
  rw [hc, hp]
  exact if_pos hf

theorem storeL1_noCopies {s : State} (h : s.ms.copies = []) (core line : Nat) (bs : List StoreByte) : s.storeL1 core line bs = s := by
  unfold State.storeL1
  rw [h]
  split
  · exact congrArg (fun l => ({ s with ms := { s.ms with copies := l } } : State)) h.symm
  · rfl

theorem meetsFill_noCopies {s : State} (h : s.ms.copies = []) (core line : Nat) : s.meetsFill core line = false := by
  unfold State.meetsFill; rw [copyAt_noCopies h]

theorem flushCurd_noCurd {s : State} (h : s.ms.curd = []) (f : CurdWord → Bool) : s.flushCurd f = s := by
  unfold State.flushCurd
  rw [h]
  exact congrArg (fun l => ({ s with ms := { s.ms with curd := l } } : State)) h.symm

theorem flushOwnOf_noCurd {s : State} (h : s.ms.curd = []) (i : Iss) (accs : List Acc) : s.flushOwnOf i accs = s := by
  unfold State.flushOwnOf
  induction accs with
  | nil => rfl
  | cons a l ih => rw [List.foldl_cons, State.flushOwn, flushCurd_noCurd h]; exact ih

/-! ## With nothing on its way -/

/-- No write, notice or reduction is on its way. -/
abbrev NoneInFlight (s : State) : Prop := ∀ x ∈ s.due, inFlight x = none

theorem firstWrite_noneInFlight {s : State} (h : NoneInFlight s) (f : Nat → Nat → Nat → Bool) : s.firstWrite f = none := by
  unfold State.firstWrite
  dsimp only
  rw [List.filterMap_eq_nil_iff.mpr ?_]
  · rfl
  · intro x hx
    rw [h x.2 (List.of_mem_zip hx).2]

theorem drain_noneInFlight {s : State} (h : NoneInFlight s) (f : Nat → Nat → Nat → Bool) : s.drain f = s := by
  unfold State.drain
  cases s.due.length with
  | zero => rfl
  | succ n => rw [State.drainGo, firstWrite_noneInFlight h]

theorem isSecond_inFlight {line : Nat} {i : Instr} (h : inFlight i = none) : isSecond line i = false := by
  unfold isSecond
  split
  · cases h
  · cases h
  · rfl

theorem wholeLine_noneInFlight {s : State} (h : NoneInFlight s) (line : Nat) : s.wholeLine line = s := by
  have hk : s.due.findIdx? (isSecond line) = none :=
    List.findIdx?_eq_none_iff.mpr fun x hx => isSecond_inFlight (h x hx)
  unfold State.wholeLine
  rw [hk]

theorem retOf_inFlight {i : Instr} (h : inFlight i = none) : retOf i = none := by
  unfold retOf
  split
  · cases h
  · cases h
  · cases h
  · rfl

/-- Home's acknowledgement is on its way back at once where nothing else carries the result (R14, R165). -/
theorem ack_noneInFlight {s : State} (h : NoneInFlight s) (r : Ret) (tags : List (Nat × BitVec 16)) :
    s.ack (some r) tags = s.send (.resultReturn { r with tags := r.tags ++ tags }) := by
  unfold State.ack
  dsimp only
  rw [if_neg]
  rw [List.any_eq_true]
  rintro ⟨x, hx, hid⟩
  rw [retOf_inFlight (h x hx)] at hid
  cases hid

theorem release_quiet {s : State} (h : NoneInFlight s) (hc : s.ms.curd = []) (key : Nat) : s.release key = s := by
  unfold State.release
  rw [drain_noneInFlight h, flushCurd_noCurd hc]

/-- What a release does with memory at rest: it only numbers scratchpad writes as released (R290). -/
theorem relFor_quiet {s : State} (h : NoneInFlight s) (hc : s.ms.curd = []) (i : Iss) (o : Ord) :
    ∃ bs, s.relFor i o = { s with blocks := bs } := by
  unfold State.relFor State.releaseBy
  split
  · simp only [release_quiet h hc]
    exact ⟨_, rfl⟩
  · exact ⟨s.blocks, rfl⟩

end Sys2Proof.Machine
end

section
/-! # A write accepted at rest (R14, R165, R234, R245) -/
namespace Sys2Proof.Machine
open Sys2Proof.Claims

/-- From memory at rest in `s`, a line has come to hold `d`, at home or as a line of its owning L2 slice; nothing else is cached or
parked. -/
def HoldsLine (s t : State) (line : Nat) (d : BitVec 1024) : Prop :=
  t.ms.parks = [] ∧ (t.ms.copies = [] ∧ t.mem = setLineAt s.mem line d
    ∨ ∃ c, t.ms.copies = [c] ∧ c.line = line ∧ isL2 c.site = true ∧ c.isLocal = true ∧ c.data = d ∧ t.mem = s.mem)

/-- At rest a byte reads as memory has it. -/
theorem peekByte_rest {s : State} (hp : s.ms.parks = []) (hc : s.ms.copies = []) (a : Nat) : s.peekByte a = Memory.read s.mem a := by
  unfold State.peekByte
  rw [parkOf_noParks hp, hc]
  rfl

/-- A byte of memory after a line has come to hold a value. -/
theorem peekByte_holdsLine {s t : State} {line : Nat} {d : BitVec 1024} (h : HoldsLine s t line d) (a : Nat) :
    t.peekByte a = if lineOf a = line then byteOf d (a % 128) else Memory.read s.mem a := by
  obtain ⟨hp, ⟨hc, hm⟩ | ⟨c, hc, hline, hsite, hloc, hdata, hm⟩⟩ := h
  · rw [peekByte_rest hp hc, hm, read_setLineAt]
  · unfold State.peekByte
    rw [parkOf_noParks hp, hc, hm]
    by_cases ha : lineOf a = line
    · simp [hline, ha, hsite, hloc, hdata]
    · simp [hline, ha, Ne.symm ha]

/-- The line holds what it held with the bytes put in: they stand there, and every other byte reads as before. -/
theorem stored_holdsLine {s t : State} {line : Nat} {bs : List StoreByte} (hq : Quiet s) (hb : Plain bs)
    (h : HoldsLine s t line (putBytes (lineAt s.mem line) bs)) : Stored s t line bs := by
  obtain ⟨hcopies, hparks, -⟩ := hq
  obtain ⟨hn, hin⟩ := hb
  refine ⟨fun b hmem => ?_, fun a hother => ?_⟩
  · have hoff := hin b hmem
    have hline : lineOf (128 * line + b.off) = line := by unfold lineOf; omega
    have hmod : (128 * line + b.off) % 128 = b.off := by omega
    rw [peekByte_holdsLine h, if_pos hline, hmod]
    exact byteOf_putBytes_same bs _ hn hin b hmem
  · rw [peekByte_holdsLine h, peekByte_rest hparks hcopies]
    split
    · next hline =>
      have ha : a = 128 * line + a % 128 := by unfold lineOf at hline; omega
      have hmod : a % 128 < 128 := Nat.mod_lt _ (by omega)
      rw [byteOf_putBytes_other bs _ _ hmod hin fun b hmem e => hother b hmem (e ▸ ha), byteOf_lineAt _ _ _ hmod, ← ha]
    · rfl

theorem plain_sublist {l bs : List StoreByte} (h : l.Sublist bs) (hb : Plain bs) : Plain l :=
  ⟨hb.1.sublist (h.map _), fun b hm => hb.2 b (h.subset hm)⟩

theorem plain_halfBytes {bs : List StoreByte} (hb : Plain bs) (h : Bool) : Plain (halfBytes h bs) :=
  plain_sublist List.filter_sublist hb

theorem plain_leftBytes {bs : List StoreByte} (hb : Plain bs) (done : Option Bool) : Plain (leftBytes done bs) := by
  cases done with
  | none => exact hb
  | some h => exact plain_halfBytes hb (!h)

/-- Home puts bytes in a line of memory at rest. -/
theorem putHome_quiet {s : State} (hq : Quiet s) (line : Nat) (bs : List StoreByte) :
    s.putHome line bs = s.setMem (setLineAt s.mem line (putBytes (lineAt s.mem line) bs)) := by
  obtain ⟨hcopies, -, hcells, -⟩ := hq
  unfold State.putHome
  rw [dropCopies_noCopies (by exact hcopies), evalMonitors_noCells (by exact hcells)]

/-- Bytes performed at home on memory at rest, with the tag that home stamps for the last of them (R165, R245). -/
theorem performHome_quiet {s : State} (hq : Quiet s) (line : Nat) (bs : List StoreByte) (last : Bool)
    {p : State × List (Nat × BitVec 16)}
    (hp : p = if last then (s.writeHome line bs, [(s.writeHome line bs).tagOf line]) else (s.putHome line bs, [])) :
    p.1.due = s.due ∧ HoldsLine s p.1 line (putBytes (lineAt s.mem line) bs)
      ∧ (last = true → p.2 = [(line, Map.get 0 s.ms.tags line + 1)]) := by
  have ⟨hcopies, hparks, _⟩ := hq
  subst hp
  cases last with
  | false =>
    simp only [putHome_quiet hq, Bool.false_eq_true, if_false]
    exact ⟨rfl, ⟨hparks, .inl ⟨hcopies, rfl⟩⟩, nofun⟩
  | true =>
    simp only [State.writeHome, putHome_quiet hq, if_true]
    refine ⟨rfl, ⟨hparks, .inl ⟨hcopies, rfl⟩⟩, fun _ => ?_⟩
    show [(line, Map.get 0 (Map.set 0 s.ms.tags line (Map.get 0 s.ms.tags line + 1)) line)] = _
    rw [Map.get_set_self]

/-- Bytes of a write performed at their ordering point on memory at rest (R14, R165, R245). -/
theorem perform1_quiet {s : State} (hq : Quiet s) (w : WritePkt) (bs : List StoreByte) (last : Bool) :
    (s.perform1 w bs last).1.due = s.due
      ∧ HoldsLine s (s.perform1 w bs last).1 w.line (putBytes (lineAt s.mem w.line) bs)
      ∧ (last = true → w.kind = .shared → (s.perform1 w bs last).2 = [(w.line, Map.get 0 s.ms.tags w.line + 1)]) := by
  have ⟨hcopies, hparks, hcells, _, hbad, _⟩ := hq
  unfold State.perform1
  rw [recall_noParks hparks, commitCells_noCells hcells]
  generalize w.kind = kind
  match kind with
  | .ms =>
    dsimp only
    rw [commitCells_noCells (by exact hcells), evalMonitors_noCells (by exact hcells)]
    exact ⟨rfl, ⟨hparks, .inl ⟨hcopies, rfl⟩⟩, nofun⟩
  | .shared =>
    obtain ⟨hd, hl, ht⟩ := performHome_quiet hq w.line bs last rfl
    exact ⟨hd, hl, fun h _ => ht h⟩
  | .local q =>
    have hcell : s.hasCell w.line = false := by unfold State.hasCell; rw [hcells]; rfl
    dsimp only
    rw [parkOf_noParks hparks, hcell, copyAt_noCopies hcopies, hbad, makeRoom_noCopies hcopies hparks _ _ (by exact Nat.zero_lt_succ 15)]
    cases w.nt with
    | true =>
      obtain ⟨hd, hl, -⟩ := performHome_quiet hq w.line bs last rfl
      exact ⟨hd, hl, nofun⟩
    | false =>
      refine ⟨rfl, ⟨hparks, .inr ⟨⟨.l2 q (l2Slice w.line), w.line, putBytes (lineAt s.mem w.line) bs, dirtyMask bs, true, none, false,
        s.clock⟩, ?_, rfl, rfl, rfl, rfl, rfl⟩⟩, nofun⟩
      show s.ms.copies ++ _ = _
      rw [hcopies]; rfl

/-- Copies at an agent's own levels do not hold what its write left on memory at rest. -/
theorem holdsLine_passCopies {s t : State} {line : Nat} {d : BitVec 1024} (h : HoldsLine s t line d) (ag : Agent)
    (bs : List StoreByte) : HoldsLine s (t.passCopies ag line bs) line d := by
  unfold State.passCopies
  split
  · exact h
  · obtain ⟨hp, ⟨hc, hm⟩ | ⟨c, hc, hline, hsite, hloc, hdata, hm⟩⟩ := h
    · exact ⟨hp, .inl ⟨by rw [hc]; rfl, hm⟩⟩
    · refine ⟨hp, .inr ⟨c, ?_, hline, hsite, hloc, hdata, hm⟩⟩
      rw [hc]
      cases hs : c.site <;> simp_all [State.setCopies, isL2]

theorem holdsLine_dropStale {s t : State} {line : Nat} {d : BitVec 1024} (h : HoldsLine s t line d) (core : Nat)
    (bs : List StoreByte) : HoldsLine s (t.dropStale core line bs) line d := by
  obtain ⟨hp, ⟨hc, hm⟩ | ⟨c, hc, hline, hsite, hloc, hdata, hm⟩⟩ := h
  · unfold State.dropStale
    rw [dropCopies_noCopies hc]
    exact ⟨hp, .inl ⟨hc, hm⟩⟩
  · have hl1 : (c.site == .l1 core) = false := by
      cases hs : c.site <;> simp_all [isL2]
    refine ⟨hp, .inr ⟨c, ?_, hline, hsite, hloc, hdata, hm⟩⟩
    simp [State.dropStale, State.dropCopies, State.setCopies, hc, hl1]

theorem holdsLine_due {s t : State} {line : Nat} {d : BitVec 1024} (h : HoldsLine s t line d) (due : List Instr) :
    HoldsLine s { t with due := due } line d := h

theorem passCopies_due (s : State) (ag : Agent) (line : Nat) (bs : List StoreByte) :
    (s.passCopies ag line bs).due = s.due := by
  unfold State.passCopies
  split <;> rfl

theorem dropStale_due (s : State) (core line : Nat) (bs : List StoreByte) : (s.dropStale core line bs).due = s.due := by rfl

/-- A write finishes on memory at rest: what it has left stands at its line, and its acknowledgement is on its way. -/
theorem finishWrite_quiet {s : State} (hq : Quiet s) (w : WritePkt) (hb : Plain w.bytes) :
    Stored s (s.finishWrite w) w.line (leftBytes w.done w.bytes)
      ∧ ∀ r, w.ret = some r → ∃ tags, (s.finishWrite w).due = s.due ++ [.resultReturn { r with tags := r.tags ++ tags }]
        ∧ (w.kind = .shared → tags = [(w.line, Map.get 0 s.ms.tags w.line + 1)]) := by
  have ⟨_, _, _, _, _, _, hflight⟩ := hq
  obtain ⟨hdue, hline, htags⟩ := perform1_quiet hq w (leftBytes w.done w.bytes) true
  unfold State.finishWrite
  extract_lets bs p s1 s2
  have h1 : HoldsLine s s1 w.line (putBytes (lineAt s.mem w.line) bs) := holdsLine_passCopies hline w.agent bs
  have d1 : s1.due = s.due := (passCopies_due ..).trans hdue
  have ⟨h2, d2⟩ : HoldsLine s s2 w.line (putBytes (lineAt s.mem w.line) bs) ∧ s2.due = s.due := by
    unfold s2
    cases w.agent with
    | lanes c => exact ⟨holdsLine_dropStale h1 c w.bytes, (dropStale_due ..).trans d1⟩
    | sysCore _ | copy _ | matrix _ _ | collective _ | memSide | host _ | storage => exact ⟨h1, d1⟩
  have hnone : NoneInFlight s2 := by unfold NoneInFlight; rw [d2]; exact hflight
  refine ⟨stored_holdsLine hq (plain_leftBytes hb w.done) ?_, fun r hr => ⟨p.2, ?_, fun hk => htags rfl hk⟩⟩
  · cases w.ret with
    | none => exact h2
    | some r => rw [ack_noneInFlight hnone]; exact holdsLine_due h2 _
  · rw [hr, ack_noneInFlight hnone]
    show s2.due ++ _ = _
    rw [d2]

/-- One half of a `.b128` write performs on memory at rest, and the other stays on its way (R234). -/
theorem acceptHalf_quiet {s : State} (hq : Quiet s) (w : WritePkt) (hb : Plain w.bytes) (h : Bool) :
    Stored s (s.acceptHalf w h) w.line (halfBytes h w.bytes)
      ∧ (s.acceptHalf w h).due = s.due ++ [.homeWriteAccept { w with done := some h }] := by
  have ⟨_, _, _, _, _, _, hflight⟩ := hq
  obtain ⟨hdue, hline, -⟩ := perform1_quiet hq w (halfBytes h w.bytes) false
  unfold State.acceptHalf
  rw [wholeLine_noneInFlight hflight]
  refine ⟨stored_holdsLine hq (plain_halfBytes hb h) (holdsLine_due (holdsLine_passCopies hline ..) _), ?_⟩
  show (State.passCopies _ _ _ _).due ++ _ = _
  rw [passCopies_due, hdue]

theorem acceptWrite_quiet {s : State} (hq : Quiet s) (w : WritePkt) : s.acceptWrite w = s.finishWrite w := by
  have ⟨_, _, _, _, _, _, hflight⟩ := hq
  unfold State.acceptWrite
  rw [wholeLine_noneInFlight hflight, ite_self]

end Sys2Proof.Machine
end

section
/-! # What an access of a group's lanes leaves of the group (R45, R100, R375) -/
namespace Sys2Proof.Machine
open Sys2Proof.Claims

/-- Every other group, the group's counters, its lanes' registers and where its lanes stand are the same. -/
structure Undisturbed (gid : Nat) (s t : State) : Prop where
  others : OtherGroups gid s t
  cnt : (t.group gid).cnt = (s.group gid).cnt
  regs : SameRegs gid s t
  pcs : ∀ l, (t.lane gid l).pc = (s.lane gid l).pc ∧ (t.lane gid l).pos = (s.lane gid l).pos
    ∧ (t.lane gid l).left = (s.lane gid l).left

theorem sameRegs_trans {gid : Nat} {a b c : State} (h : SameRegs gid a b) (k : SameRegs gid b c) : SameRegs gid a c := by
  obtain ⟨hv, hp, hg, hx⟩ := h
  obtain ⟨kv, kp, kg, kx⟩ := k
  refine ⟨fun l r => (kv l r).trans (hv l r), fun l r => (kp l r).trans (hp l r), fun r => (kg r).trans (hg r), fun l => ?_⟩
  obtain ⟨hc, hi, hpc, hid⟩ := hx l
  obtain ⟨kc, ki, kpc, kid⟩ := kx l
  exact ⟨kc.trans hc, ki.trans hi, kpc.trans hpc, kid.trans hid⟩

theorem Undisturbed.trans {gid : Nat} {a b c : State} (h : Undisturbed gid a b) (k : Undisturbed gid b c) : Undisturbed gid a c where
  others := fun j hj => (k.others j hj).trans (h.others j hj)
  cnt := k.cnt.trans h.cnt
  regs := sameRegs_trans h.regs k.regs
  pcs := fun l => ⟨(k.pcs l).1.trans (h.pcs l).1, (k.pcs l).2.1.trans (h.pcs l).2.1, (k.pcs l).2.2.trans (h.pcs l).2.2⟩

/-- What leaves the groups alone disturbs none. -/
theorem undisturbed_of_groups {s t : State} (h : t.groups = s.groups) (gid : Nat) : Undisturbed gid s t := by
  have hg : ∀ k, t.group k = s.group k := fun k => congrArg (fun l => Map.get Group.fresh l k) h
  have hl : ∀ l, t.lane gid l = s.lane gid l := fun l => congrArg (fun g => g.lane l) (hg gid)
  exact ⟨fun k _ => hg k, by rw [hg],
    ⟨fun l r => by rw [hl], fun l r => by rw [hl], fun r => by unfold State.readG; rw [hg],
      fun l => by rw [hl]; exact ⟨rfl, rfl, rfl, rfl⟩⟩,
    fun l => by rw [hl]; exact ⟨rfl, rfl, rfl⟩⟩

theorem Undisturbed.refl (gid : Nat) (s : State) : Undisturbed gid s s := undisturbed_of_groups rfl gid

/-- A fold of actions that disturb nothing disturbs nothing. -/
theorem undisturbed_foldl {α : Type} {gid : Nat} {f : State → α → State} (h : ∀ s a, Undisturbed gid s (f s a)) (l : List α)
    (s : State) : Undisturbed gid s (l.foldl f s) := by
  induction l generalizing s with
  | nil => exact .refl gid s
  | cons a l ih => exact (h s a).trans (ih _)

/-- An open access of a lane is recorded beside its registers (R375). -/
theorem undisturbed_keepOpen (s : State) (i : Iss) (l : Nat) : Undisturbed i.gid s (s.keepOpen i l) := by
  have hl : ∀ k, ∃ os, (s.keepOpen i l).lane i.gid k = { s.lane i.gid k with opens := os } := fun k => by
    unfold State.keepOpen
    rw [lane_modLane]
    split
    · next h =>
      rw [h.1]
      split <;> exact ⟨_, rfl⟩
    · exact ⟨_, rfl⟩
  have hg : (s.keepOpen i l).group i.gid = { s.group i.gid with lanes := ((s.keepOpen i l).group i.gid).lanes } :=
    group_modLane_with ..
  refine ⟨fun k hk => by unfold State.keepOpen; rw [group_modLane, if_neg hk], by rw [hg], ⟨?_, ?_, ?_, ?_⟩, ?_⟩
  · intro k r; obtain ⟨os, h⟩ := hl k; rw [h]; rfl
  · intro k r; obtain ⟨os, h⟩ := hl k; rw [h]; rfl
  · intro r; unfold State.readG; rw [hg]; rfl
  · intro k; obtain ⟨os, h⟩ := hl k; rw [h]; exact ⟨rfl, rfl, rfl, rfl⟩
  · intro k; obtain ⟨os, h⟩ := hl k; rw [h]; exact ⟨rfl, rfl, rfl⟩

theorem undisturbed_openLate (s : State) (i : Iss) (l cause : Nat) (info : DWord) :
    Undisturbed i.gid s (s.openLate i l cause info) :=
  (undisturbed_keepOpen s i l).trans (undisturbed_of_groups (by rfl) _)

theorem undisturbed_holdJob (s : State) (j : Job) {gid : Nat} (hj : j.iss.gid = gid) : Undisturbed gid s (s.holdJob j) := by
  subst hj
  exact (undisturbed_foldl (fun s (a : Acc) => undisturbed_keepOpen s j.iss a.lane) j.accs s).trans (undisturbed_of_groups (by rfl) _)

/-- Accesses that leave the core disturb no group if what they perform does not. -/
theorem undisturbed_runJob {s : State} {j : Job}
    (h : Undisturbed j.iss.gid s (s.perform j.iss j.instr (j.ret []) j.accs).s) : Undisturbed j.iss.gid s (s.runJob j) := by
  refine h.trans ?_
  unfold State.runJob
  dsimp only
  split
  · exact undisturbed_holdJob _ _ rfl
  · split <;> exact undisturbed_of_groups (by rfl) _

/-- Accesses that perform, or are refused by a gate, disturb no group if those that perform do not. -/
theorem undisturbed_perform {i : Iss} {w : Instr} (h : ∀ s r accs, Undisturbed i.gid s (State.performOk s i w r accs).s)
    (s : State) (r : Ret) (accs : List Acc) : Undisturbed i.gid s (s.perform i w r accs).s := by
  have gates := undisturbed_foldl (fun s (a : Acc) => undisturbed_openLate s i a.lane 0x1A a.ea) (accs.filter (s.gated i w)) s
  unfold State.perform
  dsimp only
  split
  · exact gates
  · exact gates.trans (h ..)

/-- The accesses of an instruction leave, or are held: its counter has risen, and else nothing of a group is disturbed. -/
theorem undisturbed_leave {i : Iss} {w : Instr} (h : ∀ s r accs, Undisturbed i.gid s (State.performOk s i w r accs).s)
    (s : State) (dst : List Nat) {accs : List Acc} (ha : accs ≠ []) :
    Undisturbed i.gid (s.bump i.gid (ctrOf w)) (s.leave i w dst accs) := by
  unfold State.leave
  rw [if_neg ha]
  dsimp only
  generalize (if isGlobal w then maskOf (accs.map fun a => a.lane) else 0 : LaneMask) = lanes
  split
  · exact undisturbed_runJob (j := ⟨i, w, accs, [], dst, [], lanes⟩) (undisturbed_perform h ..)
  · exact undisturbed_holdJob _ _ rfl

/-- A word whose counter rises, and which else disturbs nothing that its start has left, has issued. -/
theorem counted_of_undisturbed {s u t : State} {cx : Cx} {c : Ctl} {ctr : Ctr} (hl : LanesExist s cx)
    (hu : Undisturbed cx.gid (s.start cx c) u) (ht : Undisturbed cx.gid (u.bump cx.gid ctr) t) : Counted s t cx ctr := by
  have kb := kept_bump u cx.gid ctr
  have hcnt : ((s.start cx c).group cx.gid).cnt = (s.group cx.gid).cnt := by
    obtain ⟨_, _, h, -⟩ := start_group s cx c; rw [h]
  have hstart : SameRegs cx.gid s (s.start cx c) :=
    ⟨start_vReg s cx c, start_pReg s cx c, start_readG s cx c, fun l => by rw [start_lane]; split <;> exact ⟨rfl, rfl, rfl, rfl⟩⟩
  have hbump : SameRegs cx.gid u (u.bump cx.gid ctr) := by
    have hl : ∀ l, (u.bump cx.gid ctr).lane cx.gid l = u.lane cx.gid l := fun l => by
      unfold State.lane; rw [group_bump]; rfl
    exact ⟨fun l r => by rw [hl], fun l r => by rw [hl], fun r => by unfold State.readG Group.gReg; rw [group_bump],
      fun l => by rw [hl]; exact ⟨rfl, rfl, rfl, rfl⟩⟩
  refine ⟨?_, fun l hm => ?_, sameRegs_trans hstart (sameRegs_trans hu.regs (sameRegs_trans hbump ht.regs)), fun k hk => ?_⟩
  · rw [ht.cnt, group_bump]
    show (u.group cx.gid).cnt.bump ctr = _
    rw [hu.cnt, hcnt]
  · obtain ⟨tpc, tpos, tleft⟩ := ht.pcs l
    obtain ⟨bpc, bpos, bleft⟩ := kb.pcs l
    obtain ⟨upc, upos, uleft⟩ := hu.pcs l
    rw [tpc, tpos, tleft, bpc, bpos, bleft, upc, upos, uleft, start_lane, if_pos ⟨hm, hl l hm⟩]
    exact ⟨rfl, rfl, rfl⟩
  · rw [ht.others k hk, kb.others k hk, hu.others k hk, start_group_other s cx c k hk]

end Sys2Proof.Machine
end

section
/-! # What the checks of R196 find -/
namespace Sys2Proof.Machine
open Sys2Proof.Claims

/-- One lane's checks, in the fold of `State.checkGlobal`. -/
def checkStep (w : Walker) (acc : Access) (width : Nat) (own : Nat → DWord → Option (Nat × DWord)) (r : State × Checked)
    (x : Nat × DWord) : State × Checked :=
  if x.2.toNat % width ≠ 0 then (r.1, { r.2 with traps := r.2.traps ++ [(x.1, 0x10, x.2)] })
  else match r.1.xlate w x.2 acc with
    | (s1, .ok pa k) => match own x.1 x.2 with
      | some t => (s1, { r.2 with traps := r.2.traps ++ [(x.1, t.1, t.2)] })
      | none => (s1, { r.2 with ok := r.2.ok ++ [accG x.1 x.2 pa k] })
    | (s1, .trap c) => (s1, { r.2 with traps := r.2.traps ++ [(x.1, c, x.2)] })
    | (s1, .stop lv bad) => (s1, { r.2 with stops := r.2.stops ++ [(x.1, x.2, lv, bad)] })

theorem checkGlobal_fold (s : State) (i : Iss) (acc : Access) (width : Nat) (own : Nat → DWord → Option (Nat × DWord))
    (eas : List (Nat × DWord)) :
    s.checkGlobal i acc width own eas = eas.foldl (checkStep (s.laneWalker i.gid) acc width own) (s, ⟨[], [], []⟩) := by
  rfl

/-- One lane's checks at most translate its address, and the lane goes on, traps or stops. -/
theorem checkStep_cases (w : Walker) (acc : Access) (width : Nat) (own : Nat → DWord → Option (Nat × DWord)) (r : State × Checked)
    (x : Nat × DWord) : ((checkStep w acc width own r x).1 = r.1 ∨ (checkStep w acc width own r x).1 = (r.1.xlate w x.2 acc).1)
      ∧ ((∃ pa k, (checkStep w acc width own r x).2 = { r.2 with ok := r.2.ok ++ [accG x.1 x.2 pa k] })
        ∨ (∃ t, (checkStep w acc width own r x).2 = { r.2 with traps := r.2.traps ++ [t] })
        ∨ ∃ t, (checkStep w acc width own r x).2 = { r.2 with stops := r.2.stops ++ [t] }) := by
  unfold checkStep
  split
  · exact ⟨.inl rfl, .inr (.inl ⟨_, rfl⟩)⟩
  · split
    · next hx =>
      rw [hx]
      split
      · exact ⟨.inr rfl, .inr (.inl ⟨_, rfl⟩)⟩
      · exact ⟨.inr rfl, .inl ⟨_, _, rfl⟩⟩
    · next hx => rw [hx]; exact ⟨.inr rfl, .inr (.inl ⟨_, rfl⟩)⟩
    · next hx => rw [hx]; exact ⟨.inr rfl, .inr (.inr ⟨_, rfl⟩)⟩

/-- What translations keep, the checks keep. -/
theorem checkGlobal_keeps {P : State → Prop} {s : State} {i : Iss} {acc : Access}
    (h : ∀ t va, P t → P (t.xlate (s.laneWalker i.gid) va acc).1) (hs : P s) (width : Nat)
    (own : Nat → DWord → Option (Nat × DWord)) (eas : List (Nat × DWord)) : P (s.checkGlobal i acc width own eas).1 := by
  rw [checkGlobal_fold]
  suffices hr : ∀ r : State × Checked, P r.1 → P (eas.foldl (checkStep (s.laneWalker i.gid) acc width own) r).1 from hr _ hs
  induction eas with
  | nil => exact fun r hr => hr
  | cons x eas ih =>
    intro r hr
    refine ih _ ?_
    rcases (checkStep_cases (s.laneWalker i.gid) acc width own r x).1 with e | e
    · rw [e]; exact hr
    · rw [e]; exact h _ _ hr

theorem checkGlobal_outer (s : State) (i : Iss) (acc : Access) (width : Nat) (own : Nat → DWord → Option (Nat × DWord))
    (eas : List (Nat × DWord)) : (s.checkGlobal i acc width own eas).1.outer = s.outer :=
  checkGlobal_keeps (P := fun t => t.outer = s.outer) (fun t va ht => (xlate_outer t _ va acc).trans ht) rfl width own eas

/-- The lanes whose checks pass are lanes that were checked. -/
theorem checkGlobal_lanes (s : State) (i : Iss) (acc : Access) (width : Nat) (own : Nat → DWord → Option (Nat × DWord))
    (eas : List (Nat × DWord)) : ∀ a ∈ (s.checkGlobal i acc width own eas).2.ok, a.lane ∈ eas.map Prod.fst := by
  rw [checkGlobal_fold]
  suffices hr : ∀ (r : State × Checked), ∀ a ∈ (eas.foldl (checkStep (s.laneWalker i.gid) acc width own) r).2.ok,
      a ∈ r.2.ok ∨ a.lane ∈ eas.map Prod.fst from fun a ha => (hr _ a ha).resolve_left (List.not_mem_nil)
  induction eas with
  | nil => exact fun r a ha => .inl ha
  | cons x eas ih =>
    intro r a ha
    rw [List.map_cons, List.mem_cons]
    rcases ih _ a ha with h | h
    · rcases (checkStep_cases (s.laneWalker i.gid) acc width own r x).2 with ⟨pa, k, e⟩ | ⟨t, e⟩ | ⟨t, e⟩
      · rw [e] at h
        rcases List.mem_append.mp h with h | h
        · exact .inl h
        · rw [List.mem_singleton.mp h]; exact .inr (.inl rfl)
      · rw [e] at h; exact .inl h
      · rw [e] at h; exact .inl h
    · exact .inr (.inr h)

/-- Every lane that is checked goes on, traps or stops. -/
theorem checkGlobal_length (s : State) (i : Iss) (acc : Access) (width : Nat) (own : Nat → DWord → Option (Nat × DWord))
    (eas : List (Nat × DWord)) : let c := (s.checkGlobal i acc width own eas).2
    c.ok.length + c.traps.length + c.stops.length = eas.length := by
  rw [checkGlobal_fold]
  suffices hr : ∀ r : State × Checked, let c := (eas.foldl (checkStep (s.laneWalker i.gid) acc width own) r).2
      c.ok.length + c.traps.length + c.stops.length = r.2.ok.length + r.2.traps.length + r.2.stops.length + eas.length by
    simpa using hr (s, ⟨[], [], []⟩)
  induction eas with
  | nil => exact fun r => rfl
  | cons x eas ih =>
    intro r
    refine (ih _).trans ?_
    rcases (checkStep_cases (s.laneWalker i.gid) acc width own r x).2 with ⟨pa, k, e⟩ | ⟨t, e⟩ | ⟨t, e⟩ <;>
      (rw [e]; simp only [List.length_append, List.length_cons, List.length_nil]; omega)

/-- Where every lane passes and some lane takes part, some access goes on. -/
theorem check_ok_ne_nil {s : State} {cx : Cx} {f : MF} {acc : Access} {n : Nat} {second : Bool} (hl : s.taking cx f.ctl ≠ [])
    (h : AllPass s cx f acc n second) : (check s cx f acc n second).ok ≠ [] := by
  obtain ⟨ht, hs⟩ := h
  have hlen := checkGlobal_length (s.start cx f.ctl) (issOf s cx f.ctl) acc n (fun _ _ => none)
    ((s.start cx f.ctl).eas (issOf s cx f.ctl) f second)
  intro hok
  have hpos : 0 < (s.taking cx f.ctl).length := List.length_pos_iff.mpr hl
  have heas : ((s.start cx f.ctl).eas (issOf s cx f.ctl) f second).length = (s.taking cx f.ctl).length := List.length_map _
  dsimp only at hlen
  unfold check at ht hs hok
  rw [ht, hs, hok, heas] at hlen
  exact absurd hlen (by simp; omega)

/-- The accesses that pass are those of lanes that take part. -/
theorem check_lane_mem {s : State} {cx : Cx} {f : MF} {acc : Access} {n : Nat} {second : Bool} {a : Acc}
    (h : a ∈ (check s cx f acc n second).ok) : a.lane ∈ s.taking cx f.ctl := by
  have hm := checkGlobal_lanes _ _ _ _ _ _ a h
  rwa [State.eas, List.map_map, show (Prod.fst ∘ fun l => (l, (s.start cx f.ctl).ea (issOf s cx f.ctl).gid l f second)) = id from rfl,
    List.map_id] at hm

/-- Where no lane fails, nothing is done for those that fail. -/
theorem failures_none (s : State) (i : Iss) (acc : Access) {c : Checked} (ht : c.traps = []) (hs : c.stops = []) :
    s.failures i acc c = s := by
  unfold State.failures
  rw [ht, hs]
  rfl

/-- The state that the checks of a word leave. -/
def State.afterChecks (s : State) (cx : Cx) (f : MF) (acc : Access) (n : Nat) (second : Bool) : State :=
  ((s.start cx f.ctl).checkGlobal (issOf s cx f.ctl) acc n noCheck ((s.start cx f.ctl).eas (issOf s cx f.ctl) f second)).1

theorem undisturbed_afterChecks (s : State) (cx : Cx) (f : MF) (acc : Access) (n : Nat) (second : Bool) :
    Undisturbed cx.gid (s.start cx f.ctl) (s.afterChecks cx f acc n second) :=
  undisturbed_of_groups (groups_of_outer (checkGlobal_outer ..)) _

end Sys2Proof.Machine
end

section
/-! # Stores leave their core (R14, R45, R202, R245) -/
namespace Sys2Proof.Machine
open Sys2Proof.Claims

/-- A store that issues and whose lanes all pass their checks: its accesses, with their data, leave. -/
theorem execSt_leaves {f : MF} {s : State} {cx : Cx} (hi : Issues s cx f.ctl (some .stc) (dataNames f ++ addrNames f) 0)
    (hp : AllPass s cx f .write (MTy.bytes f.ty) false) :
    exec (.st f) s = .next ((s.afterChecks cx f .write (MTy.bytes f.ty) false).leave (issOf s cx f.ctl) (.st f) []
      ((check s cx f .write (MTy.bytes f.ty) false).ok.map ((s.start cx f.ctl).dataFor (issOf s cx f.ctl) f))) := by
  obtain ⟨hcur, hl, hh, hn⟩ := hi
  obtain ⟨ht, hs⟩ := hp
  show execSt f s = _
  unfold execSt
  rw [issue_runs hcur hl hh hn]
  exact congrArg Host.Outcome.next (failures_none _ _ _ ht hs)

theorem relFor_groups (s : State) (i : Iss) (o : Ord) : (s.relFor i o).groups = s.groups := by
  unfold State.relFor State.releaseBy
  split
  · have h : (s.release (keyOf i.gid)).groups = s.groups := groups_of_outer (release_outer ..)
    exact h
  · rfl

@[simp] theorem storeL1_outer (s : State) (core line : Nat) (bs : List StoreByte) : (s.storeL1 core line bs).outer = s.outer := by
  simp [State.storeL1]

@[simp] theorem flushOwnOf_outer (s : State) (i : Iss) (accs : List Acc) : (s.flushOwnOf i accs).outer = s.outer := by
  simp [State.flushOwnOf]

@[simp] theorem storeLine_outer (s : State) (i : Iss) (nt : Bool) (r : Ret) (accs : List Acc) :
    (s.storeLine i nt r accs).outer = s.outer := by
  unfold State.storeLine
  split <;> simp

@[simp] theorem storeAll_outer (s : State) (i : Iss) (nt : Bool) (r : Ret) (accs : List Acc) :
    (s.storeAll i nt r accs).outer = s.outer := by
  simp [State.storeAll]

theorem undisturbed_performStore (f : MF) (i : Iss) (s : State) (r : Ret) (accs : List Acc) :
    Undisturbed i.gid s (State.performOk s i (.st f) r accs).s :=
  undisturbed_of_groups ((groups_of_outer (storeAll_outer ..)).trans (relFor_groups s i f.ord)) _

end Sys2Proof.Machine
end

section
/-! # The checks of R196 with memory at rest

Page walks find nothing on its way, nothing cached and nothing that a read is to observe: they leave the TLBs and the health counters,
and no more. -/
namespace Sys2Proof.Machine
open Sys2Proof.Claims

/-- The state without its TLB entries and health counters: what translations leave alone at rest. -/
def State.untranslated (s : State) : State :=
  { s with ms := { s.ms with tlb := [] }, sys := { s.sys with counts := [] } }

theorem ms_of_untranslated {s t : State} (h : t.untranslated = s.untranslated) :
    { t.ms with tlb := [] } = { s.ms with tlb := [] } := (congrArg State.ms h :)
theorem sys_of_untranslated {s t : State} (h : t.untranslated = s.untranslated) :
    { t.sys with counts := [] } = { s.sys with counts := [] } := (congrArg State.sys h :)
theorem due_of_untranslated {s t : State} (h : t.untranslated = s.untranslated) : t.due = s.due := (congrArg State.due h :)
theorem mem_of_untranslated {s t : State} (h : t.untranslated = s.untranslated) : t.mem = s.mem := (congrArg State.mem h :)
theorem nextId_of_untranslated {s t : State} (h : t.untranslated = s.untranslated) : t.nextId = s.nextId :=
  (congrArg State.nextId h :)
theorem group_of_untranslated {s t : State} (h : t.untranslated = s.untranslated) (k : Nat) : t.group k = s.group k :=
  (congrArg (fun u : State => u.group k) h :)
theorem jobs_of_untranslated {s t : State} (h : t.untranslated = s.untranslated) : t.ms.jobs = s.ms.jobs :=
  (congrArg MemSys.jobs (ms_of_untranslated h) :)

theorem quiet_of_untranslated {s t : State} (h : t.untranslated = s.untranslated) (hq : Quiet s) : Quiet t := by
  have hms := ms_of_untranslated h
  have hcopies : t.ms.copies = s.ms.copies := (congrArg MemSys.copies hms :)
  have hparks : t.ms.parks = s.ms.parks := (congrArg MemSys.parks hms :)
  have hcells : t.ms.cells = s.ms.cells := (congrArg MemSys.cells hms :)
  have hcurd : t.ms.curd = s.ms.curd := (congrArg MemSys.curd hms :)
  have hbad : t.ms.bad = s.ms.bad := (congrArg MemSys.bad hms :)
  unfold Quiet
  rw [due_of_untranslated h, jobs_of_untranslated h, hcopies, hparks, hcells, hcurd, hbad]
  exact hq

theorem engineRead_quiet {s : State} (hq : Quiet s) (line off n : Nat) (kind : PageKind) :
    (s.engineRead line off n kind).1 = s := by
  obtain ⟨hcopies, hparks, hcells, -, hbad, -⟩ := hq
  have hcopy : ∀ o, s.copyAt (.l2 o (l2Slice line)) line = none := fun o => copyAt_noCopies hcopies ..
  unfold State.engineRead
  rw [landBack_noParks hparks, landMove_noParks hparks]
  dsimp only
  rw [parkOf_noParks hparks, hbad, observe_noCells hcells]
  match kind with
  | .shared => rfl
  | .ms => rfl
  | .local o => simp [hcopy]

theorem readEntry_quiet {s : State} (hq : Quiet s) (p a : Nat) : (s.readEntry p a).1 = s := by
  have h := engineRead_quiet hq (lineOf (paddr p a)) (a % 128) 8 .shared
  unfold State.readEntry
  split
  · rfl
  · split <;> next he => rw [he] at h; exact h

theorem walkFrom_quiet {s : State} (hq : Quiet s) (p va level frame : Nat) : (s.walkFrom p va level frame).1 = s := by
  induction level generalizing frame with
  | zero =>
    have h := readEntry_quiet hq p (frame + 8 * vaIndex va 0)
    unfold State.walkFrom
    split
    · next he => rw [he] at h; exact h
    · next he =>
      rw [he] at h
      split <;> exact h
  | succ level ih =>
    have h := readEntry_quiet hq p (frame + 8 * vaIndex va (level + 1))
    unfold State.walkFrom
    split
    · next he => rw [he] at h; exact h
    · next he =>
      rw [he] at h
      cases h
      split
      · rfl
      · exact ih _
      · rfl

theorem xlate_quiet {s : State} (hq : Quiet s) (w : Walker) (va : DWord) (acc : Access) :
    (s.xlate w va acc).1.untranslated = s.untranslated := by
  unfold State.xlate
  dsimp only
  split
  · rfl
  · split
    · rfl
    · split
      · split <;> rfl
      · split
        · rfl
        · have h := walkFrom_quiet hq w.part va.toNat 3 w.root
          split <;> next he => rw [he] at h; cases h; rfl

theorem checkGlobal_quiet {s : State} (hq : Quiet s) (i : Iss) (acc : Access) (width : Nat)
    (own : Nat → DWord → Option (Nat × DWord)) (eas : List (Nat × DWord)) :
    (s.checkGlobal i acc width own eas).1.untranslated = s.untranslated :=
  checkGlobal_keeps (P := fun t => t.untranslated = s.untranslated)
    (fun _ va ht => (xlate_quiet (quiet_of_untranslated ht hq) _ va acc).trans ht) rfl width own eas

theorem quiet_start {s : State} (hq : Quiet s) (cx : Cx) (c : Ctl) : Quiet (s.start cx c) := by
  unfold Quiet
  rw [start_ms, start_due]
  exact hq

theorem afterChecks_quiet {s : State} (hq : Quiet s) (cx : Cx) (f : MF) (acc : Access) (n : Nat) (second : Bool) :
    (s.afterChecks cx f acc n second).untranslated = (s.start cx f.ctl).untranslated :=
  checkGlobal_quiet (quiet_start hq cx f.ctl) ..

/-- Whether a gate stands before a unit does not depend on the health counters. -/
theorem gateStops_of_counts {s t : State} (h : { t.sys with counts := [] } = { s.sys with counts := [] }) (quad : Nat)
    (kind : PageKind) (pa : Nat) : t.gateStops quad (t.servedBy kind pa) = s.gateStops quad (s.servedBy kind pa) :=
  (congrArg (fun x : SysState => ({ s with sys := x } : State).gateStops quad (({ s with sys := x } : State).servedBy kind pa)) h :)

/-- Which earlier accesses hold back a lane's depends on its own open accesses, what is in flight and what its core holds. -/
theorem heldBack_congr {s t : State} {gid l : Nat} (ho : (t.lane gid l).opens = (s.lane gid l).opens) (hd : t.due = s.due)
    (hj : t.ms.jobs = s.ms.jobs) (id : Nat) : t.heldBack gid l id = s.heldBack gid l id := by
  unfold State.heldBack
  rw [ho, hd, hj]

theorem start_opens (s : State) (cx : Cx) (c : Ctl) (l : Nat) :
    ((s.start cx c).lane cx.gid l).opens = (s.lane cx.gid l).opens := by
  rw [start_lane]
  split <;> rfl

end Sys2Proof.Machine
end

section
/-! # Stores leave memory at rest (R14, R45, R202, R245) -/
namespace Sys2Proof.Machine
open Sys2Proof.Claims

/-- With nothing cached a packet meets no pending fill (R235). -/
theorem storePkt_noCopies {s : State} (h : s.ms.copies = []) (i : Iss) (nt : Bool) (r : Option Ret) (a : Acc) (accs : List Acc) :
    s.storePkt i nt r a accs = ⟨agentOf i.gid, s.seqFor a.lane, some ((s.group i.gid).name a.lane), lineOf a.pa, a.kind, nt,
      accs.flatMap Acc.storeBytes, r, accs.any fun a => a.data.length == 16, none, false⟩ := by
  unfold State.storePkt
  rw [meetsFill_noCopies h]

/-- The packet that takes the stores to one line out of the core. -/
def State.linePackets (s : State) (i : Iss) (nt : Bool) (r : Ret) : List Acc → List Instr
  | [] => []
  | a :: l => [.homeWriteAccept (s.storePkt i nt (some r) a (a :: l))]

/-- With nothing cached and nothing resting, the stores to a line only set out. -/
theorem storeLine_rest {s : State} (hcurd : s.ms.curd = []) (hcopies : s.ms.copies = []) (i : Iss) (nt : Bool) (r : Ret)
    (accs : List Acc) : s.storeLine i nt r accs = { s with due := s.due ++ s.linePackets i nt r accs } := by
  cases accs with
  | nil => simp [State.storeLine, State.linePackets]
  | cons a l =>
    unfold State.storeLine
    dsimp only
    rw [flushOwnOf_noCurd hcurd, storeL1_noCopies hcopies]
    rfl

/-- With nothing cached, a packet does not depend on what else is on its way. -/
theorem linePackets_due {s : State} (hcopies : s.ms.copies = []) (d : List Instr) (i : Iss) (nt : Bool) (r : Ret) :
    State.linePackets { s with due := d } i nt r = s.linePackets i nt r := by
  funext accs
  cases accs with
  | nil => rfl
  | cons a l =>
    rw [State.linePackets, State.linePackets, storePkt_noCopies hcopies, storePkt_noCopies (by exact hcopies)]
    rfl

theorem storeAll_rest {s : State} (hcurd : s.ms.curd = []) (hcopies : s.ms.copies = []) (i : Iss) (nt : Bool) (r : Ret)
    (accs : List Acc) :
    s.storeAll i nt r accs = { s with due := s.due ++ (byLine accs).flatMap (s.linePackets i nt r) } := by
  unfold State.storeAll
  generalize byLine accs = ls
  induction ls generalizing s with
  | nil => simp
  | cons x ls ih =>
    rw [List.foldl_cons, storeLine_rest hcurd hcopies, ih (by exact hcurd) (by exact hcopies), linePackets_due hcopies (s.due ++ s.linePackets i nt r x),
      List.flatMap_cons, ← List.append_assoc]

/-- What accesses take from registers does not change their lines. -/
theorem byLine_map (g : Acc → Acc) (hg : ∀ a, (g a).pa = a.pa) (accs : List Acc) :
    byLine (accs.map g) = (byLine accs).map (List.map g) := by
  unfold byLine
  simp only [List.map_map, List.filter_map, Function.comp_def, hg]

theorem storeBytes_length (s : State) (gid lane reg : Nat) (ty : MTy) : (s.storeBytes gid lane reg ty).length = MTy.bytes ty := by
  unfold State.storeBytes
  cases ty <;> simp [MTy.regs, MTy.bytes, leBytes_length, List.range_succ]

/-- A store performs by halves where it stores 16 bytes a lane: where it is a `.b128` (R234). -/
theorem any_dataFor_length (s : State) (i : Iss) (f : MF) (a : Acc) (l : List Acc) :
    (((a :: l).map (s.dataFor i f)).any fun a => a.data.length == 16) = (f.ty == .b128) := by
  have h16 : ∀ b, ((s.dataFor i f b).data.length == 16) = (f.ty == .b128) := fun b => by
    show ((s.storeBytes i.gid b.lane f.data.toNat f.ty).length == 16) = _
    rw [storeBytes_length]
    cases f.ty <;> rfl
  rw [List.any_map, Function.comp_def]
  simp only [h16]
  cases (f.ty == MTy.b128) <;> simp

/-- The packet of the stores to a line, once they have taken their data in the state `s1` in which the word has started. -/
theorem linePackets_dataFor {s s1 : State} {i : Iss} (hid : s.nextId = i.id + 1) (hcopies : s.ms.copies = [])
    (hname : ∀ l, (s.group i.gid).name l = (s1.group i.gid).name l) (f : MF) (r : Ret) (accs : List Acc) :
    s.linePackets i (f.hint == .nt) r (accs.map (s1.dataFor i f)) = packet s1 i f r accs := by
  cases accs with
  | nil => rfl
  | cons a l =>
    have hbytes : ((a :: l).map (s1.dataFor i f)).flatMap Acc.storeBytes = (a :: l).flatMap (laneBytes s1 i f) :=
      List.flatMap_map ..
    have hseq : s.seqFor a.lane = 64 * i.id + a.lane := by unfold State.seqFor; rw [hid]; rfl
    show [Instr.homeWriteAccept (s.storePkt i (f.hint == .nt) (some r) (s1.dataFor i f a) ((a :: l).map (s1.dataFor i f)))] = _
    rw [storePkt_noCopies hcopies, hbytes, any_dataFor_length, hname]
    show [Instr.homeWriteAccept ⟨_, s.seqFor a.lane, _, _, _, _, _, _, _, _, _⟩] = _
    rw [hseq]
    rfl

/-- The packets of an instruction's stores, line by line. -/
theorem flatMap_linePackets {s s1 : State} {i : Iss} (hid : s.nextId = i.id + 1) (hcopies : s.ms.copies = [])
    (hname : ∀ l, (s.group i.gid).name l = (s1.group i.gid).name l) (f : MF) (r : Ret) (accs : List Acc) :
    (byLine (accs.map (s1.dataFor i f))).flatMap (s.linePackets i (f.hint == .nt) r) = (byLine accs).flatMap (packet s1 i f r) := by
  rw [byLine_map (s1.dataFor i f) (fun _ => rfl), List.flatMap_map]
  exact congrArg (fun p => (byLine accs).flatMap p) (funext fun l => linePackets_dataFor hid hcopies hname f r l)

/-- Every packet that goes out for a line carries the instruction's result. -/
theorem retOf_packet {s1 : State} {i : Iss} {f : MF} {r : Ret} {accs : List Acc} (h : accs ≠ []) :
    ∃ x ∈ packet s1 i f r accs, retOf x = some r := by
  cases accs with
  | nil => exact absurd rfl h
  | cons a l => exact ⟨_, List.mem_singleton.mpr rfl, rfl⟩

/-- The accesses of a line, by line, with one access among them. -/
theorem exists_mem_byLine {accs : List Acc} {a : Acc} (h : a ∈ accs) : ∃ l ∈ byLine accs, a ∈ l :=
  ⟨accs.filter fun b => lineOf b.pa == lineOf a.pa,
    List.mem_map.mpr ⟨lineOf a.pa, by rw [List.mem_eraseDups]; exact List.mem_map_of_mem h, rfl⟩,
    List.mem_filter.mpr ⟨h, by simp⟩⟩

/-- Some packet carries the result of an instruction that stores. -/
theorem carried_packets {s s1 : State} {d : List Instr} {i : Iss} {f : MF} {r : Ret} {accs : List Acc}
    (hd : s.due = d ++ (byLine accs).flatMap (packet s1 i f r)) (ha : accs ≠ []) {id : Nat} (hid : r.id = id) :
    s.carried id = true := by
  subst hid
  obtain ⟨a, ha⟩ := List.exists_mem_of_ne_nil _ ha
  obtain ⟨l, hl, hal⟩ := exists_mem_byLine ha
  obtain ⟨x, hx, hr⟩ := retOf_packet (s1 := s1) (i := i) (f := f) (r := r) (List.ne_nil_of_mem hal)
  unfold State.carried
  rw [hd, List.any_eq_true]
  refine ⟨x, List.mem_append_right _ (List.mem_flatMap.mpr ⟨l, hl, hx⟩), ?_⟩
  rw [hr]
  exact beq_self_eq_true r.id

/-- Accesses that no gate refuses all perform. -/
theorem perform_ungated {s : State} {i : Iss} {w : Instr} {accs : List Acc} (hg : ∀ a ∈ accs, s.gated i w a = false)
    (ha : accs ≠ []) (r : Ret) : s.perform i w r accs = s.performOk i w r accs := by
  have hout : accs.filter (s.gated i w) = [] := List.filter_eq_nil_iff.mpr fun a hm => by rw [hg a hm]; exact Bool.false_ne_true
  have hgo : (accs.filter fun a => !s.gated i w a) = accs := List.filter_eq_self.mpr fun a hm => by rw [hg a hm]; rfl
  have hlanes : r.lanes &&& ~~~(maskOf ([] : List Nat)) = r.lanes := by
    show r.lanes &&& ~~~0#32 = r.lanes
    rw [BitVec.not_zero, BitVec.and_allOnes]
  unfold State.perform
  dsimp only
  rw [hout, hgo, if_neg ha, List.map_nil, hlanes, List.append_nil]
  rfl

theorem withRet_id (x : Instr) : withRet (fun y => y) x = x := by
  unfold withRet
  split
  · rfl
  · simp
  · simp
  · simp
  · rfl

/-- The accesses of an instruction have performed whole, no register write of theirs is to come, and packets carry its result. -/
theorem runJob_carried {s u : State} {j : Job} (hp : s.perform j.iss j.instr (j.ret []) j.accs = Done.ofState u)
    (hl : j.lost = []) (hc : u.carried j.iss.id = true) : s.runJob j = u := by
  have hkeep : j.keeps = fun _ => true := by
    funext w
    unfold Job.keeps
    rw [hl]
    cases w <;> rfl
  have hret : (fun y : Ret => if y.id = j.iss.id then { y with writes := y.writes.filter j.keeps, tags := y.tags ++ [] } else y)
      = fun y => y := by
    funext y
    rw [hkeep, List.append_nil, List.filter_true]
    exact ite_self _
  unfold State.runJob
  dsimp only
  rw [hp]
  show (if u.carried j.iss.id then { u with due := u.due.map (withRet _) } else _) = _
  rw [if_pos hc]
  show ({ u with due := u.due.map (withRet fun y : Ret =>
    if y.id = j.iss.id then { y with writes := y.writes.filter j.keeps, tags := y.tags ++ [] } else y) } : State) = u
  rw [hret, List.map_congr_left fun x _ => withRet_id x, List.map_id']

/-- A store of lanes that nothing holds back leaves its core as its counter rises. -/
theorem leave_store {s : State} {i : Iss} {f : MF} {accs : List Acc} (ha : accs ≠ [])
    (hh : ∀ a ∈ accs, (s.bump i.gid .stc).heldBack i.gid a.lane i.id = false) (dst : List Nat) :
    s.leave i (.st f) dst accs
      = (s.bump i.gid .stc).runJob ⟨i, .st f, accs, [], dst, [], maskOf (accs.map fun a => a.lane)⟩ := by
  have hready : (s.bump i.gid .stc).jobReady ⟨i, .st f, accs, [], dst, [], maskOf (accs.map fun a => a.lane)⟩ = true := by
    show (true && accs.all fun a => !(s.bump i.gid .stc).heldBack i.gid a.lane i.id) = true
    rw [Bool.true_and, List.all_eq_true]
    exact fun a hm => by rw [hh a hm]; rfl
  unfold State.leave
  rw [if_neg ha]
  exact if_pos hready

end Sys2Proof.Machine
end

section
/-! # Stores set out and stand (O20) -/
namespace Sys2Proof.Machine
open Sys2Proof.Claims

theorem quiet_bump {s : State} (hq : Quiet s) (gid : Nat) (c : Ctr) : Quiet (s.bump gid c) := hq

/-- The stores of lanes whose data they hold perform at rest: one packet a line sets out, with the data as the registers gave it in
the state `s1` in which the word has started. -/
theorem performOk_store_quiet {s s1 : State} {i : Iss} (hq : Quiet s) (hid : s.nextId = i.id + 1)
    (hname : ∀ l, (s.group i.gid).name l = (s1.group i.gid).name l) (f : MF) (r : Ret) (accs : List Acc) : ∃ bs,
    State.performOk s i (.st f) r (accs.map (s1.dataFor i f))
      = Done.ofState { s with blocks := bs, due := s.due ++ (byLine accs).flatMap (packet s1 i f r) } := by
  have ⟨hcopies, _, _, hcurd, _, _, hflight⟩ := hq
  obtain ⟨bs, hrel⟩ := relFor_quiet hflight hcurd i f.ord
  have hpkt := flatMap_linePackets (s := { s with blocks := bs }) (s1 := s1) hid hcopies hname f r accs
  refine ⟨bs, congrArg Done.ofState ?_⟩
  rw [hrel, storeAll_rest (by exact hcurd) (by exact hcopies), hpkt]

/-- Stores that nothing holds back and no gate refuses leave memory at rest: their counter rises and their packets set out. -/
theorem leave_store_quiet {s s1 : State} {i : Iss} {f : MF} {accs : List Acc} (hq : Quiet s) (hid : s.nextId = i.id + 1)
    (hname : ∀ l, (s.group i.gid).name l = (s1.group i.gid).name l) (ha : accs ≠ [])
    (hheld : ∀ a ∈ accs, s.heldBack i.gid a.lane i.id = false)
    (hgate : ∀ a ∈ accs, s.gateStops (quadOfGid i.gid) (s.servedBy a.kind a.pa) = false) : ∃ bs,
    s.leave i (.st f) [] (accs.map (s1.dataFor i f)) = { s.bump i.gid .stc with
      blocks := bs
      due := s.due ++ (byLine accs).flatMap (packet s1 i f ⟨i.id, i.gid, some .stc, maskOf (accs.map fun a => a.lane), [], []⟩) } := by
  have hmap : accs.map (s1.dataFor i f) ≠ [] := fun h => ha (List.map_eq_nil_iff.mp h)
  have hmask : (accs.map (s1.dataFor i f)).map (fun a => a.lane) = accs.map fun a => a.lane := List.map_map
  have hopens : ∀ l, ((s.bump i.gid .stc).lane i.gid l).opens = (s.lane i.gid l).opens := fun l => by
    unfold State.lane; rw [group_bump]; rfl
  have hheld' : ∀ b ∈ accs.map (s1.dataFor i f), (s.bump i.gid .stc).heldBack i.gid b.lane i.id = false :=
    List.forall_mem_map.mpr fun a ha => (heldBack_congr (hopens _) rfl rfl i.id).trans (hheld a ha)
  have hgate' : ∀ b ∈ accs.map (s1.dataFor i f), (s.bump i.gid .stc).gated i (.st f) b = false :=
    List.forall_mem_map.mpr fun a ha => hgate a ha
  have hname' : ∀ l, ((s.bump i.gid .stc).group i.gid).name l = (s1.group i.gid).name l := fun l => by
    rw [group_bump]; exact hname l
  obtain ⟨bs, hperf⟩ := performOk_store_quiet (quiet_bump hq i.gid .stc) hid hname' f
    ⟨i.id, i.gid, some .stc, maskOf (accs.map fun a => a.lane), [], []⟩ accs
  refine ⟨bs, ?_⟩
  rw [leave_store hmap hheld', hmask]
  exact runJob_carried ((perform_ungated hgate' hmap _).trans hperf) rfl (carried_packets rfl ha rfl)

/-- ST sets out at rest (R14, R202, R245): its packets are on their way, and memory stands. -/
theorem store_sets_out {f : MF} {s : State} {cx : Cx} (hl : s.taking cx f.ctl ≠ [])
    (hp : AllPass s cx f .write (MTy.bytes f.ty) false) (hq : Quiet s) (hheld : NoneHeld s cx.gid (s.taking cx f.ctl))
    (hgate : Ungated s cx.gid (check s cx f .write (MTy.bytes f.ty) false).ok) :
    let ok := (check s cx f .write (MTy.bytes f.ty) false).ok
    let i := issOf s cx f.ctl
    let t := (s.afterChecks cx f .write (MTy.bytes f.ty) false).leave i (.st f) [] (ok.map ((s.start cx f.ctl).dataFor i f))
    t.mem = s.mem ∧ t.due = s.due ++ (byLine ok).flatMap (packet (s.start cx f.ctl) i f
      ⟨s.nextId, cx.gid, some .stc, maskOf (ok.map fun a => a.lane), [], []⟩) := by
  intro ok i t
  have hun := afterChecks_quiet hq cx f .write (MTy.bytes f.ty) false
  have hdue := (due_of_untranslated hun).trans (start_due ..)
  have hmem := (mem_of_untranslated hun).trans (start_mem ..)
  have hnext := (nextId_of_untranslated hun).trans (start_nextId ..)
  have hjobs := (jobs_of_untranslated hun).trans (congrArg MemSys.jobs (start_ms ..))
  have hsys := (sys_of_untranslated hun).trans (congrArg (fun x : SysState => { x with counts := [] }) (start_sys ..))
  have hgroup := group_of_untranslated hun i.gid
  have hopens : ∀ l, ((s.afterChecks cx f .write (MTy.bytes f.ty) false).lane i.gid l).opens = (s.lane i.gid l).opens := fun l => by
    unfold State.lane; rw [hgroup]; exact start_opens s cx f.ctl l
  obtain ⟨bs, hleave⟩ := leave_store_quiet (s1 := s.start cx f.ctl) (i := i) (f := f) (accs := ok)
    (quiet_of_untranslated hun (quiet_start hq cx f.ctl)) hnext (fun l => by rw [hgroup]) (check_ok_ne_nil hl hp)
    (fun a ha => (heldBack_congr (hopens a.lane) hdue hjobs i.id).trans (hheld a.lane (check_lane_mem ha)))
    (fun a ha => (gateStops_of_counts hsys ..).trans (hgate a ha))
  have ht : t = _ := hleave
  rw [ht]
  exact ⟨hmem, congrArg (· ++ _) hdue⟩

/-- ST issues: its counter has risen, its lanes have passed it, and no register has changed. -/
theorem store_counted {f : MF} {s : State} {cx : Cx} (he : LanesExist s cx) (hl : s.taking cx f.ctl ≠ [])
    (hp : AllPass s cx f .write (MTy.bytes f.ty) false) :
    Counted s ((s.afterChecks cx f .write (MTy.bytes f.ty) false).leave (issOf s cx f.ctl) (.st f) []
      ((check s cx f .write (MTy.bytes f.ty) false).ok.map ((s.start cx f.ctl).dataFor (issOf s cx f.ctl) f))) cx .stc :=
  counted_of_undisturbed he (undisturbed_afterChecks ..)
    (undisturbed_leave (i := issOf s cx f.ctl) (undisturbed_performStore f _) _ []
      fun h => check_ok_ne_nil hl hp (List.map_eq_nil_iff.mp h))

/-- A write that home accepts at rest stands whole, or by one of its halves with the other on its way (R14, R165, R234, R245). -/
theorem write_stands {w : WritePkt} {s : State} (hq : Quiet s) (hb : Plain w.bytes) :
    ∃ t, exec (.homeWriteAccept w) s = .next t ∧ t.groups = s.groups ∧ t.blocks = s.blocks
      ∧ ((Stored s t w.line (leftBytes w.done w.bytes)
            ∧ ∀ r, w.ret = some r → ∃ tags, t.due = s.due ++ [.resultReturn { r with tags := r.tags ++ tags }]
              ∧ (w.kind = .shared → tags = [(w.line, Map.get 0 s.ms.tags w.line + 1)]))
        ∨ (w.split = true ∧ w.done = none ∧ ∃ h, Stored s t w.line (halfBytes h w.bytes)
            ∧ t.due = s.due ++ [.homeWriteAccept { w with done := some h }])) := by
  have ⟨_, _, _, _, _, _, hflight⟩ := hq
  have hexec : exec (.homeWriteAccept w) s
      = .next (if w.split && w.done.isNone && s.coin 600128 then s.acceptHalf w (s.coin 600129) else s.acceptWrite w) := by
    show execHomeWriteAccept w s = _
    unfold execHomeWriteAccept
    rw [drain_noneInFlight hflight]
  rw [hexec]
  split
  · next hsplit =>
    simp only [Bool.and_eq_true, Option.isNone_iff_eq_none] at hsplit
    obtain ⟨⟨hs, hd⟩, -⟩ := hsplit
    have ho := acceptHalf_outer s w (s.coin 600129)
    exact ⟨_, rfl, groups_of_outer ho, blocks_of_outer ho, .inr ⟨hs, hd, _, acceptHalf_quiet hq w hb _⟩⟩
  · have ho := acceptWrite_outer s w
    refine ⟨_, rfl, groups_of_outer ho, blocks_of_outer ho, .inl ?_⟩
    rw [acceptWrite_quiet hq]
    exact finishWrite_quiet hq w hb

end Sys2Proof.Machine

open Sys2Proof.Machine in
/-- Settles O20: a store that leaves its core at rest only sends its packets, and home puts the bytes of one in its line; a release by
the store, which finds nothing to bring home, and the checks' page walks leave memory alone. -/
theorem storesSetOutAndStand : Obligations.StoresSetOutAndStand := by
  unfold Obligations.StoresSetOutAndStand
  refine ⟨fun f s cx he hi hp => ⟨_, execSt_leaves hi hp, ?_⟩, fun w s hq hb => write_stands hq hb⟩
  obtain ⟨-, hl, -, -⟩ := hi
  exact ⟨store_counted he hl hp, fun hq hheld hgate => store_sets_out hl hp hq hheld hgate⟩
end

section
/-! # Integer arithmetic (R74, R115, R120 to R123) -/
namespace Sys2Proof.Machine
open Sys2Proof.Claims

/-- No type is empty. -/
theorem width_pos (t : Ty) : 0 < t.width := by cases t <;> decide

theorem two_pow_width (t : Ty) : (2 : Int) ^ t.width = 2 * 2 ^ (t.width - 1) := by
  rw [← pow_succ', Nat.sub_add_cancel (width_pos t)]

/-- The model reads an integer operand as R115 gives it. -/
theorem int_eq_rdInt (t : Ty) (x : DWord) : Alu.int t x = rdInt t x := by
  have hw := two_pow_width t
  unfold Alu.int rdInt
  cases t.signed
  · simp
  · simp only [Bool.true_and, decide_eq_true_eq, if_true, BitVec.toInt_eq_toNat_cond, BitVec.toNat_setWidth]
    push_cast [← Int.ofNat_le, ← Int.ofNat_lt]
    split <;> split <;> omega

theorem lowest_le_rdInt (t : Ty) (x : DWord) : lowest t ≤ rdInt t x := by
  unfold lowest rdInt
  split
  · exact BitVec.le_toInt _
  · exact Int.natCast_nonneg _

theorem rdInt_le_highest (t : Ty) (x : DWord) : rdInt t x ≤ highest t := by
  unfold highest rdInt
  split
  · exact Int.le_sub_one_of_lt BitVec.toInt_lt
  · have := (x.setWidth t.width).isLt
    have : (((x.setWidth t.width).toNat : Nat) : Int) < 2 ^ t.width := by exact_mod_cast this
    omega

/-- A value of the type's range stands in its register image (R115). -/
theorem image_of_range {t : Ty} (ht : t.isInt = true) {v : Int} (hlo : lowest t ≤ v) (hhi : v ≤ highest t) :
    Image t (Alu.image t v) v := by
  cases t <;> cases ht <;>
    simp [Image, Alu.image, lowest, highest, Ty.is64, Ty.signed, Ty.width, BitVec.toInt_ofInt, BitVec.toNat_ofInt, Int.bmod_def] at * <;> omega

/-- The wrapped value lies in the type's range (R74). -/
theorem wrapInt_range (t : Ty) (x : Int) : lowest t ≤ Alu.wrapInt t x ∧ Alu.wrapInt t x ≤ highest t := by
  have hw := two_pow_width t
  have hp : (0 : Int) < 2 ^ (t.width - 1) := by positivity
  have h0 := Int.emod_nonneg x (show (2 : Int) ^ t.width ≠ 0 by positivity)
  have h1 := Int.emod_lt_of_pos x (show (0 : Int) < 2 ^ t.width by positivity)
  unfold lowest highest Alu.wrapInt
  cases t.signed
  · simp; omega
  · simp only [Bool.true_and, decide_eq_true_eq, if_true]
    split <;> omega

/-- The wrapped value is the exact one modulo 2^w (R74). -/
theorem dvd_wrapInt_sub (t : Ty) (x : Int) : (2 ^ t.width : Int) ∣ Alu.wrapInt t x - x := by
  have h : (2 ^ t.width : Int) ∣ x % 2 ^ t.width - x := (Int.mod_modEq x _).symm.dvd
  unfold Alu.wrapInt
  dsimp only
  split
  · rw [show x % 2 ^ t.width - 2 ^ t.width - x = x % 2 ^ t.width - x - 2 ^ t.width by ring]
    exact h.sub (dvd_refl _)
  · exact h

theorem clampInt_eq (t : Ty) (x : Int) : Alu.clampInt t x = max (lowest t) (min (highest t) x) := by
  have hp : (0 : Int) < 2 ^ (t.width - 1) := by positivity
  have hw : (0 : Int) < 2 ^ t.width := by positivity
  have hle : lowest t ≤ highest t := by unfold lowest highest; split <;> omega
  have : Alu.loInt t = lowest t := rfl
  have : Alu.hiInt t = highest t := rfl
  unfold Alu.clampInt
  split
  · omega
  · split <;> omega

/-- What the model writes of an exact result is R120's clamped or wrapped value. -/
theorem putInt_rounded {t : Ty} (ht : t.isInt = true) (sat : Bool) (x : Int) : Rounded t sat (Alu.putInt t sat x) x := by
  cases sat
  · have ⟨hlo, hhi⟩ := wrapInt_range t x
    exact ⟨_, image_of_range ht hlo hhi, hlo, hhi, dvd_wrapInt_sub t x⟩
  · have hle : lowest t ≤ highest t := (lowest_le_rdInt t 0).trans (rdInt_le_highest t 0)
    have hlo : lowest t ≤ Alu.clampInt t x := by rw [clampInt_eq]; exact le_max_left ..
    have hhi : Alu.clampInt t x ≤ highest t := by rw [clampInt_eq]; exact max_le hle (min_le_left ..)
    exact ⟨_, image_of_range ht hlo hhi, hlo, hhi, clampInt_eq t x⟩

section
variable {m : Alu.Mode} (ht : m.ty.isInt = true)
include ht

theorem add_rounded (a b : DWord) : Rounded m.ty m.sat (Alu.add m a b) (rdInt m.ty a + rdInt m.ty b) := by
  simpa only [Alu.add, if_pos ht, int_eq_rdInt] using putInt_rounded ht ..

theorem sub_rounded (a b : DWord) : Rounded m.ty m.sat (Alu.sub m a b) (rdInt m.ty a - rdInt m.ty b) := by
  simpa only [Alu.sub, if_pos ht, int_eq_rdInt] using putInt_rounded ht ..

theorem mul_rounded (a b : DWord) : Rounded m.ty m.sat (Alu.mul m a b) (rdInt m.ty a * rdInt m.ty b) := by
  simpa only [Alu.mul, if_pos ht, int_eq_rdInt] using putInt_rounded ht ..

theorem mad_rounded (a b c : DWord) :
    Rounded m.ty m.sat (Alu.mad m a b c) (rdInt m.ty a * rdInt m.ty b + rdInt m.ty c) := by
  simpa only [Alu.mad, if_pos ht, int_eq_rdInt] using putInt_rounded ht ..

theorem mulhi_rounded (a b : DWord) :
    Rounded m.ty false (Alu.mulhi m a b) (rdInt m.ty a * rdInt m.ty b / 2 ^ m.ty.width) := by
  simpa only [Alu.mulhi, int_eq_rdInt] using putInt_rounded ht ..

theorem abs_rounded (a : DWord) : Rounded m.ty m.sat (Alu.abs m a) |rdInt m.ty a| := by
  simpa only [Alu.abs, if_pos ht, int_eq_rdInt, Int.abs_eq_natAbs] using putInt_rounded ht ..

theorem neg_rounded (a : DWord) : Rounded m.ty m.sat (Alu.neg m a) (-rdInt m.ty a) := by
  simpa only [Alu.neg, if_pos ht, int_eq_rdInt] using putInt_rounded ht ..

theorem min_image (a b : DWord) : Image m.ty (Alu.min m a b) (min (rdInt m.ty a) (rdInt m.ty b)) := by
  have h : (if rdInt m.ty b < rdInt m.ty a then rdInt m.ty b else rdInt m.ty a) = min (rdInt m.ty a) (rdInt m.ty b) := by
    split <;> omega
  rw [Alu.min, if_pos ht, int_eq_rdInt, int_eq_rdInt, h]
  exact image_of_range ht (le_min (lowest_le_rdInt ..) (lowest_le_rdInt ..)) ((min_le_left ..).trans (rdInt_le_highest ..))

theorem max_image (a b : DWord) : Image m.ty (Alu.max m a b) (max (rdInt m.ty a) (rdInt m.ty b)) := by
  have h : (if rdInt m.ty a < rdInt m.ty b then rdInt m.ty b else rdInt m.ty a) = max (rdInt m.ty a) (rdInt m.ty b) := by
    split <;> omega
  rw [Alu.max, if_pos ht, int_eq_rdInt, int_eq_rdInt, h]
  exact image_of_range ht ((lowest_le_rdInt ..).trans (le_max_left ..)) (max_le (rdInt_le_highest ..) (rdInt_le_highest ..))

end
end Sys2Proof.Machine

open Sys2Proof.Machine in
/-- Settles O2: each operation puts its exact result by `Alu.putInt`, which wraps or clamps as R74 does; MIN and MAX stay in range. -/
theorem integerArithmetic : Obligations.IntegerArithmetic := by
  unfold Obligations.IntegerArithmetic
  refine ⟨fun f a b c ht => ?_, fun f a ht => ?_⟩
  · exact ⟨add_rounded (m := modeRRR f) ht a b, sub_rounded (m := modeRRR f) ht a b, mul_rounded (m := modeRRR f) ht a b,
      mad_rounded (m := modeRRR f) ht a b c, abs_rounded (m := modeRRR f) ht a, neg_rounded (m := modeRRR f) ht a,
      min_image (m := modeRRR f) ht a b, max_image (m := modeRRR f) ht a b, mulhi_rounded (m := modeRRR f) ht a b⟩
  · exact ⟨add_rounded (m := modeRI f) ht a _, sub_rounded (m := modeRI f) ht a _, mul_rounded (m := modeRI f) ht a _,
      min_image (m := modeRI f) ht a _, max_image (m := modeRI f) ht a _⟩
end

section
/-! # The engine's list of operations (R272) -/
namespace Sys2Proof.Machine
open Sys2Proof.Claims

theorem matOp_id {s : State} {op : Nat} {o : MatOp} (h : s.matOp op = some o) : o.id = op := by
  simpa using List.find?_some h

/-- An update of an operation that keeps its name is what the engine then lists. -/
theorem matOp_modOp {s : State} {op : Nat} {o : MatOp} (h : s.matOp op = some o) {f : MatOp → MatOp} (hf : ∀ x, (f x).id = x.id) :
    (s.modOp op f).matOp op = some (f o) := by
  have hid : (o.id == op) = true := by simpa using matOp_id h
  have hkeep : ((fun x : MatOp => x.id == op) ∘ fun x => if x.id == op then f x else x) = fun x => x.id == op := by
    funext x
    dsimp only [Function.comp]
    split <;> simp [hf]
  show (s.eng.mat.map _).find? _ = _
  rw [List.find?_map, hkeep, show s.eng.mat.find? (fun x => x.id == op) = some o from h, Option.map_some, if_pos hid]

/-- The operations before an operation: none of its name, and it follows them. -/
theorem mat_split {s : State} {op : Nat} {o : MatOp} (h : s.matOp op = some o) :
    ∃ before after, s.eng.mat = before ++ o :: after ∧ s.eng.mat.takeWhile (fun x => x.id != o.id) = before := by
  obtain ⟨-, before, after, hsplit, hnone⟩ := List.find?_eq_some_iff_append.mp h
  have hid := matOp_id h
  refine ⟨before, after, hsplit, ?_⟩
  have hall : ∀ a ∈ before, (a.id != o.id) = true := fun a ha => by simpa [hid] using hnone a ha
  rw [hsplit, List.takeWhile_append_of_pos hall, List.takeWhile_cons_of_neg (by simp), List.append_nil]

/-- The first operation of a sub-core finds no earlier one. -/
theorem engineHeld_first {s : State} {op : Nat} {o : MatOp} (h : s.matOp op = some o)
    (hfirst : (s.eng.mat.find? fun x => x.sub == o.sub) = some o) : s.engineHeld o = false := by
  obtain ⟨before, after, hsplit, hbefore⟩ := mat_split h
  obtain ⟨-, as, bs, hsplit', hnone⟩ := List.find?_eq_some_iff_append.mp hfirst
  have hsub : ∀ x ∈ before, x.sub ≠ o.sub := by
    intro x hx heq
    have hxfind : (before.find? fun x => x.sub == o.sub).isSome = true := List.find?_isSome.mpr ⟨x, hx, by simp [heq]⟩
    obtain ⟨y, hy⟩ := Option.isSome_iff_exists.mp hxfind
    have hyo : some y = some o := by rw [← hfirst, hsplit, List.find?_append, hy]; rfl
    have hmem : o ∈ s.eng.mat.takeWhile fun x => x.id != o.id := by
      rw [hbefore, ← Option.some.inj hyo]; exact List.mem_of_find?_eq_some hy
    simpa using List.mem_takeWhile_imp hmem
  unfold State.engineHeld
  rw [hbefore, List.any_eq_false]
  exact fun x hx => by simp [hsub x hx]

/-- An earlier operation of the sub-core whose operands are not all read holds the engine. -/
theorem engineHeld_behind {s : State} {op : Nat} {o p : MatOp} (h : s.matOp op = some o)
    (hfirst : (s.eng.mat.find? fun x => x.sub == o.sub) = some p) (hne : p.id ≠ op) (hf : p.fetched = false) :
    s.engineHeld o = true := by
  obtain ⟨before, after, hsplit, hbefore⟩ := mat_split h
  have hsub : p.sub = o.sub := by simpa using List.find?_some hfirst
  have hp : p ∈ before := by
    rw [hsplit, List.find?_append] at hfirst
    rcases hb : before.find? fun x => x.sub == o.sub with _ | y
    · rw [hb, Option.none_or, List.find?_cons_of_pos (by simp)] at hfirst
      exact absurd (Option.some.inj hfirst ▸ matOp_id h) hne
    · rw [hb, Option.some_or] at hfirst
      exact Option.some.inj hfirst ▸ List.mem_of_find?_eq_some hb
  unfold State.engineHeld
  rw [hbefore, List.any_eq_true]
  exact ⟨p, hp, by simp [hsub, hf]⟩

theorem execMatrixOpStart_free {s : State} {op : Nat} {o : MatOp} (h : s.matOp op = some o)
    (hfirst : (s.eng.mat.find? fun x => x.sub == o.sub) = some o) :
    ∃ t x, exec (.matrixOpStart op) s = .next t ∧ t.matOp op = some x ∧ x.started = true ∧ x.kind = o.kind ∧ t.groups = s.groups
      ∧ SameMemory s t ∧ t.due = s.due ++ [.operandFetchEnd op] := by
  have hexec : exec (.matrixOpStart op) s = execMatrixOpStart op s := rfl
  rw [hexec]
  unfold execMatrixOpStart
  simp only [h, engineHeld_first h hfirst, Bool.false_eq_true, if_false]
  exact ⟨_, _, rfl, matOp_modOp h (fun _ => rfl), rfl, rfl, rfl, ⟨rfl, rfl⟩, rfl⟩

theorem execMatrixOpStart_held {s : State} {op : Nat} {o p : MatOp} (h : s.matOp op = some o)
    (hfirst : (s.eng.mat.find? fun x => x.sub == o.sub) = some p) (hne : p.id ≠ op) (hf : p.fetched = false) :
    exec (.matrixOpStart op) s = .next (s.send (.matrixOpStart op)) := by
  show execMatrixOpStart op s = _
  unfold execMatrixOpStart
  simp only [h, engineHeld_behind h hfirst hne hf, if_true]

end Sys2Proof.Machine
end

section
/-! # What the events of an operation leave of a group (R289, R294)

The events park, wake and forget what operations no longer read; registers, exception registers and counters stand. -/
namespace Sys2Proof.Machine
open Sys2Proof.Claims

/-- A lane with its wait and its former values blanked. -/
def Lane.calm (x : Lane) : Lane := { x with park := none, since := 0, olds := [] }

/-- A group with its hold, and its lanes' waits and former values, blanked. -/
def Group.calm (g : Group) : Group := { g with hold := false, lanes := g.lanes.map Lane.calm }

theorem lane_calm (g : Group) (l : Nat) : g.calm.lane l = (g.lane l).calm := by
  simp only [Group.calm, Group.lane, List.getD_eq_getElem?_getD, List.getElem?_map]
  cases g.lanes[l]? <;> rfl

theorem sameRegs_of_lanes {s t : State} {gid : Nat} (hl : ∀ l, (t.lane gid l).calm = (s.lane gid l).calm)
    (hg : (t.group gid).g = (s.group gid).g) : SameRegs gid s t :=
  ⟨fun l k => (congrArg (fun x : Lane => x.vReg k) (hl l) :), fun l k => (congrArg (fun x : Lane => x.pReg k) (hl l) :),
    fun k => (congrArg (fun g => Map.get 0 g k) hg :),
    fun l => ⟨(congrArg Lane.xcause (hl l) :), (congrArg Lane.xinfo (hl l) :), (congrArg Lane.xpc (hl l) :),
      (congrArg Lane.xidx (hl l) :)⟩⟩

theorem calm_setLane {g : Group} {l : Nat} {x : Lane} (h : x.calm = (g.lane l).calm) : (g.setLane l x).calm = g.calm := by
  have hlanes : (g.lanes.set l x).map Lane.calm = g.lanes.map Lane.calm := by
    apply List.ext_getElem?
    intro k
    rw [List.getElem?_map, List.getElem?_map, List.getElem?_set]
    split
    · next hk =>
      subst hk
      split
      · next hlt => simp [h, Group.lane, hlt]
      · next hge => simp [hge]
    · rfl
  simp only [Group.calm, Group.setLane, hlanes]

theorem calm_modLane (s : State) (gid l k : Nat) {f : Lane → Lane} (hf : ∀ x, (f x).calm = x.calm) :
    ((s.modLane gid l f).group k).calm = (s.group k).calm := by
  rw [group_modLane]
  split
  · next h => subst h; exact calm_setLane (hf _)
  · rfl

theorem calm_modGroup (s : State) (gid k : Nat) {f : Group → Group} (hf : ∀ g, (f g).calm = g.calm) :
    ((s.modGroup gid f).group k).calm = (s.group k).calm := by
  rw [group_modGroup]
  split
  · next h => subst h; exact hf _
  · rfl

theorem calm_of_outer {s t : State} (h : t.outer = s.outer) (k : Nat) : (t.group k).calm = (s.group k).calm :=
  congrArg (fun l => (Map.get Group.fresh l k).calm) (groups_of_outer h)

theorem eng_of_outer {s t : State} (h : t.outer = s.outer) : t.eng = s.eng := (congrArg State.eng h :)

theorem wake_calm (s : State) (w : Wait) (k : Nat) : ((s.wake w).group k).calm = (s.group k).calm := by
  have hhold := calm_modGroup
    (eachLane s (lanesOf w.lanes) fun s l => s.modLane w.gid l fun x => if x.park = some w.id then { x with park := none, since := s.clock } else x)
    w.gid k (f := fun g => { g with hold := true }) fun _ => rfl
  refine hhold.trans (eachLane_proj (fun s => (s.group k).calm) (fun s l => ?_) s _)
  exact calm_modLane _ _ _ _ fun x => by split <;> rfl

theorem wake_eng (s : State) (w : Wait) : (s.wake w).eng = s.eng :=
  eachLane_proj State.eng (f := fun s l => s.modLane w.gid l _) (fun _ _ => rfl) s _

@[simp] theorem acquire_outer (s : State) (key quad : Nat) (scope : Scope) : (s.acquire key quad scope).outer = s.outer := by
  cases scope <;> simp [State.acquire]

theorem acquireBy_outer (s : State) (gid : Nat) (lanes : LaneMask) (scope : Scope) : (s.acquireBy gid lanes scope).outer = s.outer :=
  acquire_outer s ..

/-- The waits that the end of an operation releases leave the engines and every group's registers alone. -/
theorem mwaitWake_keeps (s : State) (k : Nat) : s.mwaitWake.eng = s.eng ∧ (s.mwaitWake.group k).calm = (s.group k).calm := by
  unfold State.mwaitWake
  generalize s.waits = ws
  induction ws generalizing s with
  | nil => exact ⟨rfl, rfl⟩
  | cons w ws ih =>
    rw [List.foldl_cons]
    refine ⟨(ih _).1.trans ?_, (ih _).2.trans ?_⟩
    · split
      · split
        · rfl
        · split
          · exact (eng_of_outer (acquireBy_outer ..)).trans (wake_eng s w)
          · exact wake_eng s w
      · rfl
    · split
      · split
        · rfl
        · split
          · exact (calm_of_outer (acquireBy_outer ..) k).trans (wake_calm s w k)
          · exact wake_calm s w k
      · rfl

theorem mwaitWake_noWaits {s : State} (h : s.waits = []) : s.mwaitWake = s := by
  unfold State.mwaitWake
  rw [h]
  rfl

theorem closeWindows_eng (s : State) (gid : Nat) : (s.closeWindows gid).eng = s.eng := by
  unfold State.closeWindows
  split <;> rfl

theorem closeWindows_due (s : State) (gid : Nat) : (s.closeWindows gid).due = s.due := by
  unfold State.closeWindows
  split <;> rfl

theorem closeWindows_waits (s : State) (gid : Nat) : (s.closeWindows gid).waits = s.waits := by
  unfold State.closeWindows
  split <;> rfl

theorem foldl_eng {α : Type} {f : State → α → State} (hf : ∀ s a, (f s a).eng = s.eng) (l : List α) (s : State) :
    (l.foldl f s).eng = s.eng := by
  induction l generalizing s with
  | nil => rfl
  | cons a l ih => exact (ih _).trans (hf s a)

theorem emit_eng (s : State) (o : MatOp) (r : Mat.Regs) : (s.emit o r).eng = s.eng := by
  unfold State.emit
  split
  · rfl
  · dsimp only
    split
    · exact foldl_eng (f := fun s (x : Nat × List Byte) => s.writeS o.blk x.1 x.2) (fun _ _ => rfl) _ s
    · unfold State.sendLines
      exact foldl_eng (fun s l => by rfl) _ s
  all_goals rfl

end Sys2Proof.Machine
end

section
/-! # The end of an operation's fetch, and ACCMV's register image (R289, R299) -/
namespace Sys2Proof.Machine
open Sys2Proof.Claims

/-- What an operation reads as its fetch ends. -/
def State.operands (s : State) (o : MatOp) : Mat.Regs := s.fetchRegs o ++ s.fetchTensor o
/-- The state that holds an operation's operands. -/
def State.fetched (s : State) (op : Nat) (r : Mat.Regs) : State := s.modOp op fun x => { x with fetched := true, snap := r }

/-- The end of a fetch, past what the operation has to see of earlier ones. -/
theorem execOperandFetchEnd_ready {s : State} {op : Nat} {o : MatOp} (h : s.matOp op = some o) (hb : s.behindOp o = false) :
    exec (.operandFetchEnd op) s
      = .next (((((s.fetched op (s.operands o)).emit o (s.operands o)).closeWindows o.gid).mwaitWake).send (.matrixOpComplete op)) := by
  show execOperandFetchEnd op s = _
  unfold execOperandFetchEnd
  simp only [h, hb, Bool.false_eq_true, if_false]
  rfl

theorem execOperandFetchEnd_behind {s : State} {op : Nat} {o : MatOp} (h : s.matOp op = some o) (hb : s.behindOp o = true) :
    exec (.operandFetchEnd op) s = .next (s.send (.operandFetchEnd op)) := by
  show execOperandFetchEnd op s = _
  unfold execOperandFetchEnd
  simp only [h, hb, if_true]

theorem operandFetchEnd_fetches {s : State} {op : Nat} {o : MatOp} (h : s.matOp op = some o) (hb : s.behindOp o = false) :
    ∃ t x d, exec (.operandFetchEnd op) s = .next t ∧ t.matOp op = some x ∧ x.fetched = true ∧ x.kind = o.kind
      ∧ t.due = d ++ [.matrixOpComplete op] := by
  refine ⟨_, { o with fetched := true, snap := s.operands o }, _, execOperandFetchEnd_ready h hb, ?_, rfl, rfl, rfl⟩
  have heng := (mwaitWake_keeps (((s.fetched op (s.operands o)).emit o (s.operands o)).closeWindows o.gid) 0).1.trans
    ((closeWindows_eng ..).trans (emit_eng ..))
  exact (congrArg (fun e : Engines => e.mat.find? fun y : MatOp => y.id == op) heng).trans
    (matOp_modOp h (f := fun x => { x with fetched := true, snap := s.operands o }) fun _ => rfl)

/-! ### Bytes of a tile -/

/-- A piece of one block among blocks of one length. -/
theorem take_drop_flatMap {α β : Type} {f : α → List β} {len : Nat} (xs : List α) (hlen : ∀ x, (f x).length = len) {i : Nat}
    (hi : i < xs.length) {off n : Nat} (hn : off + n ≤ len) :
    ((xs.flatMap f).drop (len * i + off)).take n = ((f xs[i]).drop off).take n := by
  induction xs generalizing i with
  | nil => exact absurd hi (Nat.not_lt_zero i)
  | cons x xs ih =>
    cases i with
    | zero =>
      rw [List.flatMap_cons, Nat.mul_zero, Nat.zero_add, List.drop_append_of_le_length (by rw [hlen]; omega),
        List.take_append_of_le_length (by rw [List.length_drop, hlen]; omega)]
      rfl
    | succ i =>
      rw [List.flatMap_cons, show len * (i + 1) + off = (f x).length + (len * i + off) by rw [hlen]; ring, ← List.drop_drop, List.drop_left]
      exact ih (Nat.lt_of_succ_lt_succ hi)

theorem leNat_leBytes (n x : Nat) : leNat (leBytes n x) = x % 256 ^ n := by
  induction n generalizing x with
  | zero => simp [leBytes, leNat, Nat.mod_one]
  | succ n ih =>
    rw [leBytes, leNat, ih, BitVec.toNat_ofNat, pow_succ' 256, Nat.mod_mul]

theorem length_flatMap_const {α β : Type} {f : α → List β} {len : Nat} (xs : List α) (hlen : ∀ x, (f x).length = len) :
    (xs.flatMap f).length = xs.length * len := by
  simp [List.length_flatMap, hlen]

/-- The 32-bit element of a tile's bytes at an element's place. -/
theorem fieldAt_tileBytes {c : Mat.Conv} (hc : c.ty.width = 32) (r : Mat.Regs) (a : AccSlot) {row rows n : Nat} (hn : n < 64 * rows) :
    fieldAt (tileBytes c r a row rows) (4 * n) 4
      = c.out r a.i32 (a.at_ (row + n / 64) (n % 64)) (row + n / 64) (n % 64) % 256 ^ 4 := by
  have hj : n % 64 < 64 := Nat.mod_lt _ (by decide)
  have hplace : 4 * n = 256 * (n / 64) + 4 * (n % 64) := by omega
  unfold fieldAt tileBytes
  rw [hc, hplace, take_drop_flatMap (len := 256) _ (fun i => ?len) (i := n / 64) (by simp; omega) (by omega),
    ← Nat.add_zero (4 * (n % 64)), take_drop_flatMap (len := 4) _ (fun j => leBytes_length 4 _) (i := n % 64) (by simpa using hj) (by omega),
    List.drop_zero, List.take_of_length_le (leBytes_length 4 _).le, leNat_leBytes]
  case len => rw [length_flatMap_const (len := 4) _ fun j => leBytes_length 4 _]; rfl
  simp

/-- An element of a 32-bit integer slot goes out as it stands (R297). -/
theorem convOf_i32_out (f : EF) (r : Mat.Regs) (acc : Word) (i j : Nat) : (convOf f .i32).out r true acc i j = acc.toNat := rfl

/-- ACCMV's slab gives each register of a live lane its element (R299). -/
theorem mem_slabWrites {g : Group} {f : EF} {a : AccSlot} {l k : Nat} (hty : Ty.ofCode (f.flags.toNat % 16) = .i32) (hi : a.i32 = true)
    (r : Mat.Regs) (hl : l < g.lanes.length) (h32 : l < 32) (hlive : (g.lane l).live = true) (hk : k < 16) :
    RegWrite.v l (f.a.toNat + k) (a.at_ (8 * (f.imm8.toNat % 8) + (16 * l + k) / 64) ((16 * l + k) % 64)) ∈ slabWrites g f r a := by
  have hval : BitVec.ofNat 32 (fieldAt (tileBytes (convOf f .i32) r a (8 * (f.imm8.toNat % 8)) 8) (64 * l + 4 * k) 4)
      = a.at_ (8 * (f.imm8.toNat % 8) + (16 * l + k) / 64) ((16 * l + k) % 64) := by
    rw [show 64 * l + 4 * k = 4 * (16 * l + k) by ring, fieldAt_tileBytes rfl r a (by omega), hi, convOf_i32_out]
    apply BitVec.eq_of_toNat_eq
    rw [BitVec.toNat_ofNat, show 256 ^ 4 = 2 ^ 32 by rfl, Nat.mod_mod, Nat.mod_eq_of_lt (BitVec.isLt _)]
  unfold slabWrites
  rw [hty, List.mem_flatMap]
  refine ⟨l, List.mem_filter.mpr ⟨List.mem_range.mpr hl, hlive⟩, List.mem_map.mpr ⟨k, List.mem_range.mpr hk, ?_⟩⟩
  rw [← hval]
  rfl

/-- The write of a register that its lane has not written since the operation started goes out as the slab gives it (R289). -/
theorem mem_accmvWrites {s : State} {o : MatOp} {f : EF} {r : Mat.Regs} {a : AccSlot} {l k : Nat} {val : Word}
    (hmem : RegWrite.v l k val ∈ slabWrites (s.group o.gid) f r a) (holds : ∀ y ∈ (s.lane o.gid l).olds, y.2.1 ≠ k) :
    RegWrite.v l k val ∈ s.accmvWrites o f r a := by
  have hnone : ((s.lane o.gid l).olds.any fun y => decide ((o.opened.lookup l).getD 0 ≤ y.1) && y.2.1 == k) = false := by
    rw [List.any_eq_false]
    exact fun y hy => by simp [holds y hy]
  refine List.mem_map.mpr ⟨_, hmem, ?_⟩
  simp only [hnone, Bool.false_eq_true, if_false]

theorem operandFetchEnd_accmv {s : State} {op : Nat} {o : MatOp} {f : EF} {l k : Nat} (h : s.matOp op = some o)
    (hkind : o.kind = .accmv f) (hb : s.behindOp o = false) (hty : Ty.ofCode (f.flags.toNat % 16) = .i32)
    (hi : (s.accSlot o.sub o.slot).i32 = true) (hw : s.waits = []) (hl : l < (s.group o.gid).lanes.length) (h32 : l < 32)
    (hlive : (s.lane o.gid l).live = true) (hk : k < 16) (holds : ∀ y ∈ (s.lane o.gid l).olds, y.2.1 ≠ f.a.toNat + k) :
    ∃ t ws, exec (.operandFetchEnd op) s = .next t ∧ t.due = s.due ++ [.resultReturn ⟨o.id, o.gid, none, 0, ws, []⟩, .matrixOpComplete op]
      ∧ .v l (f.a.toNat + k) ((s.accSlot o.sub o.slot).at_ (8 * (f.imm8.toNat % 8) + (16 * l + k) / 64) ((16 * l + k) % 64)) ∈ ws := by
  let s1 := s.fetched op (s.operands o)
  have hemit : s1.emit o (s.operands o)
      = s1.send (.resultReturn ⟨o.id, o.gid, none, 0, s1.accmvWrites o f (s.operands o) (s.accSlot o.sub o.slot), []⟩) := by
    unfold State.emit
    rw [hkind]
    rfl
  refine ⟨_, _, execOperandFetchEnd_ready h hb, ?_, mem_accmvWrites (s := s1) (mem_slabWrites hty hi (s.operands o) hl h32 hlive hk) holds⟩
  have hwaits : ((s1.emit o (s.operands o)).closeWindows o.gid).waits = [] := by rw [closeWindows_waits, hemit]; exact hw
  rw [mwaitWake_noWaits hwaits]
  show ((s1.emit o (s.operands o)).closeWindows o.gid).due ++ [_] = _
  rw [closeWindows_due, hemit]
  exact List.append_assoc ..

end Sys2Proof.Machine
end

section
/-! # What MMA leaves in an element (R87, R88, R280, R294) -/
namespace Sys2Proof.Machine.Mat
open Sys2Proof.Claims

/-- An element of a register image, by its bit offset (R279). -/
theorem elem_eq_imageAt (r : Regs) (n w k : Nat) : elem r n w k = imageAt r n w k := by
  have hlane : w * k / 8 / 64 = w * k / 512 := by omega
  have hreg : w * k / 8 % 64 / 4 = w * k / 32 % 16 := by omega
  have hbit : w * k / 8 % 4 * 8 + w * k % 8 = w * k % 32 := by omega
  unfold elem imageAt reg
  dsimp only
  rw [hlane, hreg, hbit]

theorem aBits_eq_aElem (r : Regs) (f : EF) (i k : Nat) : (mmaOf f).aBits r i k = aElem r f i k := by
  unfold Mma.aBits aElem
  simp only [elem_eq_imageAt, Nat.mul_comm]

theorem bBits_eq_bElem (r : Regs) (f : EF) {b : BSrc} (hb : b.t = none) (k j : Nat) : (mmaOf f).bBits r b k j = bElem r f k j := by
  unfold Mma.bBits bElem
  simp only [hb, elem_eq_imageAt, Nat.mul_comm]

theorem mul_ofScale_one (x : Fl) : Fl.mul x (.fin false 1 0) = x := by
  cases x <;> simp [Fl.mul]

/-- Without scales a product is that of its elements. -/
theorem kScale_one {m : Mma} (hk : m.ks = false) (r : Regs) {b : BSrc} (hb : b.t = none) (k : Nat) : m.kScale r b k = .fin false 1 0 := by
  simp only [Mma.kScale, hk, hb, Bool.false_eq_true, if_false]
  decide

theorem blockScale_one {m : Mma} (hm : m.ety < 6) (r : Regs) (b : BSrc) (i k j : Nat) : m.blockScale r b i k j = .fin false 1 0 := by
  rw [Mma.blockScale, if_pos (by omega)]
  decide

/-- A type below INT8 takes one chunk for a whole operation (R86, R293). -/
theorem one_chunk {e : Nat} (he : e < 6) : (etype e).k = if e = 4 ∨ e = 5 then 16 else 32 := by
  interval_cases e <;> rfl

/-- The products that an element of an MMA without scales sums (R87). -/
def products (r : Regs) (f : EF) (i j : Nat) : List Fl :=
  let e := etype (mmaOf f).ety
  (List.range e.k).map fun k => Fl.mul (Fl.ofBits e.a (aElem r f i k)) (Fl.ofBits e.b (bElem r f k j))

/-- INT8: what the element held and the exact sum, modulo 2^32 (R88). -/
theorem out_int8 {f : EF} (he : (mmaOf f).ety = 6) (r : Regs) {b : BSrc} (hb : b.t = none) (acc : Word) (i j : Nat) :
    (mmaOf f).out r b acc i j = BitVec.ofInt 32 (acc.toInt + ((List.range (etype (mmaOf f).ety).k).map fun k =>
      (BitVec.ofNat 8 (aElem r f i k)).toInt * (BitVec.ofNat 8 (bElem r f k j)).toInt).sum) := by
  unfold Mma.out
  simp only [if_pos he, aBits_eq_aElem, bBits_eq_bElem r f hb, List.sum_eq_foldl]

/-- The unscaled floating-point types: one addition of the chunk sum, rounded once (R87). -/
theorem out_float {f : EF} (he : (mmaOf f).ety < 6) (hk : (mmaOf f).ks = false) (r : Regs) {b : BSrc} (hb : b.t = none) (acc : Word)
    (i j : Nat) : (mmaOf f).out r b acc i j
      = BitVec.ofNat 32 (Fl.place .f32 .rne false (Fl.add .rne (Fl.ofBits .f32 acc.toNat) (chunkSum (products r f i j)))) := by
  have hpos : 0 < (etype (mmaOf f).ety).k := by rw [one_chunk he]; split <;> decide
  unfold Mma.out
  simp only [if_neg (show (mmaOf f).ety ≠ 6 by omega), ← one_chunk he, Nat.div_self hpos, aBits_eq_aElem, bBits_eq_bElem r f hb,
    kScale_one hk r hb, blockScale_one he, mul_ofScale_one]
  simp [products]

/-! ### The chunk sum -/

theorem chunkSum_nan {ps : List Fl} (h : Fl.nan ∈ ps) : chunkSum ps = .nan := by
  unfold chunkSum
  exact if_pos (List.any_eq_true.mpr ⟨_, h, rfl⟩)

theorem foldl_max_eq {x q : Int} {xs : List Int} (hmem : q ∈ x :: xs) (hle : ∀ y ∈ x :: xs, y ≤ q) :
    xs.foldl (fun a b => if a < b then b else a) x = q := by
  induction xs generalizing x with
  | nil => exact (List.mem_singleton.mp hmem).symm
  | cons y ys ih =>
    have hx := hle x (by simp)
    have hy := hle y (by simp)
    refine ih ?_ ?_
    · rcases List.mem_cons.mp hmem with rfl | h
      · dsimp only; split <;> simp; omega
      · rcases List.mem_cons.mp h with rfl | h
        · dsimp only; split <;> simp; omega
        · exact List.mem_cons_of_mem _ h
    · intro z hz
      rcases List.mem_cons.mp hz with rfl | h
      · dsimp only; split <;> assumption
      · exact hle z (by simp [h])

/-- The model's chunk sum of finite products that are not all zero is R87's. -/
theorem chunkSum_eq {ps : List Fl} {q z : Int} (h : ChunkSum ps q z) :
    chunkSum ps = if z = 0 then .fin false 0 0 else .fin (decide (z < 0)) z.natAbs q := by
  obtain ⟨⟨p, hp, n, m, e, rfl, hm, he⟩, hfin, hz⟩ := h
  have hnan : ps.any Fl.isNan = false := by
    rw [List.any_eq_false]
    intro x hx
    obtain ⟨n, m, e, rfl, -⟩ := hfin x hx
    simp [Fl.isNan]
  have hinf : ∀ g : Fl → Bool, (∀ n m e, g (.fin n m e) = false) → ps.filter g = [] := by
    intro g hg
    rw [List.filter_eq_nil_iff]
    intro x hx
    obtain ⟨n, m, e, rfl, -⟩ := hfin x hx
    simp [hg]
  have hexp : ∀ y ∈ ps.filterMap expOf, y ≤ q + 34 := by
    intro y hy
    obtain ⟨x, hx, hxy⟩ := List.mem_filterMap.mp hy
    obtain ⟨n, m, e, rfl, hle⟩ := hfin x hx
    rw [expOf] at hxy
    by_cases hm : m = 0
    · rw [if_pos hm] at hxy; cases hxy
    · rw [if_neg hm] at hxy; exact Option.some.inj hxy ▸ hle hm
  have hmem : q + 34 ∈ ps.filterMap expOf := List.mem_filterMap.mpr ⟨_, hp, by rw [expOf, if_neg hm, he]⟩
  have hsum : (ps.map (truncTo q)).sum = z := by
    rw [hz]
    congr 1
    refine List.map_congr_left fun x hx => ?_
    obtain ⟨n, m, e, rfl, -⟩ := hfin x hx
    cases n <;> by_cases hqe : q ≤ e <;> simp [truncTo, hqe]
  unfold chunkSum
  dsimp only
  rw [hinf _ fun _ _ _ => rfl, hnan]
  rcases hps : ps.filterMap expOf with _ | ⟨x, xs⟩
  · rw [hps] at hmem; cases hmem
  · rw [hps] at hmem hexp
    simp only [Bool.false_eq_true, if_false, List.any_nil, Bool.false_and, foldl_max_eq hmem hexp, add_sub_cancel_right,
      ← List.sum_eq_foldl, hsum]
    rfl

end Sys2Proof.Machine.Mat
end

section
/-! # The end of an operation (R294, R296) -/
namespace Sys2Proof.Machine
open Sys2Proof.Claims

/-! ### Accumulator slots -/

theorem accSlot_names (s : State) (sub k : Nat) : (s.accSlot sub k).sub = sub ∧ (s.accSlot sub k).slot = k := by
  unfold State.accSlot
  split
  · next a h => simpa using List.find?_some h
  · exact ⟨rfl, rfl⟩

theorem accSlot_of_accs {s t : State} (h : t.eng.accs = s.eng.accs) (sub k : Nat) : t.accSlot sub k = s.accSlot sub k := by
  unfold State.accSlot
  rw [h]

theorem accSlot_setAcc (s : State) (a : AccSlot) : (s.setAcc a).accSlot a.sub a.slot = a := by
  have hnone : (s.eng.accs.filter fun b => !(b.sub == a.sub && b.slot == a.slot)).find? (fun b => b.sub == a.sub && b.slot == a.slot) = none := by
    rw [List.find?_eq_none]
    intro b hb
    simpa only [Bool.not_eq_true', Bool.not_eq_true] using (List.mem_filter.mp hb).2
  have hfind : (s.setAcc a).eng.accs.find? (fun b => b.sub == a.sub && b.slot == a.slot) = some a := by
    show List.find? _ (_ ++ [a]) = _
    rw [List.find?_append, hnone]
    simp
  unfold State.accSlot
  rw [hfind]

/-- A slot that a handle or an operation gives up keeps its kind and its elements (R285). -/
theorem accSlot_freeSlots (s : State) (gid sub k : Nat) :
    ((s.freeSlots gid).accSlot sub k).i32 = (s.accSlot sub k).i32 ∧ ((s.freeSlots gid).accSlot sub k).elems = (s.accSlot sub k).elems := by
  obtain ⟨f, hf, haccs⟩ : ∃ f : AccSlot → AccSlot,
      (∀ a, (f a).sub = a.sub ∧ (f a).slot = a.slot ∧ (f a).i32 = a.i32 ∧ (f a).elems = a.elems)
      ∧ (s.freeSlots gid).eng.accs = s.eng.accs.map f := by
    refine ⟨_, fun a => ?_, by unfold State.freeSlots; dsimp only; split <;> rfl⟩
    split <;> exact ⟨rfl, rfl, rfl, rfl⟩
  have hkey : ((fun a : AccSlot => a.sub == sub && a.slot == k) ∘ f) = fun a => a.sub == sub && a.slot == k := by
    funext a
    obtain ⟨hsub, hslot, -, -⟩ := hf a
    simp [hsub, hslot]
  unfold State.accSlot
  rw [haccs, List.find?_map, hkey]
  cases s.eng.accs.find? fun a => a.sub == sub && a.slot == k with
  | none => exact ⟨rfl, rfl⟩
  | some a =>
    obtain ⟨-, -, hi, he⟩ := hf a
    exact ⟨hi, he⟩

theorem freeSlots_mat (s : State) (gid : Nat) : (s.freeSlots gid).eng.mat = s.eng.mat := by
  unfold State.freeSlots
  dsimp only
  split <;> rfl

theorem freeSlots_groups (s : State) (gid : Nat) : (s.freeSlots gid).groups = s.groups := by
  unfold State.freeSlots
  dsimp only
  split <;> rfl

/-! ### Elements -/

/-- The elements of a 64 by 64 table, as a slot lists them. -/
def rowOf (f : Nat → Nat → Word) (i n : Nat) (m : List (Nat × Word)) : List (Nat × Word) :=
  (List.range n).foldl (fun m j => Map.set 0 m (64 * i + j) (f i j)) m

theorem get_rowOf (f : Nat → Nat → Word) (i n : Nat) (m : List (Nat × Word)) (x : Nat) :
    Map.get 0 (rowOf f i n m) x = if 64 * i ≤ x ∧ x < 64 * i + n then f i (x - 64 * i) else Map.get 0 m x := by
  induction n with
  | zero => rw [if_neg (by omega)]; rfl
  | succ n ih =>
    rw [rowOf, List.range_succ, List.foldl_append, List.foldl_cons, List.foldl_nil, ← rowOf, Map.get_set, ih]
    by_cases hx : x = 64 * i + n
    · subst hx
      rw [if_pos rfl, if_pos (by omega), Nat.add_sub_cancel_left]
    · rw [if_neg hx]
      exact if_congr (by omega) rfl rfl

theorem get_table (f : Nat → Nat → Word) (n : Nat) {i j : Nat} (hi : i < n) (hj : j < 64) :
    Map.get 0 ((List.range n).foldl (fun m i => rowOf f i 64 m) []) (64 * i + j) = f i j := by
  induction n with
  | zero => exact absurd hi (Nat.not_lt_zero i)
  | succ n ih =>
    rw [List.range_succ, List.foldl_append, List.foldl_cons, List.foldl_nil, get_rowOf]
    by_cases h : i = n
    · subst h
      rw [if_pos (by omega), Nat.add_sub_cancel_left]
    · rw [if_neg (by omega)]
      exact ih (by omega)

/-- A slot with a table of elements. -/
def AccSlot.table (a : AccSlot) (f : Nat → Nat → Word) : AccSlot :=
  { a with elems := (List.range 64).foldl (fun m i => rowOf f i 64 m) [] }

theorem table_at (a : AccSlot) (f : Nat → Nat → Word) {i j : Nat} (hi : i < 64) (hj : j < 64) : (a.table f).at_ i j = f i j :=
  get_table f 64 hi hj

/-- The slot of an operation after it has put a table there. -/
theorem accSlot_table (s : State) (sub k : Nat) (f : Nat → Nat → Word) :
    (s.setAcc ((s.accSlot sub k).table f)).accSlot sub k = (s.accSlot sub k).table f := by
  obtain ⟨hsub, hslot⟩ := accSlot_names s sub k
  have h := accSlot_setAcc s ((s.accSlot sub k).table f)
  rwa [show ((s.accSlot sub k).table f).sub = sub from hsub, show ((s.accSlot sub k).table f).slot = k from hslot] at h

/-! ### What an operation leaves -/

theorem effect_groups (s : State) (o : MatOp) : (s.effect o).groups = s.groups := by
  unfold State.effect
  split <;> rfl

theorem effect_accz {s : State} {o : MatOp} {z : Bool} (h : o.kind = .accz z) :
    (s.effect o).accSlot o.sub o.slot = { s.accSlot o.sub o.slot with i32 := z, elems := [] } := by
  obtain ⟨hsub, hslot⟩ := accSlot_names s o.sub o.slot
  have hacc := accSlot_setAcc s { s.accSlot o.sub o.slot with i32 := z, elems := [] }
  unfold State.effect
  rw [h]
  rwa [hsub, hslot] at hacc

theorem effect_accld {s : State} {o : MatOp} {f : EF} (h : o.kind = .accld f) :
    (s.effect o).accSlot o.sub o.slot = (s.accSlot o.sub o.slot).table fun i j =>
      if i / 8 = f.imm8.toNat % 8 then BitVec.ofNat 32 (Mat.elem o.snap f.a.toNat 32 (64 * (i % 8) + j))
      else (s.accSlot o.sub o.slot).at_ i j := by
  unfold State.effect
  rw [h]
  exact accSlot_table s o.sub o.slot _

theorem effect_accmv {s : State} {o : MatOp} {f : EF} (h : o.kind = .accmv f) : s.effect o = s := by
  unfold State.effect
  rw [h]

theorem effect_mma {s : State} {o : MatOp} {f : EF} {s0 s1 : Nat} (h : o.kind = .mma f none s0 s1) :
    ∃ b : Mat.BSrc, b.t = none ∧ (s.effect o).accSlot o.sub o.slot = (s.accSlot o.sub o.slot).table fun i j =>
      (Mat.mmaOf f).out o.snap b ((s.accSlot o.sub o.slot).at_ i j) i j := by
  unfold State.effect
  rw [h]
  exact ⟨⟨none, s0, s1, _⟩, rfl, accSlot_table s o.sub o.slot _⟩

theorem reread_accs (s : State) (o : MatOp) : (s.reread o).eng.accs = s.eng.accs := by
  unfold State.reread
  split <;> rfl

theorem reread_calm (s : State) (o : MatOp) (k : Nat) : ((s.reread o).group k).calm = (s.group k).calm := by
  unfold State.reread
  split
  · refine calm_modGroup _ _ k fun g => ?_
    simp [Group.calm, Function.comp_def, Lane.calm]
  all_goals rfl

/-- A group with a live lane keeps its slot (R102, R149). -/
theorem settle_live {s : State} {gid l : Nat} (hl : l < (s.group gid).lanes.length) (hlive : (s.lane gid l).live = true) :
    s.settle gid = s := by
  have hmem : l ∈ (s.group gid).liveLanes := List.mem_filter.mpr ⟨List.mem_range.mpr hl, hlive⟩
  have hne : (s.group gid).liveLanes.isEmpty = false := by
    rw [List.isEmpty_eq_false_iff]
    exact List.ne_nil_of_mem hmem
  unfold State.settle
  simp [hne]

end Sys2Proof.Machine
end

section
/-! # The completion of an operation (R272, R294) -/
namespace Sys2Proof.Machine
open Sys2Proof.Claims

/-- The state as the engine lets an operation go: its effect stands, and it is listed no more. -/
def State.letGo (s : State) (o : MatOp) (op : Nat) : State :=
  let s1 := (s.effect o).reread o
  { s1 with eng := { s1.eng with mat := s1.eng.mat.filter fun x => !(x.id == op) } }
/-- The same with its count in MC gone. -/
def State.letGoMc (s : State) (o : MatOp) (op : Nat) : State :=
  if o.mc then (s.letGo o op).fallCtr o.gid .mc else s.letGo o op

theorem execMatrixOpComplete_emitted {s : State} {op : Nat} {o : MatOp} (h : s.matOp op = some o) (he : s.emitted o = true) :
    exec (.matrixOpComplete op) s = .next (s.send (.matrixOpComplete op)) := by
  show execMatrixOpComplete op s = _
  unfold execMatrixOpComplete
  simp only [h, he, if_true]

theorem execMatrixOpComplete_done {s : State} {op : Nat} {o : MatOp} (h : s.matOp op = some o) (he : s.emitted o = false) :
    exec (.matrixOpComplete op) s = .next (((s.letGoMc o op).mwaitWake.freeSlots o.gid).settle o.gid) := by
  show execMatrixOpComplete op s = _
  unfold execMatrixOpComplete
  simp only [h, he, Bool.false_eq_true, if_false]
  rfl

theorem letGo_calm (s : State) (o : MatOp) (op k : Nat) : ((s.letGo o op).group k).calm = (s.group k).calm :=
  (reread_calm (s.effect o) o k).trans (congrArg (fun l => (Map.get Group.fresh l k).calm) (effect_groups s o))

theorem letGoMc_calm (s : State) (o : MatOp) (op : Nat) : ((s.letGoMc o op).group o.gid).calm
    = { (s.group o.gid).calm with cnt := if o.mc then (s.group o.gid).cnt.fall .mc else (s.group o.gid).cnt } := by
  have hcalm := letGo_calm s o op o.gid
  have hcnt : ((s.letGo o op).group o.gid).cnt = (s.group o.gid).cnt := (congrArg Group.cnt hcalm :)
  unfold State.letGoMc
  cases o.mc
  · exact hcalm
  · simp only [if_true]
    unfold State.fallCtr
    rw [group_modGroup_self]
    show ({ ((s.letGo o op).group o.gid).calm with cnt := ((s.letGo o op).group o.gid).cnt.fall .mc } : Group) = _
    rw [hcalm, hcnt]

theorem letGoMc_eng (s : State) (o : MatOp) (op : Nat) : (s.letGoMc o op).eng = (s.letGo o op).eng := by
  unfold State.letGoMc
  split <;> rfl

/-- The state that the event of an operation's completion leaves. -/
def State.completed (s : State) (o : MatOp) (op : Nat) : State := (s.letGoMc o op).mwaitWake.freeSlots o.gid

theorem completed_calm (s : State) (o : MatOp) (op : Nat) : ((s.completed o op).group o.gid).calm
    = { (s.group o.gid).calm with cnt := if o.mc then (s.group o.gid).cnt.fall .mc else (s.group o.gid).cnt } := by
  have hfree := congrArg (fun l => (Map.get Group.fresh l o.gid).calm) (freeSlots_groups (s.letGoMc o op).mwaitWake o.gid)
  exact hfree.trans ((mwaitWake_keeps (s.letGoMc o op) o.gid).2.trans (letGoMc_calm s o op))

theorem completed_lane (s : State) (o : MatOp) (op l : Nat) : ((s.completed o op).lane o.gid l).calm = (s.lane o.gid l).calm := by
  unfold State.lane
  rw [← lane_calm, ← lane_calm, completed_calm]
  rfl

theorem completed_matOp (s : State) (o : MatOp) (op : Nat) : (s.completed o op).matOp op = none := by
  have hmat : (s.completed o op).eng.mat = (s.letGo o op).eng.mat :=
    (freeSlots_mat ..).trans (congrArg Engines.mat ((mwaitWake_keeps (s.letGoMc o op) 0).1.trans (letGoMc_eng s o op)))
  unfold State.matOp
  rw [hmat, List.find?_eq_none]
  intro x hx
  simpa using (List.mem_filter.mp hx).2

/-- The slot of a completed operation is as its effect leaves it. -/
theorem completed_accSlot (s : State) (o : MatOp) (op sub k : Nat) :
    ((s.completed o op).accSlot sub k).i32 = ((s.effect o).accSlot sub k).i32
      ∧ ((s.completed o op).accSlot sub k).elems = ((s.effect o).accSlot sub k).elems := by
  have haccs : (s.letGoMc o op).mwaitWake.eng.accs = (s.effect o).eng.accs :=
    (congrArg Engines.accs ((mwaitWake_keeps (s.letGoMc o op) 0).1.trans (letGoMc_eng s o op))).trans (reread_accs (s.effect o) o)
  rw [← accSlot_of_accs haccs]
  exact accSlot_freeSlots ..

theorem completed_at {s : State} {o : MatOp} {a : AccSlot} (h : (s.effect o).accSlot o.sub o.slot = a) (op i j : Nat) :
    ((s.completed o op).accSlot o.sub o.slot).at_ i j = a.at_ i j := by
  unfold AccSlot.at_
  rw [(completed_accSlot s o op o.sub o.slot).2, h]

theorem matrixOpComplete_done {s : State} {op : Nat} {o : MatOp} (h : s.matOp op = some o) (he : s.emitted o = false)
    {l : Nat} (hl : l < (s.group o.gid).lanes.length) (hlive : (s.lane o.gid l).live = true) :
    exec (.matrixOpComplete op) s = .next (s.completed o op) := by
  have hlen : ((s.completed o op).group o.gid).lanes.length = (s.group o.gid).lanes.length :=
    by simpa [Group.calm] using congrArg (fun g : Group => g.lanes.length) (completed_calm s o op)
  have hlive' : ((s.completed o op).lane o.gid l).live = true := (congrArg Lane.live (completed_lane s o op l)).trans hlive
  rw [execMatrixOpComplete_done h he]
  exact congrArg _ (settle_live (s := s.completed o op) (hlen ▸ hl) hlive')

/-! ### The elements that each kind of operation leaves -/

theorem completed_accz {s : State} {o : MatOp} {z : Bool} (h : o.kind = .accz z) (op i j : Nat) :
    ((s.completed o op).accSlot o.sub o.slot).at_ i j = 0 ∧ ((s.completed o op).accSlot o.sub o.slot).i32 = z := by
  have heff := effect_accz (s := s) h
  exact ⟨completed_at heff op i j, by rw [(completed_accSlot ..).1, heff]⟩

theorem completed_accld {s : State} {o : MatOp} {f : EF} (h : o.kind = .accld f) (op : Nat) {i j : Nat} (hi : i < 64) (hj : j < 64) :
    ((s.completed o op).accSlot o.sub o.slot).at_ i j
      = if i / 8 = f.imm8.toNat % 8 then
          (o.snap.lookup (256 * ((64 * (i % 8) + j) / 16) + (f.a.toNat + (64 * (i % 8) + j) % 16))).getD 0
        else (s.accSlot o.sub o.slot).at_ i j := by
  have himage : ∀ k, BitVec.ofNat 32 (Mat.elem o.snap f.a.toNat 32 k)
      = (o.snap.lookup (256 * (k / 16) + (f.a.toNat + k % 16))).getD 0 := by
    intro k
    have hlane : 32 * k / 512 = k / 16 := by omega
    have hreg : 32 * k / 32 % 16 = k % 16 := by omega
    have hbit : 32 * k % 32 = 0 := by omega
    rw [Mat.elem_eq_imageAt, imageAt, hlane, hreg, hbit]
    apply BitVec.eq_of_toNat_eq
    rw [BitVec.toNat_ofNat, Nat.mod_mod, pow_zero, Nat.div_one, Nat.mod_eq_of_lt (BitVec.isLt _)]
  rw [completed_at (effect_accld h), table_at _ _ hi hj, himage]

theorem completed_accmv {s : State} {o : MatOp} {f : EF} (h : o.kind = .accmv f) (op i j : Nat) :
    ((s.completed o op).accSlot o.sub o.slot).at_ i j = (s.accSlot o.sub o.slot).at_ i j :=
  completed_at (by rw [effect_accmv h]) op i j

theorem completed_mma {s : State} {o : MatOp} {f : EF} {s0 s1 : Nat} (h : o.kind = .mma f none s0 s1) (op : Nat) {i j : Nat}
    (hi : i < 64) (hj : j < 64) : ∃ b : Mat.BSrc, b.t = none ∧ ((s.completed o op).accSlot o.sub o.slot).at_ i j
      = (Mat.mmaOf f).out o.snap b ((s.accSlot o.sub o.slot).at_ i j) i j := by
  obtain ⟨b, hb, heff⟩ := effect_mma (s := s) h
  exact ⟨b, hb, (completed_at heff op i j).trans (table_at _ _ hi hj)⟩

theorem Fl.add_nan (rm : Rm) (x : Fl) : Fl.add rm x .nan = .nan := by cases x <;> rfl

theorem dvd_ofInt_sub (x : Int) : (2 ^ 32 : Int) ∣ (BitVec.ofInt 32 x).toInt - x := by
  rw [BitVec.toInt_ofInt]
  exact Int.dvd_bmod_sub_self

end Sys2Proof.Machine

open Sys2Proof.Machine in
/-- Settles O34: the events of one operation follow from the engine's list (start), the operands (fetch end) and the slot that the
operation's effect leaves (completion), of which MMA's sum is R87's and R88's. That a start waits for an earlier operation's fetch, and a
fetch end behind an earlier operation, is the model's choice (log entry 74). -/
theorem matrixOperationsRun : Obligations.MatrixOperationsRun := by
  unfold Obligations.MatrixOperationsRun
  intro op s o h
  refine ⟨fun hfirst => execMatrixOpStart_free h hfirst, fun p hp hne hf => execMatrixOpStart_held h hp hne hf,
    fun hb => operandFetchEnd_fetches h hb, fun hb => execOperandFetchEnd_behind h hb, ?_,
    fun he => execMatrixOpComplete_emitted h he, ?_⟩
  · rintro f l k r w hkind hb hty hi hw hl h32 hlive hk holds rfl rfl
    exact operandFetchEnd_accmv h hkind hb hty hi hw hl h32 hlive hk holds
  · rintro he ⟨l, hl, hlive⟩
    have hcalm := completed_calm s o op
    refine ⟨_, matrixOpComplete_done h he hl hlive, completed_matOp s o op,
      sameRegs_of_lanes (completed_lane s o op) (congrArg Group.g hcalm :), (congrArg Group.cnt hcalm :), fun i j hi hj => ?_⟩
    refine ⟨fun z hz => completed_accz hz op i j, fun f hf => completed_accld hf op hi hj, fun ⟨f, hf⟩ => completed_accmv hf op i j,
      fun f s0 s1 hf => ?_⟩
    obtain ⟨b, hb, hnew⟩ := completed_mma (s := s) hf op hi hj
    refine ⟨fun h6 => ?_, fun h6 hks => ⟨fun q z hsum => ?_, fun hnan => ?_⟩⟩
    · rw [hnew, Mat.out_int8 h6 o.snap hb]
      exact dvd_ofInt_sub _
    · rw [hnew, Mat.out_float h6 hks o.snap hb, Mat.products, Mat.chunkSum_eq hsum]
    · rw [hnew, Mat.out_float h6 hks o.snap hb, Mat.products, Mat.chunkSum_nan hnan, Fl.add_nan]
      rfl
end

section
/-! # Values of encodings (R69, R70)

The encodings of magnitudes are in the order of their values; the value of the one of number `n` is `magVal f n`, whether or not the format
has it. -/
namespace Sys2Proof.Machine
open Sys2Proof.Claims

/-- The binary formats of R70 that have infinities: the magnitude above the largest finite one, all exponent bits set. -/
structure Fmt.Ieee (f : Fmt) : Prop where
  mpos : 1 ≤ f.mbits
  top : f.maxFin + 1 + 2 ^ f.mbits = 2 ^ f.magBits
  inf : f.inf = some (f.maxFin + 1)

theorem ieee_f32 : Fmt.Ieee .f32 := ⟨by decide, by decide, by decide⟩
theorem ieee_bf16 : Fmt.Ieee .bf16 := ⟨by decide, by decide, by decide⟩
theorem ieee_f16 : Fmt.Ieee .f16 := ⟨by decide, by decide, by decide⟩

theorem maxFin_lt {f : Fmt} (hf : f.Ieee) : f.maxFin + 1 < 2 ^ f.magBits := by
  have := hf.top
  have : 0 < 2 ^ f.mbits := by positivity
  omega

/-- The value of the magnitude of number `n`, with subnormal spacing below and no bound above. -/
def magVal (f : Fmt) (n : Nat) : Rat :=
  if n / 2 ^ f.mbits = 0 then ((n % 2 ^ f.mbits : Nat) : Rat) * 2 ^ (1 - (f.bias : Int) - f.mbits)
  else ((2 ^ f.mbits + n % 2 ^ f.mbits : Nat) : Rat) * 2 ^ (((n / 2 ^ f.mbits : Nat) : Int) - f.bias - f.mbits)

/-- The sign of an encoding or of a value. -/
def signOf (neg : Bool) : Rat := if neg then -1 else 1

theorem signOf_ne_zero (neg : Bool) : signOf neg ≠ 0 := by cases neg <;> norm_num [signOf]
theorem abs_signOf_mul (neg : Bool) (x : Rat) : |signOf neg * x| = |x| := by cases neg <;> simp [signOf]

/-- The number of an encoding: its sign bit and its magnitude. -/
def encOf (f : Fmt) (neg : Bool) (n : Nat) : Nat := (if neg then 2 ^ f.magBits else 0) + n

theorem encOf_div_mod {f : Fmt} (neg : Bool) {n : Nat} (hn : n < 2 ^ f.magBits) :
    encOf f neg n / 2 ^ f.magBits % 2 = neg.toNat ∧ encOf f neg n % 2 ^ f.magBits = n := by
  have hpos : 0 < 2 ^ f.magBits := by positivity
  cases neg
  · simp [encOf, Nat.div_eq_of_lt hn, Nat.mod_eq_of_lt hn]
  · simp [encOf, Nat.add_div_left _ hpos, Nat.div_eq_of_lt hn, Nat.mod_eq_of_lt hn]

/-- Every encoding of a sign and `magBits` bits is of this form. -/
theorem encOf_self {f : Fmt} {x : Nat} (hx : x < 2 ^ (f.magBits + 1)) :
    encOf f (x / 2 ^ f.magBits % 2 == 1) (x % 2 ^ f.magBits) = x := by
  have hdiv : x / 2 ^ f.magBits < 2 := Nat.div_lt_of_lt_mul (by rw [← pow_succ]; exact hx)
  have hsplit := Nat.div_add_mod x (2 ^ f.magBits)
  unfold encOf
  rcases Nat.le_one_iff_eq_zero_or_eq_one.mp (Nat.lt_succ_iff.mp hdiv) with h | h
  · rw [h] at hsplit ⊢
    simpa using hsplit
  · rw [h] at hsplit ⊢
    simpa using hsplit

theorem ratOf_eq (f : Fmt) (x : Nat) :
    ratOf f x = signOf (x / 2 ^ f.magBits % 2 == 1) * magVal f (x % 2 ^ f.magBits) := by
  have hdvd : 2 ^ f.mbits ∣ 2 ^ f.magBits := pow_dvd_pow 2 (Nat.le_add_left ..)
  unfold ratOf magVal signOf
  simp only [Nat.mod_mod_of_dvd x hdvd, beq_iff_eq]

theorem ratOf_encOf {f : Fmt} (neg : Bool) {n : Nat} (hn : n < 2 ^ f.magBits) : ratOf f (encOf f neg n) = signOf neg * magVal f n := by
  obtain ⟨hdiv, hmod⟩ := encOf_div_mod neg hn
  rw [ratOf_eq, hdiv, hmod]
  cases neg <;> rfl

theorem finBits_encOf {f : Fmt} (hf : f.Ieee) (neg : Bool) {n : Nat} (hn : n ≤ f.maxFin) : FinBits f (encOf f neg n) := by
  have hlt := maxFin_lt hf
  refine ⟨?_, ?_⟩
  · unfold encOf
    rw [pow_succ]
    split <;> omega
  · rw [(encOf_div_mod neg (by omega)).2]
    exact hn

theorem magVal_zero (f : Fmt) : magVal f 0 = 0 := by simp [magVal]

/-- The magnitudes of one binade, and the first of the next, are multiples of one spacing. -/
theorem magVal_binade (f : Fmt) {e k : Nat} (hk : e ≠ 0 → 2 ^ f.mbits ≤ k) (hk' : k ≤ 2 * 2 ^ f.mbits) :
    magVal f (e * 2 ^ f.mbits + k) = k * 2 ^ ((e : Int) + 1 - f.bias - f.mbits) := by
  have hpos : 0 < 2 ^ f.mbits := by positivity
  by_cases hlow : k < 2 ^ f.mbits
  · have he : e = 0 := by by_contra h; exact absurd (hk h) (by omega)
    subst he
    simp [magVal, Nat.div_eq_of_lt hlow, Nat.mod_eq_of_lt hlow]
  · obtain ⟨j, rfl⟩ := Nat.exists_eq_add_of_le (Nat.le_of_not_lt hlow)
    rw [show e * 2 ^ f.mbits + (2 ^ f.mbits + j) = j + (e + 1) * 2 ^ f.mbits by ring]
    by_cases hj : j < 2 ^ f.mbits
    · have hdiv : (j + (e + 1) * 2 ^ f.mbits) / 2 ^ f.mbits = e + 1 := by
        rw [Nat.add_mul_div_right _ _ hpos, Nat.div_eq_of_lt hj, Nat.zero_add]
      have hmod : (j + (e + 1) * 2 ^ f.mbits) % 2 ^ f.mbits = j := by rw [Nat.add_mul_mod_self_right, Nat.mod_eq_of_lt hj]
      rw [magVal, hdiv, hmod, if_neg (by omega)]
      push_cast
      rfl
    · obtain rfl : j = 2 ^ f.mbits := by omega
      rw [show 2 ^ f.mbits + (e + 1) * 2 ^ f.mbits = (e + 2) * 2 ^ f.mbits by ring, magVal, Nat.mul_div_cancel _ hpos,
        Nat.mul_mod_left, if_neg (by omega),
        show ((e + 2 : Nat) : Int) - f.bias - f.mbits = ((e : Int) + 1 - f.bias - f.mbits) + 1 by push_cast; ring, zpow_add_one₀ (by norm_num)]
      push_cast
      ring

/-- Each magnitude is below the next. -/
theorem magVal_lt_succ (f : Fmt) (n : Nat) : magVal f n < magVal f (n + 1) := by
  have hpos : 0 < 2 ^ f.mbits := by positivity
  obtain ⟨e, k, hn, hlow, hhigh⟩ : ∃ e k, n = e * 2 ^ f.mbits + k ∧ (e ≠ 0 → 2 ^ f.mbits ≤ k) ∧ k < 2 * 2 ^ f.mbits := by
    have hdm := Nat.div_add_mod n (2 ^ f.mbits)
    have hlt := Nat.mod_lt n hpos
    cases h : n / 2 ^ f.mbits with
    | zero => exact ⟨0, n % 2 ^ f.mbits, by rw [h] at hdm; omega, fun h => absurd rfl h, by omega⟩
    | succ e =>
      refine ⟨e, 2 ^ f.mbits + n % 2 ^ f.mbits, ?_, fun _ => Nat.le_add_right .., by omega⟩
      rw [h] at hdm
      exact hdm.symm.trans (by ring)
  have hstep : (0 : Rat) < 2 ^ ((e : Int) + 1 - f.bias - f.mbits) := by positivity
  rw [hn, Nat.add_assoc, magVal_binade f hlow (by omega), magVal_binade f (fun h => (hlow h).trans (by omega)) (by omega)]
  push_cast
  linarith [mul_lt_mul_of_pos_right (lt_add_one (k : Rat)) hstep]

theorem magVal_strictMono (f : Fmt) : StrictMono (magVal f) := strictMono_nat_of_lt_succ (magVal_lt_succ f)

theorem magVal_nonneg (f : Fmt) (n : Nat) : 0 ≤ magVal f n := magVal_zero f ▸ (magVal_strictMono f).monotone (Nat.zero_le n)

theorem ratOf_maxFin {f : Fmt} (hf : f.Ieee) : ratOf f f.maxFin = magVal f f.maxFin := by
  have h := ratOf_encOf (f := f) false (n := f.maxFin) (by have := maxFin_lt hf; omega)
  simpa [encOf, signOf] using h

/-- The values of a format are the finite magnitudes with either sign. -/
theorem representable_iff {f : Fmt} (hf : f.Ieee) (v : Rat) : Representable f v ↔ ∃ n ≤ f.maxFin, |v| = magVal f n := by
  constructor
  · rintro ⟨x, ⟨-, hfin⟩, rfl⟩
    exact ⟨_, hfin, by rw [ratOf_eq, abs_signOf_mul, abs_of_nonneg (magVal_nonneg ..)]⟩
  · rintro ⟨n, hn, hv⟩
    have hlt : n < 2 ^ f.magBits := by have := maxFin_lt hf; omega
    rcases abs_choice v with h | h
    · exact ⟨encOf f false n, finBits_encOf hf _ hn, by rw [ratOf_encOf _ hlt, ← hv, h]; simp [signOf]⟩
    · exact ⟨encOf f true n, finBits_encOf hf _ hn, by rw [ratOf_encOf _ hlt, ← hv, h]; simp [signOf]⟩

/-- A finite encoding's value is in the format's range. -/
theorem inRange_ratOf {f : Fmt} (hf : f.Ieee) {x : Nat} (hx : FinBits f x) : InRange f (ratOf f x) := by
  obtain ⟨-, hfin⟩ := hx
  rw [InRange, ratOf_maxFin hf, ratOf_eq, abs_signOf_mul, abs_of_nonneg (magVal_nonneg ..)]
  exact (magVal_strictMono f).monotone hfin

end Sys2Proof.Machine
end

section
/-! # Rounding to the values around a number (R65, R77)

A nonnegative number lies between two neighbouring values; each mode takes the lower or the upper one. A negative number rounds as its
magnitude does, with the modes toward −∞ and +∞ exchanged. -/
namespace Sys2Proof.Machine
open Sys2Proof.Claims

/-- The mode by which a magnitude rounds where the number has the sign. -/
def Rm.under (neg : Bool) : Rm → Rm
  | .rdn => if neg then .rup else .rdn
  | .rup => if neg then .rdn else .rup
  | .rne => .rne
  | .rz => .rz
  | .rna => .rna

/-- `a` and `b` are neighbours among the values of a set, and `x` lies from `a` on below `b`. -/
structure Between (V : Rat → Prop) (a b x : Rat) : Prop where
  nonneg : 0 ≤ a
  le : a ≤ x
  lt : x < b
  gap : ∀ w, V w → |w| ≤ a ∨ b ≤ |w|

/-- When a mode takes the lower neighbour: `even` says that it is the even one. -/
def TakesLower (rm : Rm) (even : Prop) (a b x : Rat) : Prop :=
  match rm with
  | .rne => 2 * x < a + b ∨ (2 * x = a + b ∧ even)
  | .rna => 2 * x < a + b
  | .rz => True
  | .rdn => True
  | .rup => x = a
/-- When a mode takes the upper neighbour. -/
def TakesUpper (rm : Rm) (even : Prop) (a b x : Rat) : Prop :=
  match rm with
  | .rne => a + b < 2 * x ∨ (a + b = 2 * x ∧ even)
  | .rna => a + b ≤ 2 * x
  | .rz => False
  | .rdn => False
  | .rup => True

section
variable {V : Rat → Prop} {a b x : Rat} (h : Between V a b x)
include h

/-- No value is nearer than the lower neighbour by more than the upper one is. -/
theorem dist_lower {w : Rat} (hw : V w) : x - a ≤ |w - x| ∨ b - x ≤ |w - x| := by
  rcases h.gap w hw with hle | hge
  · exact .inl (by linarith [neg_abs_le (w - x), le_abs_self w])
  · rcases abs_cases w with ⟨hw, -⟩ | ⟨hw, -⟩
    · exact .inr (by linarith [le_abs_self (w - x)])
    · exact .inl (by linarith [neg_abs_le (w - x), h.nonneg, h.le, h.lt])

/-- A value as near as the lower neighbour, which is the nearer, is that neighbour. -/
theorem eq_lower {w : Rat} (hw : V w) (hnear : 2 * x < a + b) (hd : |w - x| = x - a) : w = a := by
  have hx := h.le
  rcases abs_cases (w - x) with ⟨he, -⟩ | ⟨he, -⟩
  · have hwx : w = 2 * x - a := by linarith
    rcases h.gap w hw with hle | hge
    · linarith [le_abs_self w]
    · rw [abs_of_nonneg (by linarith [h.nonneg])] at hge
      linarith
  · linarith

theorem eq_upper {w : Rat} (hw : V w) (hnear : a + b < 2 * x) (hd : |w - x| = b - x) : w = b := by
  have hx := h.lt
  have hx' := h.le
  have h0 := h.nonneg
  rcases abs_cases (w - x) with ⟨he, -⟩ | ⟨he, -⟩
  · linarith
  · have hwx : w = 2 * x - b := by linarith
    rcases h.gap w hw with hle | hge
    · linarith [le_abs_self w]
    · rcases abs_cases w with ⟨hw, -⟩ | ⟨hw, -⟩ <;> linarith

theorem roundsIn_lower {rm : Rm} {even : Prop} (ha : V a) (hrm : TakesLower rm even a b x) : RoundsIn rm V even x a := by
  have h0 := h.nonneg
  have hle := h.le
  have hlt := h.lt
  have hdist : |a - x| = x - a := by rw [abs_sub_comm, abs_of_nonneg (by linarith)]
  have hnear : 2 * x ≤ a + b → ∀ w, V w → |a - x| ≤ |w - x| := fun hn w hw => by
    rw [hdist]
    rcases dist_lower h hw with hd | hd <;> linarith
  refine ⟨ha, ?_⟩
  cases rm with
  | rne =>
    refine ⟨hnear (by rcases hrm with hrm | ⟨hrm, -⟩ <;> linarith), fun ⟨w, hw, hne, hd⟩ => ?_⟩
    rcases hrm with hrm | ⟨-, heven⟩
    · exact absurd (eq_lower h hw hrm (hd.trans hdist)) hne
    · exact heven
  | rna =>
    have hrm : 2 * x < a + b := hrm
    exact fun w hw => ⟨hnear hrm.le w hw, fun hd => by rw [eq_lower h hw hrm (hd.trans hdist)]⟩
  | rz =>
    refine ⟨mul_nonneg h0 (h0.trans hle), by rwa [abs_of_nonneg h0, abs_of_nonneg (h0.trans hle)], fun w hw hwx => ?_⟩
    rw [abs_of_nonneg (h0.trans hle)] at hwx
    rw [abs_of_nonneg h0]
    exact (h.gap w hw).resolve_right (by linarith)
  | rdn =>
    refine ⟨hle, fun w hw hwx => ?_⟩
    rcases h.gap w hw with hg | hg
    · exact (le_abs_self w).trans hg
    · rcases abs_cases w with ⟨he, -⟩ | ⟨he, hneg⟩ <;> linarith
  | rup =>
    obtain rfl : x = a := hrm
    exact ⟨le_rfl, fun w _ hwx => hwx⟩

theorem roundsIn_upper {rm : Rm} {even : Prop} (hb : V b) (hax : a < x) (hrm : TakesUpper rm even a b x) : RoundsIn rm V even x b := by
  have h0 := h.nonneg
  have hlt := h.lt
  have hdist : |b - x| = b - x := abs_of_nonneg (by linarith)
  have hnear : a + b ≤ 2 * x → ∀ w, V w → |b - x| ≤ |w - x| := fun hn w hw => by
    rw [hdist]
    rcases dist_lower h hw with hd | hd <;> linarith
  refine ⟨hb, ?_⟩
  cases rm with
  | rne =>
    refine ⟨hnear (by rcases hrm with hrm | ⟨hrm, -⟩ <;> linarith), fun ⟨w, hw, hne, hd⟩ => ?_⟩
    rcases hrm with hrm | ⟨-, heven⟩
    · exact absurd (eq_upper h hw hrm (hd.trans hdist)) hne
    · exact heven
  | rna =>
    have hrm : a + b ≤ 2 * x := hrm
    refine fun w hw => ⟨hnear hrm w hw, fun hd => ?_⟩
    rw [hdist] at hd
    rw [abs_of_nonneg (h0.trans (hax.le.trans hlt.le))]
    rcases h.gap w hw with hg | hg
    · linarith
    · rcases abs_cases (w - x) with ⟨he, -⟩ | ⟨he, -⟩ <;> rcases abs_cases w with ⟨hw, -⟩ | ⟨hw, -⟩ <;> linarith
  | rz => exact hrm.elim
  | rdn => exact hrm.elim
  | rup =>
    refine ⟨hlt.le, fun w hw hwx => ?_⟩
    rcases h.gap w hw with hg | hg
    · linarith [le_abs_self w]
    · rwa [abs_of_nonneg (by linarith)] at hg

end

/-- A set of values that holds each with both signs rounds negative numbers as their magnitudes. -/
theorem roundsIn_sign {V : Rat → Prop} (hV : ∀ v, V v → V (-v)) {rm : Rm} {even : Prop} {x v : Rat} (neg : Bool)
    (h : RoundsIn (Rm.under neg rm) V even x v) : RoundsIn rm V even (signOf neg * x) (signOf neg * v) := by
  cases neg
  · rw [show signOf false = 1 from rfl, one_mul, one_mul]
    cases rm <;> exact h
  · have habs : ∀ w : Rat, |w - -x| = |-w - x| := fun w => by rw [← abs_neg]; ring_nf
    have habsv : |-v - -x| = |v - x| := by rw [habs, neg_neg]
    rw [show signOf true = -1 from rfl, neg_one_mul, neg_one_mul]
    obtain ⟨hv, h⟩ := h
    refine ⟨hV v hv, ?_⟩
    cases rm with
    | rne =>
      obtain ⟨hnear, heven⟩ := h
      refine ⟨fun w hw => by rw [habsv, habs]; exact hnear _ (hV w hw), fun ⟨w, hw, hne, hd⟩ => ?_⟩
      exact heven ⟨-w, hV w hw, fun hw => hne (by rw [← hw, neg_neg]), by rw [← habs, hd, habsv]⟩
    | rna =>
      intro w hw
      obtain ⟨hnear, hfar⟩ := h _ (hV w hw)
      rw [habsv, habs, abs_neg, ← abs_neg w]
      exact ⟨hnear, hfar⟩
    | rz =>
      obtain ⟨hsign, hle, hfar⟩ := h
      rw [neg_mul_neg, abs_neg, abs_neg]
      exact ⟨hsign, hle, hfar⟩
    | rdn =>
      obtain ⟨hle, hfar⟩ := h
      exact ⟨neg_le_neg hle, fun w hw hwx => le_neg.mp (hfar _ (hV w hw) (le_neg.mp hwx))⟩
    | rup =>
      obtain ⟨hle, hfar⟩ := h
      exact ⟨neg_le_neg hle, fun w hw hwx => neg_le.mp (hfar _ (hV w hw) (neg_le.mp hwx))⟩

/-- What the model does with the bits that fall away: a mode takes the neighbour that R65 gives it. -/
theorem roundShift_cases (rm : Rm) (neg : Bool) (m k : Nat) {d : Rat} (hd : 0 < d) {a b : Rat}
    (ha : a = ((m / 2 ^ k * 2 ^ k : Nat) : Rat) * d) (hb : b = (((m / 2 ^ k + 1) * 2 ^ k : Nat) : Rat) * d) :
    (Fl.roundShift rm neg m k = m / 2 ^ k ∧ TakesLower (Rm.under neg rm) (m / 2 ^ k % 2 = 0) a b (m * d))
      ∨ (Fl.roundShift rm neg m k = m / 2 ^ k + 1 ∧ a < m * d ∧ TakesUpper (Rm.under neg rm) ((m / 2 ^ k + 1) % 2 = 0) a b (m * d)) := by
  have hm := Nat.div_add_mod m (2 ^ k)
  have hp : 0 < 2 ^ k := by positivity
  unfold Fl.roundShift
  generalize m / 2 ^ k = q at *
  generalize m % 2 ^ k = r at *
  generalize 2 ^ k = p at *
  have hx : (m : Rat) * d = a + r * d := by rw [ha, ← hm]; push_cast; ring
  have hsum : a + b = 2 * a + p * d := by rw [hb, ha]; push_cast; ring
  have hlt : 2 * r < p → 2 * ((m : Rat) * d) < a + b := fun h => by
    have : (2 * r : Rat) * d < p * d := mul_lt_mul_of_pos_right (by exact_mod_cast h) hd
    rw [hx, hsum]; linarith
  have hgt : p < 2 * r → a + b < 2 * ((m : Rat) * d) := fun h => by
    have : (p : Rat) * d < (2 * r : Rat) * d := mul_lt_mul_of_pos_right (by exact_mod_cast h) hd
    rw [hx, hsum]; linarith
  have heq : 2 * r = p → 2 * ((m : Rat) * d) = a + b := fun h => by
    rw [hx, hsum, ← h]; push_cast; ring
  have hzero : r = 0 → (m : Rat) * d = a := fun h => by rw [hx, h]; simp
  have hpos : 0 < r → a < m * d := fun h => by
    have : (0 : Rat) < r * d := mul_pos (by exact_mod_cast h) hd
    rw [hx]; linarith
  cases rm with
  | rne =>
    simp only [Rm.under, TakesLower, TakesUpper, Bool.or_eq_true, Bool.and_eq_true, decide_eq_true_eq, beq_iff_eq]
    split
    · next h =>
      refine .inr ⟨rfl, hpos (by omega), h.imp hgt fun ⟨h2, hq⟩ => ⟨(heq h2).symm, by omega⟩⟩
    · next h =>
      refine .inl ⟨rfl, ?_⟩
      rcases Nat.lt_or_ge (2 * r) p with h2 | h2
      · exact .inl (hlt h2)
      · exact .inr ⟨heq (by omega), by omega⟩
  | rna =>
    simp only [Rm.under, TakesLower, TakesUpper, Bool.and_eq_true, decide_eq_true_eq]
    split
    · next h =>
      refine .inr ⟨rfl, hpos h.2, ?_⟩
      rcases Nat.lt_or_ge p (2 * r) with h2 | h2
      · exact (hgt h2).le
      · exact (heq (by omega)).ge
    · exact .inl ⟨rfl, hlt (by omega)⟩
  | rz => exact .inl ⟨rfl, trivial⟩
  | rdn =>
    cases neg
    · exact .inl ⟨rfl, trivial⟩
    · simp only [Rm.under, TakesLower, TakesUpper, Bool.true_and, decide_eq_true_eq, if_true]
      split
      · next h => exact .inr ⟨rfl, hpos h, trivial⟩
      · exact .inl ⟨rfl, hzero (by omega)⟩
  | rup =>
    cases neg
    · simp only [Rm.under, TakesLower, TakesUpper, Bool.not_false, Bool.true_and, decide_eq_true_eq, Bool.false_eq_true, if_false]
      split
      · next h => exact .inr ⟨rfl, hpos h, trivial⟩
      · exact .inl ⟨rfl, hzero (by omega)⟩
    · exact .inl ⟨rfl, trivial⟩

end Sys2Proof.Machine
end

section
/-! # place() rounds once (R77)

A nonzero magnitude m · 2^e lies in a binade, where the values of the format are multiples of a spacing; place() keeps the multiple below
it or takes the next one, and counts on from the encodings of the binades below. -/
namespace Sys2Proof.Machine
open Sys2Proof.Claims

/-- The neighbours of a number among a format's values, by their numbers. -/
theorem between_magVal {f : Fmt} (hf : f.Ieee) {n : Nat} {x : Rat} (hle : magVal f n ≤ x) (hlt : x < magVal f (n + 1)) :
    Between (Representable f) (magVal f n) (magVal f (n + 1)) x := by
  refine ⟨magVal_nonneg f n, hle, hlt, fun w hw => ?_⟩
  obtain ⟨k, -, hk⟩ := (representable_iff hf w).mp hw
  rw [hk]
  rcases Nat.lt_or_ge n k with h | h
  · exact .inr ((magVal_strictMono f).monotone h)
  · exact .inl ((magVal_strictMono f).monotone h)

theorem representable_magVal {f : Fmt} (hf : f.Ieee) {n : Nat} (hn : n ≤ f.maxFin) : Representable f (magVal f n) :=
  (representable_iff hf _).mpr ⟨n, hn, abs_of_nonneg (magVal_nonneg f n)⟩

theorem representable_neg {f : Fmt} (hf : f.Ieee) (v : Rat) (h : Representable f v) : Representable f (-v) := by
  rw [representable_iff hf, abs_neg]
  exact (representable_iff hf v).mp h

/-- The exponent of the spacing of a format's values around m · 2^e. -/
def spacing (f : Fmt) (m : Nat) (e : Int) : Int := max (1 - (f.bias : Int)) (e + (Nat.log2 m : Nat)) - f.mbits
/-- How many binades of normal values lie below that of m · 2^e. -/
def binade (f : Fmt) (m : Nat) (e : Int) : Nat := (spacing f m e + f.mbits + f.bias).toNat - 1
/-- m, widened where the format's spacing is below 2^e, and how many of its low bits then lie below the spacing. -/
def widened (f : Fmt) (m : Nat) (e : Int) : Nat := m * 2 ^ (e - spacing f m e).toNat
def belowSpacing (f : Fmt) (m : Nat) (e : Int) : Nat := (spacing f m e - e).toNat
/-- The multiple of the spacing that place() takes. -/
def takenMultiple (f : Fmt) (rm : Rm) (neg : Bool) (m : Nat) (e : Int) : Nat := Fl.roundShift rm neg (widened f m e) (belowSpacing f m e)

theorem roundShift_none (rm : Rm) (neg : Bool) (m : Nat) : Fl.roundShift rm neg m 0 = m := by
  cases rm <;> simp [Fl.roundShift, Nat.mod_one]

theorem spacing_eq (f : Fmt) (m : Nat) (e : Int) : spacing f m e = (binade f m e : Int) + 1 - f.bias - f.mbits := by
  unfold binade spacing
  omega

/-- place() of a nonzero magnitude, by the multiple that it takes (R77, R78). -/
theorem place_nonzero (f : Fmt) (rm : Rm) (sat neg : Bool) {m : Nat} (e : Int) (hm : m ≠ 0) :
    Fl.place f rm sat (.fin neg m e) =
      (let k := takenMultiple f rm neg m e
       let enc := if k < 2 ^ f.mbits then k else binade f m e * 2 ^ f.mbits + k
       if enc > f.maxFin then Fl.overflowBits f rm sat neg else encOf f neg enc) := by
  have hspacing : (if e + (Nat.log2 m : Nat) < 1 - (f.bias : Int) then 1 - (f.bias : Int) else e + (Nat.log2 m : Nat)) - f.mbits
      = spacing f m e := by
    unfold spacing
    split <;> omega
  have hmultiple : (if spacing f m e ≤ e then m * 2 ^ (e - spacing f m e).toNat else Fl.roundShift rm neg m (spacing f m e - e).toNat)
      = takenMultiple f rm neg m e := by
    unfold takenMultiple widened belowSpacing
    split
    · rw [Int.toNat_of_nonpos (z := spacing f m e - e) (by omega), roundShift_none]
    · rw [Int.toNat_of_nonpos (z := e - spacing f m e) (by omega), pow_zero, Nat.mul_one]
  rw [Fl.place, if_neg hm]
  simp only [hspacing, hmultiple]
  rfl

/-- The widened magnitude is the same number, in units of which 2^belowSpacing make one spacing. -/
theorem widened_val (f : Fmt) (m : Nat) (e : Int) :
    (widened f m e : Rat) * 2 ^ min (spacing f m e) e = m * 2 ^ e
      ∧ (2 : Rat) ^ spacing f m e = 2 ^ belowSpacing f m e * 2 ^ min (spacing f m e) e := by
  have h2 : (2 : Rat) ≠ 0 := by norm_num
  unfold widened belowSpacing
  constructor
  · push_cast
    rw [mul_assoc, ← zpow_natCast, ← zpow_add₀ h2]
    congr 2
    omega
  · rw [← zpow_natCast, ← zpow_add₀ h2]
    congr 1
    omega

theorem two_zpow_log2 {m : Nat} (hm : m ≠ 0) (e : Int) :
    (2 : Rat) ^ (e + (Nat.log2 m : Nat)) ≤ m * 2 ^ e ∧ (m : Rat) * 2 ^ e < 2 * 2 ^ (e + (Nat.log2 m : Nat)) := by
  have hpos : (0 : Rat) < 2 ^ e := by positivity
  have hlo : (2 : Rat) ^ Nat.log2 m ≤ m := by exact_mod_cast Nat.log2_self_le hm
  have hhi : (m : Rat) < 2 ^ (Nat.log2 m + 1) := by exact_mod_cast Nat.lt_log2_self
  rw [zpow_add₀ (by norm_num), zpow_natCast, mul_comm (2 ^ e : Rat), ← mul_assoc]
  exact ⟨mul_le_mul_of_nonneg_right hlo hpos.le, mul_lt_mul_of_pos_right (by rwa [← pow_succ']) hpos⟩

/-- The multiple of the spacing below a nonzero magnitude, and where it lies in its binade. -/
theorem floor_multiple (f : Fmt) {m : Nat} (hm : m ≠ 0) (e : Int) :
    let t := widened f m e / 2 ^ belowSpacing f m e
    (t : Rat) * 2 ^ spacing f m e ≤ m * 2 ^ e ∧ (m : Rat) * 2 ^ e < (t + 1 : Nat) * 2 ^ spacing f m e
      ∧ (binade f m e ≠ 0 → 2 ^ f.mbits ≤ t) ∧ t < 2 * 2 ^ f.mbits := by
  intro t
  obtain ⟨hval, hunit⟩ := widened_val f m e
  obtain ⟨hlow, hhigh⟩ := two_zpow_log2 hm e
  have hd : (0 : Rat) < 2 ^ min (spacing f m e) e := by positivity
  have hq : (0 : Rat) < 2 ^ spacing f m e := by positivity
  have hle : (t : Rat) * 2 ^ spacing f m e ≤ m * 2 ^ e := by
    rw [hunit, ← mul_assoc, ← hval]
    refine mul_le_mul_of_nonneg_right ?_ hd.le
    exact_mod_cast Nat.div_mul_le_self ..
  have hlt : (m : Rat) * 2 ^ e < (t + 1 : Nat) * 2 ^ spacing f m e := by
    rw [hunit, ← mul_assoc, ← hval]
    refine mul_lt_mul_of_pos_right ?_ hd
    have : widened f m e < (t + 1) * 2 ^ belowSpacing f m e := (Nat.div_lt_iff_lt_mul (by positivity)).mp (Nat.lt_succ_self t)
    exact_mod_cast this
  have hbinade : (2 : Rat) ^ (spacing f m e + f.mbits) = 2 ^ f.mbits * 2 ^ spacing f m e := by
    rw [zpow_add₀ (by norm_num), zpow_natCast, mul_comm]
  refine ⟨hle, hlt, fun hne => ?_, ?_⟩
  · have hexp : e + (Nat.log2 m : Nat) = spacing f m e + f.mbits := by unfold binade spacing at *; omega
    rw [hexp, hbinade] at hlow
    have : (2 ^ f.mbits : Rat) < (t + 1 : Nat) := lt_of_mul_lt_mul_right (hlow.trans_lt hlt) hq.le
    exact Nat.lt_succ_iff.mp (by exact_mod_cast this)
  · have hexp : e + (Nat.log2 m : Nat) ≤ spacing f m e + f.mbits := by unfold spacing; omega
    have hpow : (2 : Rat) ^ (e + (Nat.log2 m : Nat)) ≤ 2 ^ (spacing f m e + f.mbits) := zpow_le_zpow_right₀ (by norm_num) hexp
    rw [hbinade] at hpow
    have : (t : Rat) * 2 ^ spacing f m e < (2 * 2 ^ f.mbits) * 2 ^ spacing f m e := by linarith
    exact_mod_cast lt_of_mul_lt_mul_right this hq.le

/-- A number placed in a format is the encoding of the value that its mode takes. -/
def PlacedAs (f : Fmt) (rm : Rm) (neg : Bool) (x : Rat) (enc : Nat) : Prop :=
  ∃ n ≤ f.maxFin, enc = encOf f neg n
    ∧ RoundsIn rm (Representable f) (n % 2 = 0) (signOf neg * x) (signOf neg * magVal f n)

theorem place_zero {f : Fmt} (hf : f.Ieee) (rm : Rm) (sat neg : Bool) (e : Int) :
    PlacedAs f rm neg 0 (Fl.place f rm sat (.fin neg 0 e)) := by
  have hb := between_magVal hf (n := 0) (x := 0) (magVal_zero f).le (by rw [← magVal_zero f]; exact magVal_lt_succ f 0)
  have hlt := hb.lt
  refine ⟨0, Nat.zero_le _, ?_, roundsIn_sign (representable_neg hf) neg ?_⟩
  · rw [Fl.place, if_pos rfl]
    rfl
  · refine roundsIn_lower hb (representable_magVal hf (Nat.zero_le _)) ?_
    rw [magVal_zero]
    cases Rm.under neg rm with
    | rne => exact .inl (by linarith)
    | rna => show 2 * (0 : Rat) < 0 + _; linarith
    | rz => trivial
    | rdn => trivial
    | rup => rfl

theorem place_rounds {f : Fmt} (hf : f.Ieee) (rm : Rm) (sat neg : Bool) (m : Nat) (e : Int)
    (hr : (m : Rat) * 2 ^ e ≤ magVal f f.maxFin) : PlacedAs f rm neg (m * 2 ^ e) (Fl.place f rm sat (.fin neg m e)) := by
  by_cases hm : m = 0
  · subst hm
    rw [Nat.cast_zero, zero_mul]
    exact place_zero hf rm sat neg e
  obtain ⟨hval, hunit⟩ := widened_val f m e
  obtain ⟨hle, hlt, hbin, htop⟩ := floor_multiple f hm e
  have hcases := roundShift_cases rm neg (widened f m e) (belowSpacing f m e) (d := 2 ^ min (spacing f m e) e) (by positivity) rfl rfl
  rw [hval] at hcases
  generalize ht : widened f m e / 2 ^ belowSpacing f m e = t at *
  have hlower : magVal f (binade f m e * 2 ^ f.mbits + t) = t * 2 ^ spacing f m e := by
    rw [magVal_binade f hbin htop.le, spacing_eq]
  have hupper : magVal f (binade f m e * 2 ^ f.mbits + t + 1) = (t + 1 : Nat) * 2 ^ spacing f m e := by
    rw [Nat.add_assoc, magVal_binade f (fun h => (hbin h).trans (Nat.le_succ t)) htop, spacing_eq]
  have hb := between_magVal hf (hlower ▸ hle) (hupper ▸ hlt)
  have heven : ∀ k, ((binade f m e * 2 ^ f.mbits + k) % 2 = 0) = (k % 2 = 0) := fun k => by
    obtain ⟨j, hj⟩ : 2 ∣ binade f m e * 2 ^ f.mbits := (dvd_pow_self 2 (by have := hf.mpos; omega)).mul_left _
    rw [hj, Nat.mul_add_mod]
  have hplace : ∀ k, takenMultiple f rm neg m e = k → t ≤ k → binade f m e * 2 ^ f.mbits + k ≤ f.maxFin →
      Fl.place f rm sat (.fin neg m e) = encOf f neg (binade f m e * 2 ^ f.mbits + k) := by
    rintro k rfl htk hk
    have henc : (if takenMultiple f rm neg m e < 2 ^ f.mbits then takenMultiple f rm neg m e
        else binade f m e * 2 ^ f.mbits + takenMultiple f rm neg m e) = binade f m e * 2 ^ f.mbits + takenMultiple f rm neg m e := by
      split
      · next h =>
        have : binade f m e = 0 := by by_contra h0; exact absurd (hbin h0) (by omega)
        simp [this]
      · rfl
    rw [place_nonzero f rm sat neg e hm]
    simp only [henc, if_neg (Nat.not_lt.mpr hk)]
  have hmono := magVal_strictMono f
  rcases hcases with ⟨hk, htakes⟩ | ⟨hk, hax, htakes⟩
  · have hn : binade f m e * 2 ^ f.mbits + t ≤ f.maxFin := hmono.le_iff_le.mp (hb.le.trans hr)
    refine ⟨_, hn, hplace t hk le_rfl hn, roundsIn_sign (representable_neg hf) neg (roundsIn_lower hb (representable_magVal hf hn) ?_)⟩
    rw [heven, hlower, hupper]
    convert htakes using 1 <;> push_cast <;> rw [hunit] <;> ring
  · have ha : magVal f (binade f m e * 2 ^ f.mbits + t) < m * 2 ^ e := by
      rw [hlower]
      refine lt_of_eq_of_lt ?_ hax
      push_cast
      rw [hunit]
      ring
    have hn : binade f m e * 2 ^ f.mbits + (t + 1) ≤ f.maxFin := hmono.lt_iff_lt.mp (ha.trans_le hr)
    refine ⟨_, hn, hplace (t + 1) hk (Nat.le_succ t) hn,
      roundsIn_sign (representable_neg hf) neg (roundsIn_upper hb (representable_magVal hf hn) ha ?_)⟩
    rw [← Nat.add_assoc, Nat.add_assoc, heven, ← Nat.add_assoc, hlower, hupper]
    convert htakes using 1 <;> push_cast <;> rw [hunit] <;> ring

end Sys2Proof.Machine
end

section
/-! # Exact values of the floating-point operations (R69, R82, R83) -/
namespace Sys2Proof.Machine
open Sys2Proof.Claims

/-- A finite number and its value. -/
def HasVal (x : Fl) (v : Rat) : Prop := ∃ neg m e, x = .fin neg m e ∧ v = signOf neg * (m * 2 ^ e)

theorem signOf_not (neg : Bool) : signOf (!neg) = -signOf neg := by cases neg <;> simp [signOf]
theorem signOf_bne (a b : Bool) : signOf (a != b) = signOf a * signOf b := by cases a <;> cases b <;> simp [signOf]

/-- Bits of a finite value, as a number (R69). -/
theorem ofBits_finite {f : Fmt} (hf : f.Ieee) {x : Nat} (hfin : x % 2 ^ f.magBits ≤ f.maxFin) :
    ∃ m e, Fl.ofBits f x = .fin (x / 2 ^ f.magBits % 2 == 1) m e ∧ magVal f (x % 2 ^ f.magBits) = m * 2 ^ e := by
  have hinf : f.inf ≠ some (x % 2 ^ f.magBits) := by rw [hf.inf]; intro h; have := Option.some.inj h; omega
  unfold Fl.ofBits magVal
  simp only [if_neg hinf, if_neg (Nat.not_lt.mpr hfin)]
  by_cases hsub : x % 2 ^ f.magBits / 2 ^ f.mbits = 0
  · rw [if_pos hsub, if_pos hsub]
    exact ⟨_, _, rfl, rfl⟩
  · rw [if_neg hsub, if_neg hsub, Nat.add_comm (2 ^ f.mbits)]
    exact ⟨_, _, rfl, rfl⟩

theorem hasVal_ofBits {f : Fmt} (hf : f.Ieee) {x : Nat} (hx : FinBits f x) : HasVal (Fl.ofBits f x) (ratOf f x) := by
  obtain ⟨-, hfin⟩ := hx
  obtain ⟨m, e, hbits, hval⟩ := ofBits_finite hf hfin
  exact ⟨_, m, e, hbits, by rw [ratOf_eq, hval]⟩

theorem hasVal_negate {x : Fl} {v : Rat} (h : HasVal x v) : HasVal x.negate (-v) := by
  obtain ⟨neg, m, e, rfl, rfl⟩ := h
  exact ⟨!neg, m, e, rfl, by rw [signOf_not]; ring⟩

theorem hasVal_mul {x y : Fl} {v w : Rat} (hx : HasVal x v) (hy : HasVal y w) : HasVal (Fl.mul x y) (v * w) := by
  obtain ⟨na, ma, ea, rfl, rfl⟩ := hx
  obtain ⟨nb, mb, eb, rfl, rfl⟩ := hy
  refine ⟨na != nb, ma * mb, ea + eb, rfl, ?_⟩
  rw [signOf_bne, zpow_add₀ (by norm_num)]
  push_cast
  ring

/-- A magnitude in units of a lower power of two. -/
theorem rescale (m : Nat) {e e0 : Int} (h : e0 ≤ e) : ((m * 2 ^ (e - e0).toNat : Nat) : Rat) * 2 ^ e0 = m * 2 ^ e := by
  push_cast
  rw [mul_assoc, ← zpow_natCast, ← zpow_add₀ (by norm_num), Int.toNat_of_nonneg (by omega), sub_add_cancel]

/-- A signed integer in units of a power of two. -/
theorem hasVal_ofSum (z e : Int) : HasVal (.fin (decide (z < 0)) z.natAbs e) (z * 2 ^ e) := by
  refine ⟨_, _, _, rfl, ?_⟩
  rw [← mul_assoc]
  congr 1
  by_cases h : z < 0
  · simp [h, signOf, abs_of_neg]
  · simp [h, signOf, abs_of_nonneg (not_lt.mp h)]

theorem hasVal_add (rm : Rm) {x y : Fl} {v w : Rat} (hx : HasVal x v) (hy : HasVal y w) : HasVal (Fl.add rm x y) (v + w) := by
  obtain ⟨na, ma, ea, rfl, rfl⟩ := hx
  obtain ⟨nb, mb, eb, rfl, rfl⟩ := hy
  have hsigned : ∀ (neg : Bool) (x : Int), (((if neg then -x else x : Int)) : Rat) = signOf neg * x := fun neg x => by
    cases neg <;> simp [signOf]
  have hunits : ∀ (m : Nat) (e e0 : Int), e0 ≤ e → (((m : Int) * 2 ^ (e - e0).toNat : Int) : Rat) * 2 ^ e0 = m * 2 ^ e := fun m e e0 h => by
    have := rescale m h
    push_cast at this ⊢
    exact this
  rw [Fl.add]
  generalize he : (if ea < eb then ea else eb) = e
  have hea : e ≤ ea := by rw [← he]; split <;> omega
  have heb : e ≤ eb := by rw [← he]; split <;> omega
  generalize hz : (if na then -((ma : Int) * 2 ^ (ea - e).toNat) else (ma : Int) * 2 ^ (ea - e).toNat)
    + (if nb then -((mb : Int) * 2 ^ (eb - e).toNat) else (mb : Int) * 2 ^ (eb - e).toNat) = z
  have hsum : signOf na * (ma * 2 ^ ea) + signOf nb * (mb * 2 ^ eb) = z * 2 ^ e := by
    rw [← hz, Int.cast_add, hsigned, hsigned, add_mul, mul_assoc, mul_assoc, hunits _ _ _ hea, hunits _ _ _ heb]
  rw [hsum]
  by_cases h0 : z = 0
  · rw [if_pos h0, h0, Int.cast_zero, zero_mul]
    split <;> exact ⟨_, 0, 0, rfl, by simp⟩
  · rw [if_neg h0]
    exact hasVal_ofSum z e

theorem magLt_iff (ma : Nat) (ea : Int) (mb : Nat) (eb : Int) : Fl.magLt ma ea mb eb = true ↔ (ma : Rat) * 2 ^ ea < mb * 2 ^ eb := by
  rw [Fl.magLt]
  generalize he : (if ea < eb then ea else eb) = e
  have hea : e ≤ ea := by rw [← he]; split <;> omega
  have heb : e ≤ eb := by rw [← he]; split <;> omega
  have hpos : (0 : Rat) < 2 ^ e := by positivity
  rw [decide_eq_true_eq, ← rescale ma hea, ← rescale mb heb, mul_lt_mul_iff_left₀ hpos, Nat.cast_lt]

/-- The compare of two finite numbers is that of their values (R68). -/
theorem lt_iff {x y : Fl} {v w : Rat} (hx : HasVal x v) (hy : HasVal y w) : Fl.lt x y = true ↔ v < w := by
  obtain ⟨na, ma, ea, rfl, rfl⟩ := hx
  obtain ⟨nb, mb, eb, rfl, rfl⟩ := hy
  have hmag : ∀ (m : Nat) (e : Int), m ≠ 0 → (0 : Rat) < m * 2 ^ e := fun m e h => by
    have : (0 : Rat) < m := by exact_mod_cast Nat.pos_of_ne_zero h
    positivity
  rw [Fl.lt]
  by_cases ha : ma = 0
  · subst ha
    by_cases hb : mb = 0
    · subst hb; simp
    · have := hmag mb eb hb
      cases nb <;> simp [hb, signOf] <;> linarith
  · have hapos := hmag ma ea ha
    by_cases hb : mb = 0
    · subst hb
      cases na <;> simp [ha, signOf] <;> linarith
    · have hbpos := hmag mb eb hb
      cases na <;> cases nb <;> simp only [ha, hb, false_and, if_false, bne_self_eq_false, Bool.false_eq_true, if_true, magLt_iff, signOf]
      · simp
      · simp; linarith
      · simp; linarith
      · simp

theorem HasVal.notNan {x : Fl} {v : Rat} (h : HasVal x v) : x.isNan = false := by
  obtain ⟨neg, m, e, rfl, -⟩ := h
  rfl

theorem HasVal.zero {x : Fl} {v : Rat} (h : HasVal x v) (hz : x.isZero = true) : v = 0 := by
  obtain ⟨neg, m, e, rfl, rfl⟩ := h
  have : m = 0 := by simpa [Fl.isZero] using hz
  simp [this]

theorem hasVal_minOf {x y : Fl} {v w : Rat} (hx : HasVal x v) (hy : HasVal y w) : HasVal (Fl.minOf x y) (min v w) := by
  unfold Fl.minOf
  simp only [hx.notNan, hy.notNan, Bool.false_eq_true, if_false]
  split
  · next hz =>
    obtain ⟨hzx, hzy⟩ := Bool.and_eq_true_iff.mp hz
    have hv := hx.zero hzx
    have hw := hy.zero hzy
    rw [hv, hw, min_self]
    split
    · exact hv ▸ hx
    · exact hw ▸ hy
  · split
    · next h => rw [min_eq_right ((lt_iff hy hx).mp h).le]; exact hy
    · next h => rw [min_eq_left (not_lt.mp fun hlt => h ((lt_iff hy hx).mpr hlt))]; exact hx

theorem hasVal_maxOf {x y : Fl} {v w : Rat} (hx : HasVal x v) (hy : HasVal y w) : HasVal (Fl.maxOf x y) (max v w) := by
  unfold Fl.maxOf
  simp only [hx.notNan, hy.notNan, Bool.false_eq_true, if_false]
  split
  · next hz =>
    obtain ⟨hzx, hzy⟩ := Bool.and_eq_true_iff.mp hz
    have hv := hx.zero hzx
    have hw := hy.zero hzy
    rw [hv, hw, max_self]
    split
    · exact hw ▸ hy
    · exact hv ▸ hx
  · split
    · next h => rw [max_eq_right ((lt_iff hx hy).mp h).le]; exact hy
    · next h => rw [max_eq_left (not_lt.mp fun hlt => h ((lt_iff hx hy).mpr hlt))]; exact hx

/-- ABS negates what is negative (R123). -/
theorem hasVal_abs {x : Fl} {v : Rat} (h : HasVal x v) : HasVal (if x.sign then x.negate else x) |v| := by
  obtain ⟨neg, m, e, rfl, rfl⟩ := h
  rw [abs_signOf_mul, abs_of_nonneg (by positivity)]
  cases neg <;> exact ⟨false, m, e, rfl, by simp [signOf]⟩

theorem Fl.nan_add (rm : Rm) (x : Fl) : Fl.add rm .nan x = .nan := rfl
theorem Fl.mul_nan (x : Fl) : Fl.mul x .nan = .nan := by cases x <;> rfl
theorem Fl.nan_mul (x : Fl) : Fl.mul .nan x = .nan := rfl
theorem Fl.div_nan (x : Fl) : Fl.div x .nan = .nan := by cases x <;> rfl
theorem Fl.nan_div (x : Fl) : Fl.div .nan x = .nan := rfl
theorem Fl.minOf_nan (x : Fl) : Fl.minOf x .nan = x := by cases x <;> rfl
theorem Fl.nan_minOf (x : Fl) : Fl.minOf .nan x = x := rfl
theorem Fl.maxOf_nan (x : Fl) : Fl.maxOf x .nan = x := by cases x <;> rfl
theorem Fl.nan_maxOf (x : Fl) : Fl.maxOf .nan x = x := rfl

end Sys2Proof.Machine
end

section
/-! # Floating-point results (R72, R77, R82, R83, R120 to R123) -/
namespace Sys2Proof.Machine
open Sys2Proof.Claims

/-- The result of rounding a value in the format's range is the value that the mode takes (R77). -/
theorem place_hasVal {f : Fmt} (hf : f.Ieee) (rm : Rm) (sat : Bool) {x : Fl} {v : Rat} (hx : HasVal x v) (hr : InRange f v) :
    RoundsTo f rm v (Fl.place f rm sat x) := by
  obtain ⟨neg, m, e, rfl, rfl⟩ := hx
  rw [InRange, ratOf_maxFin hf, abs_signOf_mul, abs_of_nonneg (by positivity)] at hr
  obtain ⟨n, hn, henc, hround⟩ := place_rounds hf rm sat neg m e hr
  have hlt : n < 2 ^ f.magBits := by have := maxFin_lt hf; omega
  have hmag : 2 ∣ 2 ^ f.magBits := dvd_pow_self 2 (by have := hf.mpos; unfold Fmt.magBits; omega)
  have heven : (encOf f neg n % 2 = 0) = (n % 2 = 0) := by
    unfold encOf
    cases neg
    · simp
    · rw [if_pos rfl]; exact propext (by omega)
  refine ⟨henc ▸ finBits_encOf hf neg hn, ?_⟩
  rw [henc, heven, ratOf_encOf neg hlt]
  exact hround

/-- A value that rounds to a value of the set stays what it is. -/
theorem roundsIn_self {rm : Rm} {V : Rat → Prop} {even : Prop} {x v : Rat} (hx : V x) (h : RoundsIn rm V even x v) : v = x := by
  obtain ⟨hv, h⟩ := h
  have hdist : |v - x| ≤ |x - x| → v = x := fun hd => by
    rw [sub_self, abs_zero] at hd
    exact sub_eq_zero.mp (abs_nonpos_iff.mp hd)
  cases rm with
  | rne => exact hdist (h.1 x hx)
  | rna => exact hdist (h x hx).1
  | rz =>
    obtain ⟨hsign, hle, hfar⟩ := h
    have habs : |v| = |x| := le_antisymm hle (hfar x hx le_rfl)
    rcases abs_eq_abs.mp habs with rfl | rfl
    · rfl
    · have : x = 0 := by nlinarith
      simp [this]
  | rdn => exact le_antisymm h.1 (h.2 x hx le_rfl)
  | rup => exact le_antisymm (h.2 x hx le_rfl) h.1

/-- Finite bits, and the bits of infinities, come back from their value (R69). -/
theorem place_ofBits {f : Fmt} (hf : f.Ieee) (rm : Rm) {x : Nat} (hx : x < 2 ^ (f.magBits + 1)) (hle : x % 2 ^ f.magBits ≤ f.maxFin + 1) :
    Fl.place f rm false (Fl.ofBits f x) = x := by
  have hself := encOf_self hx
  by_cases hfin : x % 2 ^ f.magBits ≤ f.maxFin
  · obtain ⟨m, e, hbits, hval⟩ := ofBits_finite hf hfin
    have hr : (m : Rat) * 2 ^ e ≤ magVal f f.maxFin := hval ▸ (magVal_strictMono f).monotone hfin
    obtain ⟨n, hn, henc, hround⟩ := place_rounds hf rm false (x / 2 ^ f.magBits % 2 == 1) m e hr
    have hrep : Representable f (signOf (x / 2 ^ f.magBits % 2 == 1) * (m * 2 ^ e)) := ⟨x, ⟨hx, hfin⟩, by rw [ratOf_eq, hval]⟩
    have hsame := mul_left_cancel₀ (signOf_ne_zero _) (roundsIn_self hrep hround)
    rw [hbits, henc, (magVal_strictMono f).injective (hsame.trans hval.symm)]
    exact hself
  · have hmag : x % 2 ^ f.magBits = f.maxFin + 1 := by omega
    have hbits : Fl.ofBits f x = .inf (x / 2 ^ f.magBits % 2 == 1) := if_pos (by rw [hf.inf, hmag])
    rw [hbits, ← hself, hmag]
    show Fl.infBits f false _ = _
    unfold Fl.infBits
    rw [hf.inf, ← hmag, hself]
    exact hself

theorem ofBits_nan {f : Fmt} (hf : f.Ieee) {x : Nat} (h : f.maxFin + 1 < x % 2 ^ f.magBits) : Fl.ofBits f x = .nan := by
  have hinf : f.inf ≠ some (x % 2 ^ f.magBits) := by rw [hf.inf]; intro h; have := Option.some.inj h; omega
  unfold Fl.ofBits
  simp only [if_neg hinf]
  exact if_pos (by omega)

/-! ### The types FP32, bfloat16 and FP16 -/

/-- FLT of R117. -/
def IsFlt (t : Ty) : Prop := t = .f32 ∨ t = .bf16 ∨ t = .f16

theorem IsFlt.ieee {t : Ty} (h : IsFlt t) : (Ty.fmt t).Ieee := by
  rcases h with rfl | rfl | rfl
  · exact ieee_f32
  · exact ieee_bf16
  · exact ieee_f16

theorem IsFlt.notInt {t : Ty} (h : IsFlt t) : t.isInt = false := by rcases h with rfl | rfl | rfl <;> rfl

theorem IsFlt.width {t : Ty} (h : IsFlt t) : (Ty.fmt t).magBits + 1 = t.width ∧ t.width ≤ 64 := by
  rcases h with rfl | rfl | rfl <;> decide

/-- A type of which some bits are a NaN is one of these. -/
theorem isFlt_of_nan {t : Ty} {x : DWord} (h : isNanBits t x) : IsFlt t := by
  cases t with
  | f32 => exact .inl rfl
  | bf16 => exact .inr (.inl rfl)
  | f16 => exact .inr (.inr rfl)
  | _ => exact h.elim

/-- NaNs are the bits above the infinity (R70). -/
theorem isNanBits_iff {t : Ty} (h : IsFlt t) (x : DWord) :
    isNanBits t x ↔ (Ty.fmt t).maxFin + 1 < fltBits t x % 2 ^ (Ty.fmt t).magBits := by
  rcases h with rfl | rfl | rfl
  · show _ ↔ 0x7F7FFFFF + 1 < x.toNat % 2 ^ 32 % 2 ^ 31
    unfold isNanBits; omega
  · show _ ↔ 0x7F7F + 1 < x.toNat % 2 ^ 16 % 2 ^ 15
    unfold isNanBits; omega
  · show _ ↔ 0x7BFF + 1 < x.toNat % 2 ^ 16 % 2 ^ 15
    unfold isNanBits; omega

theorem flt_nan {t : Ty} {x : DWord} (h : isNanBits t x) : Alu.flt t x = .nan :=
  ofBits_nan (isFlt_of_nan h).ieee ((isNanBits_iff (isFlt_of_nan h) x).mp h)

theorem flt_hasVal {t : Ty} (ht : IsFlt t) {x : DWord} (hx : FinVal t x) : HasVal (Alu.flt t x) (valOf t x) := hasVal_ofBits ht.ieee hx

theorem putFlt_toNat {t : Ty} (ht : IsFlt t) {rm : Rm} {sat : Bool} {x : Fl} (h : Fl.place (Ty.fmt t) rm sat x < 2 ^ ((Ty.fmt t).magBits + 1)) :
    (Alu.putFlt t rm sat x).toNat = Fl.place (Ty.fmt t) rm sat x := by
  obtain ⟨hw, h64⟩ := ht.width
  rw [Alu.putFlt, BitVec.toNat_ofNat, Nat.mod_eq_of_lt]
  exact h.trans_le (Nat.pow_le_pow_right (by decide) (hw ▸ h64))

/-- An exact value that does not overflow is rounded once. -/
theorem putFlt_rounds {t : Ty} (ht : IsFlt t) (rm : Rm) (sat : Bool) {x : Fl} {v : Rat} (hx : HasVal x v) (hr : InRange (Ty.fmt t) v) :
    RoundsTo (Ty.fmt t) rm v (Alu.putFlt t rm sat x).toNat := by
  have h := place_hasVal ht.ieee rm sat hx hr
  obtain ⟨⟨hlt, -⟩, -⟩ := id h
  rwa [putFlt_toNat ht hlt]

/-- A value of the format is written as it is. -/
theorem putFlt_exact {t : Ty} (ht : IsFlt t) (rm : Rm) (sat : Bool) {x : Fl} {v : Rat} (hx : HasVal x v) (hv : Representable (Ty.fmt t) v) :
    FinBits (Ty.fmt t) (Alu.putFlt t rm sat x).toNat ∧ ratOf (Ty.fmt t) (Alu.putFlt t rm sat x).toNat = v := by
  have hr : InRange (Ty.fmt t) v := by
    obtain ⟨y, hy, rfl⟩ := hv
    exact inRange_ratOf ht.ieee hy
  obtain ⟨hfin, hround⟩ := putFlt_rounds ht rm sat hx hr
  exact ⟨hfin, roundsIn_self hv hround⟩

/-- Bits that are no NaN come back from their value. -/
theorem putFlt_flt {t : Ty} (ht : IsFlt t) (rm : Rm) {x : DWord} (hx : ¬isNanBits t x) :
    (Alu.putFlt t rm false (Alu.flt t x)).toNat = fltBits t x := by
  have hlt : fltBits t x < 2 ^ ((Ty.fmt t).magBits + 1) := by
    rw [ht.width.1]
    exact Nat.mod_lt _ (by positivity)
  have hplace := place_ofBits ht.ieee rm hlt (Nat.not_lt.mp fun h => hx ((isNanBits_iff ht x).mpr h))
  rw [putFlt_toNat ht (by rw [Alu.flt, ← fltBits, hplace]; exact hlt)]
  exact hplace

/-- The canonical NaN of a type (R72). -/
def canonNan (t : Ty) : DWord := BitVec.ofNat 64 (Fl.nanBits (Ty.fmt t))

theorem putFlt_nan (t : Ty) (rm : Rm) (sat : Bool) : Alu.putFlt t rm sat .nan = canonNan t := rfl

/-! ### The operations by their exact values -/

section
variable {m : Alu.Mode} (ht : IsFlt m.ty)
include ht

theorem add_flt (a b : DWord) : Alu.add m a b = Alu.putFlt m.ty m.rm m.sat (Fl.add m.rm (Alu.flt m.ty a) (Alu.flt m.ty b)) :=
  if_neg (by simp [ht.notInt])
theorem sub_flt (a b : DWord) : Alu.sub m a b = Alu.putFlt m.ty m.rm m.sat (Fl.add m.rm (Alu.flt m.ty a) (Alu.flt m.ty b).negate) :=
  if_neg (by simp [ht.notInt])
theorem mul_flt (a b : DWord) : Alu.mul m a b = Alu.putFlt m.ty m.rm m.sat (Fl.mul (Alu.flt m.ty a) (Alu.flt m.ty b)) :=
  if_neg (by simp [ht.notInt])
theorem mad_flt (a b c : DWord) : Alu.mad m a b c
    = Alu.putFlt m.ty m.rm m.sat (Fl.add m.rm (Fl.mul (Alu.flt m.ty a) (Alu.flt m.ty b)) (Alu.flt m.ty c)) :=
  if_neg (by simp [ht.notInt])
theorem min_flt (a b : DWord) : Alu.min m a b = Alu.putFlt m.ty .rne false (Fl.minOf (Alu.flt m.ty a) (Alu.flt m.ty b)) :=
  if_neg (by simp [ht.notInt])
theorem max_flt (a b : DWord) : Alu.max m a b = Alu.putFlt m.ty .rne false (Fl.maxOf (Alu.flt m.ty a) (Alu.flt m.ty b)) :=
  if_neg (by simp [ht.notInt])
theorem abs_flt (a : DWord) : Alu.abs m a
    = Alu.putFlt m.ty .rne false (if (Alu.flt m.ty a).sign then (Alu.flt m.ty a).negate else Alu.flt m.ty a) :=
  if_neg (by simp [ht.notInt])
theorem neg_flt (a : DWord) : Alu.neg m a = Alu.putFlt m.ty .rne false (Alu.flt m.ty a).negate := if_neg (by simp [ht.notInt])

/-! #### Finite operands -/

theorem add_rounds {a b : DWord} (ha : FinVal m.ty a) (hb : FinVal m.ty b) (hr : InRange (Ty.fmt m.ty) (valOf m.ty a + valOf m.ty b)) :
    RoundsTo (Ty.fmt m.ty) m.rm (valOf m.ty a + valOf m.ty b) (Alu.add m a b).toNat := by
  rw [add_flt ht]
  exact putFlt_rounds ht m.rm m.sat (hasVal_add m.rm (flt_hasVal ht ha) (flt_hasVal ht hb)) hr

theorem sub_rounds {a b : DWord} (ha : FinVal m.ty a) (hb : FinVal m.ty b) (hr : InRange (Ty.fmt m.ty) (valOf m.ty a - valOf m.ty b)) :
    RoundsTo (Ty.fmt m.ty) m.rm (valOf m.ty a - valOf m.ty b) (Alu.sub m a b).toNat := by
  rw [sub_eq_add_neg] at hr ⊢
  rw [sub_flt ht]
  exact putFlt_rounds ht m.rm m.sat (hasVal_add m.rm (flt_hasVal ht ha) (hasVal_negate (flt_hasVal ht hb))) hr

theorem mul_rounds {a b : DWord} (ha : FinVal m.ty a) (hb : FinVal m.ty b) (hr : InRange (Ty.fmt m.ty) (valOf m.ty a * valOf m.ty b)) :
    RoundsTo (Ty.fmt m.ty) m.rm (valOf m.ty a * valOf m.ty b) (Alu.mul m a b).toNat := by
  rw [mul_flt ht]
  exact putFlt_rounds ht m.rm m.sat (hasVal_mul (flt_hasVal ht ha) (flt_hasVal ht hb)) hr

theorem mad_rounds {a b c : DWord} (ha : FinVal m.ty a) (hb : FinVal m.ty b) (hc : FinVal m.ty c)
    (hr : InRange (Ty.fmt m.ty) (valOf m.ty a * valOf m.ty b + valOf m.ty c)) :
    RoundsTo (Ty.fmt m.ty) m.rm (valOf m.ty a * valOf m.ty b + valOf m.ty c) (Alu.mad m a b c).toNat := by
  rw [mad_flt ht]
  exact putFlt_rounds ht m.rm m.sat (hasVal_add m.rm (hasVal_mul (flt_hasVal ht ha) (flt_hasVal ht hb)) (flt_hasVal ht hc)) hr

theorem min_exact {a b : DWord} (ha : FinVal m.ty a) (hb : FinVal m.ty b) :
    FinBits (Ty.fmt m.ty) (Alu.min m a b).toNat ∧ ratOf (Ty.fmt m.ty) (Alu.min m a b).toNat = min (valOf m.ty a) (valOf m.ty b) := by
  rw [min_flt ht]
  refine putFlt_exact ht .rne false (hasVal_minOf (flt_hasVal ht ha) (flt_hasVal ht hb)) ?_
  rcases min_choice (valOf m.ty a) (valOf m.ty b) with h | h <;> rw [h]
  · exact ⟨_, ha, rfl⟩
  · exact ⟨_, hb, rfl⟩

theorem max_exact {a b : DWord} (ha : FinVal m.ty a) (hb : FinVal m.ty b) :
    FinBits (Ty.fmt m.ty) (Alu.max m a b).toNat ∧ ratOf (Ty.fmt m.ty) (Alu.max m a b).toNat = max (valOf m.ty a) (valOf m.ty b) := by
  rw [max_flt ht]
  refine putFlt_exact ht .rne false (hasVal_maxOf (flt_hasVal ht ha) (flt_hasVal ht hb)) ?_
  rcases max_choice (valOf m.ty a) (valOf m.ty b) with h | h <;> rw [h]
  · exact ⟨_, ha, rfl⟩
  · exact ⟨_, hb, rfl⟩

theorem abs_exact {a : DWord} (ha : FinVal m.ty a) :
    FinBits (Ty.fmt m.ty) (Alu.abs m a).toNat ∧ ratOf (Ty.fmt m.ty) (Alu.abs m a).toNat = |valOf m.ty a| := by
  rw [abs_flt ht]
  refine putFlt_exact ht .rne false (hasVal_abs (flt_hasVal ht ha)) ?_
  rcases abs_choice (valOf m.ty a) with h | h <;> rw [h]
  · exact ⟨_, ha, rfl⟩
  · exact representable_neg ht.ieee _ ⟨_, ha, rfl⟩

theorem neg_exact {a : DWord} (ha : FinVal m.ty a) :
    FinBits (Ty.fmt m.ty) (Alu.neg m a).toNat ∧ ratOf (Ty.fmt m.ty) (Alu.neg m a).toNat = -valOf m.ty a := by
  rw [neg_flt ht]
  exact putFlt_exact ht .rne false (hasVal_negate (flt_hasVal ht ha)) (representable_neg ht.ieee _ ⟨_, ha, rfl⟩)

/-! #### NaNs -/

/-- MIN and MAX of one NaN and another operand are that operand (R83). -/
theorem min_max_one_nan {a b : DWord} (ha : isNanBits m.ty a) (hb : ¬isNanBits m.ty b) :
    ((Alu.min m a b).toNat = fltBits m.ty b ∧ (Alu.min m b a).toNat = fltBits m.ty b)
      ∧ (Alu.max m a b).toNat = fltBits m.ty b ∧ (Alu.max m b a).toNat = fltBits m.ty b := by
  simp only [min_flt ht, max_flt ht, flt_nan ha, Fl.minOf_nan, Fl.nan_minOf, Fl.maxOf_nan, Fl.nan_maxOf, putFlt_flt ht .rne hb, and_self]

/-- Arithmetic on a NaN gives the canonical one (R82). -/
theorem arith_nan {a b : DWord} (c : DWord) (h : isNanBits m.ty a ∨ isNanBits m.ty b) :
    Alu.add m a b = canonNan m.ty ∧ Alu.sub m a b = canonNan m.ty ∧ Alu.mul m a b = canonNan m.ty
      ∧ Alu.mad m a b c = canonNan m.ty ∧ Alu.div m a b = canonNan m.ty := by
  rcases h with h | h <;>
    simp only [add_flt ht, sub_flt ht, mul_flt ht, mad_flt ht, Alu.div, flt_nan h, Fl.negate, Fl.add_nan, Fl.nan_add, Fl.mul_nan, Fl.nan_mul,
      Fl.div_nan, Fl.nan_div, putFlt_nan, and_self]

theorem mad_nan (a b : DWord) {c : DWord} (h : isNanBits m.ty c) : Alu.mad m a b c = canonNan m.ty := by
  rw [mad_flt ht, flt_nan h, Fl.add_nan, putFlt_nan]

theorem abs_neg_nan {a : DWord} (h : isNanBits m.ty a) : Alu.abs m a = canonNan m.ty ∧ Alu.neg m a = canonNan m.ty := by
  rw [abs_flt ht, neg_flt ht, flt_nan h]
  exact ⟨rfl, rfl⟩

theorem min_max_nan {a b : DWord} (ha : isNanBits m.ty a) (hb : isNanBits m.ty b) :
    Alu.min m a b = canonNan m.ty ∧ Alu.max m a b = canonNan m.ty := by
  rw [min_flt ht, max_flt ht, flt_nan ha, flt_nan hb]
  exact ⟨rfl, rfl⟩

end

/-- A product of zero and infinity is a NaN, whatever the addend (R83). -/
theorem zero_times_inf {m : Alu.Mode} (h : m.ty = .f32) (c : DWord) :
    Alu.mad m 0 0x7F800000 c = canonNan .f32 ∧ Alu.mul m 0x7F800000 0 = canonNan .f32 := by
  have ht : IsFlt m.ty := .inl h
  have hab : Fl.mul (Alu.flt .f32 0) (Alu.flt .f32 0x7F800000) = .nan := by decide
  have hba : Fl.mul (Alu.flt .f32 0x7F800000) (Alu.flt .f32 0) = .nan := by decide
  rw [mad_flt ht, mul_flt ht, h, hab, hba, Fl.nan_add, putFlt_nan]
  exact ⟨rfl, rfl⟩

end Sys2Proof.Machine

open Sys2Proof.Machine Sys2Proof.Claims in
/-- Settles O4: place() takes the neighbour of the exact value that the mode names, and a value of the format as it is; NaNs come first in
every operation. -/
theorem floatArithmetic : Obligations.FloatArithmetic := by
  unfold Obligations.FloatArithmetic
  refine ⟨fun f a b c ht ha hb => ?_, fun f a b ha hb op hop => ?_, fun f a b c x hx => ?_⟩
  · have ht' : IsFlt (modeRRR f).ty := ht
    exact ⟨add_rounds ht' ha hb, sub_rounds ht' ha hb, mul_rounds ht' ha hb,
      fun hc => ⟨mad_rounds ht' ha hb hc, mad_rounds ht' ha hb hc⟩,
      min_exact ht' ha hb, max_exact ht' ha hb, abs_exact ht' ha, neg_exact ht' ha⟩
  · obtain ⟨hmin, hmax⟩ := min_max_one_nan (m := modeRRR f) (isFlt_of_nan ha) ha hb
    rcases hop with rfl | rfl
    · exact hmin
    · exact hmax
  · have hcanon : IsFlt f.ty ∧ x = canonNan f.ty := by
      rcases hx with ⟨h, rfl⟩ | ⟨h, rfl⟩ | ⟨h, rfl⟩ <;> rw [h] <;> exact ⟨by simp [IsFlt], rfl⟩
    obtain ⟨ht, rfl⟩ := hcanon
    have ht' : IsFlt (modeRRR f).ty := ht
    refine ⟨fun h => ?_, fun h => ⟨mad_nan ht' a b h, mad_nan ht' a b h⟩, fun h => ?_, fun h => ?_⟩
    · obtain ⟨hadd, hsub, hmul, hmad, hdiv⟩ := arith_nan (m := modeRRR f) ht' c h
      exact ⟨hadd, hsub, hmul, hmad, hmad, hdiv⟩
    · obtain ⟨habs, hneg⟩ := abs_neg_nan (m := modeRRR f) ht' h
      exact ⟨habs, hneg, min_max_nan ht' h⟩
    · rw [h]
      exact zero_times_inf (m := modeRRR f) h c
end

section
/-! # What the memory system leaves of join registers and bank vector commands (R14, R104, R165, R261) -/
namespace Sys2Proof.Machine

/-- The join registers of the system cores and the bank vector commands: no access of a core reaches them. Each lemma is about one function of
the model, in the order of the model's definitions, as those about `State.outer` are. -/
def State.apart (s : State) : List (Nat × Join) × List BankCmd := (s.sys.joins, s.ms.bank)

@[simp] theorem ite_apart (c : Prop) [Decidable c] (s t : State) :
    (if c then s else t).apart = if c then s.apart else t.apart := apply_ite State.apart c s t

/-- A fold of actions that leave this part alone leaves it alone. -/
@[simp] theorem foldl_apart {α : Type} {f : State → α → State} (hf : ∀ s a, (f s a).apart = s.apart) (l : List α) (s : State) :
    (l.foldl f s).apart = s.apart := by
  induction l generalizing s with
  | nil => rfl
  | cons a l ih => exact (ih _).trans (hf s a)

/-- The same of actions that also carry a result. -/
theorem foldl_fst_apart {α β : Type} {f : State × β → α → State × β} (hf : ∀ r a, (f r a).1.apart = r.1.apart)
    (l : List α) (r : State × β) : (l.foldl f r).1.apart = r.1.apart := by
  induction l generalizing r with
  | nil => rfl
  | cons a l ih => exact (ih _).trans (hf r a)

/-! ### Plain updates -/

@[simp] theorem setMem_apart (s : State) (m : Memory) : (s.setMem m).apart = s.apart := by rfl
@[simp] theorem setCopies_apart (s : State) (l : List Copy) : (s.setCopies l).apart = s.apart := by rfl
@[simp] theorem setParks_apart (s : State) (l : List ParkRec) : (s.setParks l).apart = s.apart := by rfl
@[simp] theorem setCells_apart (s : State) (l : List TCell) : (s.setCells l).apart = s.apart := by rfl
@[simp] theorem setCurd_apart (s : State) (l : List CurdWord) : (s.setCurd l).apart = s.apart := by rfl
@[simp] theorem setCsr_apart (s : State) (k : Nat) (v : DWord) : (s.setCsr k v).apart = s.apart := by rfl
@[simp] theorem send_apart (s : State) (i : Instr) : (s.send i).apart = s.apart := by rfl
@[simp] theorem count_apart (s : State) (k : Nat) : (s.count k).apart = s.apart := by rfl
@[simp] theorem stamp_apart (s : State) (line : Nat) : (s.stamp line).apart = s.apart := by rfl
theorem setEvents_apart (s : State) (l : List (List Byte)) (n : Nat) :
    ({ s with sys := { s.sys with events := l, logged := n } } : State).apart = s.apart := by rfl
@[simp] theorem logEvent_apart (s : State) (kind unit : Nat) : (s.logEvent kind unit).apart = s.apart := setEvents_apart s _ _
@[simp] theorem dropCopies_apart (s : State) (line : Nat) (f : Copy → Bool) : (s.dropCopies line f).apart = s.apart := by rfl
@[simp] theorem observe_apart (s : State) (a n : Nat) (who : Option LaneName) : (s.observe a n who).apart = s.apart := by rfl
@[simp] theorem unpark_apart (s : State) (line : Nat) : (s.unpark line).apart = s.apart := by rfl
@[simp] theorem lateAt_apart (s : State) (x : Ret) (lane cause : Nat) (info : DWord) :
    (s.lateAt x lane cause info).apart = s.apart := by rfl
@[simp] theorem dropOwn_apart (s : State) (core line : Nat) : (s.dropOwn core line).apart = s.apart := by rfl
@[simp] theorem landMove_apart (s : State) (line : Nat) : (s.landMove line).apart = s.apart := by rfl
@[simp] theorem dropStale_apart (s : State) (core line : Nat) (bs : List StoreByte) :
    (s.dropStale core line bs).apart = s.apart := by rfl
@[simp] theorem parkInvalidate_apart (s : State) (line : Nat) (writer : Option Nat) (readers : BitVec 384) (site : Site) :
    (s.parkInvalidate line writer readers site).apart = s.apart := by rfl
/-! ### Home -/

@[simp] theorem logError_apart (s : State) (line kind : Nat) : (s.logError line kind).apart = s.apart := by
  simp [State.logError]

@[simp] theorem evalMonitors_apart (s : State) (line : Nat) : (s.evalMonitors line).apart = s.apart := by
  simp [State.evalMonitors]

@[simp] theorem putHome_apart (s : State) (line : Nat) (bs : List StoreByte) : (s.putHome line bs).apart = s.apart := by
  simp [State.putHome]

@[simp] theorem writeHome_apart (s : State) (line : Nat) (bs : List StoreByte) : (s.writeHome line bs).apart = s.apart := by
  simp [State.writeHome]

@[simp] theorem recall_apart (s : State) (line : Nat) : (s.recall line).apart = s.apart := by
  unfold State.recall
  split <;> simp

@[simp] theorem commitCells_apart (s : State) (f : TCell → Bool) : (s.commitCells f).apart = s.apart := by
  unfold State.commitCells
  rw [foldl_apart] <;> simp

@[simp] theorem writeBack_apart (s : State) (c : Copy) : (s.writeBack c).apart = s.apart := by simp [State.writeBack]

@[simp] theorem l2WriteBack_apart (s : State) (line : Nat) : (s.l2WriteBack line).apart = s.apart := by
  simp [State.l2WriteBack]

theorem makeRoom_apart {s t : State} {site : Site} {line : Nat} (h : s.makeRoom site line = some t) : t.apart = s.apart := by
  unfold State.makeRoom at h
  dsimp only at h
  split at h
  · cases h; rfl
  · split at h
    · cases h
    · next v _ => cases h; exact writeBack_apart s v

@[simp] theorem putCopy_apart (s : State) (c : Copy) : (s.putCopy c).apart = s.apart := by
  unfold State.putCopy
  split
  · rfl
  · split
    · rfl
    · next hr => rw [setCopies_apart, makeRoom_apart hr]

@[simp] theorem ack_apart (s : State) (r : Option Ret) (tags : List (Nat × BitVec 16)) : (s.ack r tags).apart = s.apart := by
  unfold State.ack
  split
  · rfl
  · split <;> rfl

@[simp] theorem passCopies_apart (s : State) (ag : Agent) (line : Nat) (bs : List StoreByte) :
    (s.passCopies ag line bs).apart = s.apart := by
  unfold State.passCopies
  split <;> rfl

@[simp] theorem perform1_apart (s : State) (w : WritePkt) (bs : List StoreByte) (last : Bool) :
    (s.perform1 w bs last).1.apart = s.apart := by
  unfold State.perform1
  extract_lets home
  have hh : ∀ t : State, (home t).1.apart = t.apart := fun t => by
    unfold home
    split <;> simp
  split
  · simp
  · simp [hh]
  · dsimp only
    split
    · simp [hh]
    · split
      · simp
      · split
        · exact hh s
        · split
          · simp [hh]
          · split
            · exact hh s
            · next hr => rw [setCopies_apart, makeRoom_apart hr]

@[simp] theorem redWord_apart (s : State) (r : FlushedRed) (w : RedWord) : (s.redWord r w).apart = s.apart := by
  unfold State.redWord
  split <;> simp

@[simp] theorem redWords_apart (s : State) (r : FlushedRed) : (s.redWords r).1.apart = s.apart :=
  foldl_fst_apart (fun x w => redWord_apart x.1 r w) r.words (s, [])

/-! ### Parking -/

@[simp] theorem decline_apart (s : State) (r : ParkRec) : (s.decline r).apart = s.apart := by simp [State.decline]

@[simp] theorem parkHere_apart (s : State) (r : ParkRec) : (s.parkHere r).apart = s.apart := by
  unfold State.parkHere
  rw [setParks_apart]
  split
  · next hr => rw [makeRoom_apart hr]; simp
  · simp

@[simp] theorem pin_apart (fuel : Nat) (s : State) (r : ParkRec) : (State.pin fuel s r).apart = s.apart := by
  induction fuel generalizing s r with
  | zero => exact decline_apart s r
  | succ fuel ih =>
    unfold State.pin
    extract_lets spill s1
    have hspill : ∀ t v, (spill t v).apart = t.apart := fun t v => by
      unfold spill; rw [count_apart]; exact ih ..
    have h1 : s1.apart = s.apart := by
      unfold s1
      split
      · split
        · exact hspill ..
        · rfl
      · rfl
    split
    · simp [h1]
    · next s2 _ =>
      have h2 : s2.apart = s.apart := h1
      split
      · simp [h2]
      · split
        · simp [ih, h2]
        · simp [hspill, h2]

@[simp] theorem parkLine_apart (s : State) (line : Nat) (writer : Option Nat) (lid : Nat) (readers : BitVec 384)
    (kind : PageKind) (d : BitVec 1024) : (s.parkLine line writer lid readers kind d).apart = s.apart := by
  simp [State.parkLine]

@[simp] theorem setParkData_apart (s : State) (r : ParkRec) (d : BitVec 1024) : (s.setParkData r d).apart = s.apart := by
  simp [State.setParkData]

@[simp] theorem parkBytes_apart (s : State) (n : ParkNote) (bs : List StoreByte) : (s.parkBytes n bs).apart = s.apart := by
  simp only [State.parkBytes]
  split <;> simp

@[simp] theorem landBack_apart (s : State) (line : Nat) : (s.landBack line).apart = s.apart := by
  unfold State.landBack
  split <;> simp

/-! ### What home accepts -/

@[simp] theorem finishWrite_apart (s : State) (w : WritePkt) : (s.finishWrite w).apart = s.apart := by
  unfold State.finishWrite
  split <;> simp

@[simp] theorem restBytes_apart (s : State) (n : ParkNote) (bs : List StoreByte) : (s.restBytes n bs).apart = s.apart := by
  unfold State.restBytes
  split <;> simp

@[simp] theorem finishNote_apart (s : State) (n : ParkNote) (first : Bool) : (s.finishNote n first).apart = s.apart := by
  simp [State.finishNote]

@[simp] theorem wholeLine_apart (s : State) (line : Nat) : (s.wholeLine line).apart = s.apart := by
  unfold State.wholeLine
  split
  · rfl
  · dsimp only
    split
    · rw [finishWrite_apart]; rfl
    · split
      · rw [finishNote_apart]; rfl
      all_goals rfl
    · rfl

@[simp] theorem acceptWrite_apart (s : State) (w : WritePkt) : (s.acceptWrite w).apart = s.apart := by
  simp [State.acceptWrite]

@[simp] theorem acceptNote_apart (s : State) (n : ParkNote) : (s.acceptNote n).apart = s.apart := by
  unfold State.acceptNote
  split <;> simp

@[simp] theorem acceptRed_apart (s : State) (r : FlushedRed) : (s.acceptRed r).apart = s.apart := by
  unfold State.acceptRed
  extract_lets s0 s1
  have h1 : s1.apart = s.apart := by
    unfold s1 s0
    split <;> simp
  split
  · next s2 _ _ =>
    have h2 : s2.apart = s.apart := (logError_apart ..).trans h1
    split <;> simp [h2]
  · next q _ =>
    have hq : q.1.apart = s.apart := (redWords_apart ..).trans ((commitCells_apart ..).trans h1)
    simp [hq]

@[simp] theorem accept1_apart (s : State) (a : Instr) : (s.accept1 a).apart = s.apart := by
  unfold State.accept1
  split <;> simp

/-! ### What one core has in flight -/

@[simp] theorem drainGo_apart (fuel : Nat) (s : State) (f : Nat → Nat → Nat → Bool) :
    (State.drainGo fuel s f).apart = s.apart := by
  induction fuel generalizing s with
  | zero => rfl
  | succ fuel ih =>
    unfold State.drainGo
    split
    · rfl
    · split
      · rfl
      · rw [ih, accept1_apart]; rfl

@[simp] theorem drain_apart (s : State) (f : Nat → Nat → Nat → Bool) : (s.drain f).apart = s.apart := drainGo_apart ..

@[simp] theorem drainLine_apart (s : State) (key line : Nat) : (s.drainLine key line).apart = s.apart := drain_apart ..

@[simp] theorem flushWord_apart (s : State) (w : CurdWord) : (s.flushWord w).apart = s.apart := by simp [State.flushWord]

@[simp] theorem flushCurd_apart (s : State) (f : CurdWord → Bool) : (s.flushCurd f).apart = s.apart := by
  simp [State.flushCurd]

@[simp] theorem release_apart (s : State) (key : Nat) : (s.release key).apart = s.apart := by simp [State.release]

end Sys2Proof.Machine
end

section
/-! # Frames of control words (R43, R97, R101, R111)

What operations on the lanes of one group leave of the machine, and what an action made in each lane of a set does to the lanes. -/
namespace Sys2Proof.Machine
open Sys2Proof.Claims

/-! ### Memory and machine -/

theorem sameMemory_refl (s : State) : SameMemory s s := ⟨rfl, rfl⟩
theorem sameMemory_trans {a b c : State} (h : SameMemory a b) (k : SameMemory b c) : SameMemory a c :=
  ⟨k.1.trans h.1, k.2.trans h.2⟩
theorem sameMemory_of_eq {s t : State} (hm : t.mem = s.mem) (hs : t.ms = s.ms) : SameMemory s t :=
  ⟨hm, by unfold heldPart; rw [hs]⟩

theorem sameMachine_refl (s : State) : SameMachine s s := ⟨rfl, rfl, rfl, rfl, rfl, rfl, rfl⟩
theorem sameMachine_trans {a b c : State} (h : SameMachine a b) (k : SameMachine b c) : SameMachine a c := by
  obtain ⟨h1, h2, h3, h4, h5, h6, h7⟩ := h
  obtain ⟨k1, k2, k3, k4, k5, k6, k7⟩ := k
  exact ⟨k1.trans h1, k2.trans h2, k3.trans h3, k4.trans h4, k5.trans h5, k6.trans h6, k7.trans h7⟩

theorem start_sameMemory (s : State) (cx : Cx) (c : Ctl) : SameMemory s (s.start cx c) :=
  sameMemory_of_eq (start_mem ..) (start_ms ..)
theorem start_sameMachine (s : State) (cx : Cx) (c : Ctl) : SameMachine s (s.start cx c) :=
  ⟨start_after .., start_blocks .., start_launches .., start_sched .., start_eng .., start_fab .., start_sys ..⟩
theorem start_otherGroups (s : State) (cx : Cx) (c : Ctl) : OtherGroups cx.gid s (s.start cx c) :=
  fun k hk => start_group_other s cx c k hk
theorem start_sameRegs (s : State) (cx : Cx) (c : Ctl) : SameRegs cx.gid s (s.start cx c) :=
  ⟨start_vReg s cx c, start_pReg s cx c, start_readG s cx c, fun l => by rw [start_lane]; split <;> exact ⟨rfl, rfl, rfl, rfl⟩⟩

theorem start_passed {s : State} {cx : Cx} (h : LanesExist s cx) (c : Ctl) : Passed (s.start cx c) cx := fun l hl => by
  rw [start_lane, if_pos ⟨hl, h l hl⟩]; exact ⟨rfl, rfl, rfl⟩

theorem start_park (s : State) (cx : Cx) (c : Ctl) (l : Nat) : ((s.start cx c).lane cx.gid l).park = (s.lane cx.gid l).park := by
  rw [start_lane]; split <;> rfl
theorem start_stack (s : State) (cx : Cx) (c : Ctl) (l : Nat) : ((s.start cx c).lane cx.gid l).stack = (s.lane cx.gid l).stack := by
  rw [start_lane]; split <;> rfl

theorem start_join (s : State) (cx : Cx) (c : Ctl) (b : BlockRef) (j : Nat) : (s.start cx c).join b j = s.join b j := by
  unfold State.join State.block; rw [start_blocks, start_sys]

/-- What the start of a word leaves of its group: all but its lanes and its hold. -/
theorem start_base (s : State) (cx : Cx) (c : Ctl) : { (s.start cx c).group cx.gid with lanes := [], hold := false }
    = { s.group cx.gid with lanes := [], hold := false } := by
  obtain ⟨_, _, h, -⟩ := start_group s cx c; rw [h]

theorem start_blk (s : State) (cx : Cx) (c : Ctl) (k : Nat) : ((s.start cx c).group k).blk = (s.group k).blk := by
  by_cases h : k = cx.gid
  · subst h; exact (congrArg Group.blk (start_base s cx c) :)
  · rw [start_group_other s cx c k h]

theorem start_m (s : State) (cx : Cx) (c : Ctl) : ((s.start cx c).group cx.gid).m = (s.group cx.gid).m :=
  (congrArg Group.m (start_base s cx c) :)

/-! ### Groups and lanes that an operation does not reach -/

theorem group_of_groups {s t : State} (h : t.groups = s.groups) (k : Nat) : t.group k = s.group k :=
  congrArg (fun l => Map.get Group.fresh l k) h
theorem lane_of_groups {s t : State} (h : t.groups = s.groups) (k l : Nat) : t.lane k l = s.lane k l :=
  congrArg (fun g => g.lane l) (group_of_groups h k)

theorem lane_modGroup_with (s : State) (gid k l : Nat) (f : Group → Group) (hf : ∀ g, (f g).lanes = g.lanes) :
    (s.modGroup gid f).lane k l = s.lane k l := by
  unfold State.lane; rw [group_modGroup]; split
  · next h => subst h; unfold Group.lane; rw [hf]
  · rfl

theorem lane_modLane_other (s : State) (gid l k j : Nat) (f : Lane → Lane) (h : k ≠ gid ∨ j ≠ l) :
    (s.modLane gid l f).lane k j = s.lane k j := by
  by_cases hk : k = gid
  · subst hk; rw [lane_modLane, if_neg fun h' => h.elim (· rfl) (· h'.1)]
  · unfold State.lane; rw [group_modLane, if_neg hk]

/-- A lane that its group does not have reads as a fresh one. -/
theorem lane_beyond {s : State} {k l : Nat} (h : (s.group k).lanes.length ≤ l) : s.lane k l = Lane.fresh := by
  unfold State.lane Group.lane; rw [List.getD_eq_getElem?_getD, List.getElem?_eq_none h]; rfl

theorem lane_exists_of_park {s : State} {k l n : Nat} (h : (s.lane k l).park = some n) : l < (s.group k).lanes.length := by
  by_contra hl
  rw [lane_beyond (Nat.le_of_not_lt hl)] at h
  simp [Lane.fresh] at h

/-- Actions in the lanes of a set, one after the other: each is made in its own lane as the state before all of them had it, and lanes
outside the set stand. `Q` is what the actions keep and need of the state. -/
theorem eachLane_lanes {gid : Nat} {Q : State → Prop} {R : Nat → Lane → Lane → Prop} {f : State → Nat → State}
    (hq : ∀ s l, Q s → Q (f s l)) (hlen : ∀ s l, ((f s l).group gid).lanes.length = (s.group gid).lanes.length)
    (hother : ∀ s l k, k ≠ l → (f s l).lane gid k = s.lane gid k)
    (hown : ∀ s l, Q s → l < (s.group gid).lanes.length → R l (s.lane gid l) ((f s l).lane gid l))
    (ls : List Nat) (hn : ls.Nodup) (s : State) (hs : Q s) :
    (∀ l ∈ ls, l < (s.group gid).lanes.length → R l (s.lane gid l) ((eachLane s ls f).lane gid l))
      ∧ ∀ k, k ∉ ls → (eachLane s ls f).lane gid k = s.lane gid k := by
  induction ls generalizing s with
  | nil => exact ⟨nofun, fun _ _ => rfl⟩
  | cons a ls ih =>
    obtain ⟨ha, hn'⟩ := List.nodup_cons.mp hn
    obtain ⟨hin, hout⟩ := ih hn' (f s a) (hq s a hs)
    rw [eachLane_cons]
    refine ⟨fun l hl hlt => ?_, fun k hk => ?_⟩
    · rcases List.mem_cons.mp hl with rfl | hl
      · rw [hout l ha]; exact hown s l hs hlt
      · have hne : l ≠ a := fun h => ha (h ▸ hl)
        have h := hin l hl (by rw [hlen]; exact hlt)
        rwa [hother s a l hne] at h
    · rw [hout k (fun h => hk (List.mem_cons_of_mem _ h)), hother s a k (fun h => hk (h ▸ List.mem_cons_self))]

/-! ### Operations on the lanes of one group -/

/-- Groups but for the lanes of one, and everything that accesses do not reach, stand. -/
structure LanesOnly (gid : Nat) (s t : State) : Prop where
  outer : { t.outer with groups := [] } = { s.outer with groups := [] }
  others : OtherGroups gid s t
  base : { t.group gid with lanes := [] } = { s.group gid with lanes := [] }
  len : (t.group gid).lanes.length = (s.group gid).lanes.length

theorem LanesOnly.refl (gid : Nat) (s : State) : LanesOnly gid s s := ⟨rfl, fun _ _ => rfl, rfl, rfl⟩
theorem LanesOnly.trans {gid : Nat} {a b c : State} (h : LanesOnly gid a b) (k : LanesOnly gid b c) : LanesOnly gid a c :=
  ⟨k.outer.trans h.outer, fun j hj => (k.others j hj).trans (h.others j hj), k.base.trans h.base, k.len.trans h.len⟩

theorem LanesOnly.eachLane {gid : Nat} {f : State → Nat → State} (h : ∀ s l, LanesOnly gid s (f s l)) (s : State) (ls : List Nat) :
    LanesOnly gid s (eachLane s ls f) :=
  eachLane_rel (.refl gid) (fun _ _ _ => .trans) h s ls

theorem lanesOnly_modLane (s : State) (gid l : Nat) (f : Lane → Lane) : LanesOnly gid s (s.modLane gid l f) :=
  ⟨rfl, fun k hk => by rw [group_modLane, if_neg hk], by rw [group_modLane_with], length_modLane ..⟩

theorem lanesOnly_of_outer {s t : State} (gid : Nat) (h : t.outer = s.outer) : LanesOnly gid s t := by
  have hg := group_of_groups (groups_of_outer h)
  exact ⟨by rw [h], fun k _ => hg k, by rw [hg], by rw [hg]⟩

section
variable {gid : Nat} {s t : State} (h : LanesOnly gid s t)
include h
theorem LanesOnly.blocks : t.blocks = s.blocks := (congrArg State.blocks h.outer :)
theorem LanesOnly.launches : t.launches = s.launches := (congrArg State.launches h.outer :)
theorem LanesOnly.clock : t.clock = s.clock := (congrArg State.clock h.outer :)
theorem LanesOnly.m : (t.group gid).m = (s.group gid).m := (congrArg Group.m h.base :)
theorem LanesOnly.hold : (t.group gid).hold = (s.group gid).hold := (congrArg Group.hold h.base :)
theorem LanesOnly.lid : (t.group gid).lid = (s.group gid).lid := (congrArg Group.lid h.base :)
theorem LanesOnly.part : (t.group gid).part = (s.group gid).part := (congrArg Group.part h.base :)
theorem LanesOnly.handlerOf : handlerOf t gid = handlerOf s gid := by
  unfold Claims.handlerOf State.launch; rw [h.launches, h.lid]
end

end Sys2Proof.Machine
end

section
/-! # The call stack in memory (R94, R430) -/
namespace Sys2Proof.Machine
open Sys2Proof.Claims

theorem engineWrite_outer (s : State) (ag : Agent) (kind : PageKind) (line : Nat) (bs : List StoreByte) :
    (s.engineWrite ag kind line bs).outer = s.outer := acceptWrite_outer ..

theorem pokeLines_outer (fuel : Nat) (s : State) (ag : Agent) (kind : PageKind) (a : Nat) (bs : List Byte) :
    (State.pokeLines fuel s ag kind a bs).outer = s.outer := by
  induction fuel generalizing s a bs with
  | zero => rfl
  | succ fuel ih =>
    unfold State.pokeLines
    split
    · rfl
    · exact (ih ..).trans (engineWrite_outer ..)

@[simp] theorem poke_outer (s : State) (ag : Agent) (kind : PageKind) (a : Nat) (bs : List Byte) :
    (s.poke ag kind a bs).outer = s.outer := pokeLines_outer ..

@[simp] theorem spillFrame_outer (s : State) (gid l depth : Nat) : (s.spillFrame gid l depth).outer = s.outer := by
  unfold State.spillFrame
  dsimp only
  split
  · next va f _ _ =>
    have hx := xlate_outer s (s.kernelWalker (keyOf gid) (s.group gid).part (some (quadOfGid gid))) va .write
    split <;> next he => rw [he] at hx; simpa using hx
  · rfl

theorem frameVa_none {s : State} {gid : Nat} (h : isSysGid gid = true ∨ (s.csr (stkKey (s.group gid).part)).getLsbD 0 = false)
    (l depth : Nat) : s.frameVa gid l depth = none := by
  unfold State.frameVa
  rcases h with h | h
  · simp [h]
  · rw [if_pos]; rw [h]; simp

theorem spillFrame_none {s : State} {gid l depth : Nat} (h : s.frameVa gid l depth = none) : s.spillFrame gid l depth = s := by
  unfold State.spillFrame; rw [h]

theorem fillFrame_none {s : State} {gid l depth : Nat} (h : s.frameVa gid l depth = none) : s.fillFrame gid l depth = s := by
  unfold State.fillFrame; rw [h]

/-- The sub-core's part of a push (R94). -/
def State.stackPush (s : State) (gid l : Nat) (f : Frame) : State := s.modLane gid l fun x => { x with stack := f :: x.stack }
/-- The sub-core's part of a pop (R94). -/
def State.stackPop (s : State) (gid l : Nat) : State := s.modLane gid l fun x => { x with stack := x.stack.drop 1 }

theorem pushFrame_eq (s : State) (gid l : Nat) (f : Frame) : s.pushFrame gid l f
    = if (s.lane gid l).stack.length < 4 then s.stackPush gid l f
      else (s.stackPush gid l f).spillFrame gid l ((s.lane gid l).stack.length - 4) := rfl

theorem pushFrame_outer (s : State) (gid l : Nat) (f : Frame) : (s.pushFrame gid l f).outer = (s.stackPush gid l f).outer := by
  rw [pushFrame_eq]; split
  · rfl
  · exact spillFrame_outer ..

theorem lanesOnly_pushFrame (s : State) (gid l : Nat) (f : Frame) : LanesOnly gid s (s.pushFrame gid l f) :=
  (lanesOnly_modLane s gid l _).trans (lanesOnly_of_outer gid (pushFrame_outer s gid l f))

/-- A lane after a push: what goes to memory changes no lane. -/
theorem lane_pushFrame (s : State) (gid l k : Nat) (f : Frame) : (s.pushFrame gid l f).lane gid k
    = if k = l ∧ l < (s.group gid).lanes.length then { s.lane gid l with stack := f :: (s.lane gid l).stack } else s.lane gid k := by
  rw [lane_of_groups (groups_of_outer (pushFrame_outer s gid l f))]
  exact lane_modLane s gid l k _

/-- A push that stays in the sub-core (R94, R430). -/
theorem pushFrame_onChip {s : State} {gid l : Nat} (h : (s.lane gid l).stack.length < 4 ∨ isSysGid gid = true
      ∨ (s.csr (stkKey (s.group gid).part)).getLsbD 0 = false) (f : Frame) : s.pushFrame gid l f = s.stackPush gid l f := by
  rw [pushFrame_eq]
  rcases h with h | h
  · rw [if_pos h]
  · split
    · rfl
    · have hp : ((s.stackPush gid l f).group gid).part = (s.group gid).part := (lanesOnly_modLane s gid l _).part
      exact spillFrame_none (frameVa_none (by rw [hp]; exact h) _ _)

theorem stacksOnChip_of_cons {s t : State} {gid a : Nat} {ls : List Nat} (h : StacksOnChip s gid (a :: ls))
    (hl : ∀ l ∈ ls, (t.lane gid l).stack = (s.lane gid l).stack) (hp : (t.group gid).part = (s.group gid).part)
    (hc : t.sys.csr = s.sys.csr) : StacksOnChip t gid ls := by
  rcases h with h | h
  · exact .inl fun l hm => by rw [hl l hm]; exact h l (List.mem_cons_of_mem _ hm)
  · refine .inr ?_
    rw [hp]; unfold State.csr; rw [hc]
    exact h

/-- Actions in the lanes of a set that leave memory alone where their own lane's stack is on the chip leave it alone together. -/
theorem sameMemory_eachLane {gid : Nat} {f : State → Nat → State}
    (hmem : ∀ s l, StacksOnChip s gid [l] → SameMemory s (f s l) ∧ (f s l).sys.csr = s.sys.csr)
    (hpart : ∀ s l, ((f s l).group gid).part = (s.group gid).part)
    (hother : ∀ s l k, k ≠ l → (f s l).lane gid k = s.lane gid k)
    (ls : List Nat) (hn : ls.Nodup) (s : State) (hs : StacksOnChip s gid ls) : SameMemory s (eachLane s ls f) := by
  induction ls generalizing s with
  | nil => exact sameMemory_refl s
  | cons a ls ih =>
    obtain ⟨ha, hn'⟩ := List.nodup_cons.mp hn
    have h1 : StacksOnChip s gid [a] := hs.imp_left fun h l hl => h l (by simp_all)
    obtain ⟨hm, hc⟩ := hmem s a h1
    refine sameMemory_trans hm (ih hn' _ (stacksOnChip_of_cons hs (fun l hl => ?_) (hpart s a) hc))
    rw [hother s a l fun h => ha (h ▸ hl)]

end Sys2Proof.Machine
end

section
/-! # Traps of lanes (R111) -/
namespace Sys2Proof.Machine
open Sys2Proof.Claims

/-- The traps of lanes are counted (R114) and their trap registers set (R96, R111). -/
def State.markTrap (s : State) (gid : Nat) (ls : List Nat) (t : TrapAt) : State :=
  eachLane (ls.foldl (fun s _ => s.count (cntTrap t.cause (keyOf gid))) s) ls fun s l => s.modLane gid l fun y => y.xregs t

/-- A lane enters its handler (R111). -/
def State.enterHandler (s : State) (gid : Nat) (t : TrapAt) (handler : DWord) (l : Nat) : State :=
  (s.pushFrame gid l t.frame).modLane gid l fun x => { x with pc := handler, pos := 0, left := 0, since := s.clock }

/-- Lanes whose trap cannot enter a handler: they stop, and their task or launch ends unless the launch is ending already (R111, R329, R346);
`s` is the state as the trap found it. -/
def State.stopLanes (s u : State) (gid : Nat) (ls : List Nat) (cause : Nat) (t : TrapAt) : State :=
  if u.isEnding (s.group gid).lid && !((s.group gid).serving && (s.group gid).task.isSome) then u.haltLanes gid ls t.pc
  else u.endByTrap gid ls cause t

/-- What a trap of lanes of a compute group does (R111). -/
theorem trap_eq {s : State} {gid : Nat} (hsys : (s.group gid).sys = false) {ls : List Nat} (hne : ls ≠ []) (t : TrapAt) :
    s.trap gid ls t = match ls.findSome? fun l => (s.lane gid l).noEntry with
      | some cause => s.stopLanes (s.markTrap gid ls t) gid ls cause t
      | none => if handlerOf s gid = 0 then s.stopLanes (s.markTrap gid ls t) gid ls t.cause t
        else eachLane (s.markTrap gid ls t) ls fun s' l => s'.enterHandler gid t (handlerOf s gid) l := by
  unfold State.trap State.trapLanes
  rw [List.foldl_map]
  have hc : ∃ x, ls.foldl (fun s (_ : Nat) => s.count (cntTrap t.cause (keyOf gid))) s = { s with sys := x } := by
    clear hne
    induction ls generalizing s with
    | nil => exact ⟨s.sys, rfl⟩
    | cons a ls ih => obtain ⟨x, hx⟩ := ih (s := s.count (cntTrap t.cause (keyOf gid))) hsys; exact ⟨x, hx⟩
  obtain ⟨l0, rest, rfl⟩ := List.exists_cons_of_ne_nil hne
  unfold State.markTrap
  obtain ⟨x, hx⟩ := hc
  dsimp only at hx ⊢
  rw [hx]
  simp only [List.map_cons, hsys, Bool.false_eq_true, if_false, List.map_map, Function.comp_def, List.map_id', List.foldl_cons,
    List.foldl_map]
  rfl

end Sys2Proof.Machine
end

section
/-! # Entry to a handler (R94, R111) -/
namespace Sys2Proof.Machine
open Sys2Proof.Claims

theorem countAll_form (k : Nat) (ls : List Nat) (s : State) :
    ∃ n, ls.foldl (fun s (_ : Nat) => s.count k) s = { s with sys := { s.sys with counts := n } } := by
  induction ls generalizing s with
  | nil => exact ⟨s.sys.counts, rfl⟩
  | cons a ls ih => obtain ⟨n, h⟩ := ih (s.count k); exact ⟨n, h⟩

theorem lanesOnly_markTrap (s : State) (gid : Nat) (ls : List Nat) (t : TrapAt) : LanesOnly gid s (s.markTrap gid ls t) := by
  obtain ⟨n, h⟩ := countAll_form (cntTrap t.cause (keyOf gid)) ls s
  unfold State.markTrap; rw [h]
  exact (lanesOnly_of_outer gid (by rfl)).trans (.eachLane (fun s l => lanesOnly_modLane s gid l _) _ _)

theorem lane_markTrap (s : State) (gid : Nat) {ls : List Nat} (hn : ls.Nodup) (t : TrapAt) (k : Nat) :
    (s.markTrap gid ls t).lane gid k
      = if k ∈ ls ∧ k < (s.group gid).lanes.length then (s.lane gid k).xregs t else s.lane gid k := by
  obtain ⟨n, h⟩ := countAll_form (cntTrap t.cause (keyOf gid)) ls s
  unfold State.markTrap; rw [h]
  exact lane_eachLane_modLane gid (fun _ y => y.xregs t) ls hn _ k

theorem markTrap_memory (s : State) (gid : Nat) (ls : List Nat) (t : TrapAt) :
    (s.markTrap gid ls t).mem = s.mem ∧ (s.markTrap gid ls t).ms = s.ms ∧ (s.markTrap gid ls t).sys.csr = s.sys.csr := by
  obtain ⟨n, h⟩ := countAll_form (cntTrap t.cause (keyOf gid)) ls s
  unfold State.markTrap; rw [h]
  exact ⟨eachLane_proj State.mem (by simp) _ ls, eachLane_proj State.ms (by simp) _ ls,
    eachLane_proj (fun s => s.sys.csr) (by simp) _ ls⟩

theorem markTrap_csr (s : State) (gid : Nat) (ls : List Nat) (t : TrapAt) : (s.markTrap gid ls t).sys.csr = s.sys.csr :=
  (markTrap_memory s gid ls t).2.2

/-- The marks leave the stacks on the chip where they were. -/
theorem markTrap_onChip {s : State} {gid : Nat} {ls : List Nat} (hn : ls.Nodup) (t : TrapAt) (h : StacksOnChip s gid ls) :
    StacksOnChip (s.markTrap gid ls t) gid ls := by
  rcases h with h | h
  · refine .inl fun l hl => ?_
    rw [lane_markTrap s gid hn]
    split
    · exact h l hl
    · exact h l hl
  · refine .inr ?_
    rw [(lanesOnly_markTrap s gid ls t).part]; unfold State.csr; rw [markTrap_csr]; exact h

/-- A lane that has entered its handler (R96, R111). -/
def Lane.entered (x : Lane) (t : TrapAt) (handler : DWord) (clock : Nat) : Lane :=
  { x.xregs t with stack := t.frame :: x.stack, pc := handler, pos := 0, left := 0, since := clock }

theorem entered_of_lane {x y : Lane} (hs : y.stack = x.stack) (hv : y.v = x.v) (hp : y.p = x.p) (t : TrapAt) (handler : DWord)
    (clock : Nat) : Entered x (y.entered t handler clock) t handler := by
  refine ⟨rfl, rfl, rfl, fun h => ?_, ⟨t.frame, by rw [← hs]; rfl, ?_, ?_⟩, rfl, rfl, hv, hp⟩
  · show BitVec.ofNat 32 (if t.pos = 0 then 1 else t.pos) = _
    rw [if_neg h]
  · unfold TrapAt.frame; split <;> rfl
  · unfold TrapAt.frame; split <;> rfl

theorem lanesOnly_enterHandler (s : State) (gid : Nat) (t : TrapAt) (handler : DWord) (l : Nat) :
    LanesOnly gid s (s.enterHandler gid t handler l) :=
  (lanesOnly_pushFrame s gid l t.frame).trans (lanesOnly_modLane _ gid l _)

theorem lane_enterHandler (s : State) (gid : Nat) (t : TrapAt) (handler : DWord) (l k : Nat) :
    (s.enterHandler gid t handler l).lane gid k
      = if k = l ∧ l < (s.group gid).lanes.length then
          { s.lane gid l with stack := t.frame :: (s.lane gid l).stack, pc := handler, pos := 0, left := 0, since := s.clock }
        else s.lane gid k := by
  unfold State.enterHandler
  rw [lane_modLane, (lanesOnly_pushFrame s gid l t.frame).len, lane_pushFrame, lane_pushFrame]
  split
  · next h => rw [if_pos ⟨rfl, h.2⟩]
  · rfl

theorem enterHandler_memory {s : State} {gid l : Nat} (h : StacksOnChip s gid [l]) (t : TrapAt) (handler : DWord) :
    SameMemory s (s.enterHandler gid t handler l) ∧ (s.enterHandler gid t handler l).sys.csr = s.sys.csr := by
  unfold State.enterHandler
  rw [pushFrame_onChip (h.imp_left fun h => h l (List.mem_singleton.mpr rfl))]
  exact ⟨sameMemory_of_eq rfl rfl, rfl⟩

/-- What keeps a trap from entering its handler in a lane (R94, R111). -/
theorem noEntry_none {x : Lane} : x.noEntry = none ↔ x.stack.length < 64 ∧ ∀ f ∈ x.stack, f.trap = false := by
  unfold Lane.noEntry
  by_cases h : 64 ≤ x.stack.length
  · simp [h]
  · simp only [h, if_false]
    by_cases h2 : x.stack.any fun f => f.trap
    · rw [if_pos h2]
      obtain ⟨f, hf, ht⟩ := List.any_eq_true.mp h2
      exact ⟨nofun, fun h3 => by rw [h3.2 f hf] at ht; cases ht⟩
    · rw [if_neg h2]
      refine ⟨fun _ => ⟨by omega, fun f hf => ?_⟩, fun _ => rfl⟩
      by_contra h3
      exact h2 (List.any_eq_true.mpr ⟨f, hf, by simpa using h3⟩)

/-- What a trap that enters the handler in its lanes does (R111). -/
structure Enters (gid : Nat) (ls : List Nat) (t : TrapAt) (s u : State) : Prop where
  only : LanesOnly gid s u
  own : ∀ l ∈ ls, u.lane gid l = (s.lane gid l).entered t (handlerOf s gid) s.clock
  other : ∀ l, l ∉ ls → u.lane gid l = s.lane gid l
  memory : StacksOnChip s gid ls → SameMemory s u

theorem enters_handlers {s : State} {gid : Nat} {ls : List Nat} (hn : ls.Nodup) (hl : ∀ l ∈ ls, l < (s.group gid).lanes.length)
    (t : TrapAt) : Enters gid ls t s
      (eachLane (s.markTrap gid ls t) ls fun s' l => s'.enterHandler gid t (handlerOf s gid) l) := by
  have hmark := lanesOnly_markTrap s gid ls t
  have hother : ∀ (s' : State) (l k : Nat), k ≠ l → (s'.enterHandler gid t (handlerOf s gid) l).lane gid k = s'.lane gid k :=
    fun s' l k hk => by rw [lane_enterHandler, if_neg fun h => hk h.1]
  obtain ⟨hin, hout⟩ := eachLane_lanes (gid := gid) (Q := fun s' => s'.clock = s.clock)
    (R := fun _ x y => y = { x with stack := t.frame :: x.stack, pc := handlerOf s gid, pos := 0, left := 0, since := s.clock })
    (f := fun s' l => s'.enterHandler gid t (handlerOf s gid) l)
    (fun s' l h => ((lanesOnly_enterHandler s' gid t _ l).clock).trans h) (fun s' l => (lanesOnly_enterHandler s' gid t _ l).len) hother
    (fun s' l hc hlt => by rw [lane_enterHandler, if_pos ⟨rfl, hlt⟩, hc]) ls hn (s.markTrap gid ls t) hmark.clock
  refine ⟨hmark.trans (.eachLane (fun s' l => lanesOnly_enterHandler ..) _ _), fun l hm => ?_, fun l hm => ?_, fun hc => ?_⟩
  · rw [hin l hm (by rw [hmark.len]; exact hl l hm), lane_markTrap s gid hn, if_pos ⟨hm, hl l hm⟩]; rfl
  · rw [hout l hm, lane_markTrap s gid hn, if_neg fun h => hm h.1]
  · obtain ⟨h1, h2, -⟩ := markTrap_memory s gid ls t
    exact sameMemory_trans (sameMemory_of_eq h1 h2) (sameMemory_eachLane (fun s' l h => enterHandler_memory h t _)
      (fun s' l => (lanesOnly_enterHandler s' gid t _ l).part) hother ls hn _ (markTrap_onChip hn t hc))

/-- A trap of lanes that can enter their handler enters it (R111). -/
theorem trap_enters {s : State} {gid : Nat} {ls : List Nat} (h : CanTrap s gid ls) (hn : ls.Nodup) (hne : ls ≠ []) (t : TrapAt) :
    Enters gid ls t s (s.trap gid ls t) := by
  obtain ⟨hsys, hh, hls⟩ := h
  have hentry : (ls.findSome? fun l => (s.lane gid l).noEntry) = none :=
    List.findSome?_eq_none_iff.mpr fun l hm => noEntry_none.mpr (hls l hm).2
  rw [trap_eq hsys hne, hentry]
  dsimp only
  rw [if_neg hh]
  exact enters_handlers hn (fun l hm => (hls l hm).1) t

/-- A word whose lanes trap as it starts and can enter their handler (R51, R111). -/
structure WordTraps (cx : Cx) (ls : List Nat) (t : TrapAt) (s u : State) : Prop where
  others : OtherGroups cx.gid s u
  memory : StacksOnChip s cx.gid ls → SameMemory s u
  blocks : u.blocks = s.blocks
  masks : (u.group cx.gid).m = (s.group cx.gid).m
  entered : ∀ l ∈ ls, Entered (s.lane cx.gid l) (u.lane cx.gid l) t (handlerOf s cx.gid)

theorem start_handlerOf (s : State) (cx : Cx) (c : Ctl) : handlerOf (s.start cx c) cx.gid = handlerOf s cx.gid := by
  obtain ⟨_, _, h, -⟩ := start_group s cx c
  unfold Claims.handlerOf State.launch; rw [start_launches, h]

theorem start_canTrap {s : State} {cx : Cx} {ls : List Nat} (h : CanTrap s cx.gid ls) (c : Ctl) :
    CanTrap (s.start cx c) cx.gid ls := by
  obtain ⟨hsys, hh, hls⟩ := h
  refine ⟨?_, by rw [start_handlerOf]; exact hh, fun l hm => ?_⟩
  · rw [(congrArg Group.sys (start_base s cx c) :)]; exact hsys
  · rw [start_length, start_stack]; exact hls l hm

theorem start_onChip {s : State} {cx : Cx} {ls : List Nat} (h : StacksOnChip s cx.gid ls) (c : Ctl) :
    StacksOnChip (s.start cx c) cx.gid ls := by
  rcases h with h | h
  · exact .inl fun l hm => by rw [start_stack]; exact h l hm
  · refine .inr ?_
    rw [(congrArg Group.part (start_base s cx c) :)]; unfold State.csr; rw [start_sys]; exact h

theorem start_trap {s : State} {cx : Cx} {ls : List Nat} (h : CanTrap s cx.gid ls) (hn : ls.Nodup) (hne : ls ≠ []) (c : Ctl)
    (t : TrapAt) : WordTraps cx ls t s ((s.start cx c).trap cx.gid ls t) := by
  have he := trap_enters (start_canTrap h c) hn hne t
  refine ⟨fun k hk => (he.only.others k hk).trans (start_otherGroups s cx c k hk),
    fun hc => sameMemory_trans (start_sameMemory s cx c) (he.memory (start_onChip hc c)),
    he.only.blocks.trans (start_blocks ..), he.only.m.trans (start_m ..), fun l hm => ?_⟩
  rw [he.own l hm, start_handlerOf]
  refine entered_of_lane (start_stack ..) ?_ ?_ t _ _
  all_goals rw [start_lane]; split <;> rfl

end Sys2Proof.Machine
end

section
/-! # Register range traps (R95, R111) -/
namespace Sys2Proof.Machine
open Sys2Proof.Claims

/-! ### The control fields of a word -/

/-- Bit `i` of the control fields of a packed word (R48). -/
theorem getLsbD_pack (opc : Nat) (c : Ctl) (rest : BitVec 48) (i : Nat) (hi : i < 16) :
    (packCtl opc c ++ rest).getLsbD (48 + i) = (packCtl opc c).getLsbD i := by
  rw [BitVec.getLsbD_append, if_neg (by omega), Nat.add_sub_cancel_left]

theorem getLsbD_packCtl (opc : Nat) (c : Ctl) : (packCtl opc c).getLsbD 3 = c.gn ∧ (packCtl opc c).getLsbD 13 = c.sw
    ∧ (packCtl opc c).getLsbD 14 = c.compat ∧ (packCtl opc c).getLsbD 15 = false
    ∧ ∀ i, i < 3 → (packCtl opc c).getLsbD i = c.gp.getLsbD i := by
  unfold packCtl
  simp only [BitVec.getLsbD_append, BitVec.getLsbD_ofBool]
  refine ⟨by simp, by simp, by cases c.compat <;> rfl, by cases c.compat <;> rfl, fun i hi => ?_⟩
  rw [if_pos (by omega), if_pos (by omega), if_pos (by omega), if_pos hi]

theorem readCtl_pack (opc : Nat) (c : Ctl) (rest : BitVec 48) : readCtl (packCtl opc c ++ rest) = some c := by
  obtain ⟨hgn, hsw, hlow, hhigh, hgp⟩ := getLsbD_packCtl opc c
  have at_ := getLsbD_pack opc c rest
  have hf : bits (packCtl opc c ++ rest) 63 62 = if c.compat then 1 else 0 := by
    have h : (packCtl opc c ++ rest).extractLsb' 62 2 = (if c.compat then 1 else 0 : BitVec 2) := by
      ext i hi
      rw [BitVec.getElem_extractLsb']
      interval_cases i
      · rw [at_ 14 (by omega), hlow]; cases c.compat <;> simp
      · rw [at_ 15 (by omega), hhigh]; cases c.compat <;> simp
    have h2 := congrArg BitVec.toNat h
    rw [BitVec.extractLsb'_toNat, Nat.shiftRight_eq_div_pow] at h2
    exact h2.trans (by cases c.compat <;> rfl)
  have hg : (packCtl opc c ++ rest).extractLsb' 48 3 = c.gp := by
    ext i hi
    rw [BitVec.getElem_extractLsb', at_ i (by omega), hgp i hi, BitVec.getLsbD_eq_getElem]
  unfold readCtl
  rw [hf, hg, at_ 13 (by omega), hsw, at_ 3 (by omega), hgn]
  obtain ⟨compat, sw, gn, gp⟩ := c
  cases compat <;> rfl

/-- Every class 0 word is issued as its operation, under its own control fields (R48, R118). -/
theorem exec_laneOp {i : Instr} {op : LaneOp} {c : Ctl} (ho : laneOpOf i = some op) (hc : ctlOf i = some c) (s : State) :
    exec i s = issueLane s c i op := by
  cases i <;> cases ho
  all_goals
    have h := (readCtl_pack _ _ _).symm.trans hc
    cases h
    rfl

/-! ### The trap -/

/-- Where no register is bound to a stream, the trap of a class 0 word names a register at or above the declared count (R95). -/
theorem laneTrap_range {s : State} {gid : Nat} {op : LaneOp} (hb : ∀ k, (s.group gid).bound k = none)
    (hx : ∃ x ∈ op.dst.names ++ op.srcs.flatMap Src.names, s.regsOf (s.group gid) ≤ x.1) :
    ∃ x ∈ op.dst.names ++ op.srcs.flatMap Src.names, s.regsOf (s.group gid) ≤ x.1 ∧ s.laneTrap gid op = some (0x05, x.1) := by
  have heq : s.laneTrap gid op = (op.dst.names ++ op.srcs.flatMap Src.names).findSome? fun x =>
      if s.regsOf (s.group gid) ≤ x.1 then some (0x05, x.1) else none := by
    unfold State.laneTrap
    congr 1
    funext x
    rw [hb]
  rw [heq]
  obtain ⟨x, hm, hr⟩ := hx
  cases h : (op.dst.names ++ op.srcs.flatMap Src.names).findSome? fun x =>
      if s.regsOf (s.group gid) ≤ x.1 then some (0x05, x.1) else none with
  | none =>
    have h0 := List.findSome?_eq_none_iff.mp h x hm
    rw [if_pos hr] at h0
    cases h0
  | some y =>
    obtain ⟨z, hz, hy⟩ := List.exists_of_findSome?_eq_some h
    split at hy
    · next hle => cases hy; exact ⟨z, hz, hle, rfl⟩
    · cases hy

/-- A class 0 word that names a register it may not traps (R95, R320). -/
theorem issueLane_traps {s : State} {c : Ctl} {w : Instr} {op : LaneOp} {cx : Cx} {x : Nat × Nat} (hc : s.cur = some cx)
    (hl : s.taking cx c ≠ []) (hh : s.holdsIssue cx.gid (s.taking cx c) none op.dst.writes = false)
    (hn : s.laneTrap cx.gid op = some x) : issueLane s c w op
      = .next ((s.start cx c).trap cx.gid (s.taking cx c) (cx.at_ x.1 (BitVec.ofNat 64 x.2))) := by
  simp [issueLane, hc, hl, hh, hn]

end Sys2Proof.Machine

open Sys2Proof Sys2Proof.Machine Sys2Proof.Claims in
/-- Settles O6: the first register at or above the declared count is what the word's check finds, and its lanes enter their handler. -/
theorem registerRangeTraps : Obligations.RegisterRangeTraps := by
  unfold Obligations.RegisterRangeTraps
  intro i op c s cx ho hctl hc hne hh hb hx htrap
  obtain ⟨x, hm, hle, hn⟩ := laneTrap_range hb hx
  have ht := start_trap htrap (taking_nodup s cx c) hne c (cx.at_ 0x05 (BitVec.ofNat 64 x.1))
  exact ⟨_, (exec_laneOp ho hctl s).trans (issueLane_traps hc hne hh hn), ht.others, ht.memory, x, hm, hle, ht.entered⟩
end

section
/-! # Parking and waking lanes (R97, R113) -/
namespace Sys2Proof.Machine
open Sys2Proof.Claims

theorem mem_maskOf (ls : List Nat) (l : Nat) : (maskOf ls).getLsbD l = true ↔ l ∈ ls ∧ l < 32 := by
  have h : ∀ (ls : List Nat) (m : LaneMask), (ls.foldl (fun m l => m ||| ((1 : LaneMask) <<< l)) m).getLsbD l = true
      ↔ m.getLsbD l = true ∨ (l ∈ ls ∧ l < 32) := by
    intro ls
    induction ls with
    | nil => simp
    | cons a ls ih =>
      intro m
      have hbit : ((1 : LaneMask) <<< a).getLsbD l = true ↔ l = a ∧ l < 32 := by
        have one : ∀ i, (1 : BitVec 32).getLsbD i = decide (i = 0) := by intro i; simp [BitVec.getLsbD_one]
        rw [BitVec.getLsbD_shiftLeft, one]
        by_cases hl : l < 32
        · by_cases ha : l < a
          · simp [ha, hl]; omega
          · simp [ha, hl]; omega
        · simp [hl]
      rw [List.foldl_cons, ih, BitVec.getLsbD_or, Bool.or_eq_true, hbit, List.mem_cons]
      tauto
  unfold maskOf
  rw [h]
  simp

/-- The mask of lanes of a mask holds just them. -/
theorem maskOf_lanes {ls : List Nat} {m : LaneMask} (h : ∀ l ∈ ls, l ∈ lanesOf m) (l : Nat) : (maskOf ls).getLsbD l = decide (l ∈ ls) := by
  rw [Bool.eq_iff_iff, mem_maskOf, decide_eq_true_iff]
  exact ⟨fun h' => h'.1, fun h' => ⟨h', ((mem_lanesOf m l).mp (h l h')).1⟩⟩

theorem maskOf_taking (s : State) (cx : Cx) (c : Ctl) (l : Nat) : (maskOf (s.taking cx c)).getLsbD l = decide (l ∈ s.taking cx c) :=
  maskOf_lanes (fun _ => taking_mask) l

/-- What parking and waking lanes of a group leave: registers, places, masks and the machine beside. -/
structure ParksOnly (gid : Nat) (s t : State) : Prop where
  undisturbed : Undisturbed gid s t
  memory : SameMemory s t
  machine : SameMachine s t
  masks : (t.group gid).m = (s.group gid).m
  len : (t.group gid).lanes.length = (s.group gid).lanes.length
  cycle : t.cycle = s.cycle

theorem ParksOnly.refl (gid : Nat) (s : State) : ParksOnly gid s s :=
  ⟨.refl gid s, sameMemory_refl s, sameMachine_refl s, rfl, rfl, rfl⟩
theorem ParksOnly.trans {gid : Nat} {a b c : State} (h : ParksOnly gid a b) (k : ParksOnly gid b c) : ParksOnly gid a c :=
  ⟨h.undisturbed.trans k.undisturbed, sameMemory_trans h.memory k.memory, sameMachine_trans h.machine k.machine,
    k.masks.trans h.masks, k.len.trans h.len, k.cycle.trans h.cycle⟩
theorem ParksOnly.eachLane {gid : Nat} {f : State → Nat → State} (h : ∀ s l, ParksOnly gid s (f s l)) (s : State) (ls : List Nat) :
    ParksOnly gid s (eachLane s ls f) :=
  eachLane_rel (.refl gid) (fun _ _ _ => .trans) h s ls

/-- An update of where a lane is parked. -/
theorem parksOnly_modLane (s : State) (gid l : Nat) (f : Lane → Lane) (hf : ∀ x, f x = { x with park := (f x).park, since := (f x).since }) :
    ParksOnly gid s (s.modLane gid l f) := by
  have hl : ∀ k, ∃ p n, (s.modLane gid l f).lane gid k = { s.lane gid k with park := p, since := n } := fun k => by
    rw [lane_modLane]; split
    · next h => rw [h.1]; exact ⟨_, _, hf _⟩
    · exact ⟨_, _, rfl⟩
  have hg : (s.modLane gid l f).group gid = { s.group gid with lanes := ((s.modLane gid l f).group gid).lanes } := group_modLane_with ..
  refine ⟨⟨fun k hk => by rw [group_modLane, if_neg hk], by rw [hg], ⟨fun k r => ?_, fun k r => ?_, fun r => ?_, fun k => ?_⟩, fun k => ?_⟩,
    sameMemory_refl s, sameMachine_refl s, by rw [hg], length_modLane .., rfl⟩
  · obtain ⟨p, n, h⟩ := hl k; rw [h]; rfl
  · obtain ⟨p, n, h⟩ := hl k; rw [h]; rfl
  · unfold State.readG; rw [hg]; rfl
  · obtain ⟨p, n, h⟩ := hl k; rw [h]; exact ⟨rfl, rfl, rfl, rfl⟩
  · obtain ⟨p, n, h⟩ := hl k; rw [h]; exact ⟨rfl, rfl, rfl⟩

/-- What leaves groups, memory and the machine alone. -/
theorem parksOnly_of_groups {s t : State} (gid : Nat) (hg : t.groups = s.groups) (hm : SameMemory s t) (hs : SameMachine s t)
    (hc : t.cycle = s.cycle) : ParksOnly gid s t :=
  ⟨undisturbed_of_groups hg gid, hm, hs, by rw [group_of_groups hg], by rw [group_of_groups hg], hc⟩

theorem parksOnly_hold (s : State) (gid : Nat) (b : Bool) : ParksOnly gid s (s.modGroup gid fun g => { g with hold := b }) := by
  have hl := fun k => lane_modGroup_hold s gid k b
  have hg : (s.modGroup gid fun g => { g with hold := b }).group gid = { s.group gid with hold := b } := group_modGroup_self ..
  refine ⟨⟨fun k hk => by rw [group_modGroup, if_neg hk], by rw [hg], ⟨fun k r => by rw [hl], fun k r => by rw [hl], fun r => ?_, fun k => ?_⟩,
    fun k => ?_⟩, sameMemory_refl s, sameMachine_refl s, by rw [hg], by rw [hg], rfl⟩
  · unfold State.readG; rw [hg]; rfl
  · rw [hl]; exact ⟨rfl, rfl, rfl, rfl⟩
  · rw [hl]; exact ⟨rfl, rfl, rfl⟩

/-! ### Parking -/

/-- The lanes of a set take the name of their wait. -/
def State.parkLanes (s : State) (gid : Nat) (ls : List Nat) : State :=
  eachLane s ls fun s' l => s'.modLane gid l fun x => { x with park := some s.nextId }

theorem parkLanes_same (s : State) (gid : Nat) (ls : List Nat) : (s.parkLanes gid ls).waits = s.waits ∧ (s.parkLanes gid ls).clock = s.clock
    ∧ (s.parkLanes gid ls).due = s.due :=
  ⟨eachLane_proj State.waits (by simp) s ls, eachLane_proj State.clock (by simp) s ls, eachLane_proj State.due (by simp) s ls⟩

/-- The wait on which lanes of a word park. -/
def State.newWait (s : State) (cx : Cx) (ls : List Nat) (kind : WaitKind) : Wait :=
  ⟨s.nextId, cx.gid, maskOf ls, s.tick, cx, kind, s.cycle.slotB⟩

theorem park_eq (s : State) (cx : Cx) (ls : List Nat) (kind : WaitKind) : s.park cx ls kind
    = { s.parkLanes cx.gid ls with nextId := s.nextId + 1, waits := s.waits ++ [s.newWait cx ls kind] } := by
  unfold State.newWait
  obtain ⟨hw, hc, -⟩ := parkLanes_same s cx.gid ls
  have ht : (s.parkLanes cx.gid ls).tick = s.tick := by unfold State.tick; rw [hc]
  rw [← hw, ← ht]; rfl

theorem park_waits (s : State) (cx : Cx) (ls : List Nat) (kind : WaitKind) :
    (s.park cx ls kind).waits = s.waits ++ [s.newWait cx ls kind] := by
  rw [park_eq]

theorem park_due (s : State) (cx : Cx) (ls : List Nat) (kind : WaitKind) : (s.park cx ls kind).due = s.due := by
  rw [park_eq]; exact (parkLanes_same s cx.gid ls).2.2

theorem parksOnly_park (s : State) (cx : Cx) (ls : List Nat) (kind : WaitKind) : ParksOnly cx.gid s (s.park cx ls kind) := by
  rw [park_eq]
  have h : ParksOnly cx.gid s (s.parkLanes cx.gid ls) := .eachLane (fun s' l => parksOnly_modLane s' cx.gid l _ fun _ => rfl) s ls
  exact h.trans (parksOnly_of_groups cx.gid rfl ⟨rfl, rfl⟩ ⟨rfl, rfl, rfl, rfl, rfl, rfl, rfl⟩ rfl)

theorem lane_park (s : State) (cx : Cx) {ls : List Nat} (hn : ls.Nodup) (kind : WaitKind) (k : Nat) :
    (s.park cx ls kind).lane cx.gid k = if k ∈ ls ∧ k < (s.group cx.gid).lanes.length then { s.lane cx.gid k with park := some s.nextId }
      else s.lane cx.gid k := by
  rw [park_eq]
  exact lane_eachLane_modLane cx.gid (fun _ x => { x with park := some s.nextId }) ls hn s k

/-! ### Waking -/

/-- What a wake does to a lane. -/
def Lane.woken (x : Lane) (id clock : Nat) : Lane := if x.park = some id then { x with park := none, since := clock } else x

/-- The lanes of a wait that are parked on it go on. -/
def State.wakeLanes (s : State) (w : Wait) : State :=
  eachLane s (lanesOf w.lanes) fun s l => s.modLane w.gid l fun x => x.woken w.id s.clock

theorem wake_eq (s : State) (w : Wait) : s.wake w = { ((s.wakeLanes w).modGroup w.gid fun g => { g with hold := true }) with
    waits := s.waits.filter fun x => !(x.id == w.id) } := rfl

theorem wake_waits (s : State) (w : Wait) : (s.wake w).waits = s.waits.filter fun x => !(x.id == w.id) := rfl

theorem wake_hold (s : State) (w : Wait) : ((s.wake w).group w.gid).hold = true := by
  rw [wake_eq]
  show (((s.wakeLanes w).modGroup w.gid fun g => { g with hold := true }).group w.gid).hold = true
  rw [group_modGroup_self]

theorem lane_wake (s : State) (w : Wait) (k : Nat) : (s.wake w).lane w.gid k
    = if k ∈ lanesOf w.lanes then (s.lane w.gid k).woken w.id s.clock else s.lane w.gid k := by
  rw [wake_eq]
  show ((s.wakeLanes w).modGroup w.gid fun g => { g with hold := true }).lane w.gid k = _
  rw [lane_modGroup_hold]
  have hcl : s.wakeLanes w = eachLane s (lanesOf w.lanes) fun s' l => s'.modLane w.gid l fun x => x.woken w.id s.clock := by
    unfold State.wakeLanes
    have h : ∀ (ls : List Nat) (t : State), t.clock = s.clock → (eachLane t ls fun s l => s.modLane w.gid l fun x => x.woken w.id s.clock)
        = eachLane t ls fun s' l => s'.modLane w.gid l fun x => x.woken w.id s.clock := by
      intro ls
      induction ls with
      | nil => intros; rfl
      | cons a ls ih => intro t ht; rw [eachLane_cons, eachLane_cons, ih _ (by exact ht), ht]
    exact h _ s rfl
  rw [hcl, lane_eachLane_modLane w.gid (fun _ x => x.woken w.id s.clock) _ (lanesOf_nodup _)]
  by_cases hk : k < (s.group w.gid).lanes.length
  · simp [hk]
  · rw [if_neg fun h => hk h.2, lane_beyond (Nat.le_of_not_lt hk)]
    split <;> rfl

theorem woken_form (x : Lane) (id clock : Nat) : x.woken id clock = { x with park := (x.woken id clock).park, since := (x.woken id clock).since } := by
  unfold Lane.woken; split <;> rfl

theorem woken_park (x : Lane) (id clock : Nat) : (x.woken id clock).park = if x.park = some id then none else x.park := by
  unfold Lane.woken; split <;> rfl

theorem park_wake (s : State) (w : Wait) (k : Nat) : ((s.wake w).lane w.gid k).park
    = if k ∈ lanesOf w.lanes ∧ (s.lane w.gid k).park = some w.id then none else (s.lane w.gid k).park := by
  rw [lane_wake]
  by_cases hk : k ∈ lanesOf w.lanes
  · rw [if_pos hk, woken_park]; simp [hk]
  · rw [if_neg hk, if_neg fun h => hk h.1]

theorem parksOnly_wake (s : State) (w : Wait) : ParksOnly w.gid s (s.wake w) := by
  have h : ParksOnly w.gid s (s.wakeLanes w) :=
    .eachLane (fun s' l => parksOnly_modLane s' w.gid l _ fun x => woken_form x w.id s'.clock) s _
  exact (h.trans (parksOnly_hold _ w.gid true)).trans
    (parksOnly_of_groups w.gid rfl ⟨rfl, rfl⟩ ⟨rfl, rfl, rfl, rfl, rfl, rfl, rfl⟩ rfl)

end Sys2Proof.Machine
end

section
/-! # YIELD (R113, R150) -/
namespace Sys2Proof.Machine
open Sys2Proof.Claims

theorem issued_runs {s : State} {cx : Cx} {c : Ctl} {ctr : Option Ctr} {names : List Nat} {writes : Nat} (h : Issues s cx c ctr names writes)
    (body : State → Iss → State) : issue s c ctr names writes body = .next (body (s.start cx c) (issOf s cx c)) := by
  obtain ⟨hc, hl, hh, hn⟩ := h
  exact issue_runs hc hl hh hn

theorem ParksOnly.ofStart {s t : State} {cx : Cx} {c : Ctl} (h : ParksOnly cx.gid (s.start cx c) t) :
    SameRegs cx.gid s t ∧ OtherGroups cx.gid s t ∧ SameMemory s t ∧ SameMachine s t :=
  ⟨sameRegs_trans (start_sameRegs s cx c) h.undisturbed.regs,
    fun k hk => (h.undisturbed.others k hk).trans (start_otherGroups s cx c k hk),
    sameMemory_trans (start_sameMemory s cx c) h.memory, sameMachine_trans (start_sameMachine s cx c) h.machine⟩

theorem yieldOver_of {s : State} {gid u : Nat} {p : Option Nat} (h : match p with
      | none => u ≤ s.clock
      | some n => (s.group gid).picked ≠ n) : s.yieldOver gid u p = true := by
  unfold State.yieldOver
  cases p with
  | none => simpa using h
  | some n => simp only [Bool.or_eq_true, bne_iff_ne]; exact .inl h

theorem execYieldExpiry_over {s : State} {r : WaitRef} {w : Wait} {u : Nat} {p : Option Nat} (hw : s.wait r.id = some w)
    (hk : w.kind = .yield u p) (ho : s.yieldOver w.gid u p = true) : execYieldExpiry r s = .next (s.wake w) := by
  simp [execYieldExpiry, hw, hk, ho]

end Sys2Proof.Machine

open Sys2Proof Sys2Proof.Machine Sys2Proof.Claims in
/-- Settles O14: YIELD is a park with its expiry on its way, and the expiry of a yield that is over is a wake. -/
theorem yieldParksAndExpires : Obligations.YieldParksAndExpires := by
  unfold Obligations.YieldParksAndExpires
  refine ⟨fun f s cx hl hi => ?_, fun r s w u p hw hk ho => ?_⟩
  · let u := s.start cx f.ctl
    let kind := WaitKind.yield (u.clock + f.imm8.toNat) (if f.imm8 = 0 then some (u.group cx.gid).picked else none)
    have hp := parksOnly_park u cx (s.taking cx f.ctl) kind
    have hsend := hp.trans (parksOnly_of_groups (t := u.parkFor cx (s.taking cx f.ctl) kind .yieldExpiry) cx.gid rfl ⟨rfl, rfl⟩
      ⟨rfl, rfl, rfl, rfl, rfl, rfl, rfl⟩ rfl)
    obtain ⟨hregs, hothers, hmem, hmach⟩ := hsend.ofStart
    have hid : u.nextId = s.nextId + 1 := start_nextId ..
    refine ⟨_, (show execYield f s = _ from issued_runs hi _), hregs, hothers, hmem, hmach, ?_, fun l hm => ?_, u.newWait cx (s.taking cx f.ctl) kind,
      ?_, hid, ?_, maskOf_taking s cx f.ctl⟩
    · show (u.park cx (s.taking cx f.ctl) kind).due ++ _ = _
      rw [park_due, hid, start_due]; rfl
    · show ((u.park cx (s.taking cx f.ctl) kind).lane cx.gid l).park = _
      rw [lane_park _ _ (taking_nodup ..), if_pos ⟨hm, by rw [start_length]; exact hl l (taking_mask hm)⟩, hid]
    · show (u.park cx (s.taking cx f.ctl) kind).waits = _
      rw [park_waits, start_waits]
    · show kind = _
      have hpick : (u.group cx.gid).picked = (s.group cx.gid).picked := (congrArg Group.picked (start_base s cx f.ctl) :)
      unfold kind
      rw [hpick, start_clock]
  · have hp := parksOnly_wake s w
    refine ⟨_, execYieldExpiry_over hw hk (yieldOver_of ho), hp.undisturbed.regs, hp.undisturbed.others, hp.memory, hp.machine, wake_hold s w,
      fun x hx => ?_, fun l hl hpk => ?_⟩
    · rw [wake_waits] at hx
      simpa using (List.mem_filter.mp hx).2
    · rw [park_wake, if_pos ⟨hl, hpk⟩]
end

section
/-! # Convergence masks (R101, R153) -/
namespace Sys2Proof.Machine
open Sys2Proof.Claims

/-! ### Waking all waits of a list -/

/-- All the waits of a list end. -/
def State.wakeAll (s : State) (ws : List Wait) : State := ws.foldl State.wake s

theorem parksOnly_wakeAll {gid : Nat} {ws : List Wait} (hg : ∀ w ∈ ws, w.gid = gid) (s : State) : ParksOnly gid s (s.wakeAll ws) := by
  induction ws generalizing s with
  | nil => exact .refl gid s
  | cons w ws ih =>
    obtain ⟨hw, hws⟩ := List.forall_mem_cons.mp hg
    have h := parksOnly_wake s w
    rw [hw] at h
    exact h.trans (ih hws (s.wake w))

/-- A group of whose waits one has ended is held. -/
theorem wakeAll_hold {gid : Nat} {ws : List Wait} (hg : ∀ w ∈ ws, w.gid = gid) (s : State)
    (h : ws ≠ [] ∨ (s.group gid).hold = true) : ((s.wakeAll ws).group gid).hold = true := by
  induction ws generalizing s with
  | nil => exact h.resolve_left fun h => h rfl
  | cons w ws ih =>
    obtain ⟨hw, hws⟩ := List.forall_mem_cons.mp hg
    refine ih hws (s.wake w) (.inr ?_)
    have := wake_hold s w
    rwa [hw] at this

theorem mem_wakeAll_waits {ws : List Wait} {s : State} {x : Wait} (h : x ∈ (s.wakeAll ws).waits) : x ∈ s.waits ∧ x ∉ ws := by
  induction ws generalizing s with
  | nil => exact ⟨h, List.not_mem_nil⟩
  | cons w ws ih =>
    obtain ⟨h1, h2⟩ := ih h
    rw [wake_waits, List.mem_filter] at h1
    refine ⟨h1.1, fun hx => (List.mem_cons.mp hx).elim (fun hx => ?_) h2⟩
    subst hx
    simp at h1

/-- A lane that is parked on one of the waits, or on none, goes on. -/
theorem park_wakeAll {gid k : Nat} {ws : List Wait} (hg : ∀ w ∈ ws, w.gid = gid) (s : State)
    (h : (s.lane gid k).park = none ∨ ∃ w ∈ ws, k ∈ lanesOf w.lanes ∧ (s.lane gid k).park = some w.id) :
    ((s.wakeAll ws).lane gid k).park = none := by
  induction ws generalizing s with
  | nil => exact h.resolve_right fun ⟨_, h, _⟩ => absurd h List.not_mem_nil
  | cons w ws ih =>
    obtain ⟨hw, hws⟩ := List.forall_mem_cons.mp hg
    refine ih hws (s.wake w) ?_
    have hp := park_wake s w k
    rw [hw] at hp
    rcases h with h | ⟨v, hv, hk, hpk⟩
    · left; rw [hp, h, ite_self]
    · rcases List.mem_cons.mp hv with rfl | hv
      · left; rw [hp, if_pos ⟨hk, hpk⟩]
      · rw [hp]
        split
        · exact .inl rfl
        · exact .inr ⟨v, hv, hk, hpk⟩

/-! ### Writing a mask -/

theorem undisturbed_masks (s : State) (gid : Nat) (f : Group → List MaskReg) :
    Undisturbed gid s (s.modGroup gid fun g => { g with m := f g }) := by
  have hl := fun k => lane_modGroup_with s gid gid k (fun g => { g with m := f g }) fun _ => rfl
  have hg : (s.modGroup gid fun g => { g with m := f g }).group gid = { s.group gid with m := f (s.group gid) } := group_modGroup_self ..
  refine ⟨fun k hk => by rw [group_modGroup, if_neg hk], by rw [hg], ⟨fun k r => by rw [hl], fun k r => by rw [hl], fun r => ?_, fun k => ?_⟩,
    fun k => ?_⟩
  · unfold State.readG; rw [hg]; rfl
  · rw [hl]; exact ⟨rfl, rfl, rfl, rfl⟩
  · rw [hl]; exact ⟨rfl, rfl, rfl⟩

/-! ### The arrival at a convergence point -/

/-- The waits of a group at RECONV on a mask. -/
def State.atMask (s : State) (gid m : Nat) : List Wait :=
  s.waits.filter fun w => w.gid == gid && (match w.kind with
    | .reconv k => k == m
    | _ => false)

theorem mem_atMask {s : State} {gid m : Nat} {w : Wait} : w ∈ s.atMask gid m ↔ w ∈ s.waits ∧ w.gid = gid ∧ w.kind = .reconv m := by
  unfold State.atMask
  rw [List.mem_filter, Bool.and_eq_true, beq_iff_eq]
  refine and_congr_right fun _ => and_congr_right fun _ => ?_
  split
  · next k hk => simp [hk]
  · next hk => exact ⟨fun h => absurd h Bool.false_ne_true, fun h => absurd h (hk m)⟩

/-- The lanes of the waits of a list. -/
def lanesAt (ws : List Wait) : LaneMask := ws.foldl (fun a w => a ||| w.lanes) 0

theorem getLsbD_lanesAt (ws : List Wait) (l : Nat) : (lanesAt ws).getLsbD l = true ↔ ∃ w ∈ ws, w.lanes.getLsbD l = true := by
  have h : ∀ (ws : List Wait) (a : LaneMask), (ws.foldl (fun a w => a ||| w.lanes) a).getLsbD l = true
      ↔ a.getLsbD l = true ∨ ∃ w ∈ ws, w.lanes.getLsbD l = true := by
    intro ws
    induction ws with
    | nil => simp
    | cons w ws ih => intro a; rw [List.foldl_cons, ih, BitVec.getLsbD_or, Bool.or_eq_true, or_assoc]; simp
  unfold lanesAt
  rw [h]
  simp

/-- Whether all lanes of a mask are among others. -/
theorem maskRest (mk at_ : LaneMask) : (mk &&& ~~~at_) = 0 ↔ ∀ l, mk.getLsbD l = true → at_.getLsbD l = true := by
  constructor
  · intro h l hl
    have hlt : l < 32 := BitVec.lt_of_getLsbD hl
    have hb := congrArg (BitVec.getLsbD · l) h
    simpa [hl, hlt] using hb
  · intro h
    refine BitVec.eq_of_getLsbD_eq fun l hlt => ?_
    have := h l
    cases hm : mk.getLsbD l <;> simp_all

theorem checkReconv_eq (s : State) (gid m : Nat) : s.checkReconv gid m
    = if (s.atMask gid m).isEmpty || (((s.group gid).m.getD m ⟨0, 0⟩).mask &&& ~~~lanesAt (s.atMask gid m)) != 0 then s
      else (s.wakeAll (s.atMask gid m)).modGroup gid fun g => { g with m := g.m.set m ⟨0, 0⟩ } := rfl

/-- A lane of the mask that has not arrived keeps the others parked (R101). -/
theorem checkReconv_waits {s : State} {gid m l : Nat} (hl : ((s.group gid).m.getD m ⟨0, 0⟩).mask.getLsbD l = true)
    (hw : ∀ w ∈ s.atMask gid m, w.lanes.getLsbD l = false) : s.checkReconv gid m = s := by
  rw [checkReconv_eq, if_pos]
  rw [Bool.or_eq_true, bne_iff_ne, Ne, maskRest]
  refine .inr fun h => ?_
  obtain ⟨w, hm, hb⟩ := (getLsbD_lanesAt _ l).mp (h l hl)
  rw [hw w hm] at hb
  cases hb

/-- Once every lane of the mask has arrived, all go on and the mask is empty (R101). -/
theorem checkReconv_goes {s : State} {gid m : Nat} (hne : s.atMask gid m ≠ [])
    (hw : ∀ l, ((s.group gid).m.getD m ⟨0, 0⟩).mask.getLsbD l = true → ∃ w ∈ s.atMask gid m, w.lanes.getLsbD l = true) :
    s.checkReconv gid m = (s.wakeAll (s.atMask gid m)).modGroup gid fun g => { g with m := g.m.set m ⟨0, 0⟩ } := by
  rw [checkReconv_eq, if_neg]
  rw [Bool.or_eq_true, bne_iff_ne, Ne, maskRest, List.isEmpty_iff]
  rintro (h | h)
  · exact hne h
  · exact h fun l hl => (getLsbD_lanesAt _ l).mpr (hw l hl)

/-! ### The words -/

/-- The state in which MSET has released the lanes that wait on the mask. -/
def State.msetFrees (u : State) (gid m : Nat) : State := u.wakeAll (u.waits.filter fun w => w.gid == gid && w.kind == .reconv m)

theorem parksOnly_msetFrees (u : State) (gid m : Nat) : ParksOnly gid u (u.msetFrees gid m) :=
  parksOnly_wakeAll (fun w hw => by
    have h := (List.mem_filter.mp hw).2
    rw [Bool.and_eq_true, beq_iff_eq] at h
    exact h.1) u

/-- MSET's write of its mask. -/
def State.setMask (s : State) (i : Iss) (m : Nat) (addr : DWord) : State :=
  let s2 := s.modGroup i.gid fun g => { g with m := g.m.set m ⟨maskOf i.lanes, addr⟩ }
  { s2 with cycle := { s2.cycle with wrote := s2.cycle.wrote ++ [(i.gid, 64 + m)] } }

theorem setMask_m (s : State) (i : Iss) (m : Nat) (addr : DWord) :
    ((s.setMask i m addr).group i.gid).m = (s.group i.gid).m.set m ⟨maskOf i.lanes, addr⟩ := by
  show ((s.modGroup i.gid fun g => { g with m := g.m.set m ⟨maskOf i.lanes, addr⟩ }).group i.gid).m = _
  rw [group_modGroup_self]

theorem execMset_issued {f : EF} {s : State} {cx : Cx} (h : Issues s cx f.ctl none [] 0) : exec (.mset f) s
    = .next (let s1 := (s.start cx f.ctl).msetFrees cx.gid f.a.toNat
        if s1.cycle.slotB && s1.cycle.wrote.contains (cx.gid, 64 + f.a.toNat) then s1
        else s1.setMask (issOf s cx f.ctl) f.a.toNat (cx.pc + (msetOff f).signExtend 64 * 8)) :=
  show execMset f s = _ from issued_runs h _

/-- The lanes of a RECONV that stand in its mask. -/
def reconvInside (s : State) (cx : Cx) (f : EF) : List Nat :=
  (s.taking cx f.ctl).filter fun l => ((s.group cx.gid).m.getD f.a.toNat ⟨0, 0⟩).mask.getLsbD l

/-- RECONV at its mask's address, or on an empty mask (R153). -/
theorem execReconv_here {f : EF} {s : State} {cx : Cx} (h : Issues s cx f.ctl none [] 0)
    (hr : ((s.group cx.gid).m.getD f.a.toNat ⟨0, 0⟩).mask = 0 ∨ ((s.group cx.gid).m.getD f.a.toNat ⟨0, 0⟩).addr = cx.pc) :
    exec (.reconv f) s = .next (if reconvInside s cx f = [] then s.start cx f.ctl
      else ((s.start cx f.ctl).park cx (reconvInside s cx f) (.reconv f.a.toNat)).checkReconv cx.gid f.a.toNat) := by
  refine (show execReconv f s = _ from issued_runs h _).trans ?_
  dsimp only
  rw [show (issOf s cx f.ctl).gid = cx.gid from rfl, start_m,
    if_neg fun h => hr.elim (fun h' => h.1 h') fun h' => h.2 h']
  rfl

theorem execReconv_elsewhere {f : EF} {s : State} {cx : Cx} (h : Issues s cx f.ctl none [] 0)
    (hm : ((s.group cx.gid).m.getD f.a.toNat ⟨0, 0⟩).mask ≠ 0) (ha : ((s.group cx.gid).m.getD f.a.toNat ⟨0, 0⟩).addr ≠ cx.pc) :
    exec (.reconv f) s = .next ((s.start cx f.ctl).trap cx.gid (s.taking cx f.ctl) (cx.at_ 0x0A (f.a.zeroExtend 64))) := by
  refine (show execReconv f s = _ from issued_runs h _).trans ?_
  dsimp only
  rw [show (issOf s cx f.ctl).gid = cx.gid from rfl, start_m, if_pos ⟨hm, ha⟩]
  unfold State.trapAll
  rw [show BitVec.ofNat 64 f.a.toNat = f.a.zeroExtend 64 from BitVec.eq_of_toNat_eq (by simp)]
  rfl

theorem getElem?_of_getD {α : Type} {l : List α} {i : Nat} (h : i < l.length) (d : α) : l[i]? = some (l.getD i d) := by
  rw [List.getD_eq_getElem?_getD, List.getElem?_eq_getElem h]; rfl

/-- A displacement in words, as a byte offset (R53). -/
theorem signExtend_mul8 {w : Nat} (b : BitVec w) (hw : w ≤ 64) : b.signExtend 64 * 8 = BitVec.ofInt 64 (8 * b.toInt) := by
  refine BitVec.eq_of_toInt_eq ?_
  rw [BitVec.toInt_mul, BitVec.toInt_ofInt, BitVec.toInt_signExtend_of_le hw, mul_comm]
  rfl

/-! ### The lanes that RECONV parks -/

/-- The state in which RECONV has parked the lanes of its mask. -/
def reconvParked (s : State) (cx : Cx) (f : EF) : State := (s.start cx f.ctl).park cx (reconvInside s cx f) (.reconv f.a.toNat)

theorem mem_reconvInside {s : State} {cx : Cx} {f : EF} {l : Nat} : l ∈ reconvInside s cx f
    ↔ l ∈ s.taking cx f.ctl ∧ ((s.group cx.gid).m.getD f.a.toNat ⟨0, 0⟩).mask.getLsbD l = true := List.mem_filter

theorem parksOnly_reconvParked (s : State) (cx : Cx) (f : EF) : ParksOnly cx.gid (s.start cx f.ctl) (reconvParked s cx f) :=
  parksOnly_park _ cx _ _

theorem reconvParked_waits (s : State) (cx : Cx) (f : EF) : (reconvParked s cx f).waits
    = s.waits ++ [(s.start cx f.ctl).newWait cx (reconvInside s cx f) (.reconv f.a.toNat)] := by
  unfold reconvParked; rw [park_waits, start_waits]

theorem reconvParked_m (s : State) (cx : Cx) (f : EF) : ((reconvParked s cx f).group cx.gid).m = (s.group cx.gid).m :=
  (parksOnly_reconvParked s cx f).masks.trans (start_m ..)

theorem reconvParked_park {s : State} {cx : Cx} (hl : LanesExist s cx) (f : EF) (l : Nat) : ((reconvParked s cx f).lane cx.gid l).park
    = if l ∈ reconvInside s cx f then some (s.start cx f.ctl).nextId else (s.lane cx.gid l).park := by
  unfold reconvParked
  rw [lane_park _ _ (show (reconvInside s cx f).Nodup from (taking_nodup ..).filter _), start_length, apply_ite Lane.park, start_park]
  exact if_congr (and_iff_left_of_imp fun h => hl l (taking_mask (mem_reconvInside.mp h).1)) rfl rfl

/-- A lane of the mask that takes part, or waits at the point already, stands in one of the waits there. -/
theorem reconvParked_wait {s : State} {cx : Cx} (hl : LanesExist s cx) {f : EF} {l : Nat}
    (hb : ((s.group cx.gid).m.getD f.a.toNat ⟨0, 0⟩).mask.getLsbD l = true)
    (h : l ∈ s.taking cx f.ctl ∨ ∃ w ∈ s.waits, w.gid = cx.gid ∧ w.kind = .reconv f.a.toNat ∧ w.lanes.getLsbD l = true
      ∧ (s.lane cx.gid l).park = some w.id) :
    ∃ w ∈ (reconvParked s cx f).atMask cx.gid f.a.toNat, l ∈ lanesOf w.lanes
      ∧ ((reconvParked s cx f).lane cx.gid l).park = some w.id := by
  have h32 : l < 32 := BitVec.lt_of_getLsbD hb
  by_cases ht : l ∈ s.taking cx f.ctl
  · have hin := mem_reconvInside.mpr ⟨ht, hb⟩
    refine ⟨(s.start cx f.ctl).newWait cx (reconvInside s cx f) (.reconv f.a.toNat), mem_atMask.mpr ⟨?_, rfl, rfl⟩,
      (mem_lanesOf ..).mpr ⟨h32, (mem_maskOf ..).mpr ⟨hin, h32⟩⟩, ?_⟩
    · rw [reconvParked_waits]; exact List.mem_append_right _ (List.mem_singleton_self _)
    · rw [reconvParked_park hl, if_pos hin]; rfl
  · obtain ⟨w, hw, hg, hk, hwl, hwp⟩ := h.resolve_left ht
    refine ⟨w, mem_atMask.mpr ⟨?_, hg, hk⟩, (mem_lanesOf ..).mpr ⟨h32, hwl⟩, ?_⟩
    · rw [reconvParked_waits]; exact List.mem_append_left _ hw
    · rw [reconvParked_park hl, if_neg fun h => ht (mem_reconvInside.mp h).1, hwp]

/-- A lane that neither takes part nor waits at the point stands in no wait there. -/
theorem reconvParked_absent {s : State} {cx : Cx} {f : EF} {l : Nat} (ht : l ∉ s.taking cx f.ctl)
    (hw : ∀ w ∈ s.waits, w.gid = cx.gid → w.kind = .reconv f.a.toNat → w.lanes.getLsbD l = false) :
    ∀ w ∈ (reconvParked s cx f).atMask cx.gid f.a.toNat, w.lanes.getLsbD l = false := by
  intro w hm
  obtain ⟨hm, hg, hk⟩ := mem_atMask.mp hm
  rw [reconvParked_waits, List.mem_append, List.mem_singleton] at hm
  rcases hm with hm | rfl
  · exact hw w hm hg hk
  · exact Bool.eq_false_iff.mpr fun h => ht (mem_reconvInside.mp ((mem_maskOf ..).mp h).1).1

end Sys2Proof.Machine

open Sys2Proof Sys2Proof.Machine Sys2Proof.Claims in
/-- MSET records its lanes, unless slot A has written the mask in this clock (R153). -/
theorem msetRecords {f : EF} {s : State} {cx : Cx} (hi : Issues s cx f.ctl none [] 0) (ha : f.a.toNat < (s.group cx.gid).m.length) :
    ∃ t x, exec (.mset f) s = .next t ∧ SameRegs cx.gid s t ∧ OtherGroups cx.gid s t ∧ SameMemory s t ∧ SameMachine s t
      ∧ (t.group cx.gid).m[f.a.toNat]? = some x
      ∧ if s.cycle.slotB && s.cycle.wrote.contains (cx.gid, 64 + f.a.toNat) then x = (s.group cx.gid).m.getD f.a.toNat ⟨0, 0⟩
        else (∀ l, x.mask.getLsbD l = decide (l ∈ s.taking cx f.ctl)) ∧ x.addr = cx.pc + BitVec.ofInt 64 (8 * (msetOff f).toInt) := by
  have hp := parksOnly_msetFrees (s.start cx f.ctl) cx.gid f.a.toNat
  have hcyc : ((s.start cx f.ctl).msetFrees cx.gid f.a.toNat).cycle = s.cycle := hp.cycle.trans (start_cycle ..)
  have hm : (((s.start cx f.ctl).msetFrees cx.gid f.a.toNat).group cx.gid).m = (s.group cx.gid).m := hp.masks.trans (start_m ..)
  obtain ⟨hregs, hothers, hmem, hmach⟩ := hp.ofStart
  rw [execMset_issued hi]
  dsimp only
  rw [hcyc]
  cases hw : s.cycle.slotB && s.cycle.wrote.contains (cx.gid, 64 + f.a.toNat)
  · have hu : Undisturbed cx.gid ((s.start cx f.ctl).msetFrees cx.gid f.a.toNat)
        (((s.start cx f.ctl).msetFrees cx.gid f.a.toNat).setMask (issOf s cx f.ctl) f.a.toNat (cx.pc + (msetOff f).signExtend 64 * 8)) :=
      (undisturbed_masks _ cx.gid fun g => g.m.set f.a.toNat ⟨maskOf (s.taking cx f.ctl), cx.pc + (msetOff f).signExtend 64 * 8⟩).trans (undisturbed_of_groups (by rfl) _)
    refine ⟨_, ⟨maskOf (s.taking cx f.ctl), cx.pc + (msetOff f).signExtend 64 * 8⟩, rfl, sameRegs_trans hregs hu.regs,
      fun k hk => (hu.others k hk).trans (hothers k hk), sameMemory_trans hmem ⟨rfl, rfl⟩,
      sameMachine_trans hmach ⟨rfl, rfl, rfl, rfl, rfl, rfl, rfl⟩, ?_, maskOf_taking s cx f.ctl, ?_⟩
    · rw [if_neg Bool.false_ne_true]
      exact (congrArg (·[f.a.toNat]?) (setMask_m _ (issOf s cx f.ctl) ..)).trans (List.getElem?_set_self (hm ▸ ha : f.a.toNat < (State.group _ cx.gid).m.length))
    · rw [signExtend_mul8 _ (by decide)]
  · exact ⟨_, _, rfl, hregs, hothers, hmem, hmach, by rw [if_pos rfl, hm]; exact getElem?_of_getD ha _, rfl⟩

open Sys2Proof Sys2Proof.Machine Sys2Proof.Claims in
/-- RECONV while a lane of the mask has not arrived parks the lanes of the mask (R153). -/
theorem reconvParks {f : EF} {s : State} {cx : Cx} (hl : LanesExist s cx) (hi : Issues s cx f.ctl none [] 0)
    (hpc : ((s.group cx.gid).m.getD f.a.toNat ⟨0, 0⟩).addr = cx.pc)
    (hex : ∃ l, ((s.group cx.gid).m.getD f.a.toNat ⟨0, 0⟩).mask.getLsbD l = true ∧ l ∉ s.taking cx f.ctl ∧
      ∀ w ∈ s.waits, w.gid = cx.gid → w.kind = .reconv f.a.toNat → w.lanes.getLsbD l = false) :
    ∃ t, exec (.reconv f) s = .next t ∧ SameRegs cx.gid s t ∧ OtherGroups cx.gid s t ∧ SameMemory s t ∧ SameMachine s t
      ∧ (t.group cx.gid).m = (s.group cx.gid).m
      ∧ ∀ l ∈ s.taking cx f.ctl, ((s.group cx.gid).m.getD f.a.toNat ⟨0, 0⟩).mask.getLsbD l = true → (t.lane cx.gid l).park ≠ none := by
  obtain ⟨l0, hbit, hnot, hwaits⟩ := hex
  rw [execReconv_here hi (.inr hpc)]
  by_cases hin : reconvInside s cx f = []
  · rw [if_pos hin]
    refine ⟨_, rfl, start_sameRegs .., start_otherGroups s cx f.ctl, start_sameMemory .., start_sameMachine .., start_m .., fun l hm hb => ?_⟩
    have hl := mem_reconvInside.mpr ⟨hm, hb⟩
    rw [hin] at hl
    cases hl
  · have hm := reconvParked_m s cx f
    obtain ⟨hregs, hothers, hmem, hmach⟩ := (parksOnly_reconvParked s cx f).ofStart
    rw [if_neg hin, show (s.start cx f.ctl).park cx (reconvInside s cx f) (.reconv f.a.toNat) = reconvParked s cx f from rfl,
      checkReconv_waits (by rw [hm]; exact hbit) (reconvParked_absent hnot hwaits)]
    refine ⟨_, rfl, hregs, hothers, hmem, hmach, hm, fun l ht hb => ?_⟩
    rw [reconvParked_park hl, if_pos (mem_reconvInside.mpr ⟨ht, hb⟩)]
    exact Option.some_ne_none _

open Sys2Proof Sys2Proof.Machine Sys2Proof.Claims in
/-- RECONV of the last lane of the mask releases all of them (R101, R113, R153). -/
theorem reconvReleases {f : EF} {s : State} {cx : Cx} (hl : LanesExist s cx) (hi : Issues s cx f.ctl none [] 0)
    (ha : f.a.toNat < (s.group cx.gid).m.length)
    (hpc : ((s.group cx.gid).m.getD f.a.toNat ⟨0, 0⟩).addr = cx.pc)
    (hex : ∃ l ∈ s.taking cx f.ctl, ((s.group cx.gid).m.getD f.a.toNat ⟨0, 0⟩).mask.getLsbD l = true)
    (hall : ∀ l, ((s.group cx.gid).m.getD f.a.toNat ⟨0, 0⟩).mask.getLsbD l = true → l ∈ s.taking cx f.ctl
      ∨ ∃ w ∈ s.waits, w.gid = cx.gid ∧ w.kind = .reconv f.a.toNat ∧ w.lanes.getLsbD l = true ∧ (s.lane cx.gid l).park = some w.id) :
    ∃ t, exec (.reconv f) s = .next t ∧ SameRegs cx.gid s t ∧ OtherGroups cx.gid s t ∧ SameMemory s t ∧ SameMachine s t
      ∧ (t.group cx.gid).m[f.a.toNat]? = some ⟨0, 0⟩ ∧ (t.group cx.gid).hold = true ∧ Passed t cx
      ∧ (∀ w ∈ t.waits, w.gid = cx.gid → w.kind ≠ .reconv f.a.toNat)
      ∧ ∀ l, ((s.group cx.gid).m.getD f.a.toNat ⟨0, 0⟩).mask.getLsbD l = true → (t.lane cx.gid l).park = none
        ∧ (l ∉ lanesOf cx.mask → (t.lane cx.gid l).pc = (s.lane cx.gid l).pc) := by
  obtain ⟨l0, ht0, hb0⟩ := hex
  have hm := reconvParked_m s cx f
  have hlane := fun l hb => reconvParked_wait hl (l := l) hb (hall l hb)
  have hgid : ∀ w ∈ (reconvParked s cx f).atMask cx.gid f.a.toNat, w.gid = cx.gid := fun w hw => (mem_atMask.mp hw).2.1
  have hne : (reconvParked s cx f).atMask cx.gid f.a.toNat ≠ [] := by
    obtain ⟨w, hw, -⟩ := hlane l0 hb0
    exact List.ne_nil_of_mem hw
  have hgo := checkReconv_goes hne fun l hb => by
    obtain ⟨w, hw, hwl, -⟩ := hlane l (by rwa [hm] at hb)
    exact ⟨w, hw, ((mem_lanesOf ..).mp hwl).2⟩
  have hwake := (parksOnly_reconvParked s cx f).trans (parksOnly_wakeAll hgid _)
  obtain ⟨hregs, hothers, hmem, hmach⟩ := hwake.ofStart
  rw [execReconv_here hi (.inr hpc), if_neg (List.ne_nil_of_mem (mem_reconvInside.mpr ⟨ht0, hb0⟩)),
    show (s.start cx f.ctl).park cx (reconvInside s cx f) (.reconv f.a.toNat) = reconvParked s cx f from rfl, hgo]
  have hmask := undisturbed_masks ((reconvParked s cx f).wakeAll ((reconvParked s cx f).atMask cx.gid f.a.toNat)) cx.gid
    fun g => g.m.set f.a.toNat ⟨0, 0⟩
  have hund := hwake.undisturbed.trans hmask
  refine ⟨_, rfl, sameRegs_trans hregs hmask.regs, fun k hk => (hmask.others k hk).trans (hothers k hk), sameMemory_trans hmem ⟨rfl, rfl⟩,
    sameMachine_trans hmach ⟨rfl, rfl, rfl, rfl, rfl, rfl, rfl⟩, ?_, ?_, fun l hlm => ?_, fun w hw hg hk => ?_, fun l hb => ⟨?_, fun hnot => ?_⟩⟩
  · rw [group_modGroup_self]
    show (List.set _ f.a.toNat _)[f.a.toNat]? = _
    rw [List.getElem?_set_self (by rw [hwake.masks, start_m]; exact ha)]
  · rw [group_modGroup_self]
    exact wakeAll_hold hgid _ (.inl hne)
  · obtain ⟨h1, h2, h3⟩ := hund.pcs l
    rw [h1, h2, h3]
    exact start_passed hl f.ctl l hlm
  · obtain ⟨hw, hnw⟩ := mem_wakeAll_waits
      (show w ∈ ((reconvParked s cx f).wakeAll ((reconvParked s cx f).atMask cx.gid f.a.toNat)).waits from hw)
    exact hnw (mem_atMask.mpr ⟨hw, hg, hk⟩)
  · rw [lane_modGroup_with _ _ _ _ (fun g => { g with m := g.m.set f.a.toNat ⟨0, 0⟩ }) fun _ => rfl]
    exact park_wakeAll hgid _ (.inr (hlane l hb))
  · rw [(hund.pcs l).1, start_lane, if_neg fun h => hnot h.1]

open Sys2Proof Sys2Proof.Machine Sys2Proof.Claims in
/-- Settles O15: MSET's record, and RECONV elsewhere, outside the mask, before the last arrival and at it. -/
theorem convergenceMasks : Obligations.ConvergenceMasks := by
  unfold Obligations.ConvergenceMasks
  intro f s cx hl hi ha old
  refine ⟨msetRecords hi ha, fun hm hpc htrap => ?_, fun hr hout => ?_, fun hpc hex => reconvParks hl hi hpc hex,
    fun hpc hex hall => reconvReleases hl hi ha hpc hex hall⟩
  · have ht := start_trap htrap (taking_nodup s cx f.ctl) hi.2.1 f.ctl (cx.at_ 0x0A (f.a.zeroExtend 64))
    exact ⟨_, execReconv_elsewhere hi hm hpc, ht.masks, ht.entered⟩
  · rw [execReconv_here hi hr, if_pos]
    exact List.filter_eq_nil_iff.mpr fun l hm => by rw [hout l hm]; exact Bool.false_ne_true
end

section
/-! # Join registers (R104, R157) -/
namespace Sys2Proof.Machine
open Sys2Proof.Claims

/-! ### Reading and setting a join register -/

/-- The register stands: its block has it, or no block holds the group and it is a system core's (R104, R423). -/
abbrev State.HasJoin (s : State) (b : BlockRef) (j : Nat) : Prop :=
  (∃ x, s.block b = some x ∧ j < x.joins.length) ∨ s.block b = none

/-- A block after an update of it that leaves its name. -/
theorem block_modBlock {s : State} {b : BlockRef} {f : Block → Block} (hf : ∀ x, (f x).lid = x.lid ∧ (f x).num = x.num) :
    (s.modBlock b f).block b = (s.block b).map f := by
  unfold State.block State.modBlock
  dsimp only
  rw [List.find?_map]
  generalize hp : (fun x : Block => x.lid == b.lid && x.num == b.block) = p
  have hsame : ((p ∘ fun x => if x.lid == b.lid && x.num == b.block then f x else x) : Block → Bool) = p := by
    subst hp
    funext x
    dsimp only [Function.comp]
    split
    · rw [(hf x).1, (hf x).2]
    · rfl
  rw [hsame]
  cases h : s.blocks.find? p with
  | none => rfl
  | some x =>
    have hx := List.find?_some h
    subst hp
    exact congrArg some (if_pos hx)

theorem getD_set {α : Type} (l : List α) (j k : Nat) (x d : α) (h : j < l.length) : (l.set j x).getD k d = if k = j then x else l.getD k d := by
  rw [List.getD_eq_getElem?_getD, List.getD_eq_getElem?_getD, List.getElem?_set]
  by_cases hk : k = j
  · subst hk; simp [h]
  · rw [if_neg (Ne.symm hk), if_neg hk]

/-- A join register after one of its block, or of its system core, has been set. -/
theorem join_setJoin {s : State} {b : BlockRef} {j : Nat} (h : s.HasJoin b j) (x : Join) (k : Nat) :
    (s.setJoin b j x).join b k = if k = j then x else s.join b k := by
  rcases h with ⟨y, hy, hj⟩ | hn
  · have hb : (s.setJoin b j x).block b = some { y with joins := y.joins.set j x } := by
      unfold State.setJoin
      rw [hy]
      exact (block_modBlock (f := fun k : Block => { k with joins := k.joins.set j x }) fun _ => ⟨rfl, rfl⟩).trans (by rw [hy]; rfl)
    unfold State.join
    rw [hb, hy]
    exact getD_set _ _ _ _ _ hj
  · have hb : (s.setJoin b j x) = { s with sys := { s.sys with joins := Map.set Join.fresh s.sys.joins (16 * b.block + j) x } } := by
      unfold State.setJoin; rw [hn]
    have hn' : (s.setJoin b j x).block b = none := by rw [hb]; exact hn
    unfold State.join
    rw [hn', hn, hb]
    dsimp only
    rw [Map.get_set]
    exact if_congr (by omega) rfl rfl

theorem join_setJoin_self {s : State} {b : BlockRef} {j : Nat} (h : s.HasJoin b j) (x : Join) : (s.setJoin b j x).join b j = x := by
  rw [join_setJoin h, if_pos rfl]

/-- A block has as many join registers after one of them has been set. -/
theorem hasJoin_setJoin {s : State} {b : BlockRef} {j : Nat} (h : s.HasJoin b j) (x : Join) : (s.setJoin b j x).HasJoin b j := by
  rcases h with ⟨y, hy, hj⟩ | hn
  · refine .inl ⟨{ y with joins := y.joins.set j x }, ?_, by rw [List.length_set]; exact hj⟩
    unfold State.setJoin
    rw [hy]
    exact (block_modBlock (f := fun k : Block => { k with joins := k.joins.set j x }) fun _ => ⟨rfl, rfl⟩).trans (by rw [hy]; rfl)
  · refine .inr ?_
    unfold State.setJoin
    rw [hn]
    exact hn

/-! ### JSET -/

/-- Whether a lane of a block is parked in BAR or WAITC on a token of a join register (R157). -/
def State.joinWaited (s : State) (b : BlockRef) (j : Nat) (t : Word) : Bool :=
  s.waits.any fun w => (s.group w.gid).blk == b && (match w.kind with
    | .bar k t' _ _ => k == j && t' == t
    | .waitc conds _ _ _ _ => conds.any fun c => c.kind == 1 && c.index == j && c.value == t
    | _ => false)

theorem joinWaited_iff (s : State) (b : BlockRef) (j : Nat) (t : Word) : s.joinWaited b j t = true
    ↔ ∃ w ∈ s.waits, (s.group w.gid).blk = b ∧ ((∃ sc st, w.kind = .bar j t sc st)
      ∨ ∃ conds all limit reg sc, w.kind = .waitc conds all limit reg sc ∧ ∃ c ∈ conds, c.kind = 1 ∧ c.index = j ∧ c.value = t) := by
  unfold State.joinWaited
  rw [List.any_eq_true]
  refine exists_congr fun w => and_congr_right fun _ => ?_
  rw [Bool.and_eq_true, beq_iff_eq]
  refine and_congr_right fun _ => ?_
  cases hk : w.kind
  case bar j' t' sc st =>
    simp only [Bool.and_eq_true, beq_iff_eq, WaitKind.bar.injEq, reduceCtorEq, false_and, exists_false, or_false]
    exact ⟨fun h => ⟨sc, st, h.1, h.2, rfl, rfl⟩, fun ⟨_, _, h1, h2, _⟩ => ⟨h1, h2⟩⟩
  case waitc conds all limit reg sc =>
    simp only [List.any_eq_true, Bool.and_eq_true, beq_iff_eq, and_assoc, WaitKind.waitc.injEq, reduceCtorEq, exists_false, false_or]
    exact ⟨fun h => ⟨conds, all, limit, reg, sc, rfl, rfl, rfl, rfl, rfl, h⟩, fun ⟨_, _, _, _, _, h1, _, _, _, _, h⟩ => h1 ▸ h⟩
  all_goals simp

theorem start_joinWaited (s : State) (cx : Cx) (c : Ctl) (b : BlockRef) (j : Nat) (t : Word) :
    (s.start cx c).joinWaited b j t = s.joinWaited b j t := by
  unfold State.joinWaited
  rw [start_waits]
  simp only [start_blk]

/-- What JSET does once it issues (R157). -/
theorem execJset_issued {f : EF} {s : State} {cx : Cx} (h : Issues s cx f.ctl none [f.a.toNat] 0) : exec (.jset f) s
    = .next (let e := ((s.start cx f.ctl).readV cx.gid (issOf s cx f.ctl).low 1 f.a.toNat).toNat
        let x := s.join (s.group cx.gid).blk f.x.toNat
        if 12288 < e then (s.start cx f.ctl).trap cx.gid (s.taking cx f.ctl) (cx.at_ 0x0C (f.x.zeroExtend 64))
        else if x.a ≠ 0 ∨ s.joinWaited (s.group cx.gid).blk f.x.toNat x.t = true ∨ x.phase.isSome = true then
          (s.start cx f.ctl).trap cx.gid (s.taking cx f.ctl) (cx.at_ 0x0D (f.x.zeroExtend 64))
        else (s.start cx f.ctl).setJoin (s.group cx.gid).blk f.x.toNat
          { x with e := e, a := 0, mode := f.flags.getLsbD 0, arrived := [] }) := by
  refine (show execJset f s = _ by unfold execJset; exact issued_runs h _).trans ?_
  have hinfo : BitVec.ofNat 64 f.x.toNat = f.x.zeroExtend 64 := BitVec.eq_of_toNat_eq (by simp)
  dsimp only
  rw [← hinfo, ← start_blk s cx f.ctl, ← start_join s cx f.ctl, ← start_joinWaited s cx f.ctl]
  rfl

/-! ### Register writes leave memory and the machine alone (R100) -/

theorem overtake_heldPart (s : State) (gid l r : Nat) : heldPart (s.overtake gid l r) = heldPart s := by
  unfold heldPart State.overtake
  dsimp only
  rw [List.map_map]
  congr 1
  refine List.map_congr_left fun j _ => ?_
  dsimp only [Function.comp]
  split <;> rfl

theorem writeV_heldPart (s : State) (gid l r : Nat) (val : Word) : heldPart (s.writeV gid l r val) = heldPart s := by
  show heldPart (if (s.pendingV gid l r).isEmpty && !s.jobWrites gid l r then s else s.overV gid l r val) = _
  split
  · rfl
  · unfold State.overV
    dsimp only
    split
    · exact overtake_heldPart ..
    · rfl

theorem writeV_sameMemory (s : State) (gid l r : Nat) (val : Word) : SameMemory s (s.writeV gid l r val) :=
  ⟨(kept_writeV s gid l r val).mem, writeV_heldPart s gid l r val⟩

theorem Kept.sameMachine {gid : Nat} {s t : State} (h : Kept gid s t) : SameMachine s t :=
  ⟨h.after, h.blocks, h.launches, h.sched, h.eng, h.fab, h.sys⟩

theorem kept_giveAll (s : State) (i : Iss) (r : Nat) (x : Word) : Kept i.gid s (s.giveAll i r x) :=
  .fold (fun s l => kept_writeV s i.gid l r x) i.lanes s

theorem giveAll_sameMemory (s : State) (i : Iss) (r : Nat) (x : Word) : SameMemory s (s.giveAll i r x) :=
  eachLane_rel sameMemory_refl (fun _ _ _ => sameMemory_trans) (fun s l => writeV_sameMemory s i.gid l r x) s i.lanes

theorem giveAll_vReg {s : State} {i : Iss} (r : Nat) (x : Word) {l : Nat} (hm : l ∈ i.lanes) (hl : l < (s.group i.gid).lanes.length) :
    ((s.giveAll i r x).lane i.gid l).vReg r = x := by
  have h : ∀ (ls : List Nat) (t : State), l < (t.group i.gid).lanes.length → (l ∈ ls ∨ (t.lane i.gid l).vReg r = x) →
      ((eachLane t ls fun s l => s.writeV i.gid l r x).lane i.gid l).vReg r = x := by
    intro ls
    induction ls with
    | nil => exact fun t _ h => h.resolve_left List.not_mem_nil
    | cons a ls ih =>
      intro t ht h
      refine ih _ (by rw [writeV_length]; exact ht) ?_
      rw [writeV_vReg]
      by_cases ha : l = a
      · subst ha; exact .inr (if_pos ⟨rfl, ht, rfl⟩)
      · refine h.imp (fun h => (List.mem_cons.mp h).resolve_left ha) fun h => ?_
        rw [if_neg fun h => ha h.1]
        exact h
  exact h i.lanes s hl (.inl hm)

theorem execJread_issued {f : EF} {s : State} {cx : Cx} (h : Issues s cx f.ctl none [f.a.toNat] 1) : exec (.jread f) s
    = .next ((s.start cx f.ctl).giveAll (issOf s cx f.ctl) f.a.toNat (
        let x := s.join (s.group cx.gid).blk f.x.toNat
        if f.flags.getLsbD 0 then BitVec.ofNat 32 (x.e + 2 ^ 14 * x.a + (if x.mode then 2 ^ 31 else 0)) else x.t)) := by
  refine (show execJread f s = _ from issued_runs h _).trans ?_
  rw [← start_blk s cx f.ctl, ← start_join s cx f.ctl]
  rfl

end Sys2Proof.Machine

open Sys2Proof Sys2Proof.Machine Sys2Proof.Claims in
/-- Settles O16: JSET by its count and what keeps the register busy, and JREAD as a write of each lane. -/
theorem joinRegistersAreSetAndRead : Obligations.JoinRegistersAreSetAndRead := by
  unfold Obligations.JoinRegistersAreSetAndRead
  intro f s cx hl hjoin j x e waited
  have hwaited : s.joinWaited (s.group cx.gid).blk f.x.toNat x.t = true ↔ waited := joinWaited_iff ..
  refine ⟨fun hi he ha hw hp => ?_, fun hi htrap hbad => ?_, fun hi => ?_⟩
  · rw [execJset_issued hi]
    dsimp only
    have hfree : ¬(x.a ≠ 0 ∨ s.joinWaited (s.group cx.gid).blk f.x.toNat x.t = true ∨ x.phase.isSome = true) := by
      rw [hwaited, hp]
      rintro (h | h | h)
      · exact h ha
      · exact hw h
      · cases h
    rw [if_neg (Nat.not_lt.mpr he), if_neg hfree]
    have hstart : (s.start cx f.ctl).HasJoin (s.group cx.gid).blk f.x.toNat := by
      unfold State.HasJoin State.block; rw [start_blocks]; exact hjoin
    refine ⟨_, rfl, sameRegs_trans (start_sameRegs s cx f.ctl) (undisturbed_of_groups (setJoin_groups ..) _).regs, fun k => ?_,
      sameMemory_trans (start_sameMemory s cx f.ctl) (sameMemory_of_eq (setJoin_mem ..) (setJoin_ms ..)), ?_, fun k hk => ?_⟩
    · rw [group_of_groups (setJoin_groups ..), start_blk]
    · rw [join_setJoin_self hstart]
    · rw [join_setJoin hstart, if_neg hk, start_join]
  · have ht := fun cause => start_trap htrap (taking_nodup s cx f.ctl) hi.2.1 f.ctl (cx.at_ cause (f.x.zeroExtend 64))
    rw [execJset_issued hi]
    dsimp only
    by_cases he : 12288 < e
    · rw [if_pos he, if_pos he]
      exact ⟨_, rfl, (ht 0x0C).blocks, (ht 0x0C).entered⟩
    · have hbusy : x.a ≠ 0 ∨ s.joinWaited (s.group cx.gid).blk f.x.toNat x.t = true ∨ x.phase.isSome = true := by
        rw [hwaited, Option.isSome_iff_ne_none]
        exact hbad.resolve_left he
      rw [if_neg he, if_neg he, if_pos hbusy]
      exact ⟨_, rfl, (ht 0x0D).blocks, (ht 0x0D).entered⟩
  · have hk := kept_giveAll (s.start cx f.ctl) (issOf s cx f.ctl) f.a.toNat (if f.flags.getLsbD 0
      then BitVec.ofNat 32 (x.e + 2 ^ 14 * x.a + (if x.mode then 2 ^ 31 else 0)) else x.t)
    refine ⟨_, execJread_issued hi, fun k hk' => (hk.others k hk').trans (start_otherGroups s cx f.ctl k hk'),
      sameMemory_trans (start_sameMemory s cx f.ctl) (giveAll_sameMemory ..), sameMachine_trans (start_sameMachine s cx f.ctl) hk.sameMachine,
      fun l hm => ?_⟩
    exact giveAll_vReg _ _ hm (by rw [start_length]; exact hl l (taking_mask hm))
end

section
/-! # What posting a record leaves alone (R377, R378) -/
namespace Sys2Proof.Machine
open Sys2Proof.Claims

/-- The state without its outer parts and its blocks: a release notes in its blocks what they hold of former bytes (R290). -/
def State.shell (s : State) : State := { s.outer with blocks := [] }

theorem shell_of_outer {s t : State} (h : t.outer = s.outer) : t.shell = s.shell :=
  congrArg (fun u : State => { u with blocks := [] }) h
theorem groups_of_shell {s t : State} (h : t.shell = s.shell) : t.groups = s.groups := (congrArg State.groups h :)
theorem launches_of_shell {s t : State} (h : t.shell = s.shell) : t.launches = s.launches := (congrArg State.launches h :)

theorem releaseBy_shell (s : State) (gid : Nat) (lanes : LaneMask) : (s.releaseBy gid lanes).shell = s.shell :=
  (show (s.releaseBy gid lanes).shell = (s.release (keyOf gid)).shell from rfl).trans (shell_of_outer (release_outer s (keyOf gid)))

theorem postEvent_outer (s : State) (p bit : Nat) : (s.postEvent p bit).outer = s.outer := by
  unfold State.postEvent
  split <;> rfl

theorem recRelease_shell (s : State) (who : FqHolder) : (s.recRelease who).shell = s.shell := by
  cases who with
  | lanes gid m => exact releaseBy_shell s gid m
  | distributor _ | other => rfl

theorem fqTry_shell {s t : State} {r : PendingRec} (h : s.fqTry r = some t) : t.shell = s.shell := by
  unfold State.fqTry at h
  dsimp only at h
  split at h
  · cases h
  · split at h
    · next s1 pa k hx =>
      have hx' := xlate_outer (s.recRelease r.who)
      cases h
      refine (shell_of_outer ?_).trans (recRelease_shell s r.who)
      rw [postEvent_outer, setCsr_outer, poke_outer, ← hx', hx]
    · cases h

theorem fqGo_shell (rs : List PendingRec) (full : List Nat) (s : State) : (State.fqGo rs full s).shell = s.shell := by
  induction rs generalizing full s with
  | nil => rfl
  | cons r rs ih =>
    unfold State.fqGo
    dsimp only
    split
    · exact ih ..
    · split
      · next h => exact (ih ..).trans (fqTry_shell h)
      · exact ih ..

theorem queueRec_shell (s : State) (p : Nat) (h : RecHead) (body : List Byte) (who : FqHolder) :
    (s.queueRec p h body who).shell = s.shell := rfl

theorem faultRec_shell (s : State) (f : PageStop) : (s.faultRec f).shell = s.shell := by
  unfold State.faultRec
  split <;> rfl

theorem faultsFirst_shell (s : State) (n : Nat) : (s.faultsFirst n).shell = s.shell := by
  unfold State.faultsFirst
  dsimp only
  generalize List.filterMap _ _ = fs
  generalize hs : ({ s with due := _ } : State) = u
  have hu : u.shell = s.shell := by subst hs; rfl
  rw [← hu]
  clear hs hu
  induction fs generalizing u with
  | nil => rfl
  | cons f fs ih => exact (ih _).trans (faultRec_shell u f)

theorem post_shell (s : State) (p : Nat) (h : RecHead) (body : List Byte) (who : FqHolder) : (s.post p h body who).shell = s.shell :=
  (fqGo_shell ..).trans ((queueRec_shell (s.faultsFirst s.ms.nextPark) p h body who).trans (faultsFirst_shell s _))

end Sys2Proof.Machine
end

section
/-! # The end of a launch by a trap (R111, R329) -/
namespace Sys2Proof.Machine
open Sys2Proof.Claims

theorem launch_lid {s : State} {lid : Nat} {x : Launch} (h : s.launch lid = some x) : x.lid = lid := by
  have := List.find?_some h
  simpa using this

theorem launch_modLaunch {s : State} {lid : Nat} {x : Launch} (h : s.launch lid = some x) {f : Launch → Launch}
    (hf : ∀ x, (f x).lid = x.lid) : (s.modLaunch lid f).launch lid = some (f x) := by
  unfold State.launch State.modLaunch
  dsimp only
  rw [List.find?_map]
  have hsame : ((fun x : Launch => x.lid == lid) ∘ fun x => if x.lid == lid then f x else x) = fun x => x.lid == lid := by
    funext x
    dsimp only [Function.comp]
    split
    · rw [hf]
    · rfl
  rw [hsame, show s.launches.find? (fun x => x.lid == lid) = some x from h, Option.map_some, if_pos (by rw [launch_lid h]; exact beq_self_eq_true lid)]

/-! ### Groups that a state has -/

theorem hasGroup_of_groups {s t : State} (h : t.groups = s.groups) (k : Nat) : t.hasGroup k = s.hasGroup k := by
  unfold State.hasGroup; rw [h]

theorem any_insert {α : Type} (i k : Nat) (x : α) (m : List (Nat × α)) :
    (Map.insert i x m).any (fun y => y.1 == k) = (i == k || m.any fun y => y.1 == k) := by
  induction m with
  | nil => rfl
  | cons y m ih =>
    unfold Map.insert
    split
    · rfl
    · split
      · next h => subst h; simp
      · rw [List.any_cons, ih, List.any_cons, Bool.or_left_comm]

theorem hasGroup_setGroup (s : State) (gid k : Nat) (g : Group) : (s.setGroup gid g).hasGroup k = (gid == k || s.hasGroup k) := any_insert ..
theorem hasGroup_modGroup {s : State} {k : Nat} (h : s.hasGroup k = true) (gid : Nat) (f : Group → Group) :
    (s.modGroup gid f).hasGroup k = true := by
  unfold State.modGroup; rw [hasGroup_setGroup, h, Bool.or_true]
theorem hasGroup_modLane {s : State} {k : Nat} (h : s.hasGroup k = true) (gid l : Nat) (f : Lane → Lane) :
    (s.modLane gid l f).hasGroup k = true := by
  unfold State.modLane; rw [hasGroup_setGroup, h, Bool.or_true]
theorem hasGroup_eachLane {f : State → Nat → State} (hf : ∀ s l k, s.hasGroup k = true → (f s l).hasGroup k = true) (s : State)
    (ls : List Nat) {k : Nat} (h : s.hasGroup k = true) : (eachLane s ls f).hasGroup k = true :=
  eachLane_rel (R := fun a b => a.hasGroup k = true → b.hasGroup k = true) (fun _ h => h) (fun _ _ _ h1 h2 h => h2 (h1 h))
    (fun s l => hf s l k) s ls h

theorem start_hasGroup {s : State} {k : Nat} (h : s.hasGroup k = true) (cx : Cx) (c : Ctl) : (s.start cx c).hasGroup k = true := by
  have hp : (s.passAll cx).hasGroup k = true := hasGroup_eachLane (fun s l k h => hasGroup_modLane h cx.gid l _) _ _ h
  rw [start_passAll]
  split
  · exact hasGroup_modGroup hp cx.gid _
  · exact hp

/-- A group after an update of every group that keeps its number. -/
theorem get_map {α : Type} (d : α) (g : Nat → α → α) (m : List (Nat × α)) (k : Nat) : Map.get d (m.map fun x => (x.1, g x.1 x.2)) k
    = if m.any (fun x => x.1 == k) then g k (Map.get d m k) else d := by
  induction m with
  | nil => rfl
  | cons x m ih =>
    rw [List.map_cons, List.any_cons]
    unfold Map.get
    by_cases hk : k = x.1
    · subst hk; simp
    · rw [if_neg hk, if_neg hk, ih, beq_eq_false_iff_ne.mpr (Ne.symm hk), Bool.false_or]

theorem get_of_absent {α : Type} {d : α} {m : List (Nat × α)} {k : Nat} (h : m.any (fun x => x.1 == k) = false) : Map.get d m k = d := by
  induction m with
  | nil => rfl
  | cons x m ih =>
    rw [List.any_cons, Bool.or_eq_false_iff, beq_eq_false_iff_ne] at h
    unfold Map.get
    rw [if_neg (Ne.symm h.1), ih h.2]

/-! ### The launch ends -/

/-- A group of a launch that ends: it stops at its next clause boundary (R329). -/
def Group.stopFor (g : Group) (lid : Nat) : Group := if g.lid == lid && !g.sys then { g with stopping := true } else g

theorem endLaunch_group (s : State) (lid k : Nat) :
    (s.endLaunch lid).group k = if s.hasGroup k then (s.group k).stopFor lid else s.group k := by
  have hmap : (s.endLaunch lid).groups = s.groups.map fun x => (x.1, x.2.stopFor lid) := by
    refine List.map_congr_left fun x _ => ?_
    unfold Group.stopFor
    split <;> rfl
  unfold State.group
  rw [hmap, get_map Group.fresh (fun _ g => g.stopFor lid)]
  unfold State.hasGroup
  cases h : s.groups.any fun x => x.1 == k
  · exact (get_of_absent h).symm
  · rfl

theorem stopFor_form (g : Group) (lid : Nat) : ∃ b, g.stopFor lid = { g with stopping := b } := by
  unfold Group.stopFor
  split
  · exact ⟨_, rfl⟩
  · exact ⟨g.stopping, rfl⟩

theorem endLaunch_form (s : State) (lid k : Nat) : ∃ b, (s.endLaunch lid).group k = { s.group k with stopping := b } := by
  rw [endLaunch_group]
  split
  · exact stopFor_form ..
  · exact ⟨(s.group k).stopping, rfl⟩

/-- A launch has ended by a trap: it is marked, its end is on its way, and the groups that a state had stop (R329). -/
structure LaunchEnds (lid : Nat) (s t : State) : Prop where
  marked : ∃ y, t.launch lid = some y ∧ y.ending = true
  sent : .launchEnd lid ∈ t.due
  stops : ∀ k, (t.group k).lid = lid → s.hasGroup k = true → (t.group k).sys = false → (t.group k).stopping = true

theorem endLaunch_ends {s : State} {lid : Nat} {x : Launch} (h : s.launch lid = some x) : LaunchEnds lid s (s.endLaunch lid) where
  marked := ⟨_, launch_modLaunch (f := fun x => { x with ending := true }) h fun _ => rfl, rfl⟩
  sent := List.mem_append_right _ (List.mem_singleton_self _)
  stops k hlid hk hsys := by
    rw [endLaunch_group, if_pos hk] at hlid hsys ⊢
    obtain ⟨b, hb⟩ := stopFor_form (s.group k) lid
    rw [hb] at hlid hsys
    have hl : (s.group k).lid = lid := hlid
    have hs : (s.group k).sys = false := hsys
    unfold Group.stopFor
    rw [hl, hs, if_pos (by simp)]

theorem haltLanes_lanesOnly (s : State) (gid : Nat) (ls : List Nat) (pc : DWord) : LanesOnly gid s (s.haltLanes gid ls pc) :=
  .eachLane (fun s l => lanesOnly_modLane s gid l _) s ls

theorem lane_haltLanes (s : State) (gid : Nat) {ls : List Nat} (hn : ls.Nodup) (pc : DWord) (k : Nat) :
    (s.haltLanes gid ls pc).lane gid k
      = if k ∈ ls ∧ k < (s.group gid).lanes.length then { s.lane gid k with pc := pc, pos := 0, left := 0 } else s.lane gid k :=
  lane_eachLane_modLane gid (fun _ x => { x with pc := pc, pos := 0, left := 0 }) ls hn s k

/-- The lanes stop, and the record of their launch's end is posted (R111, R378). -/
def State.endRecord (s : State) (gid : Nat) (ls : List Nat) (cause : Nat) (t : TrapAt) : State :=
  (s.haltLanes gid ls t.pc).post (s.group gid).part (s.recHead gid 2 cause t.pc t.info) (leBytes 4 (maskOf ls).toNat) (.lanes gid (maskOf ls))

theorem endRecord_shell (s : State) (gid : Nat) (ls : List Nat) (cause : Nat) (t : TrapAt) :
    (s.endRecord gid ls cause t).shell = (s.haltLanes gid ls t.pc).shell := post_shell ..

/-- A task-serving group whose task ends by a trap (R346). -/
def Group.endTask (g : Group) (ls : List Nat) (cause : Nat) (t : TrapAt) : Group :=
  { g with stopping := true, task := g.task.map fun k =>
    if k.fault.isSome then k else { k with fault := some (cause, t.pc, t.info, maskOf ls) } }

theorem endByTrap_eq (s : State) (gid : Nat) (ls : List Nat) (cause : Nat) (t : TrapAt) : s.endByTrap gid ls cause t
    = if (s.group gid).serving && (s.group gid).task.isSome then
        ((s.haltLanes gid ls t.pc).modGroup gid fun g => g.endTask ls cause t).send (.taskComplete gid)
      else (s.endRecord gid ls cause t).endLaunch (s.group gid).lid := rfl

/-- A trap that ends the launch of a group which serves no tasks (R111, R329). -/
theorem endByTrap_ends {s : State} {gid : Nat} {x : Launch} (hserv : (s.group gid).serving = false)
    (h : s.launch (s.group gid).lid = some x) (ls : List Nat) (cause : Nat) (t : TrapAt) :
    LaunchEnds (s.group gid).lid s (s.endByTrap gid ls cause t) := by
  rw [endByTrap_eq, hserv, Bool.false_and, if_neg Bool.false_ne_true]
  have hrec := endRecord_shell s gid ls cause t
  have hlaunch : (s.endRecord gid ls cause t).launch (s.group gid).lid = some x := by
    unfold State.launch; rw [launches_of_shell hrec, (haltLanes_lanesOnly s gid ls t.pc).launches]; exact h
  obtain ⟨marked, sent, stops⟩ := endLaunch_ends hlaunch
  exact ⟨marked, sent, fun k hlid hk => stops k hlid (by
    rw [hasGroup_of_groups (groups_of_shell hrec)]
    exact hasGroup_eachLane (fun s l k h => hasGroup_modLane h gid l _) s ls hk)⟩

theorem markTrap_hasGroup {s : State} {k : Nat} (h : s.hasGroup k = true) (gid : Nat) (ls : List Nat) (t : TrapAt) :
    (s.markTrap gid ls t).hasGroup k = true := by
  obtain ⟨n, hn⟩ := countAll_form (cntTrap t.cause (keyOf gid)) ls s
  unfold State.markTrap; rw [hn]
  exact hasGroup_eachLane (fun s l k h => hasGroup_modLane h gid l _) _ ls h

/-- A trap of lanes that cannot enter a handler ends the launch of a group that serves no tasks (R111, R329). -/
theorem trap_ends {s : State} {gid : Nat} {x : Launch} (hsys : (s.group gid).sys = false) (hserv : (s.group gid).serving = false)
    (h : s.launch (s.group gid).lid = some x) (hend : x.ending = false) {ls : List Nat} (hne : ls ≠ []) (t : TrapAt)
    (hcannot : x.record.handler = 0 ∨ ∃ l ∈ ls, 64 ≤ (s.lane gid l).stack.length ∨ ∃ r ∈ (s.lane gid l).stack, r.trap = true) :
    LaunchEnds (s.group gid).lid s (s.trap gid ls t) := by
  have hmark := lanesOnly_markTrap s gid ls t
  have hlaunch : (s.markTrap gid ls t).launch (s.group gid).lid = some x := by
    unfold State.launch; rw [hmark.launches]; exact h
  have hstop : ∀ cause, LaunchEnds (s.group gid).lid s (s.stopLanes (s.markTrap gid ls t) gid ls cause t) := fun cause => by
    have hending : (s.markTrap gid ls t).isEnding (s.group gid).lid = false := by unfold State.isEnding; rw [hlaunch]; exact hend
    unfold State.stopLanes
    rw [hending, Bool.false_and, if_neg Bool.false_ne_true, ← hmark.lid]
    obtain ⟨marked, sent, stops⟩ := endByTrap_ends (s := s.markTrap gid ls t) (gid := gid)
      ((congrArg Group.serving hmark.base :).trans hserv) (by rw [hmark.lid]; exact hlaunch) ls cause t
    exact ⟨marked, sent, fun k hl hk => stops k hl (markTrap_hasGroup hk gid ls t)⟩
  rw [trap_eq hsys hne]
  cases hentry : ls.findSome? fun l => (s.lane gid l).noEntry with
  | some cause => exact hstop cause
  | none =>
    have hhandler : handlerOf s gid = 0 := by
      unfold Claims.handlerOf
      rw [h]
      refine hcannot.resolve_right fun ⟨l, hm, hbad⟩ => ?_
      obtain ⟨h1, h2⟩ := noEntry_none.mp (List.findSome?_eq_none_iff.mp hentry l hm)
      rcases hbad with hbad | ⟨r, hr, htr⟩
      · exact absurd h1 (Nat.not_lt.mpr hbad)
      · rw [h2 r hr] at htr; cases htr
    dsimp only
    rw [if_pos hhandler]
    exact hstop t.cause

theorem execTrap_issued {f : EF} {s : State} {cx : Cx} (h : Issues s cx f.ctl none [] 0) : exec (.trap f) s
    = .next ((s.start cx f.ctl).trap cx.gid (s.taking cx f.ctl) { cx.at_ 0x08 (f.imm8.zeroExtend 64) with next := true }) :=
  show execTrap f s = _ from issued_runs h _

theorem execBkpt_issued {f : EF} {s : State} {cx : Cx} (h : Issues s cx f.ctl none [] 0) : exec (.bkpt f) s
    = .next ((s.start cx f.ctl).trap cx.gid (s.taking cx f.ctl) { cx.at_ 0x09 (f.imm8.zeroExtend 64) with next := true }) :=
  show execBkpt f s = _ from issued_runs h _

end Sys2Proof.Machine

open Sys2Proof Sys2Proof.Machine Sys2Proof.Claims in
/-- Settles O12: entry to the handler behind the word, or the end of the launch. -/
theorem trapsEnterTheHandlerOrEndTheLaunch : Obligations.TrapsEnterTheHandlerOrEndTheLaunch := by
  unfold Obligations.TrapsEnterTheHandlerOrEndTheLaunch
  refine ⟨fun f s cx hi htrap => ?_, fun f s cx x hi hsys hserv hlaunch hend hcannot => ?_⟩
  · have ht := fun cause => start_trap htrap (taking_nodup s cx f.ctl) hi.2.1 f.ctl
      { cx.at_ cause (f.imm8.zeroExtend 64) with next := true }
    exact ⟨⟨_, execTrap_issued hi, (ht 0x08).others, (ht 0x08).memory, (ht 0x08).entered⟩,
      ⟨_, execBkpt_issued hi, (ht 0x09).others, (ht 0x09).memory, (ht 0x09).entered⟩⟩
  · have hbase := start_base s cx f.ctl
    have hlid : ((s.start cx f.ctl).group cx.gid).lid = (s.group cx.gid).lid := (congrArg Group.lid hbase :)
    obtain ⟨⟨y, hy, hye⟩, sent, stops⟩ := trap_ends (s := s.start cx f.ctl) (gid := cx.gid) (x := x)
      ((congrArg Group.sys hbase :).trans hsys) ((congrArg Group.serving hbase :).trans hserv)
      (by unfold State.launch; rw [start_launches, hlid]; exact hlaunch) hend hi.2.1
      { cx.at_ 0x08 (f.imm8.zeroExtend 64) with next := true }
      (hcannot.imp_right fun ⟨l, hm, hl⟩ => ⟨l, hm, by rw [start_stack]; exact hl⟩)
    rw [hlid, ← launch_lid hlaunch] at hy sent stops
    exact ⟨_, y, execTrap_issued hi, hy, hye, sent, fun k h1 h2 h3 => stops k h1 (start_hasGroup h2 cx f.ctl) h3⟩
end

section
/-! # What a trap leaves of its group's lanes (R111, R329) -/
namespace Sys2Proof.Machine
open Sys2Proof.Claims

/-- Lanes that stop for the end of their task or launch stop where they are; the group's lanes and hold are else the same. -/
theorem endByTrap_lanes (s : State) (gid : Nat) (ls : List Nat) (cause : Nat) (t : TrapAt) :
    (∀ k, (s.endByTrap gid ls cause t).lane gid k = (s.haltLanes gid ls t.pc).lane gid k)
      ∧ ((s.endByTrap gid ls cause t).group gid).hold = (s.group gid).hold := by
  have hhalt := haltLanes_lanesOnly s gid ls t.pc
  rw [endByTrap_eq]
  split
  · refine ⟨fun k => lane_modGroup_with (s.haltLanes gid ls t.pc) gid gid k (fun g => g.endTask ls cause t) fun _ => rfl, ?_⟩
    show (((s.haltLanes gid ls t.pc).modGroup gid fun g => g.endTask ls cause t).group gid).hold = _
    rw [group_modGroup_self]
    exact hhalt.hold
  · obtain ⟨b, hb⟩ := endLaunch_form (s.endRecord gid ls cause t) (s.group gid).lid gid
    have hgroup := group_of_groups (groups_of_shell (endRecord_shell s gid ls cause t)) gid
    refine ⟨fun k => ?_, ?_⟩
    · unfold State.lane; rw [hb, hgroup]; rfl
    · rw [hb, hgroup]; exact hhalt.hold

theorem stopLanes_lanes (s u : State) (gid : Nat) {ls : List Nat} (hn : ls.Nodup) (cause : Nat) (t : TrapAt) :
    (∀ k, (s.stopLanes u gid ls cause t).lane gid k = if k ∈ ls ∧ k < (u.group gid).lanes.length
        then { u.lane gid k with pc := t.pc, pos := 0, left := 0 } else u.lane gid k)
      ∧ ((s.stopLanes u gid ls cause t).group gid).hold = (u.group gid).hold := by
  unfold State.stopLanes
  split
  · exact ⟨fun k => lane_haltLanes u gid hn t.pc k, (haltLanes_lanesOnly u gid ls t.pc).hold⟩
  · obtain ⟨hl, hh⟩ := endByTrap_lanes u gid ls cause t
    exact ⟨fun k => (hl k).trans (lane_haltLanes u gid hn t.pc k), hh⟩

/-- A trap of lanes of a compute group, whether they enter their handler or stop: other lanes and the group's hold stand, and the trap
registers of the lanes are set. -/
structure Traps (gid : Nat) (ls : List Nat) (t : TrapAt) (s u : State) : Prop where
  other : ∀ k, k ∉ ls → u.lane gid k = s.lane gid k
  marks : ∀ l ∈ ls, (u.lane gid l).xcause = BitVec.ofNat 32 t.cause ∧ (u.lane gid l).xpc = t.pc
  hold : (u.group gid).hold = (s.group gid).hold

theorem stopLanes_traps {s : State} {gid : Nat} {ls : List Nat} (hn : ls.Nodup) (hl : ∀ l ∈ ls, l < (s.group gid).lanes.length)
    (cause : Nat) (t : TrapAt) : Traps gid ls t s (s.stopLanes (s.markTrap gid ls t) gid ls cause t)
      ∧ ∀ l, ((s.stopLanes (s.markTrap gid ls t) gid ls cause t).lane gid l).stack = (s.lane gid l).stack := by
  obtain ⟨hlane, hhold⟩ := stopLanes_lanes s (s.markTrap gid ls t) gid hn cause t
  have hmark := lanesOnly_markTrap s gid ls t
  rw [hmark.len] at hlane
  refine ⟨⟨fun k hk => ?_, fun l hm => ?_, hhold.trans hmark.hold⟩, fun l => ?_⟩
  · rw [hlane, if_neg fun h => hk h.1, lane_markTrap s gid hn, if_neg fun h => hk h.1]
  · rw [hlane, if_pos ⟨hm, hl l hm⟩, lane_markTrap s gid hn, if_pos ⟨hm, hl l hm⟩]
    exact ⟨rfl, rfl⟩
  · rw [hlane, lane_markTrap s gid hn]
    split <;> rfl

theorem trap_traps {s : State} {gid : Nat} {ls : List Nat} (hsys : (s.group gid).sys = false) (hne : ls ≠ []) (hn : ls.Nodup)
    (hl : ∀ l ∈ ls, l < (s.group gid).lanes.length) (t : TrapAt) : Traps gid ls t s (s.trap gid ls t) := by
  rw [trap_eq hsys hne]
  split
  · exact (stopLanes_traps hn hl ..).1
  · split
    · exact (stopLanes_traps hn hl ..).1
    · have he := enters_handlers hn hl t
      refine ⟨he.other, fun l hm => ?_, he.only.hold⟩
      rw [he.own l hm]
      exact ⟨rfl, rfl⟩

/-- Lanes whose stacks are full push no frame (R94). -/
theorem trap_full {s : State} {gid : Nat} {ls : List Nat} (hsys : (s.group gid).sys = false) (hne : ls ≠ []) (hn : ls.Nodup)
    (hl : ∀ l ∈ ls, l < (s.group gid).lanes.length ∧ 64 ≤ (s.lane gid l).stack.length) (t : TrapAt) :
    ∀ l, ((s.trap gid ls t).lane gid l).stack = (s.lane gid l).stack := by
  obtain ⟨a, rest, rfl⟩ := List.exists_cons_of_ne_nil hne
  have ha : (s.lane gid a).noEntry = some 0x06 := if_pos (hl a List.mem_cons_self).2
  rw [trap_eq hsys hne, List.findSome?_cons, ha]
  exact (stopLanes_traps hn (fun l hm => (hl l hm).1) ..).2

theorem stacksOnChip_mono {s : State} {gid : Nat} {ls ks : List Nat} (h : StacksOnChip s gid ls) (hs : ∀ l ∈ ks, l ∈ ls) :
    StacksOnChip s gid ks := h.imp_left fun h l hl => h l (hs l hl)

end Sys2Proof.Machine
end

section
/-! # Calls (R94, R148) -/
namespace Sys2Proof.Machine
open Sys2Proof.Claims

theorem lanesOnly_goTo (s : State) (gid l : Nat) (a : DWord) : LanesOnly gid s (s.goTo gid l a) := lanesOnly_modLane s gid l _

/-- A lane calls: it pushes the address after the word and goes to its target (R148). -/
def State.callLane (s : State) (gid : Nat) (ret : DWord) (target : Nat → DWord) (l : Nat) : State :=
  (s.pushFrame gid l ⟨ret, false, 0, 0, 0⟩).goTo gid l (target l)

theorem lanesOnly_callLane (s : State) (gid : Nat) (ret : DWord) (target : Nat → DWord) (l : Nat) :
    LanesOnly gid s (s.callLane gid ret target l) :=
  (lanesOnly_pushFrame s gid l ⟨ret, false, 0, 0, 0⟩).trans (lanesOnly_goTo _ gid l _)

theorem lane_callLane (s : State) (gid : Nat) (ret : DWord) (target : Nat → DWord) (l k : Nat) :
    (s.callLane gid ret target l).lane gid k = if k = l ∧ l < (s.group gid).lanes.length
      then { s.lane gid l with stack := ⟨ret, false, 0, 0, 0⟩ :: (s.lane gid l).stack, pc := target l, pos := 0, left := 0 }
      else s.lane gid k := by
  unfold State.callLane State.goTo
  rw [lane_modLane, (lanesOnly_pushFrame s gid l _).len, lane_pushFrame, lane_pushFrame]
  split
  · next h => rw [if_pos ⟨rfl, h.2⟩]
  · rfl

/-- The lanes that can call have called (R148). -/
def State.callLanes (s : State) (gid : Nat) (ret : DWord) (target : Nat → DWord) (ls : List Nat) : State :=
  eachLane s ls fun s l => s.callLane gid ret target l

theorem lanesOnly_callLanes (s : State) (gid : Nat) (ret : DWord) (target : Nat → DWord) (ls : List Nat) :
    LanesOnly gid s (s.callLanes gid ret target ls) := .eachLane (fun s l => lanesOnly_callLane s gid ret target l) s ls

theorem callLanes_lanes {s : State} {gid : Nat} {ls : List Nat} (hn : ls.Nodup) (hl : ∀ l ∈ ls, l < (s.group gid).lanes.length)
    (ret : DWord) (target : Nat → DWord) :
    (∀ l ∈ ls, (s.callLanes gid ret target ls).lane gid l
        = { s.lane gid l with stack := ⟨ret, false, 0, 0, 0⟩ :: (s.lane gid l).stack, pc := target l, pos := 0, left := 0 })
      ∧ ∀ k, k ∉ ls → (s.callLanes gid ret target ls).lane gid k = s.lane gid k := by
  obtain ⟨hin, hout⟩ := eachLane_lanes (gid := gid) (Q := fun _ => True)
    (R := fun l x y => y = { x with stack := ⟨ret, false, 0, 0, 0⟩ :: x.stack, pc := target l, pos := 0, left := 0 })
    (f := fun s l => s.callLane gid ret target l) (fun _ _ _ => trivial) (fun s l => (lanesOnly_callLane s gid ret target l).len)
    (fun s l k hk => by rw [lane_callLane, if_neg fun h => hk h.1])
    (fun s l _ hlt => by rw [lane_callLane, if_pos ⟨rfl, hlt⟩]) ls hn s trivial
  exact ⟨fun l hm => hin l hm (hl l hm), hout⟩

theorem callLanes_memory {s : State} {gid : Nat} {ls : List Nat} (hn : ls.Nodup) (h : StacksOnChip s gid ls) (ret : DWord)
    (target : Nat → DWord) : SameMemory s (s.callLanes gid ret target ls) := by
  refine sameMemory_eachLane (gid := gid) (fun s l h => ?_) (fun s l => (lanesOnly_callLane s gid ret target l).part)
    (fun s l k hk => by rw [lane_callLane, if_neg fun h => hk h.1]) ls hn s h
  unfold State.callLane
  rw [pushFrame_onChip (h.imp_left fun h => h l (List.mem_singleton.mpr rfl))]
  exact ⟨sameMemory_of_eq rfl rfl, rfl⟩

/-- What a call does (R148): the lanes at depth 64, and the others. -/
structure Calls (cx : Cx) (ls : List Nat) (target : Nat → DWord) (s t : State) : Prop where
  shallow : (∀ l ∈ ls, (s.lane cx.gid l).stack.length < 64) → OtherGroups cx.gid s t ∧ (StacksOnChip s cx.gid ls → SameMemory s t)
  called : ∀ l ∈ ls, (s.lane cx.gid l).stack.length < 64 →
    (t.lane cx.gid l).stack = ⟨cx.pc + 8, false, 0, 0, 0⟩ :: (s.lane cx.gid l).stack ∧ (t.lane cx.gid l).pc = target l ∧ (t.lane cx.gid l).pos = 0
  full : ∀ l ∈ ls, 64 ≤ (s.lane cx.gid l).stack.length →
    (t.lane cx.gid l).xcause = 0x06 ∧ (t.lane cx.gid l).xpc = cx.pc ∧ (t.lane cx.gid l).stack = (s.lane cx.gid l).stack

/-- The lanes of a set whose stacks are full (R94). -/
def State.fullLanes (s : State) (gid : Nat) (ls : List Nat) : List Nat := ls.filter fun l => decide (64 ≤ (s.lane gid l).stack.length)

theorem mem_fullLanes {s : State} {gid : Nat} {ls : List Nat} {l : Nat} :
    l ∈ s.fullLanes gid ls ↔ l ∈ ls ∧ 64 ≤ (s.lane gid l).stack.length := by
  simp [State.fullLanes]

theorem callTo_eq (s : State) (i : Iss) (target : Nat → DWord) : s.callTo i target
    = if s.fullLanes i.gid i.lanes = [] then s.callLanes i.gid (i.cx.pc + 8) target (i.lanes.filter fun l => !(s.fullLanes i.gid i.lanes).contains l)
      else (s.callLanes i.gid (i.cx.pc + 8) target (i.lanes.filter fun l => !(s.fullLanes i.gid i.lanes).contains l)).trap i.gid
        (s.fullLanes i.gid i.lanes) (i.cx.at_ 0x06 0) := rfl

theorem callTo_calls {s : State} {i : Iss} (hsys : (s.group i.gid).sys = false) (hn : i.lanes.Nodup)
    (hl : ∀ l ∈ i.lanes, l < (s.group i.gid).lanes.length) (target : Nat → DWord) : Calls i.cx i.lanes target s (s.callTo i target) := by
  rw [callTo_eq]
  generalize hfull : s.fullLanes i.gid i.lanes = full
  generalize hgo : (i.lanes.filter fun l => !full.contains l) = go
  have mem_full : ∀ l, l ∈ full ↔ l ∈ i.lanes ∧ 64 ≤ (s.lane i.gid l).stack.length := fun l => by rw [← hfull, mem_fullLanes]
  have mem_go : ∀ l, l ∈ go ↔ l ∈ i.lanes ∧ l ∉ full := fun l => by rw [← hgo]; simp
  have hngo : go.Nodup := by rw [← hgo]; exact hn.filter _
  have hnfull : full.Nodup := by rw [← hfull]; exact hn.filter _
  have honly := lanesOnly_callLanes s i.gid (i.cx.pc + 8) target go
  obtain ⟨hin, hout⟩ := callLanes_lanes hngo (fun l hm => hl l ((mem_go l).mp hm).1) (i.cx.pc + 8) target
  have hfl : ∀ l ∈ full, l < ((s.callLanes i.gid (i.cx.pc + 8) target go).group i.gid).lanes.length
      ∧ 64 ≤ ((s.callLanes i.gid (i.cx.pc + 8) target go).lane i.gid l).stack.length := fun l hm => by
    rw [honly.len, hout l fun h => ((mem_go l).mp h).2 hm]
    exact ⟨hl l ((mem_full l).mp hm).1, ((mem_full l).mp hm).2⟩
  have hcalled : ∀ l ∈ i.lanes, (s.lane i.gid l).stack.length < 64 → l ∈ go ∧ l ∉ full := fun l hm hd => by
    have hf : l ∉ full := fun h => absurd ((mem_full l).mp h).2 (Nat.not_le.mpr hd)
    exact ⟨(mem_go l).mpr ⟨hm, hf⟩, hf⟩
  split
  · next hnil =>
    refine ⟨fun _ => ⟨honly.others, fun hc => callLanes_memory hngo (stacksOnChip_mono hc fun l h => ((mem_go l).mp h).1) _ _⟩,
      fun l hm hd => ?_, fun l hm hd => ?_⟩
    · rw [show i.cx.gid = i.gid from rfl, hin l (hcalled l hm hd).1]; exact ⟨rfl, rfl, rfl⟩
    · have := (mem_full l).mpr ⟨hm, hd⟩
      rw [hnil] at this; cases this
  · next hne =>
    have hsys' : ((s.callLanes i.gid (i.cx.pc + 8) target go).group i.gid).sys = false := (congrArg Group.sys honly.base :).trans hsys
    obtain ⟨hother, hmarks, -⟩ := trap_traps hsys' hne hnfull (fun l hm => (hfl l hm).1) (i.cx.at_ 0x06 0)
    have hstack := trap_full hsys' hne hnfull hfl (i.cx.at_ 0x06 0)
    refine ⟨fun hall => absurd (List.eq_nil_iff_forall_not_mem.mpr fun l h => ?_) hne, fun l hm hd => ?_, fun l hm hd => ?_⟩
    · exact absurd (hall l ((mem_full l).mp h).1) (Nat.not_lt.mpr ((mem_full l).mp h).2)
    · obtain ⟨h1, h2⟩ := hcalled l hm hd
      rw [show i.cx.gid = i.gid from rfl, hother l h2, hin l h1]; exact ⟨rfl, rfl, rfl⟩
    · have hf := (mem_full l).mpr ⟨hm, hd⟩
      exact ⟨(hmarks l hf).1, (hmarks l hf).2, (hstack l).trans (by rw [hout l fun h => ((mem_go l).mp h).2 hf]; rfl)⟩

/-- A call of a word that issues. -/
theorem Calls.ofStart {s t : State} {cx : Cx} {c : Ctl} {ls : List Nat} {target : Nat → DWord}
    (h : Calls cx ls target (s.start cx c) t) : Calls cx ls target s t := by
  obtain ⟨shallow, called, full⟩ := h
  simp only [start_stack] at shallow called full
  refine ⟨fun hs => ?_, called, full⟩
  obtain ⟨ho, hm⟩ := shallow hs
  exact ⟨fun k hk => (ho k hk).trans (start_otherGroups s cx c k hk),
    fun hc => sameMemory_trans (start_sameMemory s cx c) (hm (start_onChip hc c))⟩

theorem start_sys_eq {s : State} {cx : Cx} (h : (s.group cx.gid).sys = false) (c : Ctl) : ((s.start cx c).group cx.gid).sys = false :=
  (congrArg Group.sys (start_base s cx c) :).trans h

theorem execCall_calls {f : BF} {s : State} {cx : Cx} (hl : LanesExist s cx) (hsys : (s.group cx.gid).sys = false)
    (h : Issues s cx f.ctl none [] 0) : ∃ t, exec (.call f) s = .next t
      ∧ Calls cx (s.taking cx f.ctl) (fun _ => cx.pc + BitVec.ofInt 64 (8 * f.off.toInt)) s t := by
  have hgo := callTo_calls (s := s.start cx f.ctl) (i := issOf s cx f.ctl) (start_sys_eq hsys _) (taking_nodup ..)
    (fun l hm => by rw [start_length]; exact hl l (taking_mask hm)) fun _ => branchTarget cx f
  refine ⟨_, show execCall f s = _ from issued_runs h _, ?_⟩
  rw [← signExtend_mul8 f.off (by decide)]
  exact hgo.ofStart

theorem execCallx_calls {f : BF} {s : State} {cx : Cx} (hl : LanesExist s cx) (hsys : (s.group cx.gid).sys = false)
    (h : Issues s cx f.ctl none [f.reg.toNat, f.reg.toNat + 1] 0) : ∃ t, exec (.callx f) s = .next t
      ∧ Calls cx (s.taking cx f.ctl) (fun l => (s.start cx f.ctl).readVW cx.gid l 1 true f.reg.toNat) s t := by
  have hgo := callTo_calls (s := s.start cx f.ctl) (i := issOf s cx f.ctl) (start_sys_eq hsys _) (taking_nodup ..)
    (fun l hm => by rw [start_length]; exact hl l (taking_mask hm)) fun l => (s.start cx f.ctl).readVW cx.gid l 1 true f.reg.toNat
  exact ⟨_, show execCallx f s = _ from issued_runs h _, hgo.ofStart⟩

end Sys2Proof.Machine
end

section
/-! # Frames in the call-stack region (R94, R430) -/
namespace Sys2Proof.Machine
open Sys2Proof.Claims

/-! ### An engine's bytes on memory at rest -/

/-- Bytes that lie in one line go out as one write of it. -/
theorem poke_inLine {s : State} {ag : Agent} {kind : PageKind} {a : Nat} {bs : List Byte} (hne : bs ≠ []) (h : a % 128 + bs.length ≤ 128) :
    s.poke ag kind a bs = s.engineWrite ag kind (lineOf a) (bytesAt a bs) := by
  have htake : bs.take (128 - a % 128) = bs := List.take_of_length_le (by omega)
  have hdrop : bs.drop (128 - a % 128) = [] := List.drop_of_length_le (by omega)
  unfold State.poke State.pokeLines
  rw [if_neg hne]
  dsimp only
  rw [htake, hdrop]
  obtain ⟨n, hn⟩ := Nat.exists_eq_succ_of_ne_zero (mt List.length_eq_zero_iff.mp hne)
  rw [hn]
  unfold State.pokeLines
  rw [if_pos rfl, ← hn]
  rfl

theorem plain_bytesAt {a : Nat} {bs : List Byte} (h : a % 128 + bs.length ≤ 128) : Plain (bytesAt a bs) := by
  refine ⟨?_, fun b hb => ?_⟩
  · have : (bytesAt a bs).map (fun b => b.off) = (List.range bs.length).map fun k => a % 128 + k := by
      unfold bytesAt; rw [List.map_map]; rfl
    rw [this]
    exact List.nodup_range.map fun x y h => Nat.add_left_cancel h
  · unfold bytesAt at hb
    obtain ⟨k, hk, rfl⟩ := List.mem_map.mp hb
    have := List.mem_range.mp hk
    show a % 128 + k < 128
    omega

theorem engineWrite_quiet {s : State} (hq : Quiet s) (ag : Agent) (kind : PageKind) (line : Nat) {bs : List StoreByte} (hb : Plain bs) :
    Stored s (s.engineWrite ag kind line bs) line bs := by
  unfold State.engineWrite
  rw [acceptWrite_quiet hq]
  exact (finishWrite_quiet hq ⟨ag, 0, none, line, kind, false, bs, none, false, none, false⟩ hb).1

/-- Bytes written in one line of memory at rest stand there, and the others as before. -/
theorem poke_quiet {s : State} (hq : Quiet s) (ag : Agent) (kind : PageKind) {a : Nat} {bs : List Byte} (hne : bs ≠ [])
    (h : a % 128 + bs.length ≤ 128) : (∀ j, j < bs.length → (s.poke ag kind a bs).peekByte (a + j) = bs.getD j 0)
      ∧ ∀ x, (x < a ∨ a + bs.length ≤ x) → (s.poke ag kind a bs).peekByte x = s.peekByte x := by
  have hline : 128 * lineOf a + a % 128 = a := by unfold lineOf; omega
  obtain ⟨hin, hout⟩ := engineWrite_quiet hq ag kind (lineOf a) (plain_bytesAt h)
  rw [poke_inLine hne h]
  refine ⟨fun j hj => ?_, fun x hx => hout x fun b hb => ?_⟩
  · have := hin ⟨a % 128 + j, bs.getD j 0, 0⟩ (List.mem_map.mpr ⟨j, List.mem_range.mpr hj, rfl⟩)
    rwa [← Nat.add_assoc, hline] at this
  · obtain ⟨k, hk, rfl⟩ := List.mem_map.mp hb
    have := List.mem_range.mp hk
    show x ≠ 128 * lineOf a + (a % 128 + k)
    omega

/-- An engine reads a line of memory at rest. -/
theorem engineRead_data {s : State} (hq : Quiet s) (line off n : Nat) (kind : PageKind) :
    s.engineRead line off n kind = (s, some (lineAt s.mem line)) := by
  refine Prod.ext (engineRead_quiet hq line off n kind) ?_
  obtain ⟨hcopies, hparks, hcells, -, hbad, -⟩ := hq
  have hcopy : ∀ o, s.copyAt (.l2 o (l2Slice line)) line = none := fun o => copyAt_noCopies hcopies ..
  unfold State.engineRead
  rw [landBack_noParks hparks, landMove_noParks hparks]
  dsimp only
  rw [parkOf_noParks hparks, hbad]
  match kind with
  | .shared => rfl
  | .ms => rfl
  | .local o => simp [hcopy]

/-- Bytes of one line of memory at rest, by a read of the line or one by one. -/
theorem bytesOf_lineAt {s : State} (hq : Quiet s) {a n : Nat} (h : a % 128 + n ≤ 128) : bytesOf (lineAt s.mem (lineOf a)) (a % 128) n = s.peek a n := by
  obtain ⟨hcopies, hparks, -⟩ := hq
  refine List.map_congr_left fun i hi => ?_
  have := List.mem_range.mp hi
  rw [byteOf_lineAt _ _ _ (by omega), peekByte_rest hparks hcopies]
  congr 1
  unfold lineOf
  omega

/-! ### A frame's word -/

/-- A frame as its 64 bits in memory: the address in bits [63:3], and in bit 0 whether it is a trap frame (R94). -/
def Frame.word (f : Frame) : DWord := (f.addr &&& ~~~7) + (if f.trap then 1 else 0)

theorem frameWord_toNat (f : Frame) : (f.addr &&& ~~~7).toNat + (if f.trap then 1 else 0) = f.word.toNat := by
  have hle : (f.addr &&& ~~~7).toNat ≤ 2 ^ 64 - 8 := by
    rw [BitVec.toNat_and]
    exact Nat.and_le_right
  unfold Frame.word
  rw [BitVec.toNat_add]
  split
  · rw [show (1 : DWord).toNat = 1 from rfl, Nat.mod_eq_of_lt (by omega)]
  · rw [show (0 : DWord).toNat = 0 from rfl, Nat.mod_eq_of_lt (by omega)]

theorem getD_leBytes_word (x : DWord) {j : Nat} (h : j < 8) : (leBytes 8 x.toNat).getD j 0 = x.extractLsb' (8 * j) 8 := by
  rw [getD_leBytes _ _ _ h]
  apply BitVec.eq_of_toNat_eq
  rw [BitVec.extractLsb'_toNat, Nat.shiftRight_eq_div_pow, BitVec.toNat_ofNat, show 256 = 2 ^ 8 by rfl, ← Nat.pow_mul]

/-! ### Spill and fill -/

/-- A region's addresses do not depend on the lanes. -/
theorem frameVa_modLane (s : State) (gid l k depth : Nat) (f : Lane → Lane) : (s.modLane gid l f).frameVa gid k depth = s.frameVa gid k depth := by
  unfold State.frameVa
  rw [(lanesOnly_modLane s gid l f).part]
  rfl

/-- The walker of a group's own accesses to the region (R430). -/
def State.stackWalker (s : State) (gid : Nat) : Walker := s.kernelWalker (keyOf gid) (s.group gid).part (some (quadOfGid gid))

theorem stackWalker_modLane (s : State) (gid l : Nat) (f : Lane → Lane) : (s.modLane gid l f).stackWalker gid = s.stackWalker gid := by
  unfold State.stackWalker
  rw [(lanesOnly_modLane s gid l f).part]
  rfl

/-- A frame as its word in the region gives it back (R94). -/
def Frame.read (f : Frame) (x : DWord) : Frame := { f with addr := x &&& ~~~7, trap := x.getLsbD 0 }

theorem spillFrame_ok {s s1 : State} {gid l depth pa : Nat} {va : DWord} {k : PageKind} {f : Frame} (hva : s.frameVa gid l depth = some va)
    (hf : (s.lane gid l).stack[(s.lane gid l).stack.length - 1 - depth]? = some f)
    (hx : s.xlate (s.stackWalker gid) va .write = (s1, .ok pa k)) :
    s.spillFrame gid l depth = s1.poke .memSide k pa (leBytes 8 f.word.toNat) := by
  unfold State.stackWalker at hx
  unfold State.spillFrame
  dsimp only
  rw [hva, hf, ← frameWord_toNat]
  dsimp only
  rw [hx]

theorem fillFrame_ok {s s1 s2 : State} {gid l depth pa : Nat} {va : DWord} {k : PageKind} {f : Frame} {d : BitVec 1024}
    (hva : s.frameVa gid l depth = some va) (hf : (s.lane gid l).stack[(s.lane gid l).stack.length - 1 - depth]? = some f)
    (hx : s.xlate (s.stackWalker gid) va .read = (s1, .ok pa k))
    (hr : s1.engineRead (lineOf pa) (pa % 128) 8 k = (s2, some d)) :
    s.fillFrame gid l depth = s2.modLane gid l fun y =>
      { y with stack := y.stack.set (y.stack.length - 1 - depth) (f.read (BitVec.ofNat 64 (leNat (bytesOf d (pa % 128) 8)))) } := by
  unfold State.stackWalker at hx
  unfold State.fillFrame
  dsimp only
  rw [hva, hf]
  dsimp only
  rw [hx]
  dsimp only
  rw [hr]
  rfl

/-- A push beyond four frames writes the fifth from the top to the region (R94, R430). -/
theorem pushFrame_spills {s s1 : State} {gid l pa : Nat} {fr old : Frame} {va : DWord} {k : PageKind} (hl : l < (s.group gid).lanes.length)
    (hn : 4 ≤ (s.lane gid l).stack.length) (hold : (s.lane gid l).stack[3]? = some old)
    (hva : s.frameVa gid l ((s.lane gid l).stack.length - 4) = some va)
    (hx : (s.stackPush gid l fr).xlate (s.stackWalker gid) va .write = (s1, .ok pa k)) :
    s.pushFrame gid l fr = s1.poke .memSide k pa (leBytes 8 old.word.toNat) := by
  have hstack : ((s.stackPush gid l fr).lane gid l).stack = fr :: (s.lane gid l).stack := by
    unfold State.stackPush; rw [lane_modLane, if_pos ⟨rfl, hl⟩]
  rw [pushFrame_eq, if_neg (Nat.not_lt.mpr hn)]
  refine spillFrame_ok ((frameVa_modLane s gid l l _ _).trans hva) ?_ ?_
  · rw [hstack, List.length_cons, show (s.lane gid l).stack.length + 1 - 1 - ((s.lane gid l).stack.length - 4) = 3 + 1 by omega]
    exact hold
  · unfold State.stackPush at hx ⊢
    rw [stackWalker_modLane]; exact hx

theorem popFrame_eq (s : State) (gid l : Nat) : s.popFrame gid l
    = if ((s.stackPop gid l).lane gid l).stack.length < 4 then s.stackPop gid l
      else (s.stackPop gid l).fillFrame gid l (((s.stackPop gid l).lane gid l).stack.length - 4) := rfl

theorem stackPop_stack {s : State} {gid l : Nat} (hl : l < (s.group gid).lanes.length) :
    (s.stackPop gid l).lane gid l = { s.lane gid l with stack := (s.lane gid l).stack.drop 1 } := by
  unfold State.stackPop; rw [lane_modLane, if_pos ⟨rfl, hl⟩]

/-- A pop that leaves four frames or more reads the fourth back from the region (R94, R430). -/
theorem popFrame_fills {s s1 : State} {gid l pa : Nat} {fr f1 f2 f3 old : Frame} {rest : List Frame} {va : DWord} {k : PageKind}
    (hs : (s.lane gid l).stack = fr :: f1 :: f2 :: f3 :: old :: rest) (hl : l < (s.group gid).lanes.length)
    (hva : s.frameVa gid l rest.length = some va)
    (hx : (s.stackPop gid l).xlate (s.stackWalker gid) va .read = (s1, .ok pa k))
    (hin : pa % 128 + 8 ≤ 128) (hq : Quiet s1) : ((s.popFrame gid l).lane gid l).stack
      = f1 :: f2 :: f3 :: old.read (BitVec.ofNat 64 (leNat (s1.peek pa 8))) :: rest := by
  have hpop : ((s.stackPop gid l).lane gid l).stack = f1 :: f2 :: f3 :: old :: rest := by rw [stackPop_stack hl, hs]; rfl
  have hgroups : s1.groups = (s.stackPop gid l).groups := by
    have := groups_of_outer (xlate_outer (s.stackPop gid l) (s.stackWalker gid) va .read)
    rwa [hx] at this
  have hlen : (f1 :: f2 :: f3 :: old :: rest).length - 4 = rest.length := by simp
  have hidx : (f1 :: f2 :: f3 :: old :: rest).length - 1 - rest.length = 3 := by simp; omega
  have hfill := fillFrame_ok (s := s.stackPop gid l) (f := old) ((frameVa_modLane s gid l l rest.length _).trans hva) (by rw [hpop, hidx]; rfl)
    (by unfold State.stackPop at hx ⊢; rw [stackWalker_modLane]; exact hx) (engineRead_data hq (lineOf pa) (pa % 128) 8 k)
  have hl1 : l < (s1.group gid).lanes.length := by
    rw [group_of_groups hgroups]
    exact (lanesOnly_modLane s gid l _).len.symm ▸ hl
  rw [popFrame_eq, hpop, hlen, if_neg (by simp), hfill, bytesOf_lineAt hq hin, lane_modLane, if_pos ⟨rfl, hl1⟩, lane_of_groups hgroups, hpop, hidx]
  rfl

/-! ### What a pop leaves (R94) -/

/-- The region gives back at most one frame, and no other part of the lanes. -/
theorem fillFrame_form (s : State) (gid l depth : Nat) : (s.fillFrame gid l depth).outer = s.outer
    ∨ ∃ f, (s.fillFrame gid l depth).outer
      = (s.modLane gid l fun y => { y with stack := y.stack.set (y.stack.length - 1 - depth) f }).outer := by
  unfold State.fillFrame
  dsimp only
  split
  · next va f _ _ =>
    have hx := xlate_outer s (s.stackWalker gid) va .read
    unfold State.stackWalker at hx
    split
    · next s1 pa k he =>
      rw [he] at hx
      have hr := engineRead_outer s1 (lineOf pa) (pa % 128) 8 k
      split
      · next s2 d hd =>
        rw [hd] at hr
        refine .inr ⟨f.read (BitVec.ofNat 64 (leNat (bytesOf d (pa % 128) 8))), ?_⟩
        exact (congrArg (fun u : State => (u.modLane gid l fun y => { y with
          stack := y.stack.set (y.stack.length - 1 - depth) (f.read (BitVec.ofNat 64 (leNat (bytesOf d (pa % 128) 8)))) }).outer) (hr.trans hx) :)
      · next s2 hd =>
        rw [hd] at hr
        exact .inl (hr.trans hx)
    · next he =>
      rw [he] at hx
      exact .inl hx
  · exact .inl rfl

/-- What a pop does: the top frame goes, and the fourth below it may come back changed from the region (R94). -/
theorem popFrame_form (s : State) (gid l : Nat) : (s.popFrame gid l).outer = (s.stackPop gid l).outer
    ∨ ∃ f, (s.popFrame gid l).outer = ((s.stackPop gid l).modLane gid l fun y => { y with stack := y.stack.set 3 f }).outer := by
  rw [popFrame_eq]
  split
  · exact .inl rfl
  · next hn =>
    refine (fillFrame_form (s.stackPop gid l) gid l (((s.stackPop gid l).lane gid l).stack.length - 4)).imp_right fun ⟨f, hf⟩ => ⟨f, hf.trans ?_⟩
    have hidx : ((s.stackPop gid l).lane gid l).stack.length - 1 - (((s.stackPop gid l).lane gid l).stack.length - 4) = 3 := by omega
    unfold State.modLane
    dsimp only
    rw [show ((s.stackPop gid l).group gid).lane l = (s.stackPop gid l).lane gid l from rfl, hidx]

theorem lanesOnly_popFrame (s : State) (gid l : Nat) : LanesOnly gid s (s.popFrame gid l) := by
  refine (lanesOnly_modLane s gid l fun x => { x with stack := x.stack.drop 1 }).trans ?_
  rcases popFrame_form s gid l with h | ⟨f, h⟩
  · exact lanesOnly_of_outer gid h
  · exact (lanesOnly_modLane (s.stackPop gid l) gid l _).trans (lanesOnly_of_outer gid h)

theorem lane_popFrame_other (s : State) {gid l k : Nat} (h : k ≠ l) : (s.popFrame gid l).lane gid k = s.lane gid k := by
  have hpop : (s.stackPop gid l).lane gid k = s.lane gid k := lane_modLane_other s gid l gid k _ (.inr h)
  rcases popFrame_form s gid l with hf | ⟨f, hf⟩
  · rw [lane_of_groups (groups_of_outer hf), hpop]
  · rw [lane_of_groups (groups_of_outer hf), lane_modLane_other _ _ _ _ _ _ (.inr h), hpop]

/-- A popped stack: its frames but the fourth are those below the former top. -/
def Popped3 (st st' : List Frame) : Prop := st'.length = st.length - 1 ∧ ∀ k, k ≠ 3 → st'[k]? = (st.drop 1)[k]?

theorem lane_popFrame {s : State} {gid l : Nat} (hl : l < (s.group gid).lanes.length) :
    ∃ st, (s.popFrame gid l).lane gid l = { s.lane gid l with stack := st } ∧ Popped3 (s.lane gid l).stack st := by
  rcases popFrame_form s gid l with hf | ⟨f, hf⟩
  · refine ⟨(s.lane gid l).stack.drop 1, ?_, List.length_drop, fun _ _ => rfl⟩
    rw [lane_of_groups (groups_of_outer hf), stackPop_stack hl]
  · refine ⟨((s.lane gid l).stack.drop 1).set 3 f, ?_, by rw [List.length_set, List.length_drop], fun k hk => List.getElem?_set_ne hk.symm⟩
    have hl1 : l < ((s.stackPop gid l).group gid).lanes.length := (lanesOnly_modLane s gid l _).len.symm ▸ hl
    rw [lane_of_groups (groups_of_outer hf), lane_modLane, if_pos ⟨rfl, hl1⟩, stackPop_stack hl]

/-- A pop that stays in the sub-core (R94, R430). -/
theorem popFrame_onChip {s : State} {gid l : Nat} (h : StacksOnChip s gid [l]) : s.popFrame gid l = s.stackPop gid l := by
  rw [popFrame_eq]
  split
  · rfl
  · next hn =>
    refine fillFrame_none ((frameVa_modLane s gid l l _ _).trans (frameVa_none (h.resolve_left fun h => hn ?_) _ _))
    refine Nat.lt_of_le_of_lt ?_ (h l (List.mem_singleton_self l))
    unfold State.stackPop
    rw [lane_modLane]
    split
    · exact (List.length_drop (i := 1)).le.trans (Nat.sub_le _ _)
    · exact le_rfl

end Sys2Proof.Machine
end

section
/-! # Returns (R112, R148) -/
namespace Sys2Proof.Machine
open Sys2Proof.Claims

/-- A lane returns: it pops its top frame and goes where that says; a lane at depth 0 stays (R112, R148). -/
def State.retLane (s : State) (gid l : Nat) : State :=
  match (s.lane gid l).stack with
  | [] => s
  | fr :: _ => if fr.trap then (s.popFrame gid l).trapReturn gid l fr else (s.popFrame gid l).goTo gid l fr.addr

/-- A lane after its return, with its popped stack. -/
def Lane.returned (x : Lane) (fr : Frame) (st : List Frame) : Lane :=
  if fr.trap then { x with stack := st, pc := fr.addr, pos := fr.pos, left := fr.left, cls := fr.cls }
  else { x with stack := st, pc := fr.addr, pos := 0, left := 0 }

/-- What a return does to its lane. -/
structure Returned (onChip : Prop) (x y : Lane) : Prop where
  empty : x.stack = [] → y = x
  pops : ∀ fr rest, x.stack = fr :: rest → ∃ st, y = x.returned fr st ∧ Popped3 (fr :: rest) st ∧ (onChip → st = rest)

theorem Returned.mono {p q : Prop} {x y : Lane} (h : Returned p x y) (hqp : q → p) : Returned q x y :=
  ⟨h.empty, fun fr rest hs => by
    obtain ⟨st, h1, h2, h3⟩ := h.pops fr rest hs
    exact ⟨st, h1, h2, fun hq => h3 (hqp hq)⟩⟩

/-- A return is a pop, then an update of where the lane stands, and of its group's hold. -/
theorem retLane_form (s : State) (gid l : Nat) : ((s.lane gid l).stack = [] ∧ s.retLane gid l = s)
    ∨ ∃ fr rest, (s.lane gid l).stack = fr :: rest ∧ (s.retLane gid l).groups
        = (if fr.trap then ((s.popFrame gid l).modLane gid l fun x => x.returned fr x.stack).modGroup gid fun g => { g with hold := true }
          else (s.popFrame gid l).modLane gid l fun x => x.returned fr x.stack).groups := by
  unfold State.retLane
  split
  · next h => exact .inl ⟨h, rfl⟩
  · next fr rest h =>
    refine .inr ⟨fr, rest, h, ?_⟩
    split
    · next ht =>
      unfold Lane.returned
      rw [ht]
      rfl
    · next ht =>
      unfold Lane.returned
      simp only [ht]
      rfl

/-- A group but for its lanes and its hold, and every other group. -/
structure SameBase (gid : Nat) (s t : State) : Prop where
  others : OtherGroups gid s t
  base : { t.group gid with lanes := [], hold := false } = { s.group gid with lanes := [], hold := false }
  len : (t.group gid).lanes.length = (s.group gid).lanes.length
  holds : (s.group gid).hold = true → (t.group gid).hold = true

theorem SameBase.refl (gid : Nat) (s : State) : SameBase gid s s := ⟨fun _ _ => rfl, rfl, rfl, id⟩
theorem SameBase.trans {gid : Nat} {a b c : State} (h : SameBase gid a b) (k : SameBase gid b c) : SameBase gid a c :=
  ⟨fun j hj => (k.others j hj).trans (h.others j hj), k.base.trans h.base, k.len.trans h.len, fun x => k.holds (h.holds x)⟩
theorem LanesOnly.sameBase {gid : Nat} {s t : State} (h : LanesOnly gid s t) : SameBase gid s t :=
  ⟨h.others, (congrArg (fun g : Group => { g with hold := false }) h.base :), h.len, fun x => h.hold.trans x⟩
theorem sameBase_of_groups {gid : Nat} {s t : State} (h : t.groups = s.groups) : SameBase gid s t := by
  have hg := group_of_groups h
  exact ⟨fun k _ => hg k, by rw [hg], by rw [hg], fun x => by rw [hg]; exact x⟩
theorem sameBase_hold (s : State) (gid : Nat) : SameBase gid s (s.modGroup gid fun g => { g with hold := true }) :=
  ⟨fun k hk => by rw [group_modGroup, if_neg hk], by rw [group_modGroup_self], by rw [group_modGroup_self], fun _ => by rw [group_modGroup_self]⟩

theorem sameBase_retLane (s : State) (gid l : Nat) : SameBase gid s (s.retLane gid l) := by
  rcases retLane_form s gid l with ⟨-, h⟩ | ⟨fr, rest, -, h⟩
  · rw [h]; exact .refl gid s
  · have hlane := (lanesOnly_popFrame s gid l).trans (lanesOnly_modLane _ gid l fun x => x.returned fr x.stack)
    refine SameBase.trans ?_ (sameBase_of_groups h)
    split
    · exact hlane.sameBase.trans (sameBase_hold _ gid)
    · exact hlane.sameBase

theorem lane_retLane_other (s : State) {gid l k : Nat} (hk : k ≠ l) : (s.retLane gid l).lane gid k = s.lane gid k := by
  rcases retLane_form s gid l with ⟨-, h⟩ | ⟨fr, rest, -, h⟩
  · rw [h]
  · rw [lane_of_groups h]
    split
    · rw [lane_modGroup_hold, lane_modLane_other _ _ _ _ _ _ (.inr hk), lane_popFrame_other s hk]
    · rw [lane_modLane_other _ _ _ _ _ _ (.inr hk), lane_popFrame_other s hk]

theorem lane_retLane {s : State} {gid l : Nat} (hl : l < (s.group gid).lanes.length) :
    Returned (StacksOnChip s gid [l]) (s.lane gid l) ((s.retLane gid l).lane gid l) := by
  rcases retLane_form s gid l with ⟨hs, h⟩ | ⟨fr, rest, hs, h⟩
  · rw [h]
    exact ⟨fun _ => rfl, fun fr rest hs' => by rw [hs] at hs'; cases hs'⟩
  · obtain ⟨st, hst, hp⟩ := lane_popFrame hl
    have hlen : l < ((s.popFrame gid l).group gid).lanes.length := by rw [(lanesOnly_popFrame s gid l).len]; exact hl
    have hlane : (s.retLane gid l).lane gid l = (s.lane gid l).returned fr st := by
      rw [lane_of_groups h]
      split
      · rw [lane_modGroup_hold, lane_modLane, if_pos ⟨rfl, hlen⟩, hst]; rfl
      · rw [lane_modLane, if_pos ⟨rfl, hlen⟩, hst]; rfl
    refine ⟨fun hs' => absurd (hs.symm.trans hs') (List.cons_ne_nil fr rest), fun fr' rest' hs' => ?_⟩
    rw [hs] at hs' hp
    cases hs'
    refine ⟨st, hlane, hp, fun hc => ?_⟩
    rw [popFrame_onChip hc, stackPop_stack hl, hs] at hst
    exact (congrArg Lane.stack hst :).symm

/-- A lane that returns from its handler holds its group (R112). -/
theorem retLane_hold {s : State} {gid l : Nat} {fr : Frame} {rest : List Frame} (hs : (s.lane gid l).stack = fr :: rest)
    (ht : fr.trap = true) : ((s.retLane gid l).group gid).hold = true := by
  rcases retLane_form s gid l with ⟨hs', -⟩ | ⟨fr', rest', hs', h⟩
  · rw [hs] at hs'; cases hs'
  · rw [hs] at hs'
    cases hs'
    rw [group_of_groups h, if_pos ht, group_modGroup_self]

theorem retLane_memory {s : State} {gid l : Nat} (h : StacksOnChip s gid [l]) :
    SameMemory s (s.retLane gid l) ∧ (s.retLane gid l).sys.csr = s.sys.csr := by
  unfold State.retLane
  split
  · exact ⟨sameMemory_refl s, rfl⟩
  · rw [popFrame_onChip h]
    split <;> exact ⟨sameMemory_of_eq rfl rfl, rfl⟩

/-- The lanes of a set return. -/
def State.retLanes (s : State) (gid : Nat) (ls : List Nat) : State := eachLane s ls fun s l => s.retLane gid l

theorem sameBase_retLanes (s : State) (gid : Nat) (ls : List Nat) : SameBase gid s (s.retLanes gid ls) :=
  eachLane_rel (.refl gid) (fun _ _ _ => .trans) (fun s l => sameBase_retLane s gid l) s ls

theorem retLanes_memory {s : State} {gid : Nat} {ls : List Nat} (hn : ls.Nodup) (h : StacksOnChip s gid ls) :
    SameMemory s (s.retLanes gid ls) :=
  sameMemory_eachLane (fun _ _ h => retLane_memory h) (fun s l => (congrArg Group.part (sameBase_retLane s gid l).base :))
    (fun s _ _ hk => lane_retLane_other s hk) ls hn s h

/-- No stack of a group goes to memory: it is a system core's, or its partition has no call-stack region (R430). -/
def State.NoRegion (s : State) (gid : Nat) : Prop := isSysGid gid = true ∨ (s.csr (stkKey (s.group gid).part)).getLsbD 0 = false

theorem retLanes_lanes {s : State} {gid : Nat} {ls : List Nat} (hn : ls.Nodup) (hl : ∀ l ∈ ls, l < (s.group gid).lanes.length) :
    (∀ l ∈ ls, Returned (StacksOnChip s gid ls) (s.lane gid l) ((s.retLanes gid ls).lane gid l))
      ∧ ∀ k, k ∉ ls → (s.retLanes gid ls).lane gid k = s.lane gid k := by
  obtain ⟨hin, hout⟩ := eachLane_lanes (gid := gid) (Q := fun t => s.NoRegion gid → t.NoRegion gid)
    (R := fun _ x y => Returned (x.stack.length < 4 ∨ s.NoRegion gid) x y) (f := fun s l => s.retLane gid l)
    (fun t l hq hs => by
      have hpart : ((t.retLane gid l).group gid).part = (t.group gid).part := (congrArg Group.part (sameBase_retLane t gid l).base :)
      have hcsr := (retLane_memory (l := l) (.inr (hq hs))).2
      unfold State.NoRegion State.csr
      rw [hpart, hcsr]
      exact hq hs)
    (fun s l => (sameBase_retLane s gid l).len) (fun s l k hk => lane_retLane_other s hk)
    (fun t l hq hlt => (lane_retLane hlt).mono fun hc =>
      hc.imp (fun hc k hk => by rw [List.mem_singleton.mp hk]; exact hc) hq) ls hn s id
  exact ⟨fun l hm => (hin l hm (hl l hm)).mono fun hc => hc.imp (fun hc => hc l hm) id, hout⟩

theorem retLanes_hold {s : State} {gid l : Nat} {ls : List Nat} (hn : ls.Nodup) (hm : l ∈ ls) {fr : Frame} {rest : List Frame}
    (hs : (s.lane gid l).stack = fr :: rest) (ht : fr.trap = true) : ((s.retLanes gid ls).group gid).hold = true := by
  induction ls generalizing s with
  | nil => cases hm
  | cons a ls ih =>
    obtain ⟨ha, hn'⟩ := List.nodup_cons.mp hn
    show ((eachLane (s.retLane gid a) ls fun s l => s.retLane gid l).group gid).hold = true
    rcases List.mem_cons.mp hm with rfl | hm
    · exact (sameBase_retLanes (s.retLane gid l) gid ls).holds (retLane_hold hs ht)
    · have hne : l ≠ a := fun h => ha (h ▸ hm)
      exact ih hn' hm (by rw [lane_retLane_other s hne]; exact hs)

/-- The lanes of a set at depth 0. -/
def State.emptyLanes (s : State) (gid : Nat) (ls : List Nat) : List Nat := ls.filter fun l => (s.lane gid l).stack.isEmpty

theorem mem_emptyLanes {s : State} {gid : Nat} {ls : List Nat} {l : Nat} : l ∈ s.emptyLanes gid ls ↔ l ∈ ls ∧ (s.lane gid l).stack = [] := by
  simp [State.emptyLanes]

/-- RET in the lanes that take part: those at depth 0 trap (R148). -/
def State.retAll (s : State) (i : Iss) : State :=
  if s.emptyLanes i.gid i.lanes = [] then s.retLanes i.gid i.lanes
  else (s.retLanes i.gid i.lanes).trap i.gid (s.emptyLanes i.gid i.lanes) (i.cx.at_ 0x07 0)

theorem execRet_issued {f : BF} {s : State} {cx : Cx} (h : Issues s cx f.ctl none [] 0) :
    exec (.ret f) s = .next ((s.start cx f.ctl).retAll (issOf s cx f.ctl)) := show execRet f s = _ from issued_runs h _

/-- What a RET does. -/
structure Returns (cx : Cx) (ls : List Nat) (s t : State) : Prop where
  deep : (∀ l ∈ ls, (s.lane cx.gid l).stack ≠ []) → OtherGroups cx.gid s t ∧ (StacksOnChip s cx.gid ls → SameMemory s t)
  empty : ∀ l ∈ ls, (s.lane cx.gid l).stack = [] → (t.lane cx.gid l).xcause = 0x07 ∧ (t.lane cx.gid l).xpc = cx.pc
  returned : ∀ l ∈ ls, ∀ fr rest, (s.lane cx.gid l).stack = fr :: rest →
    (∃ st, t.lane cx.gid l = (s.lane cx.gid l).returned fr st ∧ Popped3 (fr :: rest) st ∧ (StacksOnChip s cx.gid ls → st = rest))
      ∧ (fr.trap = true → (t.group cx.gid).hold = true)

theorem retAll_returns {s : State} {i : Iss} (hsys : (s.group i.gid).sys = false) (hn : i.lanes.Nodup)
    (hl : ∀ l ∈ i.lanes, l < (s.group i.gid).lanes.length) : Returns i.cx i.lanes s (s.retAll i) := by
  obtain ⟨hin, -⟩ := retLanes_lanes hn hl
  have hbase := sameBase_retLanes s i.gid i.lanes
  have hret : ∀ l ∈ i.lanes, ∀ fr rest, (s.lane i.gid l).stack = fr :: rest → ∃ st, (s.retLanes i.gid i.lanes).lane i.gid l
      = (s.lane i.gid l).returned fr st ∧ Popped3 (fr :: rest) st ∧ (StacksOnChip s i.gid i.lanes → st = rest) := by
    exact fun l hm => (hin l hm).pops
  unfold State.retAll
  split
  · next hnil =>
    have hnone : ∀ l ∈ i.lanes, (s.lane i.gid l).stack ≠ [] := fun l hm hs => by
      have := mem_emptyLanes.mpr ⟨hm, hs⟩
      rw [hnil] at this; cases this
    exact ⟨fun _ => ⟨hbase.others, fun hc => retLanes_memory hn hc⟩, fun l hm hs => absurd hs (hnone l hm),
      fun l hm fr rest hs => ⟨hret l hm fr rest hs, fun ht => retLanes_hold hn hm hs ht⟩⟩
  · next hne =>
    obtain ⟨hother, hmarks, hhold⟩ := trap_traps (s := s.retLanes i.gid i.lanes) (ls := s.emptyLanes i.gid i.lanes)
      ((congrArg Group.sys hbase.base :).trans hsys) hne (hn.filter _)
      (fun l hm => by rw [hbase.len]; exact hl l (mem_emptyLanes.mp hm).1) (i.cx.at_ 0x07 0)
    refine ⟨fun hall => absurd (List.eq_nil_iff_forall_not_mem.mpr fun l hm => ?_) hne, fun l hm hs => hmarks l (mem_emptyLanes.mpr ⟨hm, hs⟩),
      fun l hm fr rest hs => ?_⟩
    · exact hall l (mem_emptyLanes.mp hm).1 (mem_emptyLanes.mp hm).2
    · have hne' : l ∉ s.emptyLanes i.gid i.lanes := fun h => by
        have := (mem_emptyLanes.mp h).2.symm.trans hs
        cases this
      rw [show i.cx.gid = i.gid from rfl, hother l hne', hhold]
      exact ⟨hret l hm fr rest hs, fun ht => retLanes_hold hn hm hs ht⟩

/-- A lane of the issuing word returns as it would before the word's start. -/
theorem Returns.ofStart {s t : State} {cx : Cx} {c : Ctl} {ls : List Nat} (h : Returns cx ls (s.start cx c) t) :
    (∀ l ∈ ls, ∀ fr rest, (s.lane cx.gid l).stack = fr :: rest →
        (∃ st, (t.lane cx.gid l).stack = st ∧ Popped3 (fr :: rest) st ∧ (StacksOnChip s cx.gid ls → st = rest))
          ∧ (t.lane cx.gid l).pc = fr.addr ∧ (t.lane cx.gid l).pos = (if fr.trap then fr.pos else 0)
          ∧ (fr.trap = true → (t.group cx.gid).hold = true ∧ (t.lane cx.gid l).left = fr.left ∧ (t.lane cx.gid l).cls = fr.cls))
      ∧ ((∀ l ∈ ls, (s.lane cx.gid l).stack ≠ []) → OtherGroups cx.gid s t ∧ (StacksOnChip s cx.gid ls → SameMemory s t))
      ∧ ∀ l ∈ ls, (s.lane cx.gid l).stack = [] → (t.lane cx.gid l).xcause = 0x07 ∧ (t.lane cx.gid l).xpc = cx.pc := by
  obtain ⟨deep, empty, returned⟩ := h
  simp only [start_stack] at deep empty returned
  refine ⟨fun l hm fr rest hs => ?_, fun hall => ?_, empty⟩
  · obtain ⟨⟨st, hlane, hp, hc⟩, hhold⟩ := returned l hm fr rest hs
    have hpop : (t.lane cx.gid l).stack = st := by rw [hlane]; unfold Lane.returned; split <;> rfl
    refine ⟨⟨st, hpop, hp, fun h => hc (start_onChip h c)⟩, ?_⟩
    rw [hlane]
    unfold Lane.returned
    split
    · next ht => exact ⟨rfl, rfl, fun _ => ⟨hhold ht, rfl, rfl⟩⟩
    · next ht => exact ⟨rfl, rfl, fun h => absurd h ht⟩
  · obtain ⟨ho, hm⟩ := deep hall
    exact ⟨fun k hk => (ho k hk).trans (start_otherGroups s cx c k hk),
      fun hc => sameMemory_trans (start_sameMemory s cx c) (hm (start_onChip hc c))⟩

end Sys2Proof.Machine

open Sys2Proof Sys2Proof.Machine Sys2Proof.Claims in
/-- Settles O10: a spilled frame and a frame read back, the calls of the lanes below depth 64, and the returns. -/
theorem callsAndReturns : Obligations.CallsAndReturns := by
  unfold Obligations.CallsAndReturns
  refine ⟨fun s s1 gid l pa fr old va k => ?_, fun s s1 gid l pa fr f1 f2 f3 old rest va k hs hl hva hx hin hq => ?_,
    fun f s cx hl hsys => ⟨fun hi => ?_, fun hi => ?_, fun hi => ?_⟩⟩
  · intro n hl hn hold hva hx hin hq
    obtain ⟨hbytes, hrest⟩ := poke_quiet hq .memSide k (a := pa) (bs := leBytes 8 old.word.toNat) (by simp [leBytes])
      (by rw [leBytes_length]; exact hin)
    rw [leBytes_length] at hbytes hrest
    rw [pushFrame_spills hl hn hold hva hx]
    exact ⟨fun j hj => (hbytes j hj).trans (getD_leBytes_word _ hj), hrest⟩
  · exact popFrame_fills hs hl hva hx hin hq
  · obtain ⟨t, ht, shallow, called, full⟩ := execCall_calls hl hsys hi
    exact ⟨t, ht, shallow, fun l hm => ⟨fun hd => ⟨⟨_, (called l hm hd).1, rfl, rfl⟩, (called l hm hd).2⟩, full l hm⟩⟩
  · obtain ⟨t, ht, shallow, called, full⟩ := execCallx_calls hl hsys hi
    exact ⟨t, ht, shallow, fun l hm => ⟨fun hd => ⟨⟨_, (called l hm hd).1, rfl, rfl⟩, (called l hm hd).2⟩, full l hm⟩⟩
  · obtain ⟨returned, deep, empty⟩ := (retAll_returns (s := s.start cx f.ctl) (i := issOf s cx f.ctl) (start_sys_eq hsys _) (taking_nodup ..)
      fun l hm => by rw [start_length]; exact hl l (taking_mask hm)).ofStart
    refine ⟨_, execRet_issued hi, deep, fun l hm => ?_⟩
    split
    · next hs => exact empty l hm hs
    · next r rest hs =>
      obtain ⟨⟨st, hst, ⟨hlen, hk⟩, hc⟩, hpc, hpos, htrap⟩ := returned l hm r rest hs
      subst hst
      exact ⟨hlen, hk, hc, hpc, hpos, htrap⟩
end

section
/-! # Lanes that go on (R113), releases and acquires (R198): what they leave of groups, lanes and join registers -/
namespace Sys2Proof.Machine
open Sys2Proof.Claims

@[simp] theorem acquire_apart (s : State) (key quad : Nat) (scope : Scope) : (s.acquire key quad scope).apart = s.apart := by
  cases scope <;> simp [State.acquire]

theorem acquireBy_apart (s : State) (gid : Nat) (lanes : LaneMask) (scope : Scope) : (s.acquireBy gid lanes scope).apart = s.apart :=
  acquire_apart s ..

theorem releaseBy_apart (s : State) (gid : Nat) (lanes : LaneMask) : (s.releaseBy gid lanes).apart = s.apart :=
  release_apart s (keyOf gid)

/-- The part of a lane that its waits, their status and the record of a withdrawal do not touch. -/
def Lane.core (x : Lane) : Lane := { x with park := none, since := 0, p := 0, undo := [] }
/-- The part of a group that neither its lanes nor its hold make up. -/
def Group.bare (g : Group) : Group := { g with lanes := [], hold := false }

/-- Lanes go on, or release, or acquire: groups keep all but their lanes and hold, lanes all but their wait and predicates, blocks their
join registers; no lane parks. -/
structure Resumed (s t : State) : Prop where
  shell : { t.shell with groups := [], waits := [] } = { s.shell with groups := [], waits := [] }
  apart : t.apart = s.apart
  joins : ∀ b, (t.block b).map Block.joins = (s.block b).map Block.joins
  bare : ∀ k, (t.group k).bare = (s.group k).bare
  len : ∀ k, (t.group k).lanes.length = (s.group k).lanes.length
  lanes : ∀ k l, (t.lane k l).core = (s.lane k l).core
  park : ∀ k l, (t.lane k l).park = none ∨ (t.lane k l).park = (s.lane k l).park
  has : ∀ k, s.hasGroup k = true → t.hasGroup k = true

theorem Resumed.refl (s : State) : Resumed s s :=
  ⟨rfl, rfl, fun _ => rfl, fun _ => rfl, fun _ => rfl, fun _ _ => rfl, fun _ _ => .inr rfl, fun _ => id⟩

theorem Resumed.trans {a b c : State} (h : Resumed a b) (k : Resumed b c) : Resumed a c :=
  ⟨k.shell.trans h.shell, k.apart.trans h.apart, fun x => (k.joins x).trans (h.joins x), fun x => (k.bare x).trans (h.bare x),
    fun x => (k.len x).trans (h.len x), fun x l => (k.lanes x l).trans (h.lanes x l),
    fun x l => (k.park x l).elim .inl fun e => (h.park x l).imp e.trans e.trans, fun x e => k.has x (h.has x e)⟩

theorem Resumed.fold {α : Type} {f : State → α → State} (h : ∀ s a, Resumed s (f s a)) (l : List α) (s : State) : Resumed s (l.foldl f s) := by
  induction l generalizing s with
  | nil => exact .refl s
  | cons a l ih => exact (h s a).trans (ih _)

section
variable {s t : State} (h : Resumed s t)
include h
theorem Resumed.clock : t.clock = s.clock := (congrArg State.clock h.shell :)
theorem Resumed.eng : t.eng = s.eng := (congrArg State.eng h.shell :)
theorem Resumed.launches : t.launches = s.launches := (congrArg State.launches h.shell :)
theorem Resumed.bank : t.ms.bank = s.ms.bank := (congrArg Prod.snd h.apart :)
theorem Resumed.blk (k : Nat) : (t.group k).blk = (s.group k).blk := (congrArg Group.blk (h.bare k) :)
theorem Resumed.vReg (k l r : Nat) : (t.lane k l).vReg r = (s.lane k l).vReg r := (congrArg (fun x => x.vReg r) (h.lanes k l) :)
theorem Resumed.unparked {k l : Nat} (hp : (s.lane k l).park = none) : (t.lane k l).park = none := (h.park k l).elim id fun e => e.trans hp

theorem Resumed.join (b : BlockRef) (j : Nat) : t.join b j = s.join b j := by
  have hj := h.joins b
  have hs : t.sys.joins = s.sys.joins := (congrArg Prod.fst h.apart :)
  unfold State.join
  cases ht : t.block b <;> cases hb : s.block b <;> rw [ht, hb] at hj
  · rw [hs]
  · cases hj
  · cases hj
  · rw [Option.map_some, Option.map_some, Option.some.injEq] at hj
    dsimp only
    rw [hj]

theorem Resumed.hasJoin {b : BlockRef} {j : Nat} (hs : s.HasJoin b j) : t.HasJoin b j := by
  have hj := h.joins b
  rcases hs with ⟨y, hy, hlt⟩ | hn
  · rw [hy] at hj
    obtain ⟨z, hz, hzj⟩ := Option.map_eq_some_iff.mp hj
    exact .inl ⟨z, hz, by rw [hzj]; exact hlt⟩
  · rw [hn] at hj
    exact .inr (Option.map_eq_none_iff.mp hj)
end

/-! ### The actions -/

theorem resumed_of_groups {s t : State} (hsh : { t.shell with groups := [], waits := [] } = { s.shell with groups := [], waits := [] })
    (ha : t.apart = s.apart) (hb : ∀ b, (t.block b).map Block.joins = (s.block b).map Block.joins) (hg : t.groups = s.groups) : Resumed s t :=
  ⟨hsh, ha, hb, fun k => by rw [group_of_groups hg], fun k => by rw [group_of_groups hg], fun k l => by rw [lane_of_groups hg],
    fun k l => .inr (by rw [lane_of_groups hg]), fun k h => by rw [hasGroup_of_groups hg]; exact h⟩

theorem resumed_of_outer {s t : State} (h : t.outer = s.outer) (ha : t.apart = s.apart) : Resumed s t :=
  resumed_of_groups (congrArg (fun u : State => { u with blocks := [], groups := [], waits := [] }) h) ha
    (fun b => by unfold State.block; rw [blocks_of_outer h]) (groups_of_outer h)

theorem resumed_modLane (s : State) (gid l : Nat) {f : Lane → Lane} (hf : ∀ x, (f x).core = x.core)
    (hp : ∀ x, (f x).park = none ∨ (f x).park = x.park) : Resumed s (s.modLane gid l f) := by
  refine ⟨rfl, rfl, fun _ => rfl, fun k => ?_, fun k => length_modLane .., fun k j => ?_, fun k j => ?_, fun k h => hasGroup_modLane h gid l f⟩
  · rw [group_modLane_with]; rfl
  · by_cases h : k = gid ∧ j = l
    · obtain ⟨rfl, rfl⟩ := h
      rw [lane_modLane]
      split
      · exact hf _
      · rfl
    · rw [lane_modLane_other _ _ _ _ _ _ (not_and_or.mp h)]
  · by_cases h : k = gid ∧ j = l
    · obtain ⟨rfl, rfl⟩ := h
      rw [lane_modLane]
      split
      · exact hp _
      · exact .inr rfl
    · exact .inr (by rw [lane_modLane_other _ _ _ _ _ _ (not_and_or.mp h)])

theorem resumed_hold (s : State) (gid : Nat) : Resumed s (s.modGroup gid fun g => { g with hold := true }) := by
  have hl := fun k l => lane_modGroup_with s gid k l (fun g => { g with hold := true }) fun _ => rfl
  refine ⟨rfl, rfl, fun _ => rfl, fun k => ?_, fun k => ?_, fun k l => by rw [hl], fun k l => .inr (by rw [hl]),
    fun k h => hasGroup_modGroup h gid _⟩
  · rw [group_modGroup]; split
    · next h => rw [h]; rfl
    · rfl
  · rw [group_modGroup]; split
    · next h => rw [h]
    · rfl

theorem resumed_wake (s : State) (w : Wait) : Resumed s (s.wake w) := by
  rw [wake_eq]
  have hl : Resumed s (s.wakeLanes w) := .fold (fun s l => resumed_modLane s w.gid l
    (fun x => by unfold Lane.woken; split <;> rfl) (fun x => by rw [woken_park]; split <;> simp)) _ s
  exact (hl.trans (resumed_hold _ w.gid)).trans (resumed_of_groups rfl rfl (fun _ => rfl) rfl)

theorem resumed_acquireBy (s : State) (gid : Nat) (lanes : LaneMask) (scope : Scope) : Resumed s (s.acquireBy gid lanes scope) :=
  resumed_of_outer (acquireBy_outer ..) (acquireBy_apart ..)

theorem resumed_barAcquire (s : State) (gid : Nat) (lanes : LaneMask) (b : BlockRef) (scope : Scope) :
    Resumed s (s.barAcquire gid lanes b scope) := by
  unfold State.barAcquire
  split
  · exact resumed_acquireBy ..
  · split
    · exact resumed_acquireBy ..
    · exact .refl s
  all_goals exact resumed_acquireBy ..

/-- A release notes what the blocks hold of former bytes, and leaves their join registers. -/
theorem releaseBy_joins (s : State) (gid : Nat) (lanes : LaneMask) (b : BlockRef) :
    ((s.releaseBy gid lanes).block b).map Block.joins = (s.block b).map Block.joins := by
  have hb : (s.release (keyOf gid)).blocks = s.blocks := blocks_of_outer (release_outer s (keyOf gid))
  unfold State.releaseBy State.block
  dsimp only
  rw [hb, List.find?_map, Option.map_map]
  rfl

theorem resumed_releaseBy (s : State) (gid : Nat) (lanes : LaneMask) : Resumed s (s.releaseBy gid lanes) :=
  resumed_of_groups (congrArg (fun u : State => { u with groups := [], waits := [] }) (releaseBy_shell s gid lanes)) (releaseBy_apart s gid lanes)
    (releaseBy_joins s gid lanes) (groups_of_shell (releaseBy_shell s gid lanes))

theorem resumed_writeP (s : State) (gid l p : Nat) (val : Bool) : Resumed s (s.writeP gid l p val) := by
  obtain ⟨d, js, f, h, -, -, hf⟩ := writeP_form s gid l p val
  rw [h]
  refine (resumed_of_groups (s := s) (t := s.withResults d js) rfl rfl (fun _ => rfl) rfl).trans (resumed_modLane _ gid l (fun x => ?_) fun x => .inr ?_)
  · rw [hf]; rfl
  · rw [hf]

theorem resumed_wakeBar (s : State) (w : Wait) (b : BlockRef) (scope : Scope) (st : Option (BitVec 8)) (passed : Bool) :
    Resumed s (s.wakeBar w b scope st passed) := by
  have h := (resumed_wake s w).trans (resumed_barAcquire (s.wake w) w.gid w.lanes b scope)
  unfold State.wakeBar
  cases st with
  | none => exact h
  | some p => exact h.trans (.fold (fun s l => resumed_writeP s w.gid l p.toNat passed) _ _)

/-! ### The lanes that wait on a token -/

/-- One wait, as a phase of a join register completes (R105). -/
def State.wakeOn (s : State) (b : BlockRef) (j : Nat) (t : Word) (w : Wait) : State :=
  match w.kind with
  | .bar j' token scope st => if j' = j ∧ token = t ∧ (s.group w.gid).blk = b then s.wakeBar w b scope st false else s
  | _ => s

theorem wakeToken_eq (s : State) (b : BlockRef) (j : Nat) (t : Word) : s.wakeToken b j t = s.waits.foldl (fun s w => s.wakeOn b j t w) s := by
  rfl

theorem resumed_wakeOn (s : State) (b : BlockRef) (j : Nat) (t : Word) (w : Wait) : Resumed s (s.wakeOn b j t w) := by
  unfold State.wakeOn
  split
  · split
    · exact resumed_wakeBar ..
    · exact .refl s
  · exact .refl s

theorem resumed_wakeToken (s : State) (b : BlockRef) (j : Nat) (t : Word) : Resumed s (s.wakeToken b j t) := by
  rw [wakeToken_eq]
  exact .fold (fun s w => resumed_wakeOn s b j t w) _ s

theorem wakeOn_hit {s : State} {b : BlockRef} {j : Nat} {t : Word} {w : Wait} {scope : Scope} {st : Option (BitVec 8)}
    (hk : w.kind = .bar j t scope st) (hb : (s.group w.gid).blk = b) : s.wakeOn b j t w = s.wakeBar w b scope st false := by
  unfold State.wakeOn
  rw [hk]
  exact if_pos ⟨rfl, rfl, hb⟩

theorem wakeBar_park {s : State} {w : Wait} {l : Nat} (hl : l ∈ lanesOf w.lanes) (hp : (s.lane w.gid l).park = some w.id) (b : BlockRef)
    (scope : Scope) (st : Option (BitVec 8)) (passed : Bool) : ((s.wakeBar w b scope st passed).lane w.gid l).park = none := by
  have h0 : ((s.wake w).lane w.gid l).park = none := by rw [park_wake, if_pos ⟨hl, hp⟩]
  have h1 := (resumed_barAcquire (s.wake w) w.gid w.lanes b scope).unparked h0
  unfold State.wakeBar
  cases st with
  | none => exact h1
  | some p => exact (Resumed.fold (fun s l => resumed_writeP s w.gid l p.toNat passed) _ _).unparked h1

/-- A lane that waits on the completed token goes on (R105, R106). -/
theorem wakeToken_park {s : State} {b : BlockRef} {j : Nat} {t : Word} {w : Wait} {l : Nat} {scope : Scope} {st : Option (BitVec 8)}
    (hw : w ∈ s.waits) (hk : w.kind = .bar j t scope st) (hb : (s.group w.gid).blk = b) (hl : l ∈ lanesOf w.lanes)
    (hp : (s.lane w.gid l).park = some w.id) : ((s.wakeToken b j t).lane w.gid l).park = none := by
  rw [wakeToken_eq]
  generalize s.waits = ws at hw
  induction ws generalizing s with
  | nil => cases hw
  | cons v ws ih =>
    rw [List.foldl_cons]
    have hrest : ∀ u : State, Resumed u (ws.foldl (fun s w => s.wakeOn b j t w) u) := fun u => .fold (fun s w => resumed_wakeOn s b j t w) _ u
    rcases List.mem_cons.mp hw with rfl | hw
    · refine (hrest _).unparked ?_
      rw [wakeOn_hit hk hb]
      exact wakeBar_park hl hp ..
    · rcases (resumed_wakeOn s b j t v).park w.gid l with h | h
      · exact (hrest _).unparked h
      · exact ih (((resumed_wakeOn s b j t v).blk _).trans hb) (h.trans hp) hw

end Sys2Proof.Machine
end

section
/-! # Arrivals (R105, R156) -/
namespace Sys2Proof.Machine
open Sys2Proof.Claims

theorem Kept.join {gid : Nat} {s t : State} (h : Kept gid s t) (b : BlockRef) (j : Nat) : t.join b j = s.join b j := by
  unfold State.join State.block; rw [h.blocks, h.sys]
theorem Kept.hasJoin {gid : Nat} {s t : State} (h : Kept gid s t) {b : BlockRef} {j : Nat} (hs : s.HasJoin b j) : t.HasJoin b j := by
  unfold State.HasJoin State.block; rw [h.blocks]; exact hs

theorem writeV_lane (s : State) (gid l r : Nat) (val : Word) (k : Nat) : ∃ x : Lane, (s.writeV gid l r val).lane gid k
    = { s.lane gid k with v := x.v, undo := x.undo, olds := x.olds } := by
  obtain ⟨d, js, f, h, -, -, hf⟩ := writeV_form s gid l r val
  rw [h, lane_modLane, group_results, lane_results, lane_results]
  split
  · next hk => exact ⟨f (s.lane gid l), by rw [hf, hk.1]⟩
  · exact ⟨s.lane gid k, rfl⟩

theorem writeV_park (s : State) (gid l r : Nat) (val : Word) (k : Nat) : ((s.writeV gid l r val).lane gid k).park = (s.lane gid k).park := by
  obtain ⟨x, h⟩ := writeV_lane s gid l r val k
  rw [h]

/-! ### Counting an arrival -/

/-- A lane takes the token before its arrival, where it names a register for it (R156). -/
def State.takeToken (s : State) (gid l : Nat) (token : Option Nat) (t : Word) : State :=
  match token with
  | some r => s.writeV gid l r t
  | none => s

theorem kept_takeToken (s : State) (gid l : Nat) (token : Option Nat) (t : Word) : Kept gid s (s.takeToken gid l token t) := by
  cases token with
  | none => exact .refl gid s
  | some r => exact kept_writeV ..

theorem takeToken_park (s : State) (gid l : Nat) (token : Option Nat) (t : Word) (k : Nat) :
    ((s.takeToken gid l token t).lane gid k).park = (s.lane gid k).park := by
  cases token with
  | none => rfl
  | some r => exact writeV_park ..

theorem takeToken_vReg {s : State} {gid l r : Nat} (t : Word) (hl : l < (s.group gid).lanes.length) :
    ((s.takeToken gid l (some r) t).lane gid l).vReg r = t :=
  (writeV_vReg s gid l r t l r).trans (if_pos ⟨rfl, hl, rfl⟩)

theorem takeToken_other {s : State} {gid l k : Nat} (token : Option Nat) (t : Word) (r : Nat) (hk : k ≠ l) :
    ((s.takeToken gid l token t).lane gid k).vReg r = (s.lane gid k).vReg r := by
  cases token with
  | none => rfl
  | some r' => exact (writeV_vReg s gid l r' t k r).trans (if_neg fun h => hk h.1)

/-- A join register after an arrival that completes no phase (R105). -/
def Join.counted (x : Join) (who : Nat) : Join := { x with a := x.a + 1, arrived := x.arrived ++ [who] }
/-- A join register after the arrival that completes its phase (R105). -/
def Join.completed (x : Join) (who clock : Nat) : Join := { x.counted who with t := x.t + 1, a := 0, arrived := [], last := clock + 1 }

theorem arrive_counts {s : State} {b : BlockRef} {j : Nat} (h : (s.join b j).nextCompletes = false) (who : Nat) :
    s.arrive b j who = s.setJoin b j ((s.join b j).counted who) := by
  unfold State.arrive
  dsimp only
  rw [h, if_neg Bool.false_ne_true]
  rfl

/-- An arrival that completes the phase: what the lanes that wait on its token go on from. -/
def State.completing (s : State) (b : BlockRef) (j who : Nat) : State :=
  (s.setJoin b j ((s.join b j).counted who)).setJoin b j ((s.join b j).completed who s.clock)

theorem arrive_completes {s : State} {b : BlockRef} {j : Nat} (hj : s.HasJoin b j) (h : (s.join b j).nextCompletes = true) (who : Nat) :
    s.arrive b j who = (s.completing b j who).wakeToken b j (s.join b j).t := by
  unfold State.arrive
  dsimp only
  rw [h, if_pos rfl]
  unfold State.completePhase
  rw [show ({ s.join b j with a := (s.join b j).a + 1, arrived := (s.join b j).arrived ++ [who] } : Join) = (s.join b j).counted who from rfl]
  dsimp only
  rw [join_setJoin_self hj, setJoin_clock]
  rfl

theorem completing_groups (s : State) (b : BlockRef) (j who : Nat) : (s.completing b j who).groups = s.groups :=
  (setJoin_groups ..).trans (setJoin_groups ..)
theorem completing_waits (s : State) (b : BlockRef) (j who : Nat) : (s.completing b j who).waits = s.waits :=
  (setJoin_waits ..).trans (setJoin_waits ..)
theorem completing_join {s : State} {b : BlockRef} {j : Nat} (hj : s.HasJoin b j) (who : Nat) :
    (s.completing b j who).join b j = (s.join b j).completed who s.clock := join_setJoin_self (hasJoin_setJoin hj _) _

/-- The join register after a completing arrival: the next token and no arrival (R105). -/
theorem arrive_completes_join {s : State} {b : BlockRef} {j : Nat} (hj : s.HasJoin b j) (h : (s.join b j).nextCompletes = true) (who : Nat) :
    (s.arrive b j who).join b j = (s.join b j).completed who s.clock := by
  rw [arrive_completes hj h, (resumed_wakeToken ..).join, completing_join hj]

/-! ### One lane's arrival -/

/-- The number under which a lane arrives (R104). -/
def State.arriver (s : State) (gid l : Nat) : Nat := 32 * (s.group gid).num + l

theorem arriveLane_eq (s : State) (cx : Cx) (l : Nat) (a : Arrival) : s.arriveLane cx l a
    = (let b := (s.group cx.gid).blk
       let t := (s.join b a.join).t
       let s2 := (s.takeToken cx.gid l a.token t).arrive b a.join (s.arriver cx.gid l)
       if !a.waits then s2
       else if (s2.join b a.join).t ≠ t then s2.barAcquire cx.gid (maskOf [l]) b a.scope
       else s2.parkBar cx l a.join t a.scope none) := by
  rfl

/-- The state after the arrival of a lane has been counted. -/
def State.countArrival (s : State) (cx : Cx) (l : Nat) (a : Arrival) : State :=
  (s.takeToken cx.gid l a.token (s.join (s.group cx.gid).blk a.join).t).setJoin (s.group cx.gid).blk a.join
    ((s.join (s.group cx.gid).blk a.join).counted (s.arriver cx.gid l))

/-- The state after the arrival of a lane has completed a phase. -/
def State.completeArrival (s : State) (cx : Cx) (l : Nat) (a : Arrival) : State :=
  ((s.takeToken cx.gid l a.token (s.join (s.group cx.gid).blk a.join).t).completing (s.group cx.gid).blk a.join (s.arriver cx.gid l)).wakeToken
    (s.group cx.gid).blk a.join (s.join (s.group cx.gid).blk a.join).t

theorem arriveLane_counts {s : State} {cx : Cx} {a : Arrival} (hj : s.HasJoin (s.group cx.gid).blk a.join)
    (h : (s.join (s.group cx.gid).blk a.join).nextCompletes = false) (l : Nat) : s.arriveLane cx l a
      = if !a.waits then s.countArrival cx l a
        else (s.countArrival cx l a).parkBar cx l a.join (s.join (s.group cx.gid).blk a.join).t a.scope none := by
  have hk := kept_takeToken s cx.gid l a.token (s.join (s.group cx.gid).blk a.join).t
  rw [arriveLane_eq]
  dsimp only
  rw [arrive_counts (by rw [hk.join]; exact h), hk.join, join_setJoin_self (hk.hasJoin hj),
    if_neg (show ¬(Join.counted _ _).t ≠ (s.join (s.group cx.gid).blk a.join).t from fun h => h rfl)]
  rfl

theorem arriveLane_completes {s : State} {cx : Cx} {a : Arrival} (hj : s.HasJoin (s.group cx.gid).blk a.join)
    (h : (s.join (s.group cx.gid).blk a.join).nextCompletes = true) (l : Nat) : s.arriveLane cx l a
      = if !a.waits then s.completeArrival cx l a
        else (s.completeArrival cx l a).barAcquire cx.gid (maskOf [l]) (s.group cx.gid).blk a.scope := by
  have hk := kept_takeToken s cx.gid l a.token (s.join (s.group cx.gid).blk a.join).t
  have hjoin := arrive_completes_join (hk.hasJoin hj) (by rw [hk.join]; exact h) (s.arriver cx.gid l)
  have hne : (Join.completed (s.join (s.group cx.gid).blk a.join) (s.arriver cx.gid l) s.clock).t ≠ (s.join (s.group cx.gid).blk a.join).t := by
    show (s.join (s.group cx.gid).blk a.join).t + 1 ≠ _
    bv_omega
  rw [arriveLane_eq]
  dsimp only
  rw [hjoin, hk.join, hk.clock, if_pos hne, arrive_completes (hk.hasJoin hj) (by rw [hk.join]; exact h), hk.join]
  rfl

theorem setJoin_park (s : State) (b : BlockRef) (j : Nat) (x : Join) (k l : Nat) : ((s.setJoin b j x).lane k l).park = (s.lane k l).park := by
  rw [lane_of_groups (setJoin_groups ..)]

/-! ### Parking in BAR -/

theorem parkBar_form (s : State) (cx : Cx) (l j : Nat) (token : Word) (scope : Scope) (st : Option (BitVec 8)) :
    ∃ d, s.parkBar cx l j token scope st = { s.park cx [l] (.bar j token scope st) with due := d } := by
  unfold State.parkBar
  dsimp only
  split
  · exact ⟨_, rfl⟩
  · exact ⟨_, rfl⟩

theorem parkBar_groups (s : State) (cx : Cx) (l j : Nat) (token : Word) (scope : Scope) (st : Option (BitVec 8)) :
    (s.parkBar cx l j token scope st).groups = (s.park cx [l] (.bar j token scope st)).groups := by
  obtain ⟨d, h⟩ := parkBar_form s cx l j token scope st; rw [h]

theorem parkBar_waits (s : State) (cx : Cx) (l j : Nat) (token : Word) (scope : Scope) (st : Option (BitVec 8)) :
    (s.parkBar cx l j token scope st).waits = s.waits ++ [s.newWait cx [l] (.bar j token scope st)] := by
  obtain ⟨d, h⟩ := parkBar_form s cx l j token scope st; rw [h]; exact park_waits ..

theorem parkBar_lane {s : State} {cx : Cx} {l : Nat} (hl : l < (s.group cx.gid).lanes.length) (j : Nat) (token : Word) (scope : Scope)
    (st : Option (BitVec 8)) (k : Nat) : (s.parkBar cx l j token scope st).lane cx.gid k
      = if k = l then { s.lane cx.gid k with park := some s.nextId } else s.lane cx.gid k := by
  rw [lane_of_groups (parkBar_groups ..), lane_park _ _ (List.nodup_singleton l)]
  refine if_congr ?_ rfl rfl
  rw [List.mem_singleton]
  exact ⟨And.left, fun h => ⟨h, h ▸ hl⟩⟩

/-- What parking lanes leaves of the blocks and the clock. -/
theorem park_machine (s : State) (cx : Cx) (ls : List Nat) (kind : WaitKind) : (s.park cx ls kind).blocks = s.blocks
    ∧ (s.park cx ls kind).sys = s.sys ∧ (s.park cx ls kind).clock = s.clock := by
  obtain ⟨-, hb, -, -, -, -, hs⟩ := (parksOnly_park s cx ls kind).machine
  refine ⟨hb, hs, ?_⟩
  rw [park_eq]
  exact (parkLanes_same s cx.gid ls).2.1

theorem parkBar_machine (s : State) (cx : Cx) (l j : Nat) (token : Word) (scope : Scope) (st : Option (BitVec 8)) :
    (s.parkBar cx l j token scope st).blocks = s.blocks ∧ (s.parkBar cx l j token scope st).sys = s.sys
      ∧ (s.parkBar cx l j token scope st).clock = s.clock := by
  obtain ⟨d, h⟩ := parkBar_form s cx l j token scope st; rw [h]; exact park_machine s cx [l] (.bar j token scope st)

/-- A group after lanes of it have parked, but for those lanes. -/
theorem park_bare (s : State) (cx : Cx) (ls : List Nat) (kind : WaitKind) :
    ((s.park cx ls kind).group cx.gid).bare = (s.group cx.gid).bare := by
  rw [park_eq]
  exact eachLane_proj (fun s => (s.group cx.gid).bare) (fun s l => by rw [group_modLane_with]; rfl) s ls

theorem join_of_machine {s t : State} (hb : t.blocks = s.blocks) (hs : t.sys = s.sys) (b : BlockRef) (j : Nat) : t.join b j = s.join b j := by
  unfold State.join State.block; rw [hb, hs]
theorem hasJoin_of_blocks {s t : State} (hb : t.blocks = s.blocks) {b : BlockRef} {j : Nat} (h : s.HasJoin b j) : t.HasJoin b j := by
  unfold State.HasJoin State.block; rw [hb]; exact h

/-! ### The lanes of a word, one after the other -/

section
variable (s : State) (cx : Cx) (l : Nat) (a : Arrival)

theorem countArrival_groups : (s.countArrival cx l a).groups
    = (s.takeToken cx.gid l a.token (s.join (s.group cx.gid).blk a.join).t).groups := setJoin_groups ..
theorem countArrival_waits : (s.countArrival cx l a).waits = s.waits := (setJoin_waits ..).trans (kept_takeToken s cx.gid l a.token _).waits
theorem countArrival_clock : (s.countArrival cx l a).clock = s.clock := (setJoin_clock ..).trans (kept_takeToken s cx.gid l a.token _).clock
theorem countArrival_blk : ((s.countArrival cx l a).group cx.gid).blk = (s.group cx.gid).blk := by
  rw [group_of_groups (countArrival_groups s cx l a)]
  exact (congrArg Group.blk (kept_takeToken s cx.gid l a.token _).base :)
theorem countArrival_len : ((s.countArrival cx l a).group cx.gid).lanes.length = (s.group cx.gid).lanes.length := by
  rw [group_of_groups (countArrival_groups s cx l a)]
  exact (kept_takeToken s cx.gid l a.token _).len
theorem countArrival_park (k : Nat) : ((s.countArrival cx l a).lane cx.gid k).park = (s.lane cx.gid k).park := by
  rw [lane_of_groups (countArrival_groups s cx l a), takeToken_park]

variable {s cx l a}

theorem countArrival_vReg {r : Nat} (ha : a.token = some r) (hl : l < (s.group cx.gid).lanes.length) :
    ((s.countArrival cx l a).lane cx.gid l).vReg r = (s.join (s.group cx.gid).blk a.join).t := by
  rw [lane_of_groups (countArrival_groups s cx l a), ha, takeToken_vReg _ hl]
theorem countArrival_other {k : Nat} (hk : k ≠ l) (r : Nat) : ((s.countArrival cx l a).lane cx.gid k).vReg r = (s.lane cx.gid k).vReg r := by
  rw [lane_of_groups (countArrival_groups s cx l a), takeToken_other _ _ _ hk]
theorem countArrival_join (hj : s.HasJoin (s.group cx.gid).blk a.join) : (s.countArrival cx l a).join (s.group cx.gid).blk a.join
    = (s.join (s.group cx.gid).blk a.join).counted (s.arriver cx.gid l) := join_setJoin_self ((kept_takeToken s cx.gid l a.token _).hasJoin hj) _
theorem countArrival_has (hj : s.HasJoin (s.group cx.gid).blk a.join) :
    (s.countArrival cx l a).HasJoin (s.group cx.gid).blk a.join := hasJoin_setJoin ((kept_takeToken s cx.gid l a.token _).hasJoin hj) _
end

/-- A lane waits in BAR on a token (R107, R156). -/
def State.waitsInBar (s : State) (gid l j : Nat) (t : Word) (scope : Scope) : Prop :=
  ∃ w ∈ s.waits, w.gid = gid ∧ w.kind = .bar j t scope none ∧ l ∈ lanesOf w.lanes ∧ (s.lane gid l).park = some w.id

/-- A join register, `x` at first, to which `k` lanes of a group have arrived while no phase has completed (R105). -/
structure Counting (gid : Nat) (b : BlockRef) (j : Nat) (x : Join) (n clock k : Nat) (v : State) : Prop where
  blk : (v.group gid).blk = b
  len : (v.group gid).lanes.length = n
  has : v.HasJoin b j
  clock : v.clock = clock
  count : (v.join b j).a = x.a + k
  token : (v.join b j).t = x.t
  total : (v.join b j).e = x.e
  last : (v.join b j).last = x.last

theorem Counting.of_machine {gid : Nat} {b : BlockRef} {j : Nat} {x : Join} {n clock k : Nat} {u v : State}
    (h : Counting gid b j x n clock k u) (hb : v.blocks = u.blocks) (hs : v.sys = u.sys) (hc : v.clock = u.clock)
    (hbare : (v.group gid).bare = (u.group gid).bare) (hlen : (v.group gid).lanes.length = (u.group gid).lanes.length) :
    Counting gid b j x n clock k v := by
  have hj := join_of_machine hb hs b j
  exact ⟨(congrArg Group.blk hbare :).trans h.blk, hlen.trans h.len, hasJoin_of_blocks hb h.has, hc.trans h.clock, by rw [hj]; exact h.count,
    by rw [hj]; exact h.token, by rw [hj]; exact h.total, by rw [hj]; exact h.last⟩

theorem Counting.next {cx : Cx} {b : BlockRef} {a : Arrival} {x : Join} {n clock k : Nat} {v : State}
    (h : Counting cx.gid b a.join x n clock k v) (l : Nat) : Counting cx.gid b a.join x n clock (k + 1) (v.countArrival cx l a) := by
  obtain ⟨rfl, hlen, hhas, hclock, hcount, htoken, htotal, hlast⟩ := h
  have hj := countArrival_join (l := l) hhas
  refine ⟨countArrival_blk .., (countArrival_len ..).trans hlen, countArrival_has hhas, (countArrival_clock ..).trans hclock, ?_, ?_, ?_, ?_⟩
  all_goals rw [hj]
  · show (v.join _ _).a + 1 = _
    rw [hcount, Nat.add_assoc]
  · exact htoken
  · exact htotal
  · exact hlast

theorem Counting.incomplete {gid : Nat} {b : BlockRef} {j : Nat} {x : Join} {n clock k : Nat} {v : State}
    (h : Counting gid b j x n clock k v) (hx : x.a + k + 1 < x.e) : (v.join b j).nextCompletes = false := by
  unfold Join.nextCompletes; rw [h.count, h.total]; simpa using hx

theorem Counting.complete {gid : Nat} {b : BlockRef} {j : Nat} {x : Join} {n clock k : Nat} {v : State}
    (h : Counting gid b j x n clock k v) (hx : x.a + k + 1 = x.e) : (v.join b j).nextCompletes = true := by
  unfold Join.nextCompletes; rw [h.count, h.total]; simpa using hx.ge

/-- Lanes `done` of `ls` have arrived, and the others have not parked. -/
structure Arriving (cx : Cx) (a : Arrival) (t : Word) (ls done : List Nat) (v : State) : Prop where
  token : ∀ l ∈ done, ∀ r, a.token = some r → (v.lane cx.gid l).vReg r = t
  waiting : a.waits = true → ∀ l ∈ done, v.waitsInBar cx.gid l a.join t a.scope
  free : ∀ l ∈ ls, (a.waits = false ∨ l ∉ done) → (v.lane cx.gid l).park = none

/-- The lanes before a lane `l` arrive and the lane itself: the tokens, and who is parked. -/
theorem Arriving.counts {cx : Cx} {a : Arrival} {t : Word} {ls done : List Nat} {v : State} (h : Arriving cx a t ls done v) {l : Nat}
    (hl : l < (v.group cx.gid).lanes.length) (hnew : l ∉ done) (ht : (v.join (v.group cx.gid).blk a.join).t = t) (hw : a.waits = false) :
    Arriving cx a t ls (done ++ [l]) (v.countArrival cx l a) := by
  refine ⟨fun k hk r hr => ?_, fun h => absurd (hw.symm.trans h) Bool.false_ne_true, fun k hk _ => (countArrival_park ..).trans (h.free k hk (.inl hw))⟩
  rcases List.mem_append.mp hk with hk | hk
  · rw [countArrival_other fun e : k = l => hnew (e ▸ hk)]; exact h.token k hk r hr
  · rw [List.mem_singleton.mp hk, countArrival_vReg hr hl, ht]

theorem Arriving.parks {cx : Cx} {a : Arrival} {t : Word} {ls done : List Nat} {v : State} (h : Arriving cx a t ls done v) {l : Nat}
    (hl : l < (v.group cx.gid).lanes.length) (h32 : l < 32) (hnew : l ∉ done) (ht : (v.join (v.group cx.gid).blk a.join).t = t)
    (hw : a.waits = true) :
    Arriving cx a t ls (done ++ [l]) ((v.countArrival cx l a).parkBar cx l a.join t a.scope none) := by
  have hlane := parkBar_lane (s := v.countArrival cx l a) (cx := cx) (l := l) (by rw [countArrival_len]; exact hl) a.join t a.scope none
  have hother : ∀ k, k ≠ l → ((v.countArrival cx l a).parkBar cx l a.join t a.scope none).lane cx.gid k = (v.countArrival cx l a).lane cx.gid k :=
    fun k hk => by rw [hlane, if_neg hk]
  refine ⟨fun k hk r hr => ?_, fun _ k hk => ?_, fun k hk hout => ?_⟩
  · rcases List.mem_append.mp hk with hk | hk
    · have hne : k ≠ l := fun e => hnew (e ▸ hk)
      rw [hother k hne, countArrival_other hne]; exact h.token k hk r hr
    · rw [List.mem_singleton.mp hk, hlane, if_pos rfl]
      exact (countArrival_vReg hr hl).trans ht
  · unfold State.waitsInBar
    rw [parkBar_waits]
    rcases List.mem_append.mp hk with hk | hk
    · have hne : k ≠ l := fun e => hnew (e ▸ hk)
      obtain ⟨w, hm, h1, h2, h3, h4⟩ := h.waiting hw k hk
      exact ⟨w, List.mem_append_left _ (by rw [countArrival_waits]; exact hm), h1, h2, h3,
        by rw [hother k hne, countArrival_park]; exact h4⟩
    · rw [List.mem_singleton.mp hk]
      refine ⟨_, List.mem_append_right _ (List.mem_singleton_self _), rfl, rfl,
        (mem_lanesOf ..).mpr ⟨h32, (mem_maskOf ..).mpr ⟨List.mem_singleton_self l, h32⟩⟩, ?_⟩
      rw [hlane, if_pos rfl]; rfl
  · have hout := hout.resolve_left (by rw [hw]; decide)
    rw [List.mem_append, not_or, List.mem_singleton] at hout
    rw [hother k hout.2, countArrival_park]
    exact h.free k hk (.inr hout.1)

/-- One more lane arrives, and no phase completes (R105). -/
theorem arriveLane_step {cx : Cx} {b : BlockRef} {a : Arrival} {x : Join} {n clock : Nat} {ls done : List Nat} {v : State}
    (hc : Counting cx.gid b a.join x n clock done.length v) (h : Arriving cx a x.t ls done v) {l : Nat} (hl : l < n) (h32 : l < 32)
    (hnew : l ∉ done) (hx : x.a + done.length + 1 < x.e) :
    Counting cx.gid b a.join x n clock (done ++ [l]).length (v.arriveLane cx l a) ∧ Arriving cx a x.t ls (done ++ [l]) (v.arriveLane cx l a) := by
  have hnext := hc.incomplete hx
  have hc' := hc.next l
  have ht := hc.token
  obtain ⟨rfl, rfl, hhas, -⟩ := hc
  rw [List.length_append, List.length_singleton, arriveLane_counts hhas hnext, ht]
  cases hw : a.waits
  · exact ⟨hc', h.counts hl hnew ht hw⟩
  · rw [if_neg (by decide)]
    obtain ⟨hb, hs, hclock⟩ := parkBar_machine (v.countArrival cx l a) cx l a.join x.t a.scope none
    refine ⟨hc'.of_machine hb hs hclock ?_ ?_, h.parks hl h32 hnew ht hw⟩
    · rw [group_of_groups (parkBar_groups ..)]; exact park_bare ..
    · rw [group_of_groups (parkBar_groups ..)]; exact (parksOnly_park ..).len

/-- The state in which a lane's arrival has completed its phase, before the lanes that wait on its token go on. -/
def State.beforeWake (s : State) (cx : Cx) (l : Nat) (a : Arrival) : State :=
  (s.takeToken cx.gid l a.token (s.join (s.group cx.gid).blk a.join).t).completing (s.group cx.gid).blk a.join (s.arriver cx.gid l)

theorem beforeWake_groups (s : State) (cx : Cx) (l : Nat) (a : Arrival) : (s.beforeWake cx l a).groups
    = (s.takeToken cx.gid l a.token (s.join (s.group cx.gid).blk a.join).t).groups := completing_groups ..
theorem beforeWake_waits (s : State) (cx : Cx) (l : Nat) (a : Arrival) : (s.beforeWake cx l a).waits = s.waits :=
  (completing_waits ..).trans (kept_takeToken s cx.gid l a.token _).waits
theorem beforeWake_group (s : State) (cx : Cx) (l : Nat) (a : Arrival) (k : Nat) : ((s.beforeWake cx l a).group k).blk = (s.group k).blk := by
  have hk := kept_takeToken s cx.gid l a.token (s.join (s.group cx.gid).blk a.join).t
  rw [group_of_groups (beforeWake_groups s cx l a)]
  by_cases h : k = cx.gid
  · rw [h]; exact (congrArg Group.blk hk.base :)
  · rw [hk.others k h]
theorem beforeWake_park (s : State) (cx : Cx) (l : Nat) (a : Arrival) (k : Nat) :
    ((s.beforeWake cx l a).lane cx.gid k).park = (s.lane cx.gid k).park := by
  rw [lane_of_groups (beforeWake_groups s cx l a), takeToken_park]
theorem beforeWake_other {s : State} {cx : Cx} {a : Arrival} {gid : Nat} (hg : gid ≠ cx.gid) (l k : Nat) :
    (s.beforeWake cx l a).lane gid k = s.lane gid k := by
  rw [lane_of_groups (beforeWake_groups s cx l a)]
  exact congrArg (fun g => g.lane k) ((kept_takeToken s cx.gid l a.token _).others gid hg)
theorem beforeWake_join {s : State} {cx : Cx} {a : Arrival} (hj : s.HasJoin (s.group cx.gid).blk a.join) (l : Nat) :
    (s.beforeWake cx l a).join (s.group cx.gid).blk a.join
      = (s.join (s.group cx.gid).blk a.join).completed (s.arriver cx.gid l) s.clock := by
  have hk := kept_takeToken s cx.gid l a.token (s.join (s.group cx.gid).blk a.join).t
  unfold State.beforeWake
  rw [completing_join (hk.hasJoin hj), hk.join, hk.clock]

/-- After the wake of the lanes that wait on the token, the arriving lane at most acquires. -/
theorem arriveLane_resumes {s : State} {cx : Cx} {a : Arrival} (hj : s.HasJoin (s.group cx.gid).blk a.join)
    (h : (s.join (s.group cx.gid).blk a.join).nextCompletes = true) (l : Nat) :
    Resumed ((s.beforeWake cx l a).wakeToken (s.group cx.gid).blk a.join (s.join (s.group cx.gid).blk a.join).t) (s.arriveLane cx l a) := by
  rw [arriveLane_completes hj h]
  cases a.waits
  · exact .refl _
  · exact resumed_barAcquire ..

theorem beforeWake_vReg {s : State} {cx : Cx} {a : Arrival} {l r : Nat} (hr : a.token = some r) (hl : l < (s.group cx.gid).lanes.length) :
    ((s.beforeWake cx l a).lane cx.gid l).vReg r = (s.join (s.group cx.gid).blk a.join).t := by
  rw [lane_of_groups (beforeWake_groups s cx l a), hr, takeToken_vReg _ hl]
theorem beforeWake_vReg_other {s : State} {cx : Cx} {a : Arrival} {l k : Nat} (hk : k ≠ l) (r : Nat) :
    ((s.beforeWake cx l a).lane cx.gid k).vReg r = (s.lane cx.gid k).vReg r := by
  rw [lane_of_groups (beforeWake_groups s cx l a), takeToken_other _ _ _ hk]

/-- The last arrival of a phase: the next token, no arrival, and no lane that arrived stays parked (R105). -/
theorem arriveLane_last {cx : Cx} {b : BlockRef} {a : Arrival} {x : Join} {n clock : Nat} {ls done : List Nat} {v : State}
    (hc : Counting cx.gid b a.join x n clock done.length v) (h : Arriving cx a x.t ls done v) {l : Nat} (hl : l < n) (hm : l ∈ ls)
    (hnew : l ∉ done) (hdone : ∀ k ∈ done, k ∈ ls) (hx : x.a + done.length + 1 = x.e) :
    ((v.arriveLane cx l a).join b a.join).a = 0 ∧ ((v.arriveLane cx l a).join b a.join).t = x.t + 1
      ∧ ∀ k ∈ done ++ [l], (∀ r, a.token = some r → ((v.arriveLane cx l a).lane cx.gid k).vReg r = x.t)
        ∧ ((v.arriveLane cx l a).lane cx.gid k).park = none := by
  have hnext := hc.complete hx
  have ht := hc.token
  obtain ⟨rfl, rfl, hhas, -⟩ := hc
  have hend := arriveLane_resumes hhas hnext l
  have hall := (resumed_wakeToken (v.beforeWake cx l a) (v.group cx.gid).blk a.join (v.join (v.group cx.gid).blk a.join).t).trans hend
  rw [hall.join, beforeWake_join hhas]
  refine ⟨rfl, (congrArg (· + 1) ht :), fun k hk => ⟨fun r hr => ?_, ?_⟩⟩
  · rw [hall.vReg]
    rcases List.mem_append.mp hk with hk | hk
    · rw [beforeWake_vReg_other fun e : k = l => hnew (e ▸ hk)]; exact h.token k hk r hr
    · rw [List.mem_singleton.mp hk, beforeWake_vReg hr hl, ht]
  · by_cases hfree : a.waits = false ∨ k ∉ done
    · refine hall.unparked ((beforeWake_park v cx l a k).trans (h.free k ?_ hfree))
      exact (List.mem_append.mp hk).elim (hdone k) fun e => List.mem_singleton.mp e ▸ hm
    · rw [not_or, not_not, Bool.not_eq_false] at hfree
      obtain ⟨w, hw, hg, hkind, hlane, hpark⟩ := h.waiting hfree.1 k hfree.2
      rw [← hg]
      refine hend.unparked (wakeToken_park (by rw [beforeWake_waits]; exact hw) (ht ▸ hkind) ?_ hlane ?_)
      · rw [beforeWake_group, hg]
      · rw [hg, beforeWake_park]; exact hpark

/-! ### All the lanes of a word -/

/-- One lane's arrival in its clock: it is held where it would complete a second phase (R105). -/
def State.arriveStep (s : State) (cx : Cx) (b : BlockRef) (a : Arrival) (l : Nat) : State :=
  if s.secondPhase b a.join then (s.park cx [l] .held).send (.heldArrival ⟨b, a.join, cx.gid, l, a.token, a.waits, a.scope⟩)
  else s.arriveLane cx l a

theorem arriveAll_eq (s : State) (i : Iss) (a : Arrival) :
    s.arriveAll i a = eachLane s i.lanes fun u l => u.arriveStep i.cx (s.group i.gid).blk a l := by
  rfl

theorem arriveStep_held {s : State} {b : BlockRef} {a : Arrival} (h : s.secondPhase b a.join = true) (cx : Cx) (l : Nat) :
    s.arriveStep cx b a l = (s.park cx [l] .held).send (.heldArrival ⟨b, a.join, cx.gid, l, a.token, a.waits, a.scope⟩) := if_pos h

theorem Counting.arriveStep {cx : Cx} {b : BlockRef} {a : Arrival} {x : Join} {n clock k : Nat} {v : State}
    (h : Counting cx.gid b a.join x n clock k v) (hx : x.last ≠ clock + 1) (l : Nat) : v.arriveStep cx b a l = v.arriveLane cx l a := by
  refine if_neg ?_
  unfold State.secondPhase
  rw [h.last, h.clock, beq_eq_false_iff_ne.mpr hx, Bool.false_and]
  exact Bool.false_ne_true

/-- The lanes that arrive while the count stays below E (R105). -/
theorem arriveSteps {cx : Cx} {b : BlockRef} {a : Arrival} {x : Join} {n clock : Nat} {ls : List Nat} (hls : ∀ l ∈ ls, l < n ∧ l < 32)
    (hlast : x.last ≠ clock + 1) (rest done : List Nat) {v : State} (hc : Counting cx.gid b a.join x n clock done.length v)
    (h : Arriving cx a x.t ls done v) (hn : (done ++ rest).Nodup) (hr : ∀ l ∈ rest, l ∈ ls) (hx : x.a + done.length + rest.length < x.e) :
    Counting cx.gid b a.join x n clock (done ++ rest).length (eachLane v rest fun u l => u.arriveStep cx b a l)
      ∧ Arriving cx a x.t ls (done ++ rest) (eachLane v rest fun u l => u.arriveStep cx b a l) := by
  induction rest generalizing done v with
  | nil => rw [List.append_nil]; exact ⟨hc, h⟩
  | cons l rest ih =>
    obtain ⟨hl, hrest⟩ := List.forall_mem_cons.mp hr
    have hnew : l ∉ done := fun hm => (List.nodup_append.mp hn).2.2 l hm l List.mem_cons_self rfl
    rw [List.length_cons] at hx
    obtain ⟨hc', h'⟩ := arriveLane_step hc h (hls l hl).1 (hls l hl).2 hnew (by omega)
    have := ih (done ++ [l]) hc' h' (by simpa using hn) hrest (by rw [List.length_append, List.length_singleton]; omega)
    rw [List.append_assoc, List.singleton_append] at this
    rw [eachLane_cons, hc.arriveStep hlast]
    exact this

/-- What a word's arrivals come to (R105, R156). -/
structure ArriveEnds (cx : Cx) (b : BlockRef) (a : Arrival) (x : Join) (ls : List Nat) (t : State) : Prop where
  below : x.a + ls.length < x.e → (t.join b a.join).a = x.a + ls.length ∧ (t.join b a.join).t = x.t
  completes : x.a + ls.length = x.e → (t.join b a.join).a = 0 ∧ (t.join b a.join).t = x.t + 1
  token : ∀ l ∈ ls, ∀ r, a.token = some r → (t.lane cx.gid l).vReg r = x.t
  parked : a.waits = true → x.a + ls.length < x.e → ∀ l ∈ ls, (t.lane cx.gid l).park ≠ none
  free : (a.waits = false ∨ x.a + ls.length = x.e) → ∀ l ∈ ls, (t.lane cx.gid l).park = none

theorem arriveAll_ends {s : State} {i : Iss} {a : Arrival} (hj : s.HasJoin (s.group i.gid).blk a.join) (hn : i.lanes.Nodup) (hne : i.lanes ≠ [])
    (hl : ∀ l ∈ i.lanes, l < (s.group i.gid).lanes.length ∧ l < 32) (hpark : ∀ l ∈ i.lanes, (s.lane i.gid l).park = none)
    (hlast : (s.join (s.group i.gid).blk a.join).last ≠ s.clock + 1)
    (hx : (s.join (s.group i.gid).blk a.join).a + i.lanes.length ≤ (s.join (s.group i.gid).blk a.join).e) :
    ArriveEnds i.cx (s.group i.gid).blk a (s.join (s.group i.gid).blk a.join) i.lanes (s.arriveAll i a) := by
  have hc : Counting i.cx.gid (s.group i.gid).blk a.join (s.join (s.group i.gid).blk a.join) (s.group i.gid).lanes.length s.clock
      ([] : List Nat).length s := ⟨rfl, rfl, hj, rfl, rfl, rfl, rfl, rfl⟩
  have h : Arriving i.cx a (s.join (s.group i.gid).blk a.join).t i.lanes [] s :=
    ⟨fun _ h => absurd h List.not_mem_nil, fun _ _ h => absurd h List.not_mem_nil, fun l hm _ => hpark l hm⟩
  rw [arriveAll_eq]
  generalize s.join (s.group i.gid).blk a.join = x at hc h hlast hx
  rcases Nat.lt_or_eq_of_le hx with hlt | heq
  · obtain ⟨hc', h'⟩ := arriveSteps hl hlast i.lanes [] hc h hn (fun _ => id) (by simpa using hlt)
    rw [List.nil_append] at hc' h'
    refine ⟨fun _ => ⟨hc'.count, hc'.token⟩, fun he => absurd he hlt.ne, h'.token, fun hw _ l hm => ?_, fun hw l hm => ?_⟩
    · obtain ⟨w, -, -, -, -, hp⟩ := h'.waiting hw l hm
      exact fun e => Option.some_ne_none _ (hp.symm.trans e)
    · exact h'.free l hm (.inl (hw.resolve_right hlt.ne))
  · -- all but the last lane arrive below E, and the last one completes the phase
    have hsplit : i.lanes.dropLast ++ [i.lanes.getLast hne] = i.lanes := List.dropLast_append_getLast hne
    generalize i.lanes.dropLast = init at hsplit
    generalize i.lanes.getLast hne = l at hsplit
    rw [← hsplit] at hl hn heq h ⊢
    have hlen : x.a + init.length + 1 = x.e := by rw [← heq, List.length_append, List.length_singleton]; omega
    have hnew : l ∉ init := fun hm => (List.nodup_append.mp hn).2.2 l hm l (List.mem_singleton_self l) rfl
    have hlm : l ∈ init ++ [l] := List.mem_append_right _ (List.mem_singleton_self l)
    have hsub : ∀ k ∈ init, k ∈ init ++ [l] := fun k => List.mem_append_left _
    obtain ⟨hc', h'⟩ := arriveSteps hl hlast init [] hc h (List.nodup_append.mp hn).1 hsub (by simp; omega)
    rw [List.nil_append] at hc' h'
    obtain ⟨hcount, htoken, hlanes⟩ := arriveLane_last hc' h' (hl l hlm).1 hlm hnew hsub hlen
    have hend : (eachLane s (init ++ [l]) fun u k => u.arriveStep i.cx (s.group i.gid).blk a k)
        = (eachLane s init fun u k => u.arriveStep i.cx (s.group i.gid).blk a k).arriveLane i.cx l a := by
      unfold eachLane
      rw [List.foldl_append]
      exact hc'.arriveStep hlast l
    rw [hend]
    exact ⟨fun hlt => absurd heq hlt.ne, fun _ => ⟨hcount, htoken⟩, fun k hk => (hlanes k hk).1, fun _ hlt => absurd heq hlt.ne,
      fun _ k hk => (hlanes k hk).2⟩

end Sys2Proof.Machine
end

section
/-! # BAR and ARRIVE (R105, R106, R155, R156) -/
namespace Sys2Proof.Machine
open Sys2Proof.Claims

/-- The state in which the lanes of a word have released before they arrive (R168, R232). -/
def State.beforeArrivals (s : State) (cx : Cx) (c : Ctl) : State := (s.start cx c).barRelease (issOf s cx c)

theorem start_hasJoin {s : State} {b : BlockRef} {j : Nat} (h : s.HasJoin b j) (cx : Cx) (c : Ctl) : (s.start cx c).HasJoin b j := by
  unfold State.HasJoin State.block; rw [start_blocks]; exact h

section
variable (s : State) (cx : Cx) (c : Ctl)

theorem resumed_beforeArrivals : Resumed (s.start cx c) (s.beforeArrivals cx c) := resumed_releaseBy ..
theorem beforeArrivals_groups : (s.beforeArrivals cx c).groups = (s.start cx c).groups := groups_of_shell (releaseBy_shell ..)
theorem beforeArrivals_waits : (s.beforeArrivals cx c).waits = s.waits :=
  (congrArg State.waits (releaseBy_shell (s.start cx c) cx.gid (maskOf (s.taking cx c))) :).trans (start_waits ..)
theorem beforeArrivals_blk (k : Nat) : ((s.beforeArrivals cx c).group k).blk = (s.group k).blk :=
  ((resumed_beforeArrivals s cx c).blk k).trans (start_blk ..)
theorem beforeArrivals_join (b : BlockRef) (j : Nat) : (s.beforeArrivals cx c).join b j = s.join b j :=
  ((resumed_beforeArrivals s cx c).join b j).trans (start_join ..)
theorem beforeArrivals_clock : (s.beforeArrivals cx c).clock = s.clock := (resumed_beforeArrivals s cx c).clock.trans (start_clock ..)
theorem beforeArrivals_length (k : Nat) : ((s.beforeArrivals cx c).group k).lanes.length = (s.group k).lanes.length :=
  ((resumed_beforeArrivals s cx c).len k).trans (start_length ..)
theorem beforeArrivals_park (l : Nat) : ((s.beforeArrivals cx c).lane cx.gid l).park = (s.lane cx.gid l).park := by
  rw [lane_of_groups (beforeArrivals_groups s cx c), start_park]
theorem beforeArrivals_hasJoin {s : State} {b : BlockRef} {j : Nat} (h : s.HasJoin b j) (cx : Cx) (c : Ctl) :
    (s.beforeArrivals cx c).HasJoin b j := (resumed_beforeArrivals s cx c).hasJoin (start_hasJoin h cx c)
end

/-- How ARRIVE arrives: its token register, and no wait. -/
def arriveArrival (f : EF) : Arrival := ⟨f.x.toNat, some f.a.toNat, false, .core⟩
/-- How BAR arrives: its token register with TK, a wait, and its scope. -/
def barArrival (f : EF) : Arrival := ⟨f.x.toNat, if f.flags.getLsbD 4 then some f.a.toNat else none, true, scopeOf f.sc⟩

/-- The trap of BAR and ARRIVE on a signing register (R156). -/
def State.signingTrap (s : State) (cx : Cx) (f : EF) : State :=
  (s.start cx f.ctl).trap cx.gid (s.taking cx f.ctl) (cx.at_ 0x0B (f.x.zeroExtend 64))

theorem trapAll_signs (s : State) (cx : Cx) (f : EF) : (s.start cx f.ctl).trapAll (issOf s cx f.ctl) 0x0B f.x.toNat = s.signingTrap cx f := by
  unfold State.trapAll State.signingTrap
  rw [show BitVec.ofNat 64 f.x.toNat = f.x.zeroExtend 64 from BitVec.eq_of_toNat_eq (by simp)]
  rfl

theorem execArrive_issued {f : EF} {s : State} {cx : Cx} (hi : Issues s cx f.ctl none [f.a.toNat] 1) : exec (.arrive f) s
    = .next (if (s.join (s.group cx.gid).blk f.x.toNat).mode then s.signingTrap cx f
        else (s.beforeArrivals cx f.ctl).arriveAll (issOf s cx f.ctl) (arriveArrival f)) := by
  refine (show execArrive f s = _ by unfold execArrive; exact issued_runs hi _).trans ?_
  rw [show (issOf s cx f.ctl).gid = cx.gid from rfl, start_join, start_blk, trapAll_signs]
  rfl

/-- `bar.wait` of the lanes that take part, each on the token it reads (R106, R156). -/
def State.waitTokens (s : State) (cx : Cx) (f : EF) : State :=
  (s.taking cx f.ctl).foldl (fun v l => v.waitToken (issOf s cx f.ctl) l f.x.toNat ((s.start cx f.ctl).readV cx.gid l 1 f.a.toNat) (scopeOf f.sc)
    (if f.flags.getLsbD 5 then some f.b else none)) (s.start cx f.ctl)

theorem execBar_issued {f : EF} {s : State} {cx : Cx}
    (hi : Issues s cx f.ctl none (if f.flags.getLsbD 0 || f.flags.getLsbD 4 then [f.a.toNat] else []) (if f.flags.getLsbD 4 then 1 else 0)) :
    exec (.bar f) s = .next (if (s.join (s.group cx.gid).blk f.x.toNat).mode then s.signingTrap cx f
        else if f.flags.getLsbD 0 then s.waitTokens cx f
        else (s.beforeArrivals cx f.ctl).arriveAll (issOf s cx f.ctl) (barArrival f)) := by
  refine (show execBar f s = _ by unfold execBar; exact issued_runs hi _).trans ?_
  dsimp only
  rw [show (issOf s cx f.ctl).gid = cx.gid from rfl, start_join, start_blk, trapAll_signs, List.foldl_map]
  rfl

theorem barAcquire_groups (s : State) (gid : Nat) (lanes : LaneMask) (b : BlockRef) (scope : Scope) :
    (s.barAcquire gid lanes b scope).groups = s.groups := by
  unfold State.barAcquire
  split
  · exact groups_of_outer (acquireBy_outer ..)
  · split
    · exact groups_of_outer (acquireBy_outer ..)
    · rfl
  all_goals exact groups_of_outer (acquireBy_outer ..)

/-- Whether a token is of a past phase (R106). -/
def Join.isPast (x : Join) (token : Word) : Prop := 1 ≤ (x.t - token).toNat ∧ (x.t - token).toNat ≤ 2 ^ 31

theorem waitToken_parks {s : State} {i : Iss} {l j : Nat} {t : Word} (h : ¬(s.join (s.group i.gid).blk j).isPast t) (scope : Scope)
    (st : Option (BitVec 8)) : s.waitToken i l j t scope st = s.parkBar i.cx l j t scope st := by
  refine if_pos ?_
  unfold Join.isPast at h
  have hz : (s.join (s.group i.gid).blk j).t - t = 0 ↔ ((s.join (s.group i.gid).blk j).t - t).toNat = 0 :=
    ⟨fun h => by rw [h]; rfl, fun h => BitVec.eq_of_toNat_eq h⟩
  rw [hz]
  omega

theorem waitToken_passes {s : State} {i : Iss} {l j : Nat} {t : Word} (h : (s.join (s.group i.gid).blk j).isPast t) (scope : Scope)
    (st : Option (BitVec 8)) : s.waitToken i l j t scope st
      = match st with
        | some p => (s.barAcquire i.gid (maskOf [l]) (s.group i.gid).blk scope).writeP i.gid l p.toNat true
        | none => s.barAcquire i.gid (maskOf [l]) (s.group i.gid).blk scope := by
  refine if_neg ?_
  unfold Join.isPast at h
  rintro (h0 | h1)
  · rw [h0] at h
    exact absurd h.1 (by decide)
  · omega

theorem writeP_park (s : State) (gid l p : Nat) (val : Bool) (k : Nat) : ((s.writeP gid l p val).lane gid k).park = (s.lane gid k).park := by
  obtain ⟨d, js, f, h, -, -, hf⟩ := writeP_form s gid l p val
  rw [h, lane_modLane, group_results, lane_results, lane_results]
  split
  · next hk => rw [hf, hk.1]
  · rfl

theorem wakeOn_miss {s : State} {b : BlockRef} {j : Nat} {t t' : Word} {w : Wait} {scope : Scope} {st : Option (BitVec 8)}
    (hk : w.kind = .bar j t' scope st) (ht : t' ≠ t) : s.wakeOn b j t w = s := by
  unfold State.wakeOn
  rw [hk]
  exact if_neg fun h => ht h.2.1

theorem eachLane_writeP {gid p l : Nat} {val : Bool} (h7 : p < 7) (ls : List Nat) (s : State) (hl : l < (s.group gid).lanes.length)
    (h : l ∈ ls ∨ (s.lane gid l).pReg p = val) : ((eachLane s ls fun s l => s.writeP gid l p val).lane gid l).pReg p = val := by
  induction ls generalizing s with
  | nil => exact h.resolve_left List.not_mem_nil
  | cons a ls ih =>
    refine ih _ (by rw [writeP_length]; exact hl) ?_
    rw [writeP_pReg]
    by_cases ha : l = a
    · subst ha; exact .inr (if_pos ⟨rfl, hl, rfl, h7⟩)
    · refine h.imp (fun h => (List.mem_cons.mp h).resolve_left ha) fun h => ?_
      rw [if_neg fun h => ha h.1]
      exact h

/-- A lane released from BAR with a status register has its status there (R106). -/
theorem wakeBar_status {s : State} {w : Wait} {l : Nat} (hm : l ∈ lanesOf w.lanes) (hl : l < (s.group w.gid).lanes.length) (b : BlockRef)
    (scope : Scope) {p : BitVec 8} (h7 : p.toNat < 7) (passed : Bool) :
    ((s.wakeBar w b scope (some p) passed).lane w.gid l).pReg p.toNat = passed :=
  eachLane_writeP h7 _ _ (by
    rw [((resumed_wake s w).trans (resumed_barAcquire (s.wake w) w.gid w.lanes b scope)).len]; exact hl) (.inl hm)

theorem execArrive_counts {f : EF} {s : State} {cx : Cx} (hi : Issues s cx f.ctl none [f.a.toNat] 1)
    (hm : (s.join (s.group cx.gid).blk f.x.toNat).mode = false) : exec (.arrive f) s
      = .next ((s.beforeArrivals cx f.ctl).arriveAll (issOf s cx f.ctl) (arriveArrival f)) := by
  rw [execArrive_issued hi, hm, if_neg Bool.false_ne_true]

theorem execBar_counts {f : EF} {s : State} {cx : Cx} (hw : f.flags.getLsbD 0 = false)
    (hi : Issues s cx f.ctl none (if f.flags.getLsbD 4 then [f.a.toNat] else []) (if f.flags.getLsbD 4 then 1 else 0))
    (hm : (s.join (s.group cx.gid).blk f.x.toNat).mode = false) : exec (.bar f) s
      = .next ((s.beforeArrivals cx f.ctl).arriveAll (issOf s cx f.ctl) (barArrival f)) := by
  rw [execBar_issued (by rw [hw, Bool.false_or]; exact hi), hm, hw, if_neg Bool.false_ne_true, if_neg Bool.false_ne_true]

/-- The arrivals of a word that issues, where no phase has completed in its clock. -/
theorem arrivals_end {s : State} {cx : Cx} {c : Ctl} {a : Arrival} (hl : LanesExist s cx) (hj : s.HasJoin (s.group cx.gid).blk a.join)
    (hpark : ∀ l ∈ lanesOf cx.mask, (s.lane cx.gid l).park = none) (hne : s.taking cx c ≠ [])
    (hx : (s.join (s.group cx.gid).blk a.join).a + (s.taking cx c).length ≤ (s.join (s.group cx.gid).blk a.join).e)
    (hlast : (s.join (s.group cx.gid).blk a.join).last ≠ s.clock + 1) :
    ArriveEnds cx (s.group cx.gid).blk a (s.join (s.group cx.gid).blk a.join) (s.taking cx c)
      ((s.beforeArrivals cx c).arriveAll (issOf s cx c) a) := by
  have hblk := beforeArrivals_blk s cx c cx.gid
  have hjoin := beforeArrivals_join s cx c (s.group cx.gid).blk a.join
  have h := arriveAll_ends (s := s.beforeArrivals cx c) (i := issOf s cx c) (a := a)
    (by rw [show (issOf s cx c).gid = cx.gid from rfl, hblk]; exact beforeArrivals_hasJoin hj cx c) (taking_nodup ..) hne
    (fun l hm => ⟨by rw [beforeArrivals_length]; exact hl l (taking_mask hm), ((mem_lanesOf ..).mp (taking_mask hm)).1⟩)
    (fun l hm => (beforeArrivals_park s cx c l).trans (hpark l (taking_mask hm)))
  rw [show (issOf s cx c).gid = cx.gid from rfl, hblk, hjoin, beforeArrivals_clock] at h
  exact h hlast hx

/-- An arrival that would complete a second phase in its clock is held (R105). -/
theorem arrivals_held {s : State} {cx : Cx} {c : Ctl} {a : Arrival} (hl : LanesExist s cx) (hne : s.taking cx c ≠ [])
    (hx : (s.join (s.group cx.gid).blk a.join).a + (s.taking cx c).length ≤ (s.join (s.group cx.gid).blk a.join).e)
    (hlast : (s.join (s.group cx.gid).blk a.join).last = s.clock + 1)
    (hnext : (s.join (s.group cx.gid).blk a.join).a + 1 = (s.join (s.group cx.gid).blk a.join).e) :
    ((s.beforeArrivals cx c).arriveAll (issOf s cx c) a).join (s.group cx.gid).blk a.join = s.join (s.group cx.gid).blk a.join
      ∧ ∀ l ∈ s.taking cx c, (((s.beforeArrivals cx c).arriveAll (issOf s cx c) a).lane cx.gid l).park ≠ none := by
  obtain ⟨l, hone⟩ : ∃ l, s.taking cx c = [l] := by
    have hpos := List.length_pos_iff.mpr hne
    exact List.length_eq_one_iff.mp (by omega)
  have hsecond : (s.beforeArrivals cx c).secondPhase (s.group cx.gid).blk a.join = true := by
    unfold State.secondPhase Join.nextCompletes
    rw [beforeArrivals_join, beforeArrivals_clock, hlast, beq_self_eq_true, Bool.true_and, decide_eq_true_eq]
    exact hnext.ge
  have hall : (s.beforeArrivals cx c).arriveAll (issOf s cx c) a
      = ((s.beforeArrivals cx c).park cx [l] .held).send (.heldArrival ⟨(s.group cx.gid).blk, a.join, cx.gid, l, a.token, a.waits, a.scope⟩) := by
    rw [arriveAll_eq, show (issOf s cx c).lanes = [l] from hone, show (issOf s cx c).gid = cx.gid from rfl, beforeArrivals_blk]
    exact arriveStep_held hsecond cx l
  have hmem : l ∈ s.taking cx c := hone ▸ List.mem_singleton_self l
  obtain ⟨hb, hs, -⟩ := park_machine (s.beforeArrivals cx c) cx [l] .held
  rw [hall]
  refine ⟨?_, fun k hk => ?_⟩
  · exact (join_of_machine (s := s.beforeArrivals cx c) hb hs _ _).trans (beforeArrivals_join ..)
  · rw [hone, List.mem_singleton] at hk
    subst hk
    show (((s.beforeArrivals cx c).park cx [k] .held).lane cx.gid k).park ≠ none
    rw [lane_park _ _ (List.nodup_singleton k), if_pos ⟨List.mem_singleton_self k, by rw [beforeArrivals_length]; exact hl k (taking_mask hmem)⟩]
    exact Option.some_ne_none _

end Sys2Proof.Machine

open Sys2Proof Sys2Proof.Machine Sys2Proof.Claims in
/-- Settles O17: the lanes arrive one after the other, and only the last can complete the phase; one that would complete a second is held. -/
theorem arrivalsCompletePhases : Obligations.ArrivalsCompletePhases := by
  unfold Obligations.ArrivalsCompletePhases
  intro f s cx hl hj hpark j x n counted hmode hx held
  refine ⟨fun hlast hnext => ⟨fun hi => ?_, fun hw hi => ?_⟩, fun hlast hi => ?_, fun hlast hw hi => ?_⟩
  · exact ⟨_, execArrive_counts hi hmode, arrivals_held (a := arriveArrival f) hl hi.2.1 hx hlast hnext⟩
  · exact ⟨_, execBar_counts hw hi hmode, arrivals_held (a := barArrival f) hl hi.2.1 hx hlast hnext⟩
  · obtain ⟨below, completes, token, -, free⟩ :=
      arrivals_end (a := arriveArrival f) hl hj hpark hi.2.1 hx hlast
    exact ⟨_, execArrive_counts hi hmode, ⟨below, completes⟩, fun l hm => ⟨token l hm _ rfl, free (.inl rfl) l hm⟩⟩
  · obtain ⟨below, completes, token, parked, free⟩ := arrivals_end (a := barArrival f) hl hj hpark hi.2.1 hx hlast
    exact ⟨_, execBar_counts hw hi hmode, ⟨below, completes⟩, fun l hm =>
      ⟨fun htk => token l hm _ (if_pos htk), fun hlt => parked rfl hlt l hm, fun heq => free (.inr heq) l hm⟩⟩

open Sys2Proof Sys2Proof.Machine Sys2Proof.Claims in
/-- `bar.wait` of one lane on a register of mode 0 (R106). -/
theorem barWaitsOnToken {f : EF} {s : State} {cx : Cx} {l : Nat} (hl : LanesExist s cx) (hone : s.taking cx f.ctl = [l])
    (hw : f.flags.getLsbD 0 = true) (htk : f.flags.getLsbD 4 = false) (hi : Issues s cx f.ctl none [f.a.toNat] 0)
    (hmode : (s.join (s.group cx.gid).blk f.x.toNat).mode = false) :
    let x := s.join (s.group cx.gid).blk f.x.toNat
    let d := (x.t - (s.start cx f.ctl).readV cx.gid l 1 f.a.toNat).toNat
    ∃ t, exec (.bar f) s = .next t ∧ t.join (s.group cx.gid).blk f.x.toNat = x
      ∧ (1 ≤ d ∧ d ≤ 2 ^ 31 → (t.lane cx.gid l).park = (s.lane cx.gid l).park
          ∧ (f.flags.getLsbD 5 = true → f.b.toNat < 7 → (t.lane cx.gid l).pReg f.b.toNat = true))
      ∧ (d = 0 ∨ 2 ^ 31 < d → (t.lane cx.gid l).park ≠ none) := by
  intro x d
  have hwait : exec (.bar f) s = .next ((s.start cx f.ctl).waitToken (issOf s cx f.ctl) l f.x.toNat
      ((s.start cx f.ctl).readV cx.gid l 1 f.a.toNat) (scopeOf f.sc) (if f.flags.getLsbD 5 then some f.b else none)) := by
    rw [execBar_issued (by rw [hw, htk]; exact hi), hmode, hw, if_neg Bool.false_ne_true, if_pos rfl]
    unfold State.waitTokens
    rw [hone]
    rfl
  have hlt : l < ((s.start cx f.ctl).group cx.gid).lanes.length := by
    rw [start_length]; exact hl l (taking_mask (hone ▸ List.mem_singleton_self l : l ∈ s.taking cx f.ctl))
  have hjoin : (s.start cx f.ctl).join ((s.start cx f.ctl).group (issOf s cx f.ctl).gid).blk f.x.toNat = x := by
    rw [start_join, start_blk]; rfl
  refine ⟨_, hwait, ?_⟩
  by_cases hpast : x.isPast ((s.start cx f.ctl).readV cx.gid l 1 f.a.toNat)
  · have hd : ¬(d = 0 ∨ 2 ^ 31 < d) := by
      have hp : 1 ≤ d ∧ d ≤ 2 ^ 31 := hpast
      omega
    rw [waitToken_passes (by rw [hjoin]; exact hpast)]
    have hacq := resumed_barAcquire (s.start cx f.ctl) cx.gid (maskOf [l]) ((s.start cx f.ctl).group cx.gid).blk (scopeOf f.sc)
    have hgroups := barAcquire_groups (s.start cx f.ctl) cx.gid (maskOf [l]) ((s.start cx f.ctl).group cx.gid).blk (scopeOf f.sc)
    have hpark : ∀ k, (((s.start cx f.ctl).barAcquire cx.gid (maskOf [l]) ((s.start cx f.ctl).group cx.gid).blk (scopeOf f.sc)).lane cx.gid k).park
        = (s.lane cx.gid k).park := fun k => by rw [lane_of_groups hgroups, start_park]
    have hjoin' := (hacq.join (s.group cx.gid).blk f.x.toNat).trans (start_join s cx f.ctl _ _)
    cases hst : f.flags.getLsbD 5
    · exact ⟨hjoin', fun _ => ⟨hpark l, nofun⟩, fun h => absurd h hd⟩
    · refine ⟨((kept_writeP ..).join _ _).trans hjoin', fun _ => ⟨(writeP_park ..).trans (hpark l), fun _ h7 => ?_⟩, fun h => absurd h hd⟩
      refine (writeP_pReg ..).trans (if_pos ⟨rfl, ?_, rfl, h7⟩)
      exact hlt.trans_eq (congrArg (fun g : Group => g.lanes.length) (group_of_groups hgroups cx.gid)).symm
  · have hd : ¬(1 ≤ d ∧ d ≤ 2 ^ 31) := hpast
    rw [waitToken_parks (by rw [hjoin]; exact hpast)]
    obtain ⟨hb, hs, -⟩ := parkBar_machine (s.start cx f.ctl) cx l f.x.toNat ((s.start cx f.ctl).readV cx.gid l 1 f.a.toNat) (scopeOf f.sc)
      (if f.flags.getLsbD 5 then some f.b else none)
    refine ⟨(join_of_machine hb hs _ _).trans (start_join ..), fun h => absurd h hd, fun _ => ?_⟩
    rw [show (issOf s cx f.ctl).cx = cx from rfl, parkBar_lane hlt, if_pos rfl]
    exact Option.some_ne_none _

open Sys2Proof Sys2Proof.Machine Sys2Proof.Claims in
/-- An arrival that completes a phase and the one wait of the machine (R105, R106). -/
theorem arriveReleases {f : EF} {s : State} {cx : Cx} {l : Nat} {w : Wait} {t : Word} {scope : Scope} {st : Option (BitVec 8)}
    (hone : s.taking cx f.ctl = [l]) (hi : Issues s cx f.ctl none [f.a.toNat] 1)
    (hj : s.HasJoin (s.group cx.gid).blk f.x.toNat) (hwaits : s.waits = [w]) (hk : w.kind = .bar f.x.toNat t scope st) (hg : w.gid ≠ cx.gid)
    (hblk : (s.group w.gid).blk = (s.group cx.gid).blk)
    (hlanes : ∀ k ∈ lanesOf w.lanes, k < (s.group w.gid).lanes.length ∧ (s.lane w.gid k).park = some w.id)
    (hmode : (s.join (s.group cx.gid).blk f.x.toNat).mode = false)
    (he : (s.join (s.group cx.gid).blk f.x.toNat).e = (s.join (s.group cx.gid).blk f.x.toNat).a + 1)
    (hlast : (s.join (s.group cx.gid).blk f.x.toNat).last ≠ s.clock + 1) :
    ∃ u, exec (.arrive f) s = .next u ∧ ∀ k ∈ lanesOf w.lanes,
      (t ≠ (s.join (s.group cx.gid).blk f.x.toNat).t → (u.lane w.gid k).park = some w.id)
      ∧ (t = (s.join (s.group cx.gid).blk f.x.toNat).t → (u.lane w.gid k).park = none
        ∧ ∀ p, st = some p → p.toNat < 7 → (u.lane w.gid k).pReg p.toNat = false) := by
  set v := s.beforeArrivals cx f.ctl with hv
  have hvblk : (v.group cx.gid).blk = (s.group cx.gid).blk := beforeArrivals_blk ..
  have hvjoin : v.join (v.group cx.gid).blk f.x.toNat = s.join (s.group cx.gid).blk f.x.toNat := by rw [hvblk]; exact beforeArrivals_join ..
  have hvhas : v.HasJoin (v.group cx.gid).blk (arriveArrival f).join := by rw [hvblk]; exact beforeArrivals_hasJoin hj cx f.ctl
  have hcomplete : (v.join (v.group cx.gid).blk (arriveArrival f).join).nextCompletes = true := by
    show (v.join (v.group cx.gid).blk f.x.toNat).nextCompletes = true
    rw [hvjoin]; unfold Join.nextCompletes; simpa using he.le
  have hexec : exec (.arrive f) s = .next (v.completeArrival cx l (arriveArrival f)) := by
    rw [execArrive_counts hi hmode, arriveAll_eq, show (issOf s cx f.ctl).lanes = [l] from hone]
    have hc : Counting cx.gid (v.group cx.gid).blk (arriveArrival f).join (v.join (v.group cx.gid).blk f.x.toNat)
        (v.group cx.gid).lanes.length v.clock 0 v := ⟨rfl, rfl, hvhas, rfl, rfl, rfl, rfl, rfl⟩
    have hstep := hc.arriveStep (by rw [hvjoin, show v.clock = s.clock from beforeArrivals_clock ..]; exact hlast) l
    exact congrArg Host.Outcome.next (hstep.trans (arriveLane_completes hvhas hcomplete l))
  have hwait : (v.beforeWake cx l (arriveArrival f)).waits = [w] := by rw [beforeWake_waits]; exact (beforeArrivals_waits ..).trans hwaits
  have hlane : ∀ k, (v.beforeWake cx l (arriveArrival f)).lane w.gid k = s.lane w.gid k := fun k => by
    rw [beforeWake_other hg, lane_of_groups (beforeArrivals_groups s cx f.ctl)]
    exact congrArg (fun g => g.lane k) (start_group_other s cx f.ctl w.gid hg)
  have hlen : ((v.beforeWake cx l (arriveArrival f)).group w.gid).lanes.length = (s.group w.gid).lanes.length := by
    rw [group_of_groups (beforeWake_groups v cx l (arriveArrival f)), (kept_takeToken v cx.gid l _ _).others w.gid hg, beforeArrivals_length]
  have hwblk : ((v.beforeWake cx l (arriveArrival f)).group w.gid).blk = (v.group cx.gid).blk := by
    rw [beforeWake_group, hvblk, ← hblk]; exact beforeArrivals_blk ..
  have hend : v.completeArrival cx l (arriveArrival f)
      = (v.beforeWake cx l (arriveArrival f)).wakeOn (v.group cx.gid).blk f.x.toNat (s.join (s.group cx.gid).blk f.x.toNat).t w := by
    rw [← hvjoin]
    show (v.beforeWake cx l (arriveArrival f)).wakeToken (v.group cx.gid).blk f.x.toNat _ = _
    rw [wakeToken_eq, hwait]
    rfl
  refine ⟨_, hexec, fun k hm => ⟨fun hne => ?_, fun heq => ?_⟩⟩
  · rw [hend, wakeOn_miss hk hne, hlane]
    exact (hlanes k hm).2
  · have hpark : ((v.beforeWake cx l (arriveArrival f)).lane w.gid k).park = some w.id := by rw [hlane]; exact (hlanes k hm).2
    rw [hend, wakeOn_hit (heq ▸ hk) hwblk]
    refine ⟨wakeBar_park hm hpark .., fun p hp h7 => ?_⟩
    rw [hp]
    exact wakeBar_status hm (by rw [hlen]; exact (hlanes k hm).1) _ _ h7 _

open Sys2Proof Sys2Proof.Machine Sys2Proof.Claims in
/-- Settles O18: the wait on a token of one lane, the trap on a signing register, and the release by the completing arrival. -/
theorem barWaitsOnTokens : Obligations.BarWaitsOnTokens := by
  unfold Obligations.BarWaitsOnTokens
  refine ⟨fun f s cx l hl hone => ⟨fun hw htk hi hmode => barWaitsOnToken hl hone hw htk hi hmode, fun hmode htrap => ?_⟩,
    fun f s cx l w b t scope st hl hone hi hb hj hwaits hk hg hblk hlanes hmode he hlast =>
      arriveReleases hone hi (.inl ⟨b, hb, hj⟩) hwaits hk hg hblk hlanes hmode he hlast⟩
  have ht : WordTraps cx [l] (cx.at_ 0x0B (f.x.zeroExtend 64)) s (s.signingTrap cx f) := by
    unfold State.signingTrap
    rw [hone]
    exact start_trap htrap (List.nodup_singleton l) (List.cons_ne_nil l []) f.ctl _
  refine ⟨fun hi => ⟨_, ?_, ht.blocks, ht.entered l (List.mem_singleton_self l)⟩,
    fun hi => ⟨_, ?_, ht.blocks, ht.entered l (List.mem_singleton_self l)⟩⟩
  · rw [execArrive_issued hi, if_pos hmode]
  · rw [execBar_issued hi, if_pos hmode]
end

section
/-! # Held arrivals (R105) -/
namespace Sys2Proof.Machine
open Sys2Proof.Claims

/-- A lane whose arrival was held is taken out of its wait, before it arrives. -/
def State.unheld (s : State) (gid l : Nat) (w : Wait) : State :=
  { s.modLane gid l (fun x => { x with park := none, since := s.clock }) with waits := s.waits.filter fun v => !(v.id == w.id) }

/-- A held arrival, as BAR or ARRIVE left it. -/
def arrivalOf (a : HeldArrival) : Arrival := ⟨a.join, a.token, a.waits, a.scope⟩

/-- A lane of BAR whose arrival completed the phase goes on: its group issues nothing until its counters read 0 (R113). -/
def State.barGoes (s : State) (gid l : Nat) (waits : Bool) : State :=
  if waits && (s.lane gid l).park.isNone then s.modGroup gid fun g => { g with hold := true } else s

section
variable {a : HeldArrival} {s : State} {w : Wait}

theorem execHeldArrival_held (hw : s.waits.find? (fun w => w.gid == a.gid && w.kind == .held && w.lanes.getLsbD a.lane) = some w)
    (h : s.secondPhase a.blk a.join = true) : exec (.heldArrival a) s = .next (s.send (.heldArrival a)) := by
  show execHeldArrival a s = _
  unfold execHeldArrival
  rw [hw]
  exact if_pos h
theorem execHeldArrival_arrives (hw : s.waits.find? (fun w => w.gid == a.gid && w.kind == .held && w.lanes.getLsbD a.lane) = some w)
    (h : s.secondPhase a.blk a.join = false) :
    exec (.heldArrival a) s = .next (((s.unheld a.gid a.lane w).arriveLane w.cx a.lane (arrivalOf a)).barGoes a.gid a.lane a.waits) := by
  show execHeldArrival a s = _
  unfold execHeldArrival
  rw [hw]
  exact if_neg (ne_true_of_eq_false h)
end

section
variable (s : State) (gid l : Nat) (w : Wait)

theorem unheld_groups : (s.unheld gid l w).groups = (s.modLane gid l fun x => { x with park := none, since := s.clock }).groups := rfl
theorem unheld_join (b : BlockRef) (j : Nat) : (s.unheld gid l w).join b j = s.join b j := rfl
theorem unheld_blk : ((s.unheld gid l w).group gid).blk = (s.group gid).blk := by
  rw [group_of_groups (unheld_groups s gid l w), group_modLane_with]
  rfl
theorem unheld_length : ((s.unheld gid l w).group gid).lanes.length = (s.group gid).lanes.length := by
  rw [group_of_groups (unheld_groups s gid l w), length_modLane]
theorem unheld_park (hl : l < (s.group gid).lanes.length) : ((s.unheld gid l w).lane gid l).park = none := by
  rw [lane_of_groups (unheld_groups s gid l w), lane_modLane, if_pos ⟨rfl, hl⟩]
end

theorem resumed_barGoes (s : State) (gid l : Nat) (waits : Bool) : Resumed s (s.barGoes gid l waits) := by
  unfold State.barGoes
  split
  · exact resumed_hold ..
  · exact .refl s
theorem barGoes_parked {s : State} {gid l : Nat} {waits : Bool} (h : waits = true → (s.lane gid l).park ≠ none) : s.barGoes gid l waits = s := by
  refine if_neg fun hc => ?_
  rw [Bool.and_eq_true, Option.isNone_iff_eq_none] at hc
  exact h hc.1 hc.2
theorem barGoes_hold {s : State} {gid l : Nat} (h : (s.lane gid l).park = none) : ((s.barGoes gid l true).group gid).hold = true := by
  unfold State.barGoes
  rw [if_pos (by rw [h]; rfl), group_modGroup_self]

section
variable {a : Arrival} {u : State} {cx : Cx} {l : Nat} (hj : u.HasJoin (u.group cx.gid).blk a.join)
  (hl : l < (u.group cx.gid).lanes.length) (hp : (u.lane cx.gid l).park = none)
include hj hl hp

/-- An arrival of one lane that completes no phase, to its end. -/
theorem lateArrival_counts (hc : (u.join (u.group cx.gid).blk a.join).a + 1 < (u.join (u.group cx.gid).blk a.join).e) :
    let x := u.join (u.group cx.gid).blk a.join
    let t := (u.arriveLane cx l a).barGoes cx.gid l a.waits
    (∀ r, a.token = some r → (t.lane cx.gid l).vReg r = x.t) ∧ t.join (u.group cx.gid).blk a.join = x.counted (u.arriver cx.gid l)
      ∧ ((t.lane cx.gid l).park = none ↔ a.waits = false) := by
  intro x t
  have hnext : x.nextCompletes = false := by unfold Join.nextCompletes; simpa using hc
  have hpark := (countArrival_park u cx l a l).trans hp
  have ht : t = (u.arriveLane cx l a).barGoes cx.gid l a.waits := rfl
  cases hw : a.waits with
  | false =>
    rw [ht, hw, barGoes_parked fun h => absurd h Bool.false_ne_true, arriveLane_counts hj hnext, hw, if_pos (show (!false) = true from rfl)]
    exact ⟨fun r hr => countArrival_vReg hr hl, countArrival_join hj, fun _ => rfl, fun _ => hpark⟩
  | true =>
    have hlane := parkBar_lane (s := u.countArrival cx l a) (l := l) (by rw [countArrival_len]; exact hl) a.join x.t a.scope none l
    rw [if_pos rfl] at hlane
    have hparked : (((u.countArrival cx l a).parkBar cx l a.join x.t a.scope none).lane cx.gid l).park ≠ none := by
      rw [hlane]; exact Option.some_ne_none _
    obtain ⟨hblocks, hsys, -⟩ := parkBar_machine (u.countArrival cx l a) cx l a.join x.t a.scope none
    have hend : u.arriveLane cx l a = (u.countArrival cx l a).parkBar cx l a.join x.t a.scope none := by
      rw [arriveLane_counts hj hnext, hw]; rfl
    rw [ht, hend, barGoes_parked fun _ => hparked]
    exact ⟨fun r hr => (congrArg (fun x : Lane => x.vReg r) hlane).trans (countArrival_vReg hr hl),
      (join_of_machine hblocks hsys ..).trans (countArrival_join hj), fun h => absurd h hparked, nofun⟩

/-- An arrival of one lane that completes a phase, to its end. -/
theorem lateArrival_completes (hc : (u.join (u.group cx.gid).blk a.join).e ≤ (u.join (u.group cx.gid).blk a.join).a + 1) :
    let x := u.join (u.group cx.gid).blk a.join
    let t := (u.arriveLane cx l a).barGoes cx.gid l a.waits
    (∀ r, a.token = some r → (t.lane cx.gid l).vReg r = x.t)
      ∧ t.join (u.group cx.gid).blk a.join = x.completed (u.arriver cx.gid l) u.clock
      ∧ (t.lane cx.gid l).park = none ∧ (a.waits = true → (t.group cx.gid).hold = true) := by
  intro x t
  have hnext : x.nextCompletes = true := by unfold Join.nextCompletes; simpa using hc
  have hto := (resumed_wakeToken (u.beforeWake cx l a) (u.group cx.gid).blk a.join x.t).trans (arriveLane_resumes hj hnext l)
  have hall := hto.trans (resumed_barGoes (u.arriveLane cx l a) cx.gid l a.waits)
  have hfree := (beforeWake_park u cx l a l).trans hp
  refine ⟨fun r hr => (hall.vReg ..).trans (beforeWake_vReg hr hl), (hall.join ..).trans (beforeWake_join hj l), hall.unparked hfree, fun hw => ?_⟩
  show (((u.arriveLane cx l a).barGoes cx.gid l a.waits).group cx.gid).hold = true
  rw [hw]
  exact barGoes_hold (hto.unparked hfree)
end

/-- An arrival that was held, at the next clock: it is held again where it would complete a second phase, else it counts (R105). -/
theorem heldArrivalApplies {a : HeldArrival} {s : State} {w : Wait}
    (hw : s.waits.find? (fun w => w.gid == a.gid && w.kind == .held && w.lanes.getLsbD a.lane) = some w) (hg : w.cx.gid = a.gid)
    (hj : s.HasJoin (s.group a.gid).blk a.join) (hl : a.lane < (s.group a.gid).lanes.length) :
    let x := s.join (s.group a.gid).blk a.join
    (s.secondPhase a.blk a.join = true → exec (.heldArrival a) s = .next (s.send (.heldArrival a)))
    ∧ (s.secondPhase a.blk a.join = false → ∃ t, exec (.heldArrival a) s = .next t ∧ (∀ r, a.token = some r → (t.lane a.gid a.lane).vReg r = x.t)
      ∧ (x.a + 1 < x.e → (t.join (s.group a.gid).blk a.join).a = x.a + 1 ∧ (t.join (s.group a.gid).blk a.join).t = x.t
        ∧ ((t.lane a.gid a.lane).park = none ↔ a.waits = false))
      ∧ (x.e ≤ x.a + 1 → (t.join (s.group a.gid).blk a.join).a = 0 ∧ (t.join (s.group a.gid).blk a.join).t = x.t + 1
        ∧ (t.lane a.gid a.lane).park = none ∧ (a.waits = true → (t.group a.gid).hold = true))) := by
  intro x
  refine ⟨execHeldArrival_held hw, fun h => ⟨_, execHeldArrival_arrives hw h, ?_⟩⟩
  rw [← hg] at hj hl ⊢
  set u := s.unheld w.cx.gid a.lane w
  have hblk : (u.group w.cx.gid).blk = (s.group w.cx.gid).blk := unheld_blk ..
  have hx : u.join (u.group w.cx.gid).blk (arrivalOf a).join = x := by rw [hblk]; show s.join _ _ = s.join _ _; rw [hg]; rfl
  have hj' : u.HasJoin (u.group w.cx.gid).blk (arrivalOf a).join := by rw [hblk]; exact hj
  have hl' : a.lane < (u.group w.cx.gid).lanes.length := by rw [unheld_length]; exact hl
  have hp' : (u.lane w.cx.gid a.lane).park = none := unheld_park s _ _ w hl
  have hcounts := lateArrival_counts (cx := w.cx) hj' hl' hp'
  have hcompletes := lateArrival_completes (cx := w.cx) hj' hl' hp'
  rw [hx] at hcounts hcompletes
  rw [hblk] at hcounts hcompletes
  refine ⟨fun r hr => ?_, fun hlt => ?_, fun hle => ?_⟩
  · rcases Nat.lt_or_ge (x.a + 1) x.e with hlt | hle
    · exact (hcounts hlt).1 r hr
    · exact (hcompletes hle).1 r hr
  · obtain ⟨-, hjoin, hpark⟩ := hcounts hlt
    exact ⟨(congrArg Join.a hjoin :), (congrArg Join.t hjoin :), hpark⟩
  · obtain ⟨-, hjoin, hpark, hhold⟩ := hcompletes hle
    exact ⟨(congrArg Join.a hjoin :), (congrArg Join.t hjoin :), hpark, hhold⟩
end Sys2Proof.Machine
end

section
/-! # Late causes (R375) -/
namespace Sys2Proof.Machine
open Sys2Proof.Claims

/-- What a withdrawal leaves as it was when it has dealt with the groups alone: everything but one lane, and the registers of its group. -/
structure Unwinds (gid l : Nat) (s t : State) : Prop where
  apart : t = { s with groups := t.groups }
  others : OtherGroups gid s t
  launch : (t.group gid).lid = (s.group gid).lid ∧ (t.group gid).part = (s.group gid).part ∧ (t.group gid).sys = (s.group gid).sys
  len : (t.group gid).lanes.length = (s.group gid).lanes.length
  lanes : ∀ k, k ≠ l → t.lane gid k = s.lane gid k

theorem Unwinds.refl (gid l : Nat) (s : State) : Unwinds gid l s s := ⟨rfl, fun _ _ => rfl, ⟨rfl, rfl, rfl⟩, rfl, fun _ _ => rfl⟩
theorem Unwinds.trans {gid l : Nat} {a b c : State} (h : Unwinds gid l a b) (k : Unwinds gid l b c) : Unwinds gid l a c := by
  obtain ⟨h1, h2, ⟨hl, hp, hs⟩, h4, h5⟩ := h
  obtain ⟨k1, k2, ⟨kl, kp, ks⟩, k4, k5⟩ := k
  exact ⟨by rw [k1, h1], fun g hg => (k2 g hg).trans (h2 g hg), ⟨kl.trans hl, kp.trans hp, ks.trans hs⟩, k4.trans h4,
    fun j hj => (k5 j hj).trans (h5 j hj)⟩

theorem unwinds_modLane (s : State) (gid l : Nat) (f : Lane → Lane) : Unwinds gid l s (s.modLane gid l f) := by
  refine ⟨rfl, fun k hk => by rw [group_modLane, if_neg hk], ?_, length_modLane .., fun k hk => by rw [lane_modLane, if_neg fun h => hk h.1]⟩
  rw [group_modLane_with]; exact ⟨rfl, rfl, rfl⟩

/-- A change of the group's g registers or convergence masks. -/
theorem unwinds_modGroup (s : State) (gid l : Nat) (f : Group → Group)
    (hf : ∀ g, f g = { g with g := (f g).g, m := (f g).m }) : Unwinds gid l s (s.modGroup gid f) := by
  have h : (s.modGroup gid f).group gid = f (s.group gid) := group_modGroup_self ..
  have hlanes : (f (s.group gid)).lanes = (s.group gid).lanes := by rw [hf]
  refine ⟨rfl, fun k hk => by rw [group_modGroup, if_neg hk], by rw [h, hf]; exact ⟨rfl, rfl, rfl⟩, by rw [h, hlanes], fun k _ => ?_⟩
  unfold State.lane Group.lane
  rw [h, hlanes]

theorem unwinds_restoreReg (s : State) (gid l after : Nat) (u : Undo) : Unwinds gid l s (s.restoreReg gid l after u) := by
  unfold State.restoreReg
  cases u <;> dsimp only <;> split
  case v.isTrue | p.isTrue => exact unwinds_modLane ..
  case g.isTrue | m.isTrue => exact unwinds_modGroup _ _ _ _ fun _ => rfl
  all_goals exact .refl ..

/-- The registers that the lane wrote after an access, as it found them. -/
def State.restored (s : State) (gid l : Nat) (o : OpenAcc) : State :=
  (s.lane gid l).undo.foldr (fun u s => s.restoreReg gid l o.id u) s

theorem unwinds_restored (s : State) (gid l : Nat) (o : OpenAcc) : Unwinds gid l s (s.restored gid l o) := by
  unfold State.restored
  generalize (s.lane gid l).undo = us
  induction us with
  | nil => exact .refl ..
  | cons u us ih => exact ih.trans (unwinds_restoreReg ..)

theorem restored_vReg {s : State} {gid l n k : Nat} {old : Word} {o : OpenAcc} (hl : l < (s.group gid).lanes.length)
    (hu : (s.lane gid l).undo = [.v n k old]) (hn : o.id < n) : ((s.restored gid l o).lane gid l).vReg k = old := by
  have h : s.restored gid l o = s.modLane gid l fun x => x.putV k old := by
    unfold State.restored
    rw [hu]
    exact if_pos hn
  rw [h, lane_modLane, if_pos ⟨rfl, hl⟩, vReg_putV, if_pos rfl]

/-- The lane as it stood at an access (R375). -/
def State.unwound (s : State) (gid l : Nat) (o : OpenAcc) : State :=
  (s.restored gid l o).modLane gid l fun x =>
    { x with stack := o.stack, park := none, opens := (s.lane gid l).opens.filter fun y => decide (y.id < o.id),
             undo := if ((s.lane gid l).opens.filter fun y => decide (y.id < o.id)) = [] then [] else x.undo.filter fun u => decide (u.num ≤ o.id) }

theorem unwinds_unwound (s : State) (gid l : Nat) (o : OpenAcc) : Unwinds gid l s (s.unwound gid l o) :=
  (unwinds_restored s gid l o).trans (unwinds_modLane ..)

theorem unwound_own {s : State} {gid l : Nat} (o : OpenAcc) (hl : l < (s.group gid).lanes.length) :
    ((s.unwound gid l o).lane gid l).stack = o.stack ∧ ((s.unwound gid l o).lane gid l).park = none
      ∧ ((s.unwound gid l o).lane gid l).v = ((s.restored gid l o).lane gid l).v := by
  unfold State.unwound
  rw [lane_modLane, if_pos ⟨rfl, by rw [(unwinds_restored s gid l o).len]; exact hl⟩]
  exact ⟨rfl, rfl, rfl⟩

theorem dropWait_form (s : State) (w : Wait) : ∃ d, s.dropWait w
    = { s with ms := { s.ms with monitors := s.ms.monitors.filter fun m => !(m.2 == w.id) }, due := d } := by
  unfold State.dropWait
  dsimp only
  split
  · split
    · exact ⟨_, rfl⟩
    · exact ⟨_, rfl⟩
  · exact ⟨_, rfl⟩

theorem dropWaits_form (ws : List Wait) (s : State) : ∃ d m, ws.foldl State.dropWait s = { s with ms := { s.ms with monitors := m }, due := d }
    ∧ (s.ms.monitors = [] → m = []) := by
  induction ws generalizing s with
  | nil => exact ⟨s.due, s.ms.monitors, rfl, id⟩
  | cons w ws ih =>
    obtain ⟨d, hd⟩ := dropWait_form s w
    obtain ⟨d', m', h, hm⟩ := ih (s.dropWait w)
    refine ⟨d', m', ?_, fun he => hm ?_⟩
    · rw [List.foldl_cons, h, hd]
    · rw [hd]
      show s.ms.monitors.filter _ = []
      rw [he, List.filter_nil]

/-- Beside the groups a withdrawal deals with results, held accesses, waits and their monitors. -/
theorem withdraw_form (s : State) (gid l : Nat) (o : OpenAcc) : ∃ d j m w, s.withdraw gid l o
      = { s.unwound gid l o with due := d, waits := w, ms := { (s.unwound gid l o).ms with jobs := j, monitors := m } }
    ∧ ((s.unwound gid l o).ms.jobs = [] → j = []) ∧ ((s.unwound gid l o).ms.monitors = [] → m = []) := by
  unfold State.withdraw
  dsimp only
  obtain ⟨d, m, h, hm⟩ := dropWaits_form _ _
  refine ⟨d, _, m, _, h, fun hj => ?_, fun he => hm ?_⟩
  · show List.filter _ (List.map _ (s.unwound gid l o).ms.jobs) = []
    rw [hj, List.map_nil, List.filter_nil]
  · exact he

/-- What a withdrawal of a lane leaves and restores (R375). -/
structure Withdraws (gid l : Nat) (o : OpenAcc) (s t : State) : Prop where
  others : OtherGroups gid s t
  sys : t.sys = s.sys
  launches : t.launches = s.launches
  launch : (t.group gid).lid = (s.group gid).lid ∧ (t.group gid).part = (s.group gid).part ∧ (t.group gid).sys = (s.group gid).sys
  len : (t.group gid).lanes.length = (s.group gid).lanes.length
  lanes : ∀ k, k ≠ l → t.lane gid k = s.lane gid k
  own : (t.lane gid l).stack = o.stack ∧ (t.lane gid l).park = none
  memory : s.ms.jobs = [] → s.ms.monitors = [] → SameMemory s t
  values : ∀ n k old, (s.lane gid l).undo = [.v n k old] → o.id < n → (t.lane gid l).vReg k = old

theorem withdraws_withdraw {s : State} {gid l : Nat} (o : OpenAcc) (hl : l < (s.group gid).lanes.length) :
    Withdraws gid l o s (s.withdraw gid l o) := by
  obtain ⟨d, j, m, w, h, hj, hm⟩ := withdraw_form s gid l o
  obtain ⟨hapart, hothers, hlaunch, hlen, hlanes⟩ := unwinds_unwound s gid l o
  have hgroups : (s.withdraw gid l o).groups = (s.unwound gid l o).groups := by rw [h]
  obtain ⟨hstack, hpark, hv⟩ := unwound_own o hl
  refine ⟨fun k hk => ?_, by rw [h, hapart], by rw [h, hapart], ?_, ?_, fun k hk => ?_, ?_, fun hjobs hmon => ?_, fun n k old hu hn => ?_⟩
  · rw [group_of_groups hgroups]; exact hothers k hk
  · rw [group_of_groups hgroups]; exact hlaunch
  · rw [group_of_groups hgroups]; exact hlen
  · rw [lane_of_groups hgroups]; exact hlanes k hk
  · rw [lane_of_groups hgroups]; exact ⟨hstack, hpark⟩
  · rw [hapart] at hj hm
    refine sameMemory_of_eq (by rw [h, hapart]) ?_
    rw [h, hapart, hj hjobs, hm hmon]
    show { s.ms with jobs := [], monitors := [] } = s.ms
    rw [← hjobs, ← hmon]
  · rw [lane_of_groups hgroups, ← restored_vReg hl hu hn]
    exact (congrArg (Map.get 0 · k) hv :)

theorem entered_kept (x : Lane) (t : TrapAt) (handler : DWord) (clock : Nat) :
    (x.entered t handler clock).park = x.park ∧ ∀ k, (x.entered t handler clock).vReg k = x.vReg k := ⟨rfl, fun _ => rfl⟩

/-- A late cause withdraws what its lane did after the access and traps there (R94, R111, R375). -/
theorem lateCauseTraps {c : Late} {s : State} {o : OpenAcc} (ho : (s.lane c.gid c.lane).opens.find? (fun o => o.id == c.access) = some o)
    (hsys : (s.group c.gid).sys = false) (hh : handlerOf s c.gid ≠ 0) (hl : c.lane < (s.group c.gid).lanes.length)
    (hfull : o.stack.length < 64) (hrun : ∀ r ∈ o.stack, r.trap = false) :
    ∃ t r, exec (.lateCause c) s = .next t ∧ OtherGroups c.gid s t
      ∧ (s.ms.jobs = [] → s.ms.monitors = [] → o.stack.length < 4 ∨ (s.csr (stkKey (s.group c.gid).part)).getLsbD 0 = false → SameMemory s t)
      ∧ (t.lane c.gid c.lane).stack = r :: o.stack ∧ r.trap = true ∧ r.addr = o.pc &&& ~~~7 ∧ (t.lane c.gid c.lane).pc = handlerOf s c.gid ∧ (t.lane c.gid c.lane).park = none
      ∧ (t.lane c.gid c.lane).xcause = BitVec.ofNat 32 c.cause ∧ (t.lane c.gid c.lane).xinfo = c.info ∧ (t.lane c.gid c.lane).xpc = o.pc
      ∧ (∀ n k old, (s.lane c.gid c.lane).undo = [.v n k old] → o.id < n → (t.lane c.gid c.lane).vReg k = old)
      ∧ ∀ l, l ≠ c.lane → t.lane c.gid l = s.lane c.gid l := by
  have hw := withdraws_withdraw (s := s) o hl
  set u := s.withdraw c.gid c.lane o
  let at_ : TrapAt := ⟨c.cause, c.info, o.pc, o.pos, o.left, o.cls, false⟩
  have hexec : exec (.lateCause c) s = .next (u.trap c.gid [c.lane] at_) := by
    show execLateCause c s = _
    unfold execLateCause
    rw [ho]
  have hhandler : handlerOf u c.gid = handlerOf s c.gid := by
    unfold Claims.handlerOf State.launch; rw [hw.launches, hw.launch.1]
  have hcan : CanTrap u c.gid [c.lane] := by
    refine ⟨hw.launch.2.2.trans hsys, by rw [hhandler]; exact hh, fun l hm => ?_⟩
    rw [List.mem_singleton.mp hm, hw.own.1, hw.len]
    exact ⟨hl, hfull, hrun⟩
  have ht := trap_enters hcan (List.nodup_singleton _) (List.cons_ne_nil _ _) at_
  have hown := ht.own c.lane (List.mem_singleton_self _)
  refine ⟨_, at_.frame, hexec, fun k hk => (ht.only.others k hk).trans (hw.others k hk), fun hj hm hc => ?_, ?_⟩
  · refine sameMemory_trans (hw.memory hj hm) (ht.memory (hc.imp (fun h l hm => ?_) fun h => .inr ?_))
    · rw [List.mem_singleton.mp hm, hw.own.1]; exact h
    · unfold State.csr; rw [hw.launch.2.1, hw.sys]; exact h
  · rw [hown, hhandler]
    refine ⟨congrArg (at_.frame :: ·) hw.own.1, rfl, rfl, rfl, (entered_kept ..).1.trans hw.own.2, rfl, rfl, rfl,
      fun n k old hu hn => ((entered_kept ..).2 k).trans (hw.values n k old hu hn),
      fun l hne => (ht.other l fun hm => hne (List.mem_singleton.mp hm)).trans (hw.lanes l hne)⟩
end Sys2Proof.Machine
end

section
/-! # The records of page faults (R374, R377, R378) -/
namespace Sys2Proof.Machine
open Sys2Proof.Claims

theorem fieldAt_take {bs : List Byte} {at_ n m : Nat} (h : at_ + n ≤ m) : fieldAt (bs.take m) at_ n = fieldAt bs at_ n := by
  unfold fieldAt
  rw [List.drop_take, List.take_take, Nat.min_eq_left (by omega)]
/-- A field behind others is a field of what follows them. -/
theorem fieldAt_leBytes_append {bs : List Byte} {k at_ n : Nat} (h : k ≤ at_) (x : Nat) :
    fieldAt (leBytes k x ++ bs) at_ n = fieldAt bs (at_ - k) n := by
  unfold fieldAt
  rw [List.drop_append, List.drop_of_length_le (by rw [leBytes_length]; exact h), leBytes_length, List.nil_append]
theorem fieldAt_leBytes_self (bs : List Byte) (n x : Nat) : fieldAt (leBytes n x ++ bs) 0 n = x % 256 ^ n := by
  unfold fieldAt
  rw [List.drop_zero, List.take_append_of_le_length (leBytes_length n x).ge, List.take_of_length_le (leBytes_length n x).le, leNat_leBytes]

theorem recordBytes_length (h : RecHead) (body : List Byte) : (recordBytes h body).length = 256 := by
  unfold recordBytes
  rw [List.length_take, List.length_append, List.length_replicate]
  omega
/-- KIND, CAUSE and INFO in a record's header (R378). -/
theorem recordBytes_head (h : RecHead) (body : List Byte) : fieldAt (recordBytes h body) 0 2 = h.kind % 256 ^ 2
    ∧ fieldAt (recordBytes h body) 2 2 = h.cause % 256 ^ 2 ∧ fieldAt (recordBytes h body) 24 8 = h.info.toNat % 256 ^ 8 := by
  unfold recordBytes
  simp only [List.append_assoc]
  refine ⟨?_, ?_, ?_⟩ <;> rw [fieldAt_take (by decide)]
  · exact fieldAt_leBytes_self ..
  · rw [fieldAt_leBytes_append (by decide)]; exact fieldAt_leBytes_self ..
  · iterate 8 rw [fieldAt_leBytes_append (by decide)]
    exact fieldAt_leBytes_self ..
/-- A field of a record's body (R378). -/
theorem recordBytes_body (h : RecHead) (body : List Byte) {at_ n : Nat} (hn : 32 + at_ + n ≤ 256) :
    fieldAt (recordBytes h body) (32 + at_) n = fieldAt (body ++ List.replicate 256 0) at_ n := by
  unfold recordBytes
  simp only [List.append_assoc]
  rw [fieldAt_take hn]
  iterate 9 rw [fieldAt_leBytes_append (by omega)]
  exact congrArg (fieldAt _ · n) (by omega)

/-- The header of a page fault's record. -/
def State.faultHead (s : State) (f : PageStop) (p : Parked) : RecHead :=
  if f.agent = 0 then s.recHead f.gid 1 0x15 (s.lane f.gid ((lanesOf f.lanes).headD 0)).pc f.va
  else { plainHead 1 0x15 with lid := p.lid, info := f.va }
/-- The body of a page fault's record. -/
def faultBody (f : PageStop) : List Byte :=
  leBytes 8 f.va.toNat ++ leBytes 4 f.lanes.toNat ++ leBytes 1 (accessCode f.access) ++ leBytes 1 f.level
    ++ leBytes 1 (if f.malformed then 1 else 0) ++ leBytes 1 0 ++ leBytes 4 f.park ++ leBytes 4 (if f.agent = 0 then 0 else f.agent + 1)

/-- KIND 1, cause 0x15, and the address, from a core or from an engine. -/
theorem faultHead_fields (s : State) (f : PageStop) (p : Parked) : (s.faultHead f p).kind = 1 ∧ (s.faultHead f p).cause = 0x15
    ∧ (s.faultHead f p).info = f.va
    ∧ (s.faultHead f p).core = if f.agent = 0 ∧ isSysGid f.gid = false then coreOf f.gid else 0xFFFF := by
  unfold State.faultHead State.recHead
  dsimp only
  by_cases ha : f.agent = 0
  · cases hs : isSysGid f.gid <;> simp [ha]
  · simp [ha, plainHead]

theorem faultBody_fields (f : PageStop) (bs : List Byte) : fieldAt (faultBody f ++ bs) 0 8 = f.va.toNat
    ∧ fieldAt (faultBody f ++ bs) 8 4 = f.lanes.toNat ∧ fieldAt (faultBody f ++ bs) 16 4 = f.park % 2 ^ 32 := by
  unfold faultBody
  simp only [List.append_assoc]
  refine ⟨(fieldAt_leBytes_self ..).trans (Nat.mod_eq_of_lt f.va.isLt), ?_, ?_⟩
  · rw [fieldAt_leBytes_append (by decide)]
    exact (fieldAt_leBytes_self ..).trans (Nat.mod_eq_of_lt f.lanes.isLt)
  · iterate 6 rw [fieldAt_leBytes_append (by decide)]
    exact fieldAt_leBytes_self ..

theorem faultRec_eq {s : State} {f : PageStop} {p : Parked} (h : s.ms.parked.find? (fun p => p.id == f.park) = some p) :
    s.faultRec f = s.queueRec p.part (s.faultHead f p) (faultBody f) (if f.agent = 0 then .lanes f.gid f.lanes else .other) := by
  unfold State.faultRec
  rw [h]
  rfl

/-- A page fault on its way whose park is numbered below `n`. -/
def earlierFault (n : Nat) (i : Instr) : Option PageStop :=
  match i with
  | .pageFault f => if f.park < n then some f else none
  | _ => none

theorem faultsFirst_eq (s : State) (n : Nat) : s.faultsFirst n = (s.due.filterMap (earlierFault n)).foldl State.faultRec
    { s with due := s.due.filter fun i => (earlierFault n i).isNone } := by rfl

/-- No fault of an earlier park is on its way: the records that come first are none. -/
theorem faultsFirst_none {s : State} {n : Nat} (h : ∀ g, .pageFault g ∈ s.due → n ≤ g.park) : s.faultsFirst n = s := by
  have hnone : ∀ i ∈ s.due, earlierFault n i = none := fun i hi => by
    unfold earlierFault
    split
    · next g => exact if_neg (Nat.not_lt.mpr (h g hi))
    · rfl
  rw [faultsFirst_eq, List.filterMap_eq_nil_iff.mpr hnone, List.filter_eq_self.mpr fun i hi => by rw [hnone i hi]; rfl]
  rfl

/-- One record that waits alone is written, or goes on waiting (R377). -/
theorem fqDrain_one {s : State} (hs : s.sys.pendingFq = []) (r : PendingRec) :
    ({ s with sys := { s.sys with pendingFq := [r] } } : State).fqDrain
      = match s.fqTry r with
        | some t => t
        | none => { s with sys := { s.sys with pendingFq := [r] } } := by
  have hempty : ({ s with sys := { s.sys with pendingFq := [] } } : State) = s := by rw [← hs]
  show State.fqGo [r] [] { s with sys := { s.sys with pendingFq := [] } } = _
  rw [hempty, State.fqGo, if_neg (by exact Bool.false_ne_true)]
  cases s.fqTry r with
  | some t => rfl
  | none =>
    show { s with sys := { s.sys with pendingFq := s.sys.pendingFq ++ [r] } } = _
    rw [hs]
    rfl

/-- The record of the oldest page fault on its way (R374, R377, R378, R380). -/
theorem pageFaultRecorded {f : PageStop} {s : State} {p : Parked} (hp : s.ms.parked.find? (fun p => p.id == f.park) = some p)
    (hq : s.sys.pendingFq = []) (hfirst : ∀ g, .pageFault g ∈ s.due → f.park ≤ g.park) :
    ∃ bs, fieldAt bs 0 2 = 1 ∧ fieldAt bs 2 2 = 0x15 ∧ fieldAt bs 24 8 = f.va.toNat ∧ fieldAt bs 32 8 = f.va.toNat
      ∧ fieldAt bs 40 4 = f.lanes.toNat ∧ fieldAt bs 48 4 = f.park % 2 ^ 32 ∧ bs.length = 256 ∧
      let u := s.count (cntRecord 0x15 (if f.agent = 0 ∧ isSysGid f.gid = false then coreOf f.gid else 0xFFFF))
      let r : PendingRec := ⟨p.part, bs, if f.agent = 0 then .lanes f.gid f.lanes else .other⟩
      exec (.pageFault f) s = .next (match u.fqTry r with
        | some v => v
        | none => { u with sys := { u.sys with pendingFq := [r] } }) := by
  obtain ⟨hkind, hcause, hinfo, hcore⟩ := faultHead_fields s f p
  obtain ⟨h0, h2, h24⟩ := recordBytes_head (s.faultHead f p) (faultBody f)
  obtain ⟨b0, b8, b16⟩ := faultBody_fields f (List.replicate 256 0)
  refine ⟨recordBytes (s.faultHead f p) (faultBody f), by rw [h0, hkind]; rfl, by rw [h2, hcause]; rfl,
    by rw [h24, hinfo]; exact Nat.mod_eq_of_lt f.va.isLt, (recordBytes_body _ _ (at_ := 0) (by decide)).trans b0,
    (recordBytes_body _ _ (at_ := 8) (by decide)).trans b8, (recordBytes_body _ _ (at_ := 16) (by decide)).trans b16,
    recordBytes_length .., ?_⟩
  intro u r
  have hu : s.faultRec f = { u with sys := { u.sys with pendingFq := [r] } } := by
    rw [faultRec_eq hp]
    unfold State.queueRec
    rw [hcause, hcore]
    show { u with sys := { u.sys with pendingFq := u.sys.pendingFq ++ [r] } } = _
    rw [show u.sys.pendingFq = [] from hq]
    rfl
  show Host.Outcome.next (((s.faultsFirst f.park).faultRec f).fqDrain) = _
  rw [faultsFirst_none hfirst, hu, fqDrain_one (show u.sys.pendingFq = [] from hq)]
end Sys2Proof.Machine

open Sys2Proof Sys2Proof.Machine Sys2Proof.Claims in
/-- Settles O46: the withdrawal and its trap, the held arrival one clock later, and the record of the oldest page fault. -/
theorem lateCausesAndFaultRecords : Obligations.LateCausesAndFaultRecords := by
  unfold Obligations.LateCausesAndFaultRecords
  exact ⟨fun c s o ho hsys hh hl hfull hrun => lateCauseTraps ho hsys hh hl hfull hrun,
    fun a s w b hw hg _ hb hj hl _ => heldArrivalApplies hw hg (.inl ⟨b, hb, hj⟩) hl,
    fun f s p hp hq hfirst => pageFaultRecorded hp hq hfirst⟩
end

section
/-! # Results across lanes (R139 to R143) -/
namespace Sys2Proof.Machine
open Sys2Proof.Claims

/-- A word of a counter whose results return: they are on their way, and nothing else has changed. -/
theorem start_later {s : State} {cx : Cx} (hl : LanesExist s cx) (c : Ctl) (ctr : Ctr) (ws : List RegWrite) :
    OnlyGroup cx.gid s ((s.start cx c).later cx.gid s.nextId ctr ws) ∧ Passed ((s.start cx c).later cx.gid s.nextId ctr ws) cx
      ∧ Claims.Returns s ((s.start cx c).later cx.gid s.nextId ctr ws) (issOf s cx c) ctr 0 ws := by
  obtain ⟨hv, hp, hg, hx⟩ := start_sameRegs s cx c
  refine ⟨⟨fun k hk => ((kept_later ..).others k hk).trans (start_otherGroups s cx c k hk), start_sameMemory s cx c,
    start_sameMachine s cx c, start_waits s cx c⟩, fun l hm => ?_, ?_, ?_, fun l k => ?_, fun l k => ?_, fun k => ?_, fun l => ?_⟩
  · rw [later_lane]; exact start_passed hl c l hm
  · rw [later_due, start_due]; rfl
  · show (State.group _ cx.gid).cnt = _
    rw [group_later]
    exact (congrArg (fun g => g.cnt.bump ctr) (start_base s cx c) :)
  · show (State.lane _ cx.gid l).vReg k = _
    rw [later_lane]; exact hv l k
  · show (State.lane _ cx.gid l).pReg k = _
    rw [later_lane]; exact hp l k
  · exact (later_readG ..).trans (hg k)
  · obtain ⟨h1, h2, h3, h4⟩ := hx l
    have hlane := later_lane (s.start cx c) cx.gid s.nextId ctr ws l
    exact ⟨(congrArg Lane.xcause hlane :).trans h1, (congrArg Lane.xinfo hlane :).trans h2, (congrArg Lane.xpc hlane :).trans h3,
      (congrArg Lane.xidx hlane :).trans h4⟩

/-- The writes of one register in each lane. -/
theorem flatMap_retVW (ls : List Nat) (r : Nat) (x : Nat → DWord) :
    (ls.flatMap fun l => retVW l false r (x l)) = ls.map fun l => .v l r (lo32 (x l)) := by
  induction ls with
  | nil => rfl
  | cons l ls ih => rw [List.flatMap_cons, ih]; rfl

/-! ## LXCH (R140) -/

/-- The source lane by the model's number and by R140's terms. -/
theorem lxchSrc_eq_lxchFrom {mode : Nat} (hm : mode < 4) (k l n : Nat) (step : Int) :
    lxchSrc mode k l n step = lxchFrom mode (2 ^ k) l (if mode = 2 then step else n) := by
  have hz : 0 < 2 ^ k := Nat.two_pow_pos k
  generalize hZ : 2 ^ k = z at hz
  have hbase : ((l / z * z : Nat) : Int) = (l : Int) - (l : Int) % z := by
    have h := Nat.div_add_mod' l z
    omega
  have hin : ∀ x, x < z → (if (l : Int) - (l : Int) % z ≤ (l : Int) - (l : Int) % z + x ∧ (l : Int) - (l : Int) % z + x < (l : Int) - (l : Int) % z + z
      then some ((l : Int) - (l : Int) % z + x).toNat else none) = some (l / z * z + x) := fun x hx => by
    rw [← hbase, if_pos (by omega)]
    exact congrArg some (by omega)
  unfold lxchSrc lxchFrom
  rw [hZ]
  match mode, hm with
  | 0, _ => exact ((hin (n % z) (Nat.mod_lt _ hz))).symm
  | 1, _ => exact (hin ((l % z + n) % z) (Nat.mod_lt _ hz)).symm
  | 2, _ => exact if_congr (by rw [hbase]; rfl) rfl rfl
  | 3, _ =>
    exact (hin (Nat.xor (l % z) (n % z)) (hZ ▸ Nat.xor_lt_two_pow (hZ ▸ Nat.mod_lt _ hz) (hZ ▸ Nat.mod_lt _ hz))).symm

/-- LXCH's operand B in a lane. -/
def State.lxchB (s : State) (gid : Nat) (f : RRR) (l : Nat) : Word :=
  if f.opx.getLsbD 5 then f.c.zeroExtend 32 else if f.bg then lo32 (s.readG gid f.b.toNat) else s.readV gid l 2 f.b.toNat

/-- LXCH's lane operand, as the word forms it from B. -/
theorem lxchN_eq (s : State) (i : Iss) (f : RRR) (l : Nat) : lxchN s i f l = if f.opx.toNat % 4 = 2
    then (if f.opx.getLsbD 5 then f.c.toInt else (s.lxchB i.gid f l).toInt) else ((s.lxchB i.gid f l).toNat : Int) := by
  unfold lxchN State.lxchB
  cases f.opx.getLsbD 5 <;> by_cases h : f.opx.toNat % 4 = 2 <;> simp [h]
  omega

theorem lxchReturns {f : RRR} {s : State} {cx : Cx} (hl : LanesExist s cx)
    (hi : Issues s cx f.ctl (some .xc) (namesDA f f.ty.is64 ++ (if f.opx.getLsbD 5 || f.bg then [] else [f.b.toNat]))
      (vNames f.ty.is64 f.d).length) :
    ∃ t, exec (.lxch f) s = .next t ∧ OnlyGroup cx.gid s t ∧ Passed t cx ∧
      Claims.Returns s t (issOf s cx f.ctl) .xc 0 ((issOf s cx f.ctl).lanes.flatMap fun l => retVW l f.ty.is64 f.d.toNat
        ((s.start cx f.ctl).readA (issOf s cx f.ctl) f.ag f.ty.is64 f.a
          ((lxchFrom (f.opx.toNat % 4) (2 ^ (f.opx.toNat / 4 % 8)) l (lxchN (s.start cx f.ctl) (issOf s cx f.ctl) f l)).getD l))) := by
  have hexec : exec (.lxch f) s = .next ((s.start cx f.ctl).later cx.gid s.nextId .xc
      ((issOf s cx f.ctl).lanes.flatMap fun l => retVW l f.ty.is64 f.d.toNat
        ((s.start cx f.ctl).readA (issOf s cx f.ctl) f.ag f.ty.is64 f.a
          ((lxchFrom (f.opx.toNat % 4) (2 ^ (f.opx.toNat / 4 % 8)) l (lxchN (s.start cx f.ctl) (issOf s cx f.ctl) f l)).getD l)))) := by
    show execLxch f s = _
    unfold execLxch
    refine (issued_runs hi _).trans (congrArg (fun ws => Host.Outcome.next (State.later _ _ _ _ ws)) ?_)
    refine congrArg (List.flatMap · _) (funext fun l => congrArg (retVW l _ _) ?_)
    rw [lxchN_eq, ← lxchSrc_eq_lxchFrom (Nat.mod_lt _ (by decide))]
    change (match lxchSrc (f.opx.toNat % 4) (f.opx.toNat / 4 % 8) l ((s.start cx f.ctl).lxchB (issOf s cx f.ctl).gid f l).toNat
        (if f.opx.getLsbD 5 then f.c.toInt else ((s.start cx f.ctl).lxchB (issOf s cx f.ctl).gid f l).toInt) with
      | some k => _
      | none => _) = _
    cases lxchSrc (f.opx.toNat % 4) (f.opx.toNat / 4 % 8) l ((s.start cx f.ctl).lxchB (issOf s cx f.ctl).gid f l).toNat
      (if f.opx.getLsbD 5 then f.c.toInt else ((s.start cx f.ctl).lxchB (issOf s cx f.ctl).gid f l).toInt) <;> rfl
  exact ⟨_, hexec, start_later hl ..⟩

/-! ## PAGG and PMASK (R141) -/

/-- PAGG's four answers over a list of lanes. -/
theorem paggOf_iff (op : Nat) (ls : List Nat) (p : Nat → Bool) : op < 4 → (paggOf (op % 4) (ls.map p) = true ↔ match op with
    | 0 => ∀ l ∈ ls, p l = true
    | 1 => ∃ l ∈ ls, p l = true
    | 2 => ∀ l ∈ ls, ∀ k ∈ ls, (p l = true ↔ p k = true)
    | _ => (ls.filter p).length % 2 = 1) := by
  intro h
  rw [Nat.mod_eq_of_lt h]
  match op, h with
  | 0, _ => show (ls.map p).all id = true ↔ _; simp
  | 1, _ => show (ls.map p).any id = true ↔ _; simp
  | 2, _ =>
    show ((ls.map p).all id || (ls.map p).all not) = true ↔ _
    simp only [Bool.or_eq_true, List.all_map, List.all_eq_true]
    refine ⟨fun h l hl k hk => ?_, fun h => ?_⟩
    · rcases h with h | h
      · exact ⟨fun _ => h k hk, fun _ => h l hl⟩
      · have hl' := h l hl; have hk' := h k hk; simp_all
    · by_cases hall : ∃ k ∈ ls, p k = true
      · obtain ⟨k, hk, hp⟩ := hall; exact .inl fun l hl => (h l hl k hk).mpr hp
      · exact .inr fun l hl => by simpa using fun hp => hall ⟨l, hl, hp⟩
  | 3, _ =>
    show (List.countP id (ls.map p) % 2 == 1) = true ↔ (ls.filter p).length % 2 = 1
    rw [List.countP_map, List.countP_eq_length_filter, beq_iff_eq]
    rfl

theorem paggReturns {f : RRR} {s : State} {cx : Cx} (hl : LanesExist s cx) (hi : Issues s cx f.ctl (some .xc) [] 1) (hop : f.opx.toNat < 4) :
    ∃ t, exec (.pagg f) s = .next t ∧ OnlyGroup cx.gid s t ∧ Passed t cx ∧
      (let ps := fun l => (s.start cx f.ctl).readPs cx.gid l 1 f.a.toNat = true
       ∃ r : Bool, Claims.Returns s t (issOf s cx f.ctl) .xc 0 ((issOf s cx f.ctl).lanes.map fun l => .p l f.d.toNat r) ∧
         (r = true ↔ match f.opx.toNat with
           | 0 => ∀ l ∈ (issOf s cx f.ctl).lanes, ps l
           | 1 => ∃ l ∈ (issOf s cx f.ctl).lanes, ps l
           | 2 => ∀ l ∈ (issOf s cx f.ctl).lanes, ∀ k ∈ (issOf s cx f.ctl).lanes, (ps l ↔ ps k)
           | _ => ((issOf s cx f.ctl).lanes.filter fun l => (s.start cx f.ctl).readPs cx.gid l 1 f.a.toNat).length % 2 = 1)) := by
  obtain ⟨h1, h2, h3⟩ := start_later hl f.ctl .xc ((issOf s cx f.ctl).lanes.map fun l => .p l f.d.toNat
    (paggOf (f.opx.toNat % 4) ((issOf s cx f.ctl).lanes.map fun l => (s.start cx f.ctl).readPs cx.gid l 1 f.a.toNat)))
  exact ⟨_, show execPagg f s = _ from issued_runs hi _, h1, h2, _, h3, paggOf_iff _ _ _ hop⟩

theorem pmaskOf_bit {ls : List Nat} (h32 : ∀ l ∈ ls, l < 32) (p : Nat → Bool) (l : Nat) :
    (pmaskOf (ls.map fun l => (l, p l))).getLsbD l = (decide (l ∈ ls) && p l) := by
  unfold pmaskOf
  rw [Bool.eq_iff_iff, mem_maskOf, Bool.and_eq_true, decide_eq_true_iff]
  simp only [List.mem_map, List.mem_filter, Prod.exists]
  constructor
  · rintro ⟨⟨a, b, ⟨⟨k, hk, he⟩, hb⟩, rfl⟩, -⟩
    cases he
    exact ⟨hk, hb⟩
  · rintro ⟨hl, hp⟩
    exact ⟨⟨l, p l, ⟨⟨l, hl, rfl⟩, hp⟩, rfl⟩, h32 l hl⟩

/-- The model's count of the bits of a mask. -/
theorem popCount_mask (m : LaneMask) : Alu.popCount 32 m.toNat = bitCount m := by
  unfold Alu.popCount bitCount
  generalize List.range 32 = is
  suffices h : ∀ n, is.foldl (fun n i => n + m.toNat / 2 ^ i % 2) n = n + (is.filter fun l => m.getLsbD l).length by simpa using h 0
  induction is with
  | nil => intro n; rfl
  | cons i is ih =>
    intro n
    rw [List.foldl_cons, ih, List.filter_cons]
    have hbit : m.toNat / 2 ^ i % 2 = if m.getLsbD i then 1 else 0 := by
      rw [BitVec.getLsbD, Nat.testBit_eq_decide_div_mod_eq]
      by_cases h : m.toNat / 2 ^ i % 2 = 1
      · simp [h]
      · simp [h]; omega
    rw [hbit]
    cases m.getLsbD i <;> simp [Nat.add_assoc, Nat.add_comm]

theorem pmaskReturns {f : RRR} {s : State} {cx : Cx} (hl : LanesExist s cx) (hi : Issues s cx f.ctl (some .xc) [f.d.toNat] 1) :
    ∃ t, exec (.pmask f) s = .next t ∧ OnlyGroup cx.gid s t ∧ Passed t cx ∧
      ∃ m : LaneMask, (∀ l, m.getLsbD l = (decide (l ∈ (issOf s cx f.ctl).lanes) && (s.start cx f.ctl).readPs cx.gid l 1 f.a.toNat)) ∧
        Claims.Returns s t (issOf s cx f.ctl) .xc 0
          ((issOf s cx f.ctl).lanes.map fun l => .v l f.d.toNat (if f.opx.getLsbD 0 then BitVec.ofNat 32 (bitCount m) else m)) := by
  set i := issOf s cx f.ctl with hdef
  set m := pmaskOf (i.lanes.map fun l => (l, (s.start cx f.ctl).readPs cx.gid l 1 f.a.toNat)) with hm
  have h32 : ∀ l ∈ i.lanes, l < 32 := fun l h => ((mem_lanesOf ..).mp (taking_mask h)).1
  have hval : lo32 (if f.opx.getLsbD 0 then BitVec.ofNat 64 (Alu.popCount 32 m.toNat) else m.zeroExtend 64)
      = if f.opx.getLsbD 0 then BitVec.ofNat 32 (bitCount m) else m := by
    rw [popCount_mask]
    cases f.opx.getLsbD 0
    · show BitVec.extractLsb' 0 32 (BitVec.zeroExtend 64 m) = m
      apply BitVec.eq_of_toNat_eq
      simpa using m.isLt
    · show BitVec.extractLsb' 0 32 (BitVec.ofNat 64 (bitCount m)) = BitVec.ofNat 32 (bitCount m)
      apply BitVec.eq_of_toNat_eq
      simp
  obtain ⟨h1, h2, h3⟩ := start_later hl f.ctl .xc
    (i.lanes.map fun l => .v l f.d.toNat (if f.opx.getLsbD 0 then BitVec.ofNat 32 (bitCount m) else m))
  refine ⟨_, ?_, h1, h2, m, pmaskOf_bit h32 _, h3⟩
  show execPmask f s = _
  refine (issued_runs hi _).trans (congrArg (fun ws => Host.Outcome.next (State.later _ _ _ _ ws)) ?_)
  rw [← hval]
  exact flatMap_retVW i.lanes f.d.toNat fun _ => _

/-! ## QX (R143) -/

/-- QX's note of a helper in a lane (R103). -/
def State.noteHelper (s : State) (i : Iss) (src : Nat → Nat) (l : Nat) : State :=
  s.modLane i.gid l fun x => { x with helper := if src l = l ∨ i.lanes.contains (src l) then 0 else (1 : Word) <<< (src l % 4) }

/-- The notes change %helper alone. -/
structure Notes (gid : Nat) (s t : State) : Prop where
  apart : t = { s with groups := t.groups }
  only : LanesOnly gid s t
  lanes : ∀ l, { t.lane gid l with helper := 0 } = { s.lane gid l with helper := 0 }

theorem notes_noteHelper (s : State) (i : Iss) (src : Nat → Nat) (l : Nat) : Notes i.gid s (s.noteHelper i src l) := by
  refine ⟨rfl, lanesOnly_modLane .., fun k => ?_⟩
  unfold State.noteHelper
  rw [lane_modLane]
  split
  · next h => rw [h.1]
  · rfl

theorem notes_all (s : State) (i : Iss) (src : Nat → Nat) (ls : List Nat) :
    Notes i.gid s (eachLane s ls fun s l => s.noteHelper i src l) :=
  eachLane_rel (R := Notes i.gid) (fun s => ⟨rfl, .refl .., fun _ => rfl⟩)
    (fun a b c h k => ⟨by rw [k.apart, h.apart], h.only.trans k.only, fun l => (k.lanes l).trans (h.lanes l)⟩)
    (fun s l => notes_noteHelper s i src l) s ls

theorem noteHelper_all {s : State} {i : Iss} (hn : i.lanes.Nodup) (hl : ∀ l ∈ i.lanes, l < (s.group i.gid).lanes.length) (src : Nat → Nat) :
    ∀ l ∈ i.lanes, ((eachLane s i.lanes fun s l => s.noteHelper i src l).lane i.gid l).helper
      = if src l = l ∨ src l ∈ i.lanes then 0 else BitVec.ofNat 32 (2 ^ (src l % 4)) := by
  intro l hm
  have h := (eachLane_lanes (gid := i.gid) (Q := fun _ => True) (f := fun s l => s.noteHelper i src l)
    (R := fun l _ y => y.helper = if src l = l ∨ i.lanes.contains (src l) then 0 else (1 : Word) <<< (src l % 4))
    (fun _ _ _ => trivial) (fun s l => length_modLane ..) (fun s l k hk => lane_modLane_other s _ _ _ _ _ (.inr hk))
    (fun s l _ hlt => by unfold State.noteHelper; rw [lane_modLane, if_pos ⟨rfl, hlt⟩]) i.lanes hn s trivial).1 l hm (hl l hm)
  rw [h]
  refine if_congr (or_congr Iff.rfl List.contains_iff_mem) rfl ?_
  have hlt : src l % 4 < 4 := Nat.mod_lt _ (by decide)
  generalize src l % 4 = k at hlt
  revert k
  decide

/-- The source lane by the model's number and by R143's. -/
theorem qxSrc_eq (op l : Nat) : qxSrc op l = l - l % 4 + (if op < 4 then Nat.xor (l % 4) op else op - 4) := by
  unfold qxSrc
  rw [show l / 4 * 4 = l - l % 4 by omega]

theorem qxReturns {f : RRR} {s : State} {cx : Cx} (hl : LanesExist s cx)
    (hi : Issues s cx f.ctl (some .xc) (namesDA f f.ty.is64) (vNames f.ty.is64 f.d).length) :
    let s1 := s.start cx f.ctl
    let i := issOf s cx f.ctl
    let src := qxSrc f.opx.toNat
    ∃ t, exec (.qx f) s = .next t ∧ OnlyGroup cx.gid s t ∧ Passed t cx
      ∧ Claims.Returns s t i .xc 0 (i.lanes.flatMap fun l => retVW l f.ty.is64 f.d.toNat (s1.readA i f.ag f.ty.is64 f.a (src l)))
      ∧ ∀ l ∈ i.lanes, (t.lane cx.gid l).helper = if src l = l ∨ src l ∈ i.lanes then 0 else BitVec.ofNat 32 (2 ^ (src l % 4)) := by
  intro s1 i src
  set ws := i.lanes.flatMap fun l => retVW l f.ty.is64 f.d.toNat (s1.readA i f.ag f.ty.is64 f.a (src l)) with hws
  obtain ⟨⟨hothers, hmem, hmachine, hwaits⟩, hpassed, hdue, hcnt, hv, hp, hg, hx⟩ := start_later hl f.ctl .xc ws
  set u := (s.start cx f.ctl).later cx.gid s.nextId .xc ws with hu
  have hexec : exec (.qx f) s = .next (eachLane u i.lanes fun s l => s.noteHelper i src l) :=
    show execQx f s = _ from issued_runs hi _
  obtain ⟨hapart, honly, hlanes⟩ := notes_all u i src i.lanes
  have hlen : (u.group cx.gid).lanes.length = (s.group cx.gid).lanes.length := by
    rw [group_later]; exact start_length ..
  refine ⟨_, hexec, ⟨fun k hk => (honly.others k hk).trans (hothers k hk), ?_, ?_, by rw [hapart]; exact hwaits⟩, fun l hm => ?_,
    ⟨by rw [hapart]; exact hdue, (congrArg Group.cnt honly.base :).trans hcnt, fun l k => ?_, fun l k => ?_, fun k => ?_, fun l => ?_⟩,
    noteHelper_all (taking_nodup ..) (fun l hm => hlen ▸ hl l (taking_mask hm)) src⟩
  · rw [hapart]; exact hmem
  · rw [hapart]; exact hmachine
  · obtain ⟨h1, h2, h3⟩ := hpassed l hm
    exact ⟨(congrArg Lane.pc (hlanes l) :).trans h1, (congrArg Lane.pos (hlanes l) :).trans h2, (congrArg Lane.left (hlanes l) :).trans h3⟩
  · exact (congrArg (·.vReg k) (hlanes l) :).trans (hv l k)
  · exact (congrArg (·.pReg k) (hlanes l) :).trans (hp l k)
  · exact (congrArg (·.gReg k) honly.base :).trans (hg k)
  · obtain ⟨h1, h2, h3, h4⟩ := hx l
    exact ⟨(congrArg Lane.xcause (hlanes l) :).trans h1, (congrArg Lane.xinfo (hlanes l) :).trans h2,
      (congrArg Lane.xpc (hlanes l) :).trans h3, (congrArg Lane.xidx (hlanes l) :).trans h4⟩
end Sys2Proof.Machine
end

section
/-! # Reductions across lanes (R142) -/
namespace Sys2Proof.Machine
open Sys2Proof.Claims

theorem ofInt_congr {x y : Int} (h : (2 ^ 32 : Int) ∣ x - y) : BitVec.ofInt 32 x = BitVec.ofInt 32 y := by
  apply BitVec.eq_of_toNat_eq
  rw [BitVec.toNat_ofInt, BitVec.toNat_ofInt]
  exact congrArg Int.toNat (Int.emod_eq_emod_iff_emod_sub_eq_zero.mpr (Int.emod_eq_zero_of_dvd h))

/-- The integer types of 32 bits. -/
def IsWord (t : Ty) : Prop := t = .i32 ∨ t = .n32

section
variable {t : Ty} (ht : IsWord t)
include ht

theorem IsWord.width : t.width = 32 := by rcases ht with rfl | rfl <;> rfl
theorem IsWord.isInt : t.isInt = true := by rcases ht with rfl | rfl <;> rfl
theorem IsWord.is64 : t.is64 = false := by rcases ht with rfl | rfl <;> rfl

theorem lo32_image (v : Int) : lo32 (Alu.image t v) = BitVec.ofInt 32 v := by
  unfold Alu.image
  rw [ht.is64, if_neg Bool.false_ne_true]
  apply BitVec.eq_of_toNat_eq
  unfold lo32
  simp
  omega

theorem ofInt_int (x : DWord) : BitVec.ofInt 32 (Alu.int t x) = lo32 x := by
  have h : BitVec.ofInt 32 (Alu.int t x) = BitVec.ofInt 32 (x.toNat : Int) := by
    apply ofInt_congr
    unfold Alu.int
    rw [ht.width]
    dsimp only
    split <;> omega
  rw [h]
  apply BitVec.eq_of_toNat_eq
  unfold lo32
  simp

theorem ofInt_wrapInt (v : Int) : BitVec.ofInt 32 (Alu.wrapInt t v) = BitVec.ofInt 32 v := by
  have h := dvd_wrapInt_sub t v
  rw [ht.width] at h
  exact ofInt_congr h

theorem rdInt_of_lo32 {x y : DWord} (h : lo32 x = lo32 y) : rdInt t x = rdInt t y := by
  have hx : ∀ x : DWord, x.setWidth 32 = lo32 x := fun x => by unfold lo32; apply BitVec.eq_of_toNat_eq; simp
  unfold rdInt
  rw [ht.width, hx, hx, h]

theorem lo32_add (rm : Rm) (a b : DWord) : lo32 (Alu.add ⟨t, rm, false⟩ a b) = lo32 a + lo32 b := by
  unfold Alu.add Alu.putInt
  rw [if_pos ht.isInt, if_neg (by exact Bool.false_ne_true), lo32_image ht, ofInt_wrapInt ht, BitVec.ofInt_add, ofInt_int ht, ofInt_int ht]

/-- MIN gives one of its operands, the lesser. -/
theorem lo32_min (m : Alu.Mode) (hm : m.ty = t) (a b : DWord) : (lo32 (Alu.min m a b) = lo32 a ∨ lo32 (Alu.min m a b) = lo32 b)
    ∧ rdInt t (Alu.min m a b) ≤ rdInt t a ∧ rdInt t (Alu.min m a b) ≤ rdInt t b := by
  subst hm
  have h : Alu.min m a b = Alu.image m.ty (if Alu.int m.ty b < Alu.int m.ty a then Alu.int m.ty b else Alu.int m.ty a) := if_pos ht.isInt
  simp only [int_eq_rdInt] at h
  by_cases hlt : rdInt m.ty b < rdInt m.ty a
  · have hb : lo32 (Alu.min m a b) = lo32 b := by rw [h, if_pos hlt, lo32_image ht, ← int_eq_rdInt, ofInt_int ht]
    rw [rdInt_of_lo32 ht hb]
    exact ⟨.inr hb, hlt.le, le_refl _⟩
  · have ha : lo32 (Alu.min m a b) = lo32 a := by rw [h, if_neg hlt, lo32_image ht, ← int_eq_rdInt, ofInt_int ht]
    rw [rdInt_of_lo32 ht ha]
    exact ⟨.inl ha, le_refl _, not_lt.mp hlt⟩

/-- MAX gives one of its operands, the greater. -/
theorem lo32_max (m : Alu.Mode) (hm : m.ty = t) (a b : DWord) : (lo32 (Alu.max m a b) = lo32 a ∨ lo32 (Alu.max m a b) = lo32 b)
    ∧ rdInt t a ≤ rdInt t (Alu.max m a b) ∧ rdInt t b ≤ rdInt t (Alu.max m a b) := by
  subst hm
  have h : Alu.max m a b = Alu.image m.ty (if Alu.int m.ty a < Alu.int m.ty b then Alu.int m.ty b else Alu.int m.ty a) := if_pos ht.isInt
  simp only [int_eq_rdInt] at h
  by_cases hlt : rdInt m.ty a < rdInt m.ty b
  · have hb : lo32 (Alu.max m a b) = lo32 b := by rw [h, if_pos hlt, lo32_image ht, ← int_eq_rdInt, ofInt_int ht]
    rw [rdInt_of_lo32 ht hb]
    exact ⟨.inr hb, hlt.le, le_refl _⟩
  · have ha : lo32 (Alu.max m a b) = lo32 a := by rw [h, if_neg hlt, lo32_image ht, ← int_eq_rdInt, ofInt_int ht]
    rw [rdInt_of_lo32 ht ha]
    exact ⟨.inl ha, le_refl _, not_lt.mp hlt⟩
end

/-! ### Folds -/

/-- An operation on 64 bits that acts on the low halves alone, folded. -/
theorem lo32_foldl {g : DWord → DWord → DWord} {h : Word → Word → Word} (hgh : ∀ a b, lo32 (g a b) = h (lo32 a) (lo32 b))
    (l : List DWord) (a : DWord) : lo32 (l.foldl g a) = (l.map lo32).foldl h (lo32 a) := by
  induction l generalizing a with
  | nil => rfl
  | cons b l ih => rw [List.foldl_cons, ih, hgh]; rfl

/-- An operation that gives the operand of the least key, folded. -/
theorem foldl_least {g : DWord → DWord → DWord} {key : DWord → Int}
    (hg : ∀ a b, (lo32 (g a b) = lo32 a ∨ lo32 (g a b) = lo32 b) ∧ key (g a b) ≤ key a ∧ key (g a b) ≤ key b)
    (l : List DWord) (a : DWord) : (∃ x ∈ a :: l, lo32 (l.foldl g a) = lo32 x) ∧ ∀ x ∈ a :: l, key (l.foldl g a) ≤ key x := by
  induction l generalizing a with
  | nil => exact ⟨⟨a, List.mem_cons_self, rfl⟩, fun x hx => by rw [List.mem_singleton.mp hx]; exact le_refl _⟩
  | cons b l ih =>
    obtain ⟨⟨x, hx, he⟩, hle⟩ := ih (g a b)
    obtain ⟨hab, hka, hkb⟩ := hg a b
    rw [List.foldl_cons]
    refine ⟨?_, fun y hy => ?_⟩
    · rcases List.mem_cons.mp hx with rfl | hx
      · rcases hab with h | h
        · exact ⟨a, List.mem_cons_self, he.trans h⟩
        · exact ⟨b, by simp, he.trans h⟩
      · exact ⟨x, by simp [hx], he⟩
    · have h0 := hle (g a b) List.mem_cons_self
      rcases List.mem_cons.mp hy with rfl | hy
      · exact h0.trans hka
      · rcases List.mem_cons.mp hy with rfl | hy
        · exact h0.trans hkb
        · exact hle y (List.mem_cons_of_mem _ hy)

/-! ### XRED -/

/-- XRED's value over those of the lanes that take part. -/
def xredOf (f : RRR) (vals : List DWord) : DWord :=
  let y := (vals.drop 1).foldl (Alu.xred f.opx.toNat (modeRRR f)) (arg vals 0)
  if f.ty == .f32 then Alu.putFlt .f32 .rne false (Alu.flt .f32 y) else y

theorem xredOf_float {f : RRR} (h : f.ty = .f32) (vals : List DWord) : xredOf f vals
    = Alu.putFlt .f32 .rne false (Alu.flt .f32 ((vals.drop 1).foldl (Alu.xred f.opx.toNat (modeRRR f)) (arg vals 0))) := by
  unfold xredOf; rw [h]; rfl
theorem xredOf_other {f : RRR} (h : f.ty ≠ .f32) (vals : List DWord) : xredOf f vals
    = (vals.drop 1).foldl (Alu.xred f.opx.toNat (modeRRR f)) (arg vals 0) := by
  unfold xredOf; simp [h]

/-- A bitwise or adding reduction is that of the low halves, from the operation's unit. -/
theorem lo32_xred {f : RRR} {h : Word → Word → Word} {unit : Word} (hf : f.ty ≠ .f32)
    (hop : ∀ a b, lo32 (Alu.xred f.opx.toNat (modeRRR f) a b) = h (lo32 a) (lo32 b)) (hunit : ∀ a, h unit a = a) {vals : List DWord}
    (hv : vals ≠ []) : lo32 (xredOf f vals) = (vals.map lo32).foldl h unit := by
  obtain ⟨a, l, rfl⟩ := List.exists_cons_of_ne_nil hv
  rw [xredOf_other hf]
  show lo32 (l.foldl _ a) = (l.map lo32).foldl h (h unit (lo32 a))
  rw [hunit]
  exact lo32_foldl hop l a

/-- A minimum or maximum is a value of a lane, at the end of the order. -/
theorem xred_least {f : RRR} {key : DWord → Int} (hf : f.ty ≠ .f32)
    (hop : ∀ a b, (lo32 (Alu.xred f.opx.toNat (modeRRR f) a b) = lo32 a ∨ lo32 (Alu.xred f.opx.toNat (modeRRR f) a b) = lo32 b)
      ∧ key (Alu.xred f.opx.toNat (modeRRR f) a b) ≤ key a ∧ key (Alu.xred f.opx.toNat (modeRRR f) a b) ≤ key b) {vals : List DWord}
    (hv : vals ≠ []) : (∃ x ∈ vals, lo32 (xredOf f vals) = lo32 x) ∧ ∀ x ∈ vals, key (xredOf f vals) ≤ key x := by
  obtain ⟨a, l, rfl⟩ := List.exists_cons_of_ne_nil hv
  rw [xredOf_other hf]
  exact foldl_least hop l a

/-- The clauses of R142 on the reduced value. -/
def XredIs (f : RRR) (vals : List DWord) (r : Word) : Prop :=
  match f.opx.toNat, f.ty with
  | 0, .f32 => r = lo32 (Alu.putFlt .f32 .rne false (Alu.flt .f32 ((vals.drop 1).foldl (fun a b =>
       Alu.putFlt .f32 f.rm false (Fl.add f.rm (Alu.flt .f32 a) (Alu.flt .f32 b))) (arg vals 0))))
  | 1, .f32 => r = lo32 (Alu.putFlt .f32 .rne false (Alu.flt .f32 ((vals.drop 1).foldl (fun a b =>
       Alu.putFlt .f32 .rne false (Fl.minOf (Alu.flt .f32 a) (Alu.flt .f32 b))) (arg vals 0))))
  | 2, .f32 => r = lo32 (Alu.putFlt .f32 .rne false (Alu.flt .f32 ((vals.drop 1).foldl (fun a b =>
       Alu.putFlt .f32 .rne false (Fl.maxOf (Alu.flt .f32 a) (Alu.flt .f32 b))) (arg vals 0))))
  | 0, _ => r = (vals.map lo32).foldl (fun a b => a + b) 0
  | 1, _ => (∃ x ∈ vals, r = lo32 x) ∧ ∀ x ∈ vals, rdInt f.ty (r.zeroExtend 64) ≤ rdInt f.ty x
  | 2, _ => (∃ x ∈ vals, r = lo32 x) ∧ ∀ x ∈ vals, rdInt f.ty x ≤ rdInt f.ty (r.zeroExtend 64)
  | 3, _ => r = (vals.map lo32).foldl (fun a b => a &&& b) (BitVec.allOnes 32)
  | 4, _ => r = (vals.map lo32).foldl (fun a b => a ||| b) 0
  | _, _ => r = (vals.map lo32).foldl (fun a b => a ^^^ b) 0

theorem lo32_zeroExtend (r : Word) : lo32 (r.zeroExtend 64) = r := by
  unfold lo32
  apply BitVec.eq_of_toNat_eq
  simpa using r.isLt

theorem xredIs_float {f : RRR} (hty : f.ty = .f32) (hop : f.opx.toNat < 3) (vals : List DWord) : XredIs f vals (lo32 (xredOf f vals)) := by
  rw [xredOf_float hty]
  unfold XredIs modeRRR
  rw [hty]
  generalize f.opx.toNat = n at hop
  match n, hop with
  | 0, _ => rfl
  | 1, _ => rfl
  | 2, _ => rfl

theorem xredIs_word {f : RRR} (hty : IsWord f.ty) (hop : f.opx.toNat < 3) {vals : List DWord} (hv : vals ≠ []) :
    XredIs f vals (lo32 (xredOf f vals)) := by
  have hf : f.ty ≠ .f32 := by rcases hty with h | h <;> rw [h] <;> decide
  have hkey : rdInt f.ty ((lo32 (xredOf f vals)).zeroExtend 64) = rdInt f.ty (xredOf f vals) := rdInt_of_lo32 hty (lo32_zeroExtend _)
  have h0 : f.opx.toNat = 0 → lo32 (xredOf f vals) = (vals.map lo32).foldl (fun a b => a + b) 0 := fun hn =>
    lo32_xred hf (by rw [hn]; exact fun a b => lo32_add hty f.rm a b) (by simp) hv
  have h1 : f.opx.toNat = 1 → (∃ x ∈ vals, lo32 (xredOf f vals) = lo32 x)
      ∧ ∀ x ∈ vals, rdInt f.ty ((lo32 (xredOf f vals)).zeroExtend 64) ≤ rdInt f.ty x := fun hn => by
    rw [hkey]
    exact xred_least hf (by rw [hn]; exact fun a b => lo32_min hty (modeRRR f) rfl a b) hv
  have h2 : f.opx.toNat = 2 → (∃ x ∈ vals, lo32 (xredOf f vals) = lo32 x)
      ∧ ∀ x ∈ vals, rdInt f.ty x ≤ rdInt f.ty ((lo32 (xredOf f vals)).zeroExtend 64) := fun hn => by
    obtain ⟨hx, hle⟩ := xred_least (key := fun x => -rdInt f.ty x) hf (by
      rw [hn]
      exact fun a b => (lo32_max hty (modeRRR f) rfl a b).imp id fun h => ⟨neg_le_neg h.1, neg_le_neg h.2⟩) hv
    rw [hkey]
    exact ⟨hx, fun x hm => neg_le_neg_iff.mp (hle x hm)⟩
  unfold XredIs
  generalize f.opx.toNat = n at hop h0 h1 h2
  match n, hop with
  | 0, _ => rcases hty with h | h <;> rw [h] <;> exact h0 rfl
  | 1, _ => have := h1 rfl; rcases hty with h | h <;> rw [h] at this ⊢ <;> exact this
  | 2, _ => have := h2 rfl; rcases hty with h | h <;> rw [h] at this ⊢ <;> exact this

theorem xredIs_bits {f : RRR} (hty : f.ty = .b32) (h3 : 3 ≤ f.opx.toNat) (h6 : f.opx.toNat < 6) {vals : List DWord} (hv : vals ≠ []) :
    XredIs f vals (lo32 (xredOf f vals)) := by
  have hf : f.ty ≠ .f32 := by rw [hty]; decide
  have hand : f.opx.toNat = 3 → lo32 (xredOf f vals) = (vals.map lo32).foldl (fun a b => a &&& b) (BitVec.allOnes 32) := fun hn =>
    lo32_xred hf (by rw [hn]; exact fun a b => by unfold lo32; exact BitVec.extractLsb'_and) (fun _ => BitVec.allOnes_and) hv
  have hor : f.opx.toNat = 4 → lo32 (xredOf f vals) = (vals.map lo32).foldl (fun a b => a ||| b) 0 := fun hn =>
    lo32_xred hf (by rw [hn]; exact fun a b => by unfold lo32; exact BitVec.extractLsb'_or) (by simp) hv
  have hxor : f.opx.toNat = 5 → lo32 (xredOf f vals) = (vals.map lo32).foldl (fun a b => a ^^^ b) 0 := fun hn =>
    lo32_xred hf (by rw [hn]; exact fun a b => by unfold lo32; exact BitVec.extractLsb'_xor) (by simp) hv
  unfold XredIs
  rw [hty]
  generalize f.opx.toNat = n at h3 h6 hand hor hxor
  match n, h3, h6 with
  | 3, _, _ => exact hand rfl
  | 4, _, _ => exact hor rfl
  | 5, _, _ => exact hxor rfl

/-- R142's clauses hold of the model's value. -/
theorem xredIs_xredOf {f : RRR} (hop : f.opx.toNat < 6) (hlow : f.opx.toNat < 3 ∨ f.ty = .b32)
    (hty : 3 ≤ f.opx.toNat ∨ f.ty = .i32 ∨ f.ty = .n32 ∨ f.ty = .f32) {vals : List DWord} (hv : vals ≠ []) :
    XredIs f vals (lo32 (xredOf f vals)) := by
  rcases Nat.lt_or_ge f.opx.toNat 3 with h | h
  · rcases hty.resolve_left (Nat.not_le.mpr h) with hi | hn | hf
    · exact xredIs_word (.inl hi) h hv
    · exact xredIs_word (.inr hn) h hv
    · exact xredIs_float hf h vals
  · exact xredIs_bits (hlow.resolve_left (Nat.not_lt.mpr h)) h hop hv

theorem xredReturns {f : RRR} {s : State} {cx : Cx} (hl : LanesExist s cx) (hi : Issues s cx f.ctl (some .xc) (namesDA f false) 1)
    (hop : f.opx.toNat < 6) (hlow : f.opx.toNat < 3 ∨ f.ty = .b32) (hty : 3 ≤ f.opx.toNat ∨ f.ty = .i32 ∨ f.ty = .n32 ∨ f.ty = .f32) :
    ∃ t, exec (.xred f) s = .next t ∧ OnlyGroup cx.gid s t ∧ Passed t cx ∧ ∃ r : Word,
      Claims.Returns s t (issOf s cx f.ctl) .xc 0 ((issOf s cx f.ctl).lanes.map fun l => .v l f.d.toNat r)
        ∧ XredIs f ((issOf s cx f.ctl).lanes.map fun k => (s.start cx f.ctl).readA (issOf s cx f.ctl) f.ag false f.a k) r := by
  set i := issOf s cx f.ctl
  set vals := i.lanes.map fun k => (s.start cx f.ctl).readA i f.ag false f.a k with hvals
  obtain ⟨h1, h2, h3⟩ := start_later hl f.ctl .xc (i.lanes.map fun l => .v l f.d.toNat (lo32 (xredOf f vals)))
  refine ⟨_, ?_, h1, h2, _, h3, xredIs_xredOf hop hlow hty ?_⟩
  · show execXred f s = _
    exact (issued_runs hi _).trans (congrArg (fun ws => Host.Outcome.next (State.later _ _ _ _ ws))
      (flatMap_retVW i.lanes f.d.toNat fun _ => xredOf f vals))
  · rw [hvals, Ne, List.map_eq_nil_iff]
    exact hi.2.1
end Sys2Proof.Machine

open Sys2Proof Sys2Proof.Machine Sys2Proof.Claims in
/-- Settles O7: each word's results are on their way through XC, with the values that R139 to R143 give. -/
theorem crossLaneReturns : Obligations.CrossLaneReturns := by
  unfold Obligations.CrossLaneReturns
  refine ⟨fun f s cx _ hl => ⟨fun _ hi => lxchReturns hl hi, fun hi hop => paggReturns hl hi hop, fun hi => pmaskReturns hl hi,
    fun hi hop hlow hty => xredReturns hl hi hop hlow hty⟩, fun f s cx hl _ _ hi => ?_⟩
  have h := qxReturns hl hi
  simp only [qxSrc_eq] at h
  exact h
end

section
/-! # The end of lanes (R102, R108, R149): what it leaves of their group -/
namespace Sys2Proof.Machine
open Sys2Proof.Claims

/-- A group keeps which of its lanes live and which have exited; lanes leave its masks, none joins them. -/
structure Lives (gid : Nat) (s t : State) : Prop where
  len : (t.group gid).lanes.length = (s.group gid).lanes.length
  life : ∀ l, (t.lane gid l).live = (s.lane gid l).live ∧ (t.lane gid l).exited = (s.lane gid l).exited
  masks : ∀ k l, ((s.group gid).m.getD k ⟨0, 0⟩).mask.getLsbD l = false → ((t.group gid).m.getD k ⟨0, 0⟩).mask.getLsbD l = false

theorem Lives.refl (gid : Nat) (s : State) : Lives gid s s := ⟨rfl, fun _ => ⟨rfl, rfl⟩, fun _ _ => id⟩
theorem Lives.trans {gid : Nat} {a b c : State} (h : Lives gid a b) (k : Lives gid b c) : Lives gid a c :=
  ⟨k.len.trans h.len, fun l => ⟨(k.life l).1.trans (h.life l).1, (k.life l).2.trans (h.life l).2⟩, fun j l e => k.masks j l (h.masks j l e)⟩

theorem Lives.liveLanes {gid : Nat} {s t : State} (h : Lives gid s t) : (t.group gid).liveLanes = (s.group gid).liveLanes := by
  unfold Group.liveLanes
  rw [h.len]
  exact List.filter_congr fun l _ => (h.life l).1

theorem lives_of_groups {gid : Nat} {s t : State} (h : t.groups = s.groups) : Lives gid s t :=
  ⟨by rw [group_of_groups h], fun l => by rw [lane_of_groups h]; exact ⟨rfl, rfl⟩, fun k l => by rw [group_of_groups h]; exact id⟩

theorem lives_modLane (s : State) (gid l : Nat) {f : Lane → Lane} (hf : ∀ x, (f x).live = x.live ∧ (f x).exited = x.exited) :
    Lives gid s (s.modLane gid l f) := by
  refine ⟨length_modLane .., fun k => ?_, fun k j => by rw [group_modLane_with]; exact id⟩
  rw [lane_modLane]
  split
  · next h => rw [h.1]; exact hf _
  · exact ⟨rfl, rfl⟩

theorem lives_modGroup (s : State) (gid : Nat) {f : Group → Group} (hl : ∀ g, (f g).lanes = g.lanes)
    (hm : ∀ g k l, (g.m.getD k ⟨0, 0⟩).mask.getLsbD l = false → ((f g).m.getD k ⟨0, 0⟩).mask.getLsbD l = false) :
    Lives gid s (s.modGroup gid f) := by
  have hg : (s.modGroup gid f).group gid = f (s.group gid) := group_modGroup_self ..
  exact ⟨by rw [hg, hl], fun l => by rw [lane_modGroup_with s gid gid l f hl]; exact ⟨rfl, rfl⟩, fun k l => by rw [hg]; exact hm _ k l⟩

/-- The part of a group that neither its lanes, its masks, its streams nor its loop make up. -/
def Group.rest (g : Group) : Group := { g with lanes := [], hold := false, m := [], streams := [], loop := none, serving := false }

/-- Nothing is on its way for a group but what its counters count: no open phase, no matrix operation, no bank vector command. -/
def Idle (gid : Nat) (b : BlockRef) (s : State) : Prop :=
  (∀ j, j < 16 → ∀ p, (s.join b j).phase = some p → p.gid ≠ gid) ∧ (∀ o ∈ s.eng.mat, o.gid ≠ gid) ∧ ∀ c ∈ s.ms.bank, c.gid ≠ gid

/-- What the end of lanes leaves of their group. -/
structure Leaves (gid : Nat) (b : BlockRef) (s t : State) : Prop where
  lives : Lives gid s t
  rest : (t.group gid).rest = (s.group gid).rest
  has : s.hasGroup gid = true → t.hasGroup gid = true
  idle : Idle gid b s → Idle gid b t

theorem Leaves.refl (gid : Nat) (b : BlockRef) (s : State) : Leaves gid b s s := ⟨.refl gid s, rfl, id, id⟩
theorem Leaves.trans {gid : Nat} {blk : BlockRef} {a b c : State} (h : Leaves gid blk a b) (k : Leaves gid blk b c) : Leaves gid blk a c :=
  ⟨h.lives.trans k.lives, k.rest.trans h.rest, fun e => k.has (h.has e), fun e => k.idle (h.idle e)⟩
theorem Leaves.fold {α : Type} {gid : Nat} {b : BlockRef} {f : State → α → State} {l : List α} (h : ∀ a ∈ l, ∀ s, Leaves gid b s (f s a))
    (s : State) : Leaves gid b s (l.foldl f s) := by
  induction l generalizing s with
  | nil => exact .refl gid b s
  | cons a l ih => exact (h a List.mem_cons_self s).trans (ih (fun x hx => h x (List.mem_cons_of_mem _ hx)) _)

/-- An action that leaves the groups. -/
theorem leaves_of_groups {gid : Nat} {b : BlockRef} {s t : State} (h : t.groups = s.groups) (hi : Idle gid b s → Idle gid b t) :
    Leaves gid b s t :=
  ⟨lives_of_groups h, by rw [group_of_groups h], fun e => (hasGroup_of_groups h gid).trans e, hi⟩

/-- An action on one group. -/
theorem leaves_modGroup (s : State) (gid : Nat) (b : BlockRef) {f : Group → Group} (hl : ∀ g, (f g).lanes = g.lanes)
    (hr : ∀ g, (f g).rest = g.rest)
    (hm : ∀ g k l, (g.m.getD k ⟨0, 0⟩).mask.getLsbD l = false → ((f g).m.getD k ⟨0, 0⟩).mask.getLsbD l = false) :
    Leaves gid b s (s.modGroup gid f) :=
  ⟨lives_modGroup s gid hl hm, by rw [group_modGroup_self]; exact hr _, fun e => hasGroup_modGroup e gid f, id⟩

theorem leaves_of_resumed {s t : State} (h : Resumed s t) (gid : Nat) (b : BlockRef) : Leaves gid b s t := by
  have hm : (t.group gid).m = (s.group gid).m := (congrArg Group.m (h.bare gid) :)
  refine ⟨⟨h.len gid, fun l => ⟨(congrArg Lane.live (h.lanes gid l) :), (congrArg Lane.exited (h.lanes gid l) :)⟩, fun k l => by rw [hm]; exact id⟩,
    (congrArg Group.rest (h.bare gid) :), h.has gid, fun ⟨hp, ho, hc⟩ => ⟨fun j hj p => ?_, ?_, ?_⟩⟩
  · rw [h.join]; exact hp j hj p
  · rw [h.eng]; exact ho
  · rw [h.bank]; exact hc

/-! ### Deductions from the join registers (R108) -/

/-- Setting a join register sets it, where its block has it, and leaves the others. -/
theorem join_setJoin_or (s : State) (b : BlockRef) (j k : Nat) (x : Join) :
    (k = j ∧ (s.setJoin b j x).join b k = x) ∨ (s.setJoin b j x).join b k = s.join b k := by
  by_cases h : s.HasJoin b j
  · rw [join_setJoin h]
    by_cases hk : k = j
    · exact .inl ⟨hk, if_pos hk⟩
    · exact .inr (if_neg hk)
  · obtain ⟨hlen, hsome⟩ := not_or.mp h
    obtain ⟨y, hy⟩ := Option.ne_none_iff_exists'.mp hsome
    have hset : y.joins.set j x = y.joins := List.set_eq_of_length_le (Nat.le_of_not_lt fun hj => hlen ⟨y, hy, hj⟩)
    refine .inr ?_
    have hb : (s.setJoin b j x).block b = some y := by
      unfold State.setJoin
      rw [hy]
      exact (block_modBlock (f := fun k : Block => { k with joins := k.joins.set j x }) fun _ => ⟨rfl, rfl⟩).trans (by rw [hy, Option.map_some, hset])
    unfold State.join
    rw [hb, hy]

/-- A join register's counts change, not its phase. -/
theorem leaves_setJoin (s : State) (gid : Nat) (b : BlockRef) (j : Nat) (x : Join) (hx : x.phase = (s.join b j).phase) :
    Leaves gid b s (s.setJoin b j x) := by
  refine leaves_of_groups (setJoin_groups ..) fun ⟨hp, ho, hc⟩ => ⟨fun k hk p => ?_, by rw [setJoin_eng]; exact ho, by rw [setJoin_ms]; exact hc⟩
  rcases join_setJoin_or s b j k x with ⟨rfl, h⟩ | h
  · rw [h, hx]; exact hp k hk p
  · rw [h]; exact hp k hk p

theorem leaves_completePhase (s : State) (gid : Nat) (b : BlockRef) (j : Nat) : Leaves gid b s (s.completePhase b j) := by
  unfold State.completePhase
  refine (leaves_setJoin s gid b j _ ?_).trans (leaves_of_resumed (resumed_wakeToken ..) gid b)
  rfl

/-- A lane is no longer counted on, and the phase completes where the others have arrived. -/
theorem leaves_counts (s : State) (gid : Nat) (b : BlockRef) (j : Nat) (x : Join) (hx : x.phase = (s.join b j).phase) (c : Prop) [Decidable c] :
    Leaves gid b s (if c then (s.setJoin b j x).completePhase b j else s.setJoin b j x) := by
  split
  · exact (leaves_setJoin s gid b j x hx).trans (leaves_completePhase ..)
  · exact leaves_setJoin s gid b j x hx

/-- The signing phase of a group that is not idle may complete. -/
theorem leaves_checkPhase {s : State} {gid : Nat} {b : BlockRef} (h : ¬Idle gid b s) (j : Nat) : Leaves gid b s (s.checkPhase b j) := by
  unfold State.checkPhase
  dsimp only
  split
  · exact .refl ..
  · next p _ =>
    split
    · have hset : Leaves gid b s (s.setJoin b j { s.join b j with t := (s.join b j).t + 1, a := 0, phase := none, last := s.clock + 1 }) :=
        leaves_of_groups (setJoin_groups ..) fun hi => absurd hi h
      have hwake := hset.trans (leaves_of_resumed (resumed_wakeToken _ b j (s.join b j).t) gid b)
      exact ⟨hwake.lives.trans (lives_of_groups rfl), hwake.rest, hwake.has, fun hi => absurd hi h⟩
    · exact .refl ..

theorem leaves_deduct (s : State) (gid : Nat) (b : BlockRef) (who : Nat) {j : Nat} (hj : j < 16) : Leaves gid b s (s.deduct b gid who j) := by
  unfold State.deduct
  dsimp only
  split
  · split
    · next p hp =>
      split
      · next hg => exact leaves_checkPhase (fun hi => hi.1 j hj p hp hg) j
      · exact .refl ..
    · exact .refl ..
  · split
    · exact .refl ..
    · apply leaves_counts
      rfl

/-! ### What else a lane's end takes from its group -/

theorem leaves_commitCells (s : State) (gid : Nat) (b : BlockRef) (f : TCell → Bool) : Leaves gid b s (s.commitCells f) :=
  leaves_of_resumed (resumed_of_outer (commitCells_outer s f) (commitCells_apart s f)) gid b

theorem leaves_dropWrites (s : State) (gid : Nat) (b : BlockRef) (f : Ret → RegWrite → Bool) : Leaves gid b s (s.dropWrites gid f) :=
  leaves_of_groups rfl id

/-- Emptying masks of a group. -/
theorem leaves_masks (s : State) (gid : Nat) (b : BlockRef) {f : Group → List MaskReg}
    (hm : ∀ g k l, (g.m.getD k ⟨0, 0⟩).mask.getLsbD l = false → ((f g).getD k ⟨0, 0⟩).mask.getLsbD l = false) :
    Leaves gid b s (s.modGroup gid fun g => { g with m := f g }) :=
  leaves_modGroup s gid b (fun _ => rfl) (fun _ => rfl) hm

/-- A mask register after one has been set. -/
theorem mask_set (ms : List MaskReg) (m k l : Nat) (x : MaskReg) (hx : (ms.getD m ⟨0, 0⟩).mask.getLsbD l = false → x.mask.getLsbD l = false)
    (h : (ms.getD k ⟨0, 0⟩).mask.getLsbD l = false) : ((ms.set m x).getD k ⟨0, 0⟩).mask.getLsbD l = false := by
  by_cases hlt : m < ms.length
  · rw [getD_set _ _ _ _ _ hlt]
    split
    · next hk => subst hk; exact hx h
    · exact h
  · rw [List.set_eq_of_length_le (Nat.le_of_not_lt hlt)]; exact h

theorem resumed_wakeAll (s : State) (ws : List Wait) : Resumed s (s.wakeAll ws) := .fold resumed_wake ws s

theorem leaves_checkReconv (s : State) (gid : Nat) (b : BlockRef) (m : Nat) : Leaves gid b s (s.checkReconv gid m) := by
  rw [checkReconv_eq]
  split
  · exact .refl ..
  · refine (leaves_of_resumed (resumed_wakeAll ..) gid b).trans (leaves_masks _ gid b fun g k l h => ?_)
    exact mask_set _ _ _ _ _ (fun _ => BitVec.getLsbD_zero) h

theorem leaves_leaveMask (s : State) (gid : Nat) (b : BlockRef) (m : Nat) (ls : LaneMask) : Leaves gid b s (s.leaveMask gid m ls) := by
  refine (leaves_masks s gid b fun g k l h => ?_).trans (leaves_checkReconv _ gid b m)
  exact mask_set _ _ _ _ _ (fun h => by rw [BitVec.getLsbD_and, h, Bool.false_and]) h

/-- Lanes that leave a mask stand in it no longer (R102). -/
theorem leaveMask_leaves (s : State) (gid m : Nat) {ls : LaneMask} {l : Nat} (h : ls.getLsbD l = true) :
    (((s.leaveMask gid m ls).group gid).m.getD m ⟨0, 0⟩).mask.getLsbD l = false := by
  unfold State.leaveMask
  refine (leaves_checkReconv _ gid ⟨0, 0⟩ m).lives.masks m l ?_
  rw [group_modGroup_self]
  by_cases hlt : m < (s.group gid).m.length
  · dsimp only
    rw [getD_set _ _ _ _ _ hlt, if_pos rfl]
    simp [h]
  · dsimp only
    rw [List.set_eq_of_length_le (Nat.le_of_not_lt hlt), List.getD_eq_getElem?_getD, List.getElem?_eq_none (Nat.le_of_not_lt hlt)]
    exact BitVec.getLsbD_zero

theorem leaves_leaveMasks (s : State) (gid : Nat) (b : BlockRef) (ms : List Nat) (ls : LaneMask) :
    Leaves gid b s (ms.foldl (fun s m => s.leaveMask gid m ls) s) := .fold (fun m _ s => leaves_leaveMask s gid b m ls) s

theorem leaveMasks_leave (s : State) (gid : Nat) {ms : List Nat} {m : Nat} (hm : m ∈ ms) {ls : LaneMask} {l : Nat} (h : ls.getLsbD l = true) :
    (((ms.foldl (fun s m => s.leaveMask gid m ls) s).group gid).m.getD m ⟨0, 0⟩).mask.getLsbD l = false := by
  induction ms generalizing s with
  | nil => cases hm
  | cons k ms ih =>
    rw [List.foldl_cons]
    rcases List.mem_cons.mp hm with rfl | hm
    · exact (leaves_leaveMasks _ gid ⟨0, 0⟩ ms ls).lives.masks m l (leaveMask_leaves s gid m h)
    · exact ih _ hm

/-! ### The loop that the group was joined to (R356, R361) -/

theorem leaves_setLoop (s : State) (gid : Nat) (b : BlockRef) (x : LoopSlot) : Leaves gid b s (s.setLoop x) := leaves_of_groups rfl id

theorem resumed_stageWake (s : State) (lid span slot : Nat) : Resumed s (s.stageWake lid span slot) := by
  unfold State.stageWake
  refine .fold (fun s w => ?_) _ s
  dsimp only
  split
  · split
    · exact (resumed_wake s w).trans (resumed_acquireBy ..)
    · exact .refl s
  · exact .refl s

theorem leaves_advanceLow (s : State) (gid : Nat) (b : BlockRef) (lid span slot : Nat) : Leaves gid b s (s.advanceLow lid span slot) := by
  unfold State.advanceLow
  dsimp only
  split
  · exact .refl ..
  · split <;> exact leaves_setLoop ..

theorem leaves_loop (s : State) (gid : Nat) (b : BlockRef) (f : Group → Option LoopPlace) :
    Leaves gid b s (s.modGroup gid fun g => { g with loop := f g }) :=
  leaves_modGroup s gid b (fun _ => rfl) (fun _ => rfl) fun _ _ _ => id

theorem leaves_endIter (s : State) (gid : Nat) (b : BlockRef) : Leaves gid b s (s.endIter gid) := by
  unfold State.endIter
  dsimp only
  split
  · exact .refl ..
  · split
    · exact (leaves_of_resumed (resumed_releaseBy ..) gid b).trans ((leaves_setLoop ..).trans ((leaves_loop _ gid b _).trans
        ((leaves_of_resumed (resumed_stageWake ..) gid b).trans (leaves_advanceLow ..))))
    · exact .refl ..

theorem leaves_quitLoop (s : State) (gid : Nat) (b : BlockRef) : Leaves gid b s (s.quitLoop gid) := by
  unfold State.quitLoop
  split
  · exact .refl ..
  · next p _ =>
    have hcount : Leaves gid b s (if p.iter.isSome then s.count cntLoopEnd else s) := by
      split
      · exact leaves_of_groups rfl id
      · exact .refl ..
    exact hcount.trans ((leaves_endIter _ gid b).trans (leaves_loop _ gid b fun _ => none))
end Sys2Proof.Machine
end

section
/-! # EXIT (R102, R149, R333) -/
namespace Sys2Proof.Machine
open Sys2Proof.Claims

/-! ### The lanes that end -/

/-- Lanes are no longer live. -/
def State.endLanes (s : State) (gid : Nat) (ls : List Nat) : State :=
  eachLane s ls fun s l => s.modLane gid l fun x => { x with live := false, exited := true, park := none }

theorem lanesOnly_endLanes (s : State) (gid : Nat) (ls : List Nat) : LanesOnly gid s (s.endLanes gid ls) :=
  .eachLane (fun s l => lanesOnly_modLane s gid l _) s ls

theorem endLanes_apart (s : State) (gid : Nat) (ls : List Nat) : s.endLanes gid ls = { s with groups := (s.endLanes gid ls).groups } :=
  eachLane_rel (R := fun a b : State => b = { a with groups := b.groups }) (fun _ => rfl) (fun a b c h k => by rw [k, h]) (fun _ _ => rfl) s ls

theorem endLanes_ended {s : State} {gid : Nat} {ls : List Nat} (hn : ls.Nodup) (hl : ∀ l ∈ ls, l < (s.group gid).lanes.length) :
    ∀ l ∈ ls, ((s.endLanes gid ls).lane gid l).live = false ∧ ((s.endLanes gid ls).lane gid l).exited = true := by
  intro l hm
  exact (eachLane_lanes (gid := gid) (Q := fun _ => True) (f := fun s l => s.modLane gid l fun x => { x with live := false, exited := true, park := none })
    (R := fun _ _ y => y.live = false ∧ y.exited = true) (fun _ _ _ => trivial) (fun s l => length_modLane ..)
    (fun s l k hk => lane_modLane_other s _ _ _ _ _ (.inr hk)) (fun s l _ hlt => by rw [lane_modLane, if_pos ⟨rfl, hlt⟩]; exact ⟨rfl, rfl⟩)
    ls hn s trivial).1 l hm (hl l hm)

theorem endLanes_other {s : State} {gid : Nat} {ls : List Nat} {k : Nat} (hk : k ∉ ls) : (s.endLanes gid ls).lane gid k = s.lane gid k := by
  unfold State.endLanes
  induction ls generalizing s with
  | nil => rfl
  | cons l ls ih =>
    rw [eachLane_cons, ih fun h => hk (List.mem_cons_of_mem _ h), 
      lane_modLane_other _ _ _ _ _ _ (.inr fun h : k = l => hk (by rw [h]; exact List.mem_cons_self))]

theorem endLanes_idle {s : State} {gid : Nat} {b : BlockRef} (h : Idle gid b s) (ls : List Nat) : Idle gid b (s.endLanes gid ls) := by
  rw [endLanes_apart]; exact h

/-! ### What EXIT takes from their group -/

/-- One lane that ends: its deductions, its tentative stores and its outstanding results (R108, R193). -/
def State.endLane (s : State) (gid : Nat) (b : BlockRef) (who : Nat) (name : LaneName) (l : Nat) : State :=
  (((List.range 16).foldl (fun s j => s.deduct b gid who j) s).commitCells fun c => c.who == name).dropWrites gid fun _ w => match w with
    | .v l' _ _ => l' == l
    | .p l' _ _ => l' == l

theorem leaves_endLane (s : State) (gid : Nat) (b : BlockRef) (who : Nat) (name : LaneName) (l : Nat) :
    Leaves gid b s (s.endLane gid b who name l) :=
  ((Leaves.fold (fun _ hj s => leaves_deduct s gid b who (List.mem_range.mp hj)) s).trans (leaves_commitCells ..)).trans (leaves_dropWrites ..)

/-- The lanes of EXIT have ended, and left every mask. -/
def State.ended (s : State) (gid : Nat) (ls : List Nat) : State :=
  (List.range 8).foldl (fun s m => s.leaveMask gid m (maskOf ls))
    (eachLane (s.endLanes gid ls) ls fun u l => u.endLane gid (s.group gid).blk (32 * (s.group gid).num + l) ((s.group gid).name l) l)

theorem exitLanes_eq (s : State) (gid : Nat) (ls : List Nat) : s.exitLanes gid ls
    = if ((s.ended gid ls).group gid).liveLanes.isEmpty then (s.ended gid ls).modGroup gid fun g => { g with streams := [] }
      else s.ended gid ls := by
  rfl

theorem leaves_ended (s : State) (gid : Nat) (ls : List Nat) : Leaves gid (s.group gid).blk (s.endLanes gid ls) (s.ended gid ls) :=
  (eachLane_rel (R := Leaves gid (s.group gid).blk) (.refl gid _) (fun _ _ _ => .trans) (fun u l => leaves_endLane u gid _ _ _ l) _ ls).trans
    (leaves_leaveMasks _ gid _ _ _)

theorem ended_masks (s : State) (gid : Nat) {ls : List Nat} {l k : Nat} (hl : l ∈ ls) (h32 : l < 32) (hk : k < 8) :
    (((s.ended gid ls).group gid).m.getD k ⟨0, 0⟩).mask.getLsbD l = false :=
  leaveMasks_leave _ gid (List.mem_range.mpr hk) ((mem_maskOf ls l).mpr ⟨hl, h32⟩)

/-! ### While a lane lives -/

theorem lives_park (s : State) (cx : Cx) (ls : List Nat) (kind : WaitKind) : Lives cx.gid s (s.park cx ls kind) := by
  rw [park_eq]
  have h : Lives cx.gid s (s.parkLanes cx.gid ls) :=
    eachLane_rel (R := Lives cx.gid) (.refl _) (fun _ _ _ => .trans) (fun s' l => lives_modLane (f := fun x => { x with park := some s.nextId }) s' _ l fun _ => ⟨rfl, rfl⟩) s ls
  exact h.trans (lives_of_groups rfl)

theorem lives_parkAll (s : State) (gid : Nat) (kind : WaitKind) : Lives gid s (s.parkAll gid kind) := by
  let s1 : State := { s with waits := s.waits.filter fun w => !(w.gid == gid) }
  have h : Lives gid s s1 := lives_of_groups rfl
  exact h.trans (lives_park s1 (Cx.at0 gid) (s1.group gid).liveLanes kind)

/-- A lane at its next instruction boundary, its task not ended. -/
def Lane.poised (x : Lane) : Lane := { x with taskDone := false, pos := 0, left := 0 }

theorem lane_poised (g : Group) (l : Nat) : ((g.lanes.map Lane.poised).getD l Lane.fresh).live = (g.lane l).live
    ∧ ((g.lanes.map Lane.poised).getD l Lane.fresh).exited = (g.lane l).exited := by
  unfold Group.lane
  rw [List.getD_eq_getElem?_getD, List.getD_eq_getElem?_getD, List.getElem?_map]
  cases g.lanes[l]? <;> exact ⟨rfl, rfl⟩

theorem lives_serve (s : State) (gid : Nat) :
    Lives gid s (s.modGroup gid fun g => { g with serving := true, task := none, lanes := g.lanes.map Lane.poised }) := by
  have hg := group_modGroup_self s gid fun g => { g with serving := true, task := none, lanes := g.lanes.map Lane.poised }
  refine ⟨by rw [hg]; exact List.length_map _, fun l => ?_, fun k l => by rw [hg]; exact id⟩
  unfold State.lane
  rw [hg]
  exact lane_poised _ l

theorem lives_toPop (s : State) (gid : Nat) : Lives gid s (s.toPop gid) :=
  ((lives_serve s gid).trans (lives_parkAll _ gid .pop)).trans (lives_of_groups rfl)

/-- With a lane left, EXIT leaves the group its lanes and its slot. -/
theorem lives_checkTask {s : State} {gid : Nat} (h : (s.group gid).liveLanes ≠ []) : Lives gid s (s.checkTask gid) := by
  unfold State.checkTask
  dsimp only
  rw [if_neg (by simpa using h)]
  split
  · exact .refl ..
  · split
    · exact lives_of_groups rfl
    · exact lives_toPop ..

theorem settle_alive {s : State} {gid : Nat} (h : (s.group gid).liveLanes ≠ []) : s.settle gid = s := by
  unfold State.settle
  refine if_neg fun hc => h ?_
  simp only [Bool.and_eq_true] at hc
  exact List.isEmpty_iff.mp hc.1.1.1.1.2

/-! ### When none is left -/

theorem checkTask_over {s : State} {gid : Nat} (h : (s.group gid).liveLanes = []) (ht : (s.group gid).task = none) :
    s.checkTask gid = (s.quitLoop gid).modGroup gid fun g => { g with serving := false } := by
  unfold State.checkTask
  dsimp only
  rw [if_pos (by rw [h]; rfl), if_neg (by rw [ht]; exact Bool.false_ne_true)]

/-- The accumulator slots once a group no longer holds its own. -/
def State.unboundAccs (s : State) (gid : Nat) : List AccSlot :=
  s.eng.accs.map fun (a : AccSlot) =>
    if a.sub == subKey gid && (s.group gid).acc.any (fun h => h.2 == a.slot + 1) then { a with bound := false } else a

/-- A group's slot is free, and its block looked at. -/
def State.freeSlot (s : State) (gid : Nat) : State :=
  let s1 : State := { s with groups := Map.erase gid s.groups, eng := { s.eng with accs := s.unboundAccs gid } }
  (s1.modBlock (s.group gid).blk fun b => { b with gids := b.gids.filter fun x => !(x == gid) }).send (.blockRetire (s.group gid).blk)

theorem any_erase {α : Type} (i : Nat) (m : List (Nat × α)) : (Map.erase i m).any (fun y => y.1 == i) = false := by
  induction m with
  | nil => rfl
  | cons y m ih =>
    unfold Map.erase
    split
    · exact ih
    · next h => rw [List.any_cons, ih, Bool.or_false]; simpa using Ne.symm h

/-- A group without a live lane, and with nothing on its way, gives its slot back, and its block is looked at (R149, R333). -/
theorem settle_frees {s : State} {gid : Nat} (hhas : s.hasGroup gid = true) (hsys : (s.group gid).sys = false)
    (hl : (s.group gid).liveLanes = []) (hc : (s.group gid).cnt.zero = true) (hs : (s.group gid).serving = false)
    (hi : Idle gid (s.group gid).blk s) :
    (s.settle gid).hasGroup gid = false ∧ .blockRetire (s.group gid).blk ∈ (s.settle gid).due
      ∧ ∀ b, (s.settle gid).block (s.group gid).blk = some b → gid ∉ b.gids := by
  have hmat : (s.eng.mat.any fun o => o.gid == gid) = false := by
    rw [List.any_eq_false]; exact fun o ho => by simpa using hi.2.1 o ho
  have hbank : (s.ms.bank.any fun c => c.gid == gid) = false := by
    rw [List.any_eq_false]; exact fun c hc => by simpa using hi.2.2 c hc
  have hcond : (s.hasGroup gid && !(s.group gid).sys && (s.group gid).liveLanes.isEmpty && (s.group gid).cnt.zero
      && !(s.eng.mat.any fun o => o.gid == gid) && !(s.ms.bank.any fun c => c.gid == gid) && !(s.group gid).serving) = true := by
    rw [hhas, hsys, hl, hc, hmat, hbank, hs]; rfl
  have heq : s.settle gid = s.freeSlot gid := if_pos hcond
  rw [heq]
  refine ⟨?_, List.mem_append_right _ (List.mem_singleton_self _), fun b hb => ?_⟩
  · show (Map.erase gid s.groups).any (fun x => x.1 == gid) = false
    exact any_erase gid s.groups
  · have hblock : (s.freeSlot gid).block (s.group gid).blk
        = (s.block (s.group gid).blk).map fun b => { b with gids := b.gids.filter fun x => !(x == gid) } :=
      block_modBlock (s := { s with groups := Map.erase gid s.groups, eng := { s.eng with accs := s.unboundAccs gid } }) fun _ => ⟨rfl, rfl⟩
    rw [hblock] at hb
    obtain ⟨c, -, rfl⟩ := Option.map_eq_some_iff.mp hb
    simp

/-- EXIT of lanes while another lane of the group lives (R102, R149). -/
theorem exitKeeps {f : BF} {s : State} {cx : Cx} (hl : LanesExist s cx) (hi : Issues s cx f.ctl none [] 0)
    (ho : ∃ l, l < (s.group cx.gid).lanes.length ∧ l ∉ s.taking cx f.ctl ∧ (s.lane cx.gid l).live = true) :
    ∃ t, exec (.exit f) s = .next t ∧ ∀ l ∈ s.taking cx f.ctl, (t.lane cx.gid l).live = false ∧ (t.lane cx.gid l).exited = true
      ∧ ∀ k, k < 8 → ((t.group cx.gid).m.getD k ⟨0, 0⟩).mask.getLsbD l = false := by
  obtain ⟨o, hlt, hno, hlive⟩ := ho
  set v := s.start cx f.ctl with hv
  set ls := s.taking cx f.ctl with hls
  have hlen : (v.group cx.gid).lanes.length = (s.group cx.gid).lanes.length := start_length ..
  have hended := (leaves_ended v cx.gid ls).lives
  have halive : ((v.ended cx.gid ls).group cx.gid).liveLanes ≠ [] := by
    rw [hended.liveLanes]
    refine List.ne_nil_of_mem (a := o) ?_
    unfold Group.liveLanes
    rw [List.mem_filter, List.mem_range, (lanesOnly_endLanes v cx.gid ls).len, hlen]
    refine ⟨hlt, ?_⟩
    show ((v.endLanes cx.gid ls).lane cx.gid o).live = true
    rw [endLanes_other hno, hv, start_lane]
    split <;> exact hlive
  have hexit : v.exitLanes cx.gid ls = v.ended cx.gid ls := by rw [exitLanes_eq, if_neg (by simpa using halive)]
  have hcheck := lives_checkTask halive
  have hexec : exec (.exit f) s = .next ((v.ended cx.gid ls).checkTask cx.gid) := by
    have h : exec (.exit f) s = .next (((v.exitLanes cx.gid ls).checkTask cx.gid).settle cx.gid) := show execExit f s = _ from issued_runs hi _
    rw [h, hexit, settle_alive (by rw [hcheck.liveLanes]; exact halive)]
  have hall := hended.trans hcheck
  refine ⟨_, hexec, fun l hm => ?_⟩
  have hmask := taking_mask hm
  obtain ⟨hdead, hout⟩ := endLanes_ended (s := v) (gid := cx.gid) (taking_nodup s cx f.ctl) (fun l hm => by rw [hlen]; exact hl l (taking_mask hm)) l hm
  exact ⟨(hall.life l).1.trans hdead, (hall.life l).2.trans hout,
    fun k hk => hcheck.masks k l (ended_masks v cx.gid hm ((mem_lanesOf ..).mp hmask).1 hk)⟩

/-- No lane is left when those that lived have ended. -/
theorem ended_dead {s : State} {gid : Nat} {ls : List Nat} (hn : ls.Nodup) (hl : ∀ l ∈ ls, l < (s.group gid).lanes.length)
    (hlast : ∀ l, l < (s.group gid).lanes.length → l ∉ ls → (s.lane gid l).live = false) : ((s.ended gid ls).group gid).liveLanes = [] := by
  rw [(leaves_ended s gid ls).lives.liveLanes]
  unfold Group.liveLanes
  refine List.filter_eq_nil_iff.mpr fun l hm => ?_
  rw [List.mem_range, (lanesOnly_endLanes s gid ls).len] at hm
  rw [Bool.not_eq_true]
  show ((s.endLanes gid ls).lane gid l).live = false
  by_cases hmem : l ∈ ls
  · exact (endLanes_ended hn hl l hmem).1
  · rw [endLanes_other hmem]; exact hlast l hm hmem

theorem rest_of_base {g h : Group} (e : { g with lanes := [] } = { h with lanes := [] }) : g.rest = h.rest := (congrArg Group.rest e :)
theorem base_of_rest {g h : Group} (e : g.rest = h.rest) : g.blk = h.blk ∧ g.sys = h.sys ∧ g.cnt = h.cnt ∧ g.task = h.task :=
  ⟨(congrArg Group.blk e :), (congrArg Group.sys e :), (congrArg Group.cnt e :), (congrArg Group.task e :)⟩

theorem endLanes_rest (s : State) (gid : Nat) (ls : List Nat) : ((s.endLanes gid ls).group gid).rest = (s.group gid).rest :=
  rest_of_base (lanesOnly_endLanes s gid ls).base

theorem leaves_streams (s : State) (gid : Nat) (b : BlockRef) : Leaves gid b s (s.modGroup gid fun g => { g with streams := [] }) :=
  leaves_modGroup s gid b (fun _ => rfl) (fun _ => rfl) fun _ _ _ => id
theorem leaves_serving (s : State) (gid : Nat) (b : BlockRef) : Leaves gid b s (s.modGroup gid fun g => { g with serving := false }) :=
  leaves_modGroup s gid b (fun _ => rfl) (fun _ => rfl) fun _ _ _ => id

/-- The group without a live lane has left its streams and its loop, and serves no queue (R320, R361). -/
def State.quits (s : State) (gid : Nat) : State :=
  ((s.modGroup gid fun g => { g with streams := [] }).quitLoop gid).modGroup gid fun g => { g with serving := false }

theorem leaves_quits (s : State) (gid : Nat) (b : BlockRef) : Leaves gid b s (s.quits gid) :=
  (leaves_streams s gid b).trans ((leaves_quitLoop _ gid b).trans (leaves_serving _ gid b))

theorem quits_serving (s : State) (gid : Nat) : ((s.quits gid).group gid).serving = false := by
  unfold State.quits; rw [group_modGroup_self]

theorem exitLanes_over {s : State} {gid : Nat} {ls : List Nat} (hd : ((s.ended gid ls).group gid).liveLanes = [])
    (ht : (s.group gid).task = none) : (s.exitLanes gid ls).checkTask gid = (s.ended gid ls).quits gid := by
  have hstreams := leaves_streams (s.ended gid ls) gid (s.group gid).blk
  obtain ⟨-, -, -, htask⟩ := base_of_rest ((hstreams.rest.trans (leaves_ended s gid ls).rest).trans (endLanes_rest s gid ls))
  rw [exitLanes_eq, if_pos (by rw [hd]; rfl)]
  exact checkTask_over (hstreams.lives.liveLanes.trans hd) (htask.trans ht)

/-- The last live lanes of a group end: its slot is free, where nothing is on its way. -/
theorem exitLanes_frees {s : State} {gid : Nat} {ls : List Nat} (hn : ls.Nodup) (hl : ∀ l ∈ ls, l < (s.group gid).lanes.length)
    (hlast : ∀ l, l < (s.group gid).lanes.length → l ∉ ls → (s.lane gid l).live = false) (hhas : s.hasGroup gid = true)
    (hsys : (s.group gid).sys = false) (hcnt : (s.group gid).cnt.zero = true) (htask : (s.group gid).task = none)
    (hidle : Idle gid (s.group gid).blk s) :
    let t := ((s.exitLanes gid ls).checkTask gid).settle gid
    t.hasGroup gid = false ∧ .blockRetire (s.group gid).blk ∈ t.due ∧ ∀ b, t.block (s.group gid).blk = some b → gid ∉ b.gids := by
  have hd := ended_dead hn hl hlast
  have hquits := leaves_quits (s.ended gid ls) gid (s.group gid).blk
  have hall := (leaves_ended s gid ls).trans hquits
  obtain ⟨hblk, hs, hc, -⟩ := base_of_rest (hall.rest.trans (endLanes_rest s gid ls))
  have hend := settle_frees (s := (s.ended gid ls).quits gid) (gid := gid)
    (hall.has (hasGroup_eachLane (fun s l k h => hasGroup_modLane h ..) s ls hhas)) (hs.trans hsys)
    (hquits.lives.liveLanes.trans hd) (by rw [hc]; exact hcnt) (quits_serving ..)
    (by rw [hblk]; exact hall.idle (endLanes_idle hidle ls))
  rw [hblk] at hend
  intro t
  rw [show t = ((s.ended gid ls).quits gid).settle gid from congrArg (State.settle · gid) (exitLanes_over hd htask)]
  exact hend

theorem start_idle {s : State} {gid : Nat} {b : BlockRef} (h : Idle gid b s) (cx : Cx) (c : Ctl) : Idle gid b (s.start cx c) := by
  obtain ⟨hp, ho, hc⟩ := h
  exact ⟨fun j hj p => by rw [start_join]; exact hp j hj p, by rw [start_eng]; exact ho, by rw [start_ms]; exact hc⟩

/-- EXIT of the last live lanes of a group with nothing on its way (R149, R333). -/
theorem exitFrees {f : BF} {s : State} {cx : Cx} (hl : LanesExist s cx) (hi : Issues s cx f.ctl none [] 0)
    (hlast : ∀ l, l < (s.group cx.gid).lanes.length → l ∉ s.taking cx f.ctl → (s.lane cx.gid l).live = false) (hhas : s.hasGroup cx.gid = true)
    (hsys : (s.group cx.gid).sys = false) (hcnt : (s.group cx.gid).cnt.zero = true) (htask : (s.group cx.gid).task = none)
    (hidle : Idle cx.gid (s.group cx.gid).blk s) :
    ∃ t, exec (.exit f) s = .next t ∧ t.hasGroup cx.gid = false ∧ .blockRetire (s.group cx.gid).blk ∈ t.due
      ∧ (∀ b, t.block (s.group cx.gid).blk = some b → cx.gid ∉ b.gids) := by
  have hbase := start_base s cx f.ctl
  have hblk : ((s.start cx f.ctl).group cx.gid).blk = (s.group cx.gid).blk := start_blk ..
  have hend := exitLanes_frees (s := s.start cx f.ctl) (gid := cx.gid) (taking_nodup s cx f.ctl)
    (fun l hm => by rw [start_length]; exact hl l (taking_mask hm))
    (fun l hlt hm => by
      rw [start_length] at hlt
      rw [start_lane]
      split <;> exact hlast l hlt hm)
    (start_hasGroup hhas cx f.ctl) ((congrArg Group.sys hbase :).trans hsys) ((congrArg (fun g => g.cnt.zero) hbase :).trans hcnt)
    ((congrArg Group.task hbase :).trans htask) (by rw [hblk]; exact start_idle hidle cx f.ctl)
  rw [hblk] at hend
  exact ⟨_, show execExit f s = _ from issued_runs hi _, hend⟩
end Sys2Proof.Machine

open Sys2Proof Sys2Proof.Machine Sys2Proof.Claims in
/-- Settles O11: the lanes end and leave every mask, and the last of them give the slot back. -/
theorem exitEndsLanes : Obligations.ExitEndsLanes := by
  unfold Obligations.ExitEndsLanes
  exact fun f s cx hl hi => ⟨fun ho => exitKeeps hl hi ho, fun hlast hhas hsys hcnt htask hphase hmat hbank =>
    exitFrees hl hi hlast hhas hsys hcnt htask ⟨hphase, hmat, hbank⟩⟩
end
